-- ==== Sys2Proof/Word.lean ====
section
/-!
DEFINITION. The word types of the machine and their plainest arithmetic (R2, R3, R72).
-/
namespace Sys2Proof

/-- One 32-bit register or instruction word (R72). -/
abbrev Word := BitVec 32
/-- A 64-bit value: an aligned register pair, low word first (R30, R41). -/
abbrev DWord := BitVec 64
/-- One byte of any memory. -/
abbrev Byte := BitVec 8

/-- The bits [hi:lo] of a number, as a number (R3). -/
def bitsOf (x hi lo : Nat) : Nat := (x >>> lo) % 2 ^ (hi + 1 - lo)

/-- One bit of a number. -/
def bitOf (x i : Nat) : Bool := x.testBit i

/-- The number a bit stands for. -/
def natOfBool (b : Bool) : Nat := if b then 1 else 0

/-- The low `n` bits of a number read as a signed integer: `sext` of R7. -/
def sext (x n : Nat) : Int :=
  let y := x % 2 ^ n
  if n = 0 then 0 else if y < 2 ^ (n - 1) then (y : Int) else (y : Int) - (2 ^ n : Nat)

/-- An integer wrapped to `n` bits, as a number. -/
def wrapN (x : Int) (n : Nat) : Nat := (x % (2 ^ n : Nat)).toNat

/-- The least multiple of `m` at or above `x`. -/
def roundUp (x m : Nat) : Nat := if m = 0 then x else (x + m - 1) / m * m

/-- Whether `x` is a multiple of `m`. -/
def alignedTo (x m : Nat) : Bool := x % m == 0

/-- The little-endian bytes of a number, `n` of them (R2). -/
def bytesOf : (x n : Nat) → List Byte
  | _, 0 => []
  | x, n + 1 => BitVec.ofNat 8 x :: bytesOf (x / 256) n

/-- The number a little-endian list of bytes holds (R2). -/
def natOfBytes : List Byte → Nat
  | [] => 0
  | b :: r => b.toNat + 256 * natOfBytes r

/-- Whether two half-open ranges [a, a + m) and [b, b + n) meet. -/
def rangesMeet (a m b n : Nat) : Bool := decide (0 < m ∧ 0 < n ∧ a < b + n ∧ b < a + m)

end Sys2Proof
end

