-- ==== Sys2Proof/Syntax.lean ====
section
/-!
DEFINITION. The instructions and events of the module: one constructor per row of the opcode table. An L-set
instruction carries the prefix words of its unit (R73, R81, R83), so that a unit is one term; `h` is the W bit
(R72). An event carries the operands that say which of its occurrences it is.
-/
namespace Sys2Proof

/-- The fields of a PFX word (R81); `h` is its W bit and `low` its bits [2:0], both illegal when set (R92). -/
structure Pfx where
  h : Bool
  k : BitVec 3
  z : Bool
  mode : BitVec 3
  c : BitVec 7
  cv : Bool
  sat : Bool
  na : Bool
  nb : Bool
  aa : Bool
  ab : Bool
  low : BitVec 3
  deriving DecidableEq, Repr

/-- The fields of an XIMM word (R83); `h` is its W bit, illegal when set (R92). -/
structure Ximm where
  h : Bool
  imm : BitVec 23
  deriving DecidableEq, Repr

/-- Where one workgroup of a placement goes (R262, R320): core, thread slot, lane base, the base of its scratch on
the core and the base of its vault space. -/
structure Site where
  core : Nat
  slot : Nat
  lane : Nat
  scratch : Nat
  vault : Nat
  deriving DecidableEq, Repr

/-- LR: destination, two sources, width (R74). -/
structure LRw where
  p : Option Pfx
  h : Bool
  d : BitVec 7
  a : BitVec 7
  b : BitVec 7
  w : BitVec 2
  deriving DecidableEq, Repr

/-- LR with w = 00 (R74). -/
structure LR0 where
  p : Option Pfx
  h : Bool
  d : BitVec 7
  a : BitVec 7
  b : BitVec 7
  deriving DecidableEq, Repr

/-- LR compare: condition, k index, two sources, width or paradigm slot (R76). -/
structure LCmpW where
  p : Option Pfx
  h : Bool
  cond : BitVec 4
  k : BitVec 3
  a : BitVec 7
  b : BitVec 7
  w : BitVec 2
  deriving DecidableEq, Repr

/-- LR packed compare with w = 00 (R76). -/
structure LCmp0 where
  p : Option Pfx
  h : Bool
  cond : BitVec 4
  k : BitVec 3
  a : BitVec 7
  b : BitVec 7
  deriving DecidableEq, Repr

/-- LU: destination, source, type, width (R74). -/
structure LUw where
  p : Option Pfx
  h : Bool
  d : BitVec 7
  a : BitVec 7
  t : BitVec 3
  w : BitVec 2
  deriving DecidableEq, Repr

/-- LU with w = 00: type and fn (R74). -/
structure LUf where
  p : Option Pfx
  h : Bool
  d : BitVec 7
  a : BitVec 7
  t : BitVec 3
  fn : BitVec 4
  deriving DecidableEq, Repr

/-- LU with destination and fn only. -/
structure LDf where
  p : Option Pfx
  h : Bool
  d : BitVec 7
  fn : BitVec 4
  deriving DecidableEq, Repr

/-- LI fixed shuffle: lane delta (R89). -/
structure LShf where
  p : Option Pfx
  h : Bool
  d : BitVec 7
  a : BitVec 7
  delta : BitVec 6
  deriving DecidableEq, Repr

/-- LU: destination, source, fn, width. -/
structure LAfw where
  p : Option Pfx
  h : Bool
  d : BitVec 7
  a : BitVec 7
  fn : BitVec 4
  w : BitVec 2
  deriving DecidableEq, Repr

/-- LU: destination, source, fn. -/
structure LAf where
  p : Option Pfx
  h : Bool
  d : BitVec 7
  a : BitVec 7
  fn : BitVec 4
  deriving DecidableEq, Repr

/-- LU: destination, source, type, fn, width. -/
structure LUtfw where
  p : Option Pfx
  h : Bool
  d : BitVec 7
  a : BitVec 7
  t : BitVec 3
  fn : BitVec 4
  w : BitVec 2
  deriving DecidableEq, Repr

/-- LU: destination, source, width. -/
structure LAw where
  p : Option Pfx
  h : Bool
  d : BitVec 7
  a : BitVec 7
  w : BitVec 2
  deriving DecidableEq, Repr

/-- LU: destination and source. -/
structure LA0 where
  p : Option Pfx
  h : Bool
  d : BitVec 7
  a : BitVec 7
  deriving DecidableEq, Repr

/-- LI: destination, source, immediate (R77), with an optional XIMM. -/
structure LImm where
  p : Option Pfx
  x : Option Ximm
  h : Bool
  d : BitVec 7
  a : BitVec 7
  imm9 : BitVec 9
  deriving DecidableEq, Repr

/-- LI shift: destination, source, count (R77). -/
structure LSh where
  p : Option Pfx
  h : Bool
  d : BitVec 7
  a : BitVec 7
  count : BitVec 5
  deriving DecidableEq, Repr

/-- LI compare with an immediate, with an optional XIMM. -/
structure LCmpI where
  p : Option Pfx
  x : Option Ximm
  h : Bool
  cond : BitVec 4
  k : BitVec 3
  a : BitVec 7
  imm9 : BitVec 9
  deriving DecidableEq, Repr

/-- LI move of an immediate, with an optional XIMM. -/
structure LMovi where
  p : Option Pfx
  x : Option Ximm
  h : Bool
  d : BitVec 7
  imm9 : BitVec 9
  deriving DecidableEq, Repr

/-- LR jump through a register (R160). -/
structure LJmp where
  p : Option Pfx
  h : Bool
  a : BitVec 7
  deriving DecidableEq, Repr

/-- LM: data, address, qualifier, offset or operation, width (R74, R77). -/
structure LMem where
  p : Option Pfx
  h : Bool
  d : BitVec 7
  a : BitVec 7
  q : BitVec 3
  off4 : BitVec 4
  w : BitVec 2
  deriving DecidableEq, Repr

/-- LM full-empty operation: address and offset (R189). -/
structure LFe where
  p : Option Pfx
  h : Bool
  a : BitVec 7
  off4 : BitVec 4
  deriving DecidableEq, Repr

/-- LM scratch atomic: data, address, operation, width (R192). -/
structure LMem0 where
  p : Option Pfx
  h : Bool
  d : BitVec 7
  a : BitVec 7
  off4 : BitVec 4
  w : BitVec 2
  deriving DecidableEq, Repr

/-- LU MMA: control word register, A row register, format, tile, plane (R220). -/
structure LMma where
  p : Option Pfx
  h : Bool
  d : BitVec 7
  a : BitVec 7
  t : BitVec 3
  tile : BitVec 2
  plane : BitVec 1
  deriving DecidableEq, Repr

/-- LU MREAD: destination, selection register, type, tile (R223). -/
structure LMread where
  p : Option Pfx
  h : Bool
  d : BitVec 7
  a : BitVec 7
  t : BitVec 3
  tile : BitVec 2
  deriving DecidableEq, Repr

/-- LU KVGATHER: control block register, positions, .PROOFED, K or V (R240). -/
structure LGather where
  p : Option Pfx
  h : Bool
  d : BitVec 7
  a : BitVec 7
  proofed : BitVec 1
  v : BitVec 1
  deriving DecidableEq, Repr

/-- LR ACCEPT: k index, p or p:q, u, form (R246). -/
structure LAccept where
  p : Option Pfx
  h : Bool
  k : BitVec 3
  a : BitVec 7
  b : BitVec 7
  w : BitVec 2
  deriving DecidableEq, Repr

/-- LU DXVAL and DXENC: destination, source, form, paradigm slot (R257). -/
structure LDx where
  p : Option Pfx
  h : Bool
  d : BitVec 7
  a : BitVec 7
  t : BitVec 3
  slot : BitVec 2
  deriving DecidableEq, Repr

/-- GR: d, a, b (R78). -/
structure GR3 where
  h : Bool
  d : BitVec 5
  a : BitVec 5
  b : BitVec 5
  deriving DecidableEq, Repr

/-- GR: d and a. -/
structure GR2 where
  h : Bool
  d : BitVec 5
  a : BitVec 5
  deriving DecidableEq, Repr

/-- GR uniform compare (R155). -/
structure GCmp where
  h : Bool
  d : BitVec 5
  a : BitVec 5
  b : BitVec 5
  cond : BitVec 3
  deriving DecidableEq, Repr

/-- GI: d, a, immediate (R78). -/
structure GImm where
  h : Bool
  d : BitVec 5
  a : BitVec 5
  imm13 : BitVec 13
  deriving DecidableEq, Repr

/-- GI shift: d, a, count. -/
structure GSh where
  h : Bool
  d : BitVec 5
  a : BitVec 5
  count : BitVec 5
  deriving DecidableEq, Repr

/-- GI move of an immediate. -/
structure GMovi where
  h : Bool
  d : BitVec 5
  imm13 : BitVec 13
  deriving DecidableEq, Repr

/-- GI RDSYS: d and system register index (R157). -/
structure GRd where
  h : Bool
  d : BitVec 5
  idx : BitVec 8
  deriving DecidableEq, Repr

/-- GI WRSYS: a and system register index (R157). -/
structure GWr where
  h : Bool
  a : BitVec 5
  idx : BitVec 8
  deriving DecidableEq, Repr

/-- GI TSHAPE: offset register and shape entry (R158). -/
structure GShape where
  h : Bool
  a : BitVec 5
  entry : BitVec 4
  deriving DecidableEq, Repr

/-- GI XPLD: offset register and pattern table (R158). -/
structure GXpld where
  h : Bool
  a : BitVec 5
  table : BitVec 3
  deriving DecidableEq, Repr

/-- GB: signed word offset (R78). -/
structure GB where
  h : Bool
  off23 : BitVec 23
  deriving DecidableEq, Repr

/-- GC BRU: register, condition, offset. -/
structure GBru where
  h : Bool
  a : BitVec 5
  cond : BitVec 3
  off15 : BitVec 15
  deriving DecidableEq, Repr

/-- GC BRT: polarity, k index, offset. -/
structure GBrt where
  h : Bool
  pol : BitVec 1
  k : BitVec 3
  off15 : BitVec 15
  deriving DecidableEq, Repr

/-- GI CALLQ: quire register, entry, quire (R172). -/
structure GCallq where
  h : Bool
  a : BitVec 5
  entry : BitVec 5
  quire : BitVec 8
  deriving DecidableEq, Repr

/-- GR with every field zero. -/
structure G0 where
  h : Bool
  deriving DecidableEq, Repr

/-- GI TRAP and BKPT: code (R173). -/
structure GTrap where
  h : Bool
  imm13 : BitVec 13
  deriving DecidableEq, Repr

/-- GR with a only. -/
structure GA where
  h : Bool
  a : BitVec 5
  deriving DecidableEq, Repr

/-- GR with d only. -/
structure GD where
  h : Bool
  d : BitVec 5
  deriving DecidableEq, Repr

/-- GI quire instruction: d, quire register, quire (R171). -/
structure GQuire where
  h : Bool
  d : BitVec 5
  a : BitVec 5
  quire : BitVec 8
  deriving DecidableEq, Repr

/-- GR with a and b. -/
structure GAB where
  h : Bool
  a : BitVec 5
  b : BitVec 5
  deriving DecidableEq, Repr

/-- GR FENCE: kind and scope (R196). -/
structure GFence where
  h : Bool
  kind : BitVec 2
  scope : BitVec 3
  deriving DecidableEq, Repr

/-- GR MZERO: mode and tile (R218). -/
structure GMzero where
  h : Bool
  mode : BitVec 1
  tile : BitVec 2
  deriving DecidableEq, Repr

/-- GR MLATB: image, barrier, format, plane (R219). -/
structure GMlatb where
  h : Bool
  a : BitVec 5
  b : BitVec 5
  fmt : BitVec 3
  plane : BitVec 1
  deriving DecidableEq, Repr

/-- GR MSTORE: destination, control pair, type, tile (R224). -/
structure GMstore where
  h : Bool
  a : BitVec 5
  b : BitVec 5
  ty : BitVec 3
  tile : BitVec 2
  deriving DecidableEq, Repr

/-- GR MSTAT: d and tile (R226). -/
structure GMstat where
  h : Bool
  d : BitVec 5
  tile : BitVec 2
  deriving DecidableEq, Repr

/-- GR PDLOAD: address pair and slot (R251). -/
structure GPd where
  h : Bool
  a : BitVec 5
  slot : BitVec 2
  deriving DecidableEq, Repr

/-- GR PDINFO: d and slot (R253). -/
structure GPi where
  h : Bool
  d : BitVec 5
  slot : BitVec 2
  deriving DecidableEq, Repr

/-- One outstanding result: workgroup, group, thread (the group width or above for a group result) and index in its list. -/
structure EvResult where
  wid : Nat
  gi : Nat
  ti : Nat
  idx : Nat
  deriving DecidableEq, Repr

/-- One thread: workgroup, group and thread index. -/
structure EvThread where
  wid : Nat
  gi : Nat
  ti : Nat
  deriving DecidableEq, Repr

/-- One piece of asynchronous work, by its number. -/
structure EvJob where
  job : Nat
  deriving DecidableEq, Repr

/-- One chunk of one streamer job. -/
structure EvChunk where
  job : Nat
  chunk : Nat
  deriving DecidableEq, Repr

/-- One quire of a context on a core. -/
structure EvQuire where
  part : Nat
  ctx : Nat
  core : Nat
  quire : Nat
  deriving DecidableEq, Repr

/-- A table walk: context, core, virtual address and access (0 load, 1 store, 2 atomic). -/
structure EvWalk where
  part : Nat
  ctx : Nat
  core : Nat
  va : Nat
  kind : Nat
  deriving DecidableEq, Repr

/-- One context. -/
structure EvCtx where
  part : Nat
  ctx : Nat
  deriving DecidableEq, Repr

/-- One context and a value. -/
structure EvCtxN where
  part : Nat
  ctx : Nat
  n : Nat
  deriving DecidableEq, Repr

/-- One launch queue of a context and a value. -/
structure EvQueue where
  part : Nat
  ctx : Nat
  queue : Nat
  n : Nat
  deriving DecidableEq, Repr

/-- One launch: context, queue and count. -/
structure EvLaunch where
  part : Nat
  ctx : Nat
  queue : Nat
  count : Nat
  deriving DecidableEq, Repr

/-- A placement: the launch and the sites chosen for the workgroups placed together. -/
structure EvPlace where
  part : Nat
  ctx : Nat
  queue : Nat
  count : Nat
  sites : List Site
  deriving DecidableEq, Repr

/-- One placed workgroup. -/
structure EvWg where
  wid : Nat
  deriving DecidableEq, Repr

/-- One context on one core. -/
structure EvCore where
  part : Nat
  ctx : Nat
  core : Nat
  deriving DecidableEq, Repr

/-- A saved context of one image core, and the core it returns to. -/
structure EvRestore where
  part : Nat
  ctx : Nat
  image : Nat
  core : Nat
  deriving DecidableEq, Repr

/-- An event without operands. -/
structure EvNone where
  deriving DecidableEq, Repr

/-- An event with one number. -/
structure EvNat where
  n : Nat
  deriving DecidableEq, Repr

/-- A write into a launch-queue block: queue, byte offset in its block, size and value. -/
structure EvDesc where
  part : Nat
  ctx : Nat
  queue : Nat
  off : Nat
  size : Nat
  value : Nat
  deriving DecidableEq, Repr

/-- A host register write: function (0 PF, 1 + v for VF v), BAR, byte offset, size and value. -/
structure EvReg where
  fn : Nat
  bar : Nat
  off : Nat
  size : Nat
  value : Nat
  deriving DecidableEq, Repr

/-- A host aperture access: function, whether it writes, offset, length, and the bytes of a write. -/
structure EvAper where
  fn : Nat
  write : Bool
  off : Nat
  len : Nat
  data : List Byte
  deriving DecidableEq, Repr

/-- An SPDM request object received on one function. -/
structure EvSpdm where
  fn : Nat
  req : List Byte
  deriving DecidableEq, Repr

/-- An access arriving from a peer: its device number here, the partition it came from, the partition and context it names, kind, address, length and the bytes of a store. -/
structure EvPeer where
  dev : Nat
  srcPart : Nat
  part : Nat
  ctx : Nat
  kind : Nat
  va : Nat
  len : Nat
  data : List Byte
  deriving DecidableEq, Repr

/-- An IEEE 1588 message: the offset of the count behind the reference in ns, negative when ahead. -/
structure EvPtp where
  offset : Int
  deriving DecidableEq, Repr

/-- One constructor per row of the opcode table, in the table's order. Log entry 78. -/
inductive Instr where
  /-- R119: Signed integer add of a and b per participant, wrapped or saturated. -/
  | iaddI (u : LRw)
  /-- R119: Unsigned integer add of a and b per participant, wrapped or saturated. -/
  | iaddN (u : LRw)
  /-- R119: Signed integer subtract a minus b. -/
  | isubI (u : LRw)
  /-- R119: Unsigned integer subtract a minus b. -/
  | isubN (u : LRw)
  /-- R119: Signed integer multiply, low n bits or saturated. -/
  | imulI (u : LRw)
  /-- R119: Unsigned integer multiply, low n bits or saturated. -/
  | imulN (u : LRw)
  /-- R119: High half of the signed product. -/
  | imulhI (u : LRw)
  /-- R119: High half of the unsigned product. -/
  | imulhN (u : LRw)
  /-- R119: Exact 64-bit signed product of two 32-bit values into an aligned pair. -/
  | imulwI (u : LR0)
  /-- R119: Exact 64-bit unsigned product of two 32-bit values into an aligned pair. -/
  | imulwN (u : LR0)
  /-- R119: Signed multiply-add a times b plus c or d. -/
  | imadI (u : LRw)
  /-- R119: Unsigned multiply-add a times b plus c or d. -/
  | imadN (u : LRw)
  /-- R119: Signed minimum of a and b. -/
  | iminI (u : LRw)
  /-- R119: Unsigned minimum of a and b. -/
  | iminN (u : LRw)
  /-- R119: Signed maximum of a and b. -/
  | imaxI (u : LRw)
  /-- R119: Unsigned maximum of a and b. -/
  | imaxN (u : LRw)
  /-- R119: Signed absolute difference of a and b added to d. -/
  | isadI (u : LRw)
  /-- R119: Unsigned absolute difference of a and b added to d. -/
  | isadN (u : LRw)
  /-- R126: Signed compare writing each participant's bit of a k register. -/
  | icmpI (u : LCmpW)
  /-- R126: Unsigned compare writing each participant's bit of a k register. -/
  | icmpN (u : LCmpW)
  /-- R120: Packed signed 16-bit add of two elements. -/
  | iaddI16x2 (u : LR0)
  /-- R120: Packed unsigned 16-bit add of two elements. -/
  | iaddN16x2 (u : LR0)
  /-- R120: Packed signed 16-bit subtract. -/
  | isubI16x2 (u : LR0)
  /-- R120: Packed unsigned 16-bit subtract. -/
  | isubN16x2 (u : LR0)
  /-- R120: Packed signed 16-bit minimum. -/
  | iminI16x2 (u : LR0)
  /-- R120: Packed unsigned 16-bit minimum. -/
  | iminN16x2 (u : LR0)
  /-- R120: Packed signed 16-bit maximum. -/
  | imaxI16x2 (u : LR0)
  /-- R120: Packed unsigned 16-bit maximum. -/
  | imaxN16x2 (u : LR0)
  /-- R126: Packed signed compare writing a pair of k registers. -/
  | icmpI16x2 (u : LCmp0)
  /-- R126: Packed unsigned compare writing a pair of k registers. -/
  | icmpN16x2 (u : LCmp0)
  /-- R123: Bitwise AND over the width group. -/
  | and (u : LRw)
  /-- R123: Bitwise OR over the width group. -/
  | or (u : LRw)
  /-- R123: Bitwise XOR over the width group. -/
  | xor (u : LRw)
  /-- R123: Bitwise a AND NOT b over the width group. -/
  | andn (u : LRw)
  /-- R124: Shift left by the count in b. -/
  | shl (u : LRw)
  /-- R124: Logical shift right by the count in b. -/
  | shr (u : LRw)
  /-- R124: Arithmetic shift right by the count in b. -/
  | sar (u : LRw)
  /-- R124: Rotate left by the count in b. -/
  | rotl (u : LRw)
  /-- R125: Extract a bit field, sign-extended. -/
  | bfxI (u : LRw)
  /-- R125: Extract a bit field, zero-extended. -/
  | bfxN (u : LRw)
  /-- R125: Insert the low bits of a into a field of d. -/
  | bfi (u : LRw)
  /-- R126: Write a where the PFX k bit is 1 and b elsewhere, in every lane of the issue set. -/
  | sel (u : LRw)
  /-- R127: Floating add rounded once. -/
  | fadd (u : LRw)
  /-- R127: Floating subtract rounded once. -/
  | fsub (u : LRw)
  /-- R127: Floating multiply rounded once. -/
  | fmul (u : LRw)
  /-- R127: Fused multiply-add rounded once. -/
  | ffma (u : LRw)
  /-- R129: Lesser operand without rounding, -0 below +0. -/
  | fmin (u : LRw)
  /-- R129: Greater operand without rounding. -/
  | fmax (u : LRw)
  /-- R128: Floating divide, V-class, rounded once. -/
  | fdiv (u : LRw)
  /-- R126: Floating compare writing a k register. -/
  | fcmp (u : LCmpW)
  /-- R130: Multiply by 2 to the integer in b, rounded. -/
  | fscale (u : LRw)
  /-- R127: Packed BF16 add. -/
  | faddBf16x2 (u : LR0)
  /-- R127: Packed BF16 subtract. -/
  | fsubBf16x2 (u : LR0)
  /-- R127: Packed BF16 multiply. -/
  | fmulBf16x2 (u : LR0)
  /-- R127: Packed BF16 fused multiply-add. -/
  | ffmaBf16x2 (u : LR0)
  /-- R129: Packed BF16 minimum. -/
  | fminBf16x2 (u : LR0)
  /-- R129: Packed BF16 maximum. -/
  | fmaxBf16x2 (u : LR0)
  /-- R126: Packed BF16 compare writing a k pair. -/
  | fcmpBf16x2 (u : LCmp0)
  /-- R127: Packed FP16 add. -/
  | faddFp16x2 (u : LR0)
  /-- R127: Packed FP16 subtract. -/
  | fsubFp16x2 (u : LR0)
  /-- R127: Packed FP16 multiply. -/
  | fmulFp16x2 (u : LR0)
  /-- R127: Packed FP16 fused multiply-add. -/
  | ffmaFp16x2 (u : LR0)
  /-- R129: Packed FP16 minimum. -/
  | fminFp16x2 (u : LR0)
  /-- R129: Packed FP16 maximum. -/
  | fmaxFp16x2 (u : LR0)
  /-- R126: Packed FP16 compare writing a k pair. -/
  | fcmpFp16x2 (u : LCmp0)
  /-- R121: Integer absolute value, wrapped or saturated. -/
  | iabs (u : LUw)
  /-- R121: Integer negate, wrapped or saturated. -/
  | ineg (u : LUw)
  /-- R121: Count leading zero bits. -/
  | clz (u : LUw)
  /-- R121: Count one bits. -/
  | popc (u : LUw)
  /-- R121: Reverse the bit order. -/
  | brev (u : LUw)
  /-- R131: Write the one-hot class mask of each element. -/
  | fclass (u : LUw)
  /-- R131: Round each element to an integral value in its format. -/
  | frnd (u : LUw)
  /-- R131: Fractional part x minus floor(x), rounded. -/
  | fract (u : LUw)
  /-- R132: Bounded 2 to the x, V-class. -/
  | exp2 (u : LUw)
  /-- R132: Bounded base-2 logarithm, V-class. -/
  | log2 (u : LUw)
  /-- R132: Bounded reciprocal, V-class. -/
  | rcp (u : LUw)
  /-- R132: Bounded reciprocal square root, V-class. -/
  | rsq (u : LUw)
  /-- R132: Bounded square root, V-class. -/
  | sqrt (u : LUw)
  /-- R132: Bounded sine of x turns, V-class. -/
  | sin (u : LUw)
  /-- R132: Bounded cosine of x turns, V-class. -/
  | cos (u : LUw)
  /-- R132: Bounded hyperbolic tangent, V-class. -/
  | tanh (u : LUw)
  /-- R135: Convert elements from a float source type to the destination type. -/
  | cvtFloatSource (u : LUf)
  /-- R135: Convert elements from an integer source type to the destination type. -/
  | cvtIntegerSource (u : LUf)
  /-- R136: Multiply elements by the FP32 scale in c and convert with one rounding. -/
  | cvts (u : LUf)
  /-- R138: Encode eight-lane blocks of 32 elements into DX lane forms. -/
  | blkenc (u : LUf)
  /-- R139: Decode one DX lane form into four elements, V-class. -/
  | blkdec (u : LUf)
  /-- R141: Draw the next word of the thread's random stream and advance its counter. -/
  | rand (u : LDf)
  /-- R143: Split an index into coordinates by a shape-table entry. -/
  | tidx (u : LUf)
  /-- R144: Read a from the group thread named by b. -/
  | shfl (u : LRw)
  /-- R144: Read a from the thread delta below, or keep own. -/
  | shflUp (u : LShf)
  /-- R144: Read a from the thread delta above, or keep own. -/
  | shflDn (u : LShf)
  /-- R144: Read a from the thread at index XOR delta. -/
  | shflXor (u : LShf)
  /-- R145: Move bytes between group threads by a pattern table. -/
  | xperm (u : LAfw)
  /-- R146: Combine participants' predicate bits into ALL, ANY, UNI or a ballot. -/
  | vote (u : LAf)
  /-- R147: Tree-combine participants' values in fixed order and give the result to all. -/
  | reduce (u : LUtfw)
  /-- R147: Inclusive prefix combination over participants in fixed order. -/
  | scan (u : LUtfw)
  /-- R149: Write the lowest relative index of a participant with an equal value. -/
  | matchLanes (u : LUw)
  /-- R150: Select the lowest participant into a k bit or a g register. -/
  | elect (u : LDf)
  /-- R151: Read a from one thread of the group into a g or v destination. -/
  | rdlane (u : LRw)
  /-- R152: Copy a width group. -/
  | mov (u : LAw)
  /-- R152: Move between k registers and v register bit 0. -/
  | kmov (u : LAf)
  /-- R152: Count issue-set threads whose k bit is 1. -/
  | kpop (u : LA0)
  /-- R122: Add a sign-extended immediate as .I32. -/
  | iaddImm (u : LImm)
  /-- R122: Bitwise AND with an immediate. -/
  | andImm (u : LImm)
  /-- R122: Bitwise OR with an immediate. -/
  | orImm (u : LImm)
  /-- R122: Bitwise XOR with an immediate. -/
  | xorImm (u : LImm)
  /-- R124: 32-bit shift left by an immediate count. -/
  | shlImm (u : LSh)
  /-- R124: 32-bit logical shift right by an immediate count. -/
  | shrImm (u : LSh)
  /-- R124: 32-bit arithmetic shift right by an immediate count. -/
  | sarImm (u : LSh)
  /-- R124: 32-bit rotate left by an immediate count. -/
  | rotlImm (u : LSh)
  /-- R126: Signed compare against an immediate into a k register. -/
  | icmpIImm (u : LCmpI)
  /-- R126: Unsigned compare against an immediate into a k register. -/
  | icmpNImm (u : LCmpI)
  /-- R122: Write an immediate. -/
  | movi (u : LMovi)
  /-- R160: Jump each thread to the PC in its own register. -/
  | jmpi (u : LJmp)
  /-- R160: Push the return PC and jump to the PC in the thread's register. -/
  | calli (u : LJmp)
  /-- R185: Load from global memory, V-class. -/
  | ldg (u : LMem)
  /-- R185: Store to global memory. -/
  | stg (u : LMem)
  /-- R185: Load from scratch, plain, full-empty or acquire. -/
  | lds (u : LMem)
  /-- R185: Store to scratch, plain, filling or release. -/
  | sts (u : LMem)
  /-- R185: Load from a vault, V-class. -/
  | ldv (u : LMem)
  /-- R185: Store to a vault. -/
  | stv (u : LMem)
  /-- R189: Set the granule holding the lane's address full. -/
  | feset (u : LFe)
  /-- R189: Set the granule holding the lane's address empty. -/
  | feclr (u : LFe)
  /-- R192: Global atomic read-modify-write returning the old value. -/
  | atom (u : LMem)
  /-- R192: Scratch atomic read-modify-write returning the old value. -/
  | atoms (u : LMem0)
  /-- R192: Global atomic reduction returning nothing. -/
  | red (u : LMem)
  /-- R221: Issue one A row per thread against a latched plane into a tile, arriving on a barrier. -/
  | mma (u : LMma)
  /-- R223: Read converted tile elements into registers, V-class. -/
  | mread (u : LMread)
  /-- R240: Start a gather of K or V rows of a forme at the participants' positions. -/
  | kvgather (u : LGather)
  /-- R243: Rotate query elements by position using the forme's rotation record. -/
  | rotq (u : LRw)
  /-- R246: Decide per lane whether a draft token is accepted, writing a k pair. -/
  | accept (u : LAccept)
  /-- R255: Walk a paradigm over operand digits and write the output digit pair. -/
  | dxt (u : LRw)
  /-- R255: Walk a paradigm and write a k bit from the final relation. -/
  | dxcmp (u : LCmpW)
  /-- R257: Convert a digit string to a binary integer by the slot's radix. -/
  | dxval (u : LDx)
  /-- R257: Encode a binary integer as a digit string by the slot's radix. -/
  | dxenc (u : LDx)
  /-- R155: Uniform 32-bit add of two g registers. -/
  | uadd (u : GR3)
  /-- R155: Uniform 32-bit subtract. -/
  | usub (u : GR3)
  /-- R155: Uniform low 32 bits of the product. -/
  | umul (u : GR3)
  /-- R155: Uniform signed high product. -/
  | umulhI (u : GR3)
  /-- R155: Uniform unsigned high product. -/
  | umulhN (u : GR3)
  /-- R155: Uniform bitwise AND. -/
  | uand (u : GR3)
  /-- R155: Uniform bitwise OR. -/
  | uor (u : GR3)
  /-- R155: Uniform bitwise XOR. -/
  | uxor (u : GR3)
  /-- R155: Uniform shift left by g[b]. -/
  | ushl (u : GR3)
  /-- R155: Uniform logical shift right by g[b]. -/
  | ushr (u : GR3)
  /-- R155: Uniform arithmetic shift right by g[b]. -/
  | usar (u : GR3)
  /-- R155: Uniform signed minimum. -/
  | uminI (u : GR3)
  /-- R155: Uniform unsigned minimum. -/
  | uminN (u : GR3)
  /-- R155: Uniform signed maximum. -/
  | umaxI (u : GR3)
  /-- R155: Uniform unsigned maximum. -/
  | umaxN (u : GR3)
  /-- R155: Uniform copy of g[a]. -/
  | umov (u : GR2)
  /-- R155: Uniform select of a when g[d] is nonzero, else b. -/
  | usel (u : GR3)
  /-- R155: Uniform signed compare writing 1 or 0. -/
  | ucmpI (u : GCmp)
  /-- R155: Uniform unsigned compare writing 1 or 0. -/
  | ucmpN (u : GCmp)
  /-- R155: Uniform add of a sign-extended immediate. -/
  | uaddImm (u : GImm)
  /-- R155: Uniform AND with an immediate. -/
  | uandImm (u : GImm)
  /-- R155: Uniform OR with an immediate. -/
  | uorImm (u : GImm)
  /-- R155: Uniform XOR with an immediate. -/
  | uxorImm (u : GImm)
  /-- R155: Uniform shift left by an immediate count. -/
  | ushlImm (u : GSh)
  /-- R155: Uniform logical shift right by an immediate count. -/
  | ushrImm (u : GSh)
  /-- R155: Uniform arithmetic shift right by an immediate count. -/
  | usarImm (u : GSh)
  /-- R155: Write a sign-extended immediate to a g register. -/
  | umovi (u : GMovi)
  /-- R156: Read one word of the constant block into a g register, V-class. -/
  | uldc (u : GImm)
  /-- R157: Copy a system register into g registers. -/
  | rdsys (u : GRd)
  /-- R157: Copy g registers into a system register. -/
  | wrsys (u : GWr)
  /-- R158: Copy 96 bytes of the constant block into a shape-table entry. -/
  | tshape (u : GShape)
  /-- R158: Copy 256 bytes of the constant block into a pattern table. -/
  | xpld (u : GXpld)
  /-- R160: Branch every issuing thread to a relative target. -/
  | bra (u : GB)
  /-- R160: Branch when g[a] compares with zero under the condition. -/
  | bru (u : GBru)
  /-- R160: Branch each thread whose k bit equals the polarity. -/
  | brt (u : GBrt)
  /-- R160: Push the return PC and branch to a relative target. -/
  | call (u : GB)
  /-- R172: Call an entry of a quire, parking or trapping if it is not resident. -/
  | callq (u : GCallq)
  /-- R160: Pop each thread's return stack and go to its target. -/
  | ret (u : G0)
  /-- R162: End each thread of the issue set. -/
  | exit (u : G0)
  /-- R160: Proceed to the next word. -/
  | nop (u : G0)
  /-- R173: Raise cause TRAP with the immediate code. -/
  | trap (u : GTrap)
  /-- R176: Return handler-state threads to their resume PC. -/
  | trapret (u : G0)
  /-- R173: Raise BKPT, or stop the workgroup when capture is enabled. -/
  | bkpt (u : GTrap)
  /-- R163: Let the grouping stage choose another issue set next cycle. -/
  | yield (u : G0)
  /-- R178: Park the issue set until the time base reaches a deadline. -/
  | sleepto (u : GA)
  /-- R177: Read the 64-bit time base into a g pair. -/
  | rdtime (u : GD)
  /-- R171: Request a load of a quire and write a status. -/
  | qload (u : GQuire)
  /-- R171: Take a residency token and request a load of a quire. -/
  | qpin (u : GQuire)
  /-- R171: Remove one residency token of a quire. -/
  | qunpin (u : GQuire)
  /-- R171: Write a quire's state, counts and frames to a g register. -/
  | qstat (u : GQuire)
  /-- R179: Copy a launch record into a device-fed queue and return status and handle. -/
  | launch (u : GR3)
  /-- R180: Ask the distributor to withdraw one workgroup of a feed launch into a mailbox. -/
  | fetchw (u : GAB)
  /-- R181: Root context: write the SHA-256 of a source range. -/
  | hash (u : GR2)
  /-- R181: Root context: sign a digest with the device identity key. -/
  | sign (u : GR2)
  /-- R181: Root context: extend a measurement register 8 to 15. -/
  | mext (u : GR2)
  /-- R181: Root context: write a measurement register to memory. -/
  | mrd (u : GR2)
  /-- R196: Order the thread's accesses as acquire, release or both at a scope. -/
  | fence (u : GFence)
  /-- R211: Ask the tier engine to bring a range of pages into HBM. -/
  | tierpf (u : GR3)
  /-- R199: Register, re-initialise or release a phase barrier. -/
  | barinit (u : GR3)
  /-- R199: Subtract a count from a barrier's pending arrivals, releasing at .wg. -/
  | arrive (u : GR3)
  /-- R199: Park until the barrier's phase bit differs from the observed parity. -/
  | waitph (u : GAB)
  /-- R199: Read a barrier's phase word, V-class. -/
  | testph (u : GR2)
  /-- R203: Register, re-initialise or release a chunk map. -/
  | cminit (u : GR3)
  /-- R203: Park until masked chunk bits are set or the status is nonzero. -/
  | cmwait (u : GAB)
  /-- R203: Test a chunk map against a mask, V-class. -/
  | cmtest (u : GR3)
  /-- R204: Start one streamer job from a command block. -/
  | strm (u : GA)
  /-- R204: Start up to 16 streamer jobs from consecutive command blocks. -/
  | strmq (u : GAB)
  /-- R218: Clear a tile, set its mode and clear its error record. -/
  | mzero (u : GMzero)
  /-- R219: Issue the latch of a B image into a plane. -/
  | mlatb (u : GMlatb)
  /-- R224: Issue a store of converted tile rows to scratch. -/
  | mstore (u : GMstore)
  /-- R226: Read a tile's mode and error record, V-class. -/
  | mstat (u : GMstat)
  /-- R229: Issue the sealing of rows in memory into a galley. -/
  | gseal (u : GR2)
  /-- R229: Issue the linking of a galley into a forme entry. -/
  | impose (u : GR2)
  /-- R229: Issue the unlinking of an entry, keeping its positions as a hole. -/
  | distrib (u : GR2)
  /-- R229: Issue the unlinking of an entry, removing its positions. -/
  | distribCompact (u : GR2)
  /-- R237: Fetch a released proof item of a forme, parking while the ring is empty. -/
  | proofw (u : GR2)
  /-- R229: Issue the publication of corrected rows for slots of a proof item. -/
  | proofpub (u : GR2)
  /-- R239: Read an entry's generation, progress and state, acquiring at .dev. -/
  | prstat (u : GR3)
  /-- R229: Issue a write of rows into overrun slots, optionally committing them. -/
  | kvappend (u : GR2)
  /-- R229: Issue a speculative write of rows into overrun slots. -/
  | specapp (u : GR2)
  /-- R229: Issue the move of overrun slots into the tail. -/
  | commit (u : GR2)
  /-- R251: Load a paradigm image into a slot, or empty it. -/
  | pdload (u : GPd)
  /-- R253: Write a summary of a paradigm slot to a g register. -/
  | pdinfo (u : GPi)
  /-- R85: An outstanding V-class result returns and threads whose results are all back wake from their W. -/
  | resultReturn (u : EvResult)
  /-- R178: The time base reaches a parked set's deadline and the set wakes. -/
  | sleepWake (u : EvThread)
  /-- R165: A quire load ends RESIDENT or FAILED by digest and wakes or traps threads parked on it. -/
  | quireLoadComplete (u : EvQuire)
  /-- R358: A die runs a table walk for a TLB miss, filling the TLB or faulting. -/
  | pageWalk (u : EvWalk)
  /-- R209: A streamer job checks decode, translation and protection before moving any byte. -/
  | streamerJobCheck (u : EvJob)
  /-- R208: A streamer job finishes a chunk, sets its bit with a release and counts it delivered. -/
  | chunkWrite (u : EvChunk)
  /-- R211: The tier engine has placed every page and arrives on the barrier. -/
  | tierpfArrival (u : EvJob)
  /-- R219: The matrix engine copies the B image into the plane and arrives. -/
  | mlatbLatch (u : EvJob)
  /-- R222: The matrix array applies the steps of a pass of fused octets and each group arrives. -/
  | mmaPass (u : EvJob)
  /-- R225: The matrix engine writes converted tile rows to scratch and arrives. -/
  | mstoreWrite (u : EvJob)
  /-- R233: The forme unit checks the command, writes the galley header and arrives. -/
  | gsealPerform (u : EvJob)
  /-- R234: The forme unit links the entry, computes the proof set and releases layer 0. -/
  | imposePerform (u : EvJob)
  /-- R236: The forme unit cancels unfetched items, advances the generation and drains or cancels the entry. -/
  | distribPerform (u : EvJob)
  /-- R238: The forme unit copies corrected rows and sets their bits, or ends with STALE or DISCARDED. -/
  | proofpubPerform (u : EvJob)
  /-- R241: The gather path takes one snapshot of the forme and writes rows, validity mask and chunk bits. -/
  | kvgatherSnapshot (u : EvJob)
  /-- R244: The forme unit writes overrun slots 0 to c-1 and commits them when ADV is set. -/
  | kvappendPerform (u : EvJob)
  /-- R244: The forme unit writes speculative rows into named overrun slots. -/
  | specappPerform (u : EvJob)
  /-- R245: The forme unit moves overrun slots into the tail once earlier gathers have read the ring rows. -/
  | commitPerform (u : EvJob)
  /-- R179: A LAUNCH reaches the distributor and is queued or refused with E_CLOSING. -/
  | launchArrive (u : EvJob)
  /-- R310: The distributor reads a host-fed queue record, checks it and admits or fails the launch. -/
  | recordRead (u : EvQueue)
  /-- R320: The distributor places a ready workgroup on a core with room and requests its entry quire. -/
  | placement (u : EvPlace)
  /-- R321: A placed workgroup's threads start once its entry quire is resident. -/
  | workgroupStart (u : EvWg)
  /-- R314: The last bit is set with nothing outstanding, so the launch completes and releases dependants. -/
  | launchComplete (u : EvLaunch)
  /-- R180: The distributor withdraws a workgroup and fills the FETCHW mailbox. -/
  | fetchwDeliver (u : EvJob)
  /-- R322: The distributor pre-empts other contexts for a class-0 workgroup and quiesces cores. -/
  | preempt (u : EvCore)
  /-- R350: A quiesced core swaps array state between ACTIVE and SHADOW. -/
  | contextSwitch (u : EvCore)
  /-- R349: A SHADOW context's frame and bank are streamed to its save area. -/
  | contextSave (u : EvCore)
  /-- R355: A SAVED context is streamed into a core, its quires reloaded, and made ACTIVE. -/
  | contextRestore (u : EvRestore)
  /-- R390: A stack's epoch expires and its base die promotes, demotes and halves counters. -/
  | epochEnd (u : EvNat)
  /-- R20: The Thrumier controller steps the arithmetic clock to hold the power limit and logs a CLOCK record. -/
  | clockChange (u : EvNat)
  /-- R383: The servo steps the time base forward by more than 1 ms and writes a TIMESTEP record. -/
  | timeStep (u : EvNat)
  /-- R384: A 1PPS input edge steers the count under SRC 2. -/
  | ppsInput (u : EvNone)
  /-- R384: The count passes a multiple of 10^9 and the 1PPS output rises. -/
  | ppsOutput (u : EvNone)
  /-- R402: The boot ROM measures, verifies the flash image and self-tests the module. -/
  | powerOn (u : EvNone)
  /-- R345: A write of GO = 1 checks a partition descriptor and sets up the partition. -/
  | partitionSetup (u : EvNat)
  /-- R345: A write of GO = 0 tears down a partition, clearing its memory. -/
  | partitionTeardown (u : EvNat)
  /-- R347: CMD = 1 makes a context LIVE when its registers are valid. -/
  | create (u : EvCtx)
  /-- R347: CMD = 2 sets the context CLOSING and begins stopping and retiring its work. -/
  | teardown (u : EvCtx)
  /-- R347: Once its work has ended and resources are freed the context becomes CLOSED. -/
  | contextClosed (u : EvCtx)
  /-- R307: The host submits records by moving a queue's tail count. -/
  | qtailWrite (u : EvQueue)
  /-- R306: A write of QBASE, QDEV or QSIZE takes effect only while the queue is empty. -/
  | queueDescriptorWrite (u : EvDesc)
  /-- R362: The driver consumes fault records, freeing room for waiting records. -/
  | fqheadWrite (u : EvCtxN)
  /-- R362: FRESUME with bit 31 clear offers the threads parked on a fault record again. -/
  | fresumeRetry (u : EvCtxN)
  /-- R362: FRESUME with bit 31 set stops their workgroup and fails the launch. -/
  | fresumeAbort (u : EvCtxN)
  /-- R361: INVGO starts invalidation of a virtual range of the context. -/
  | invalidateRange (u : EvCtx)
  /-- R361: INVGO with INVALL starts invalidation of every translation of the context. -/
  | invalidateAll (u : EvCtx)
  /-- R361: Entries dropped, their accesses performed and jobs ended, INVGO clears. -/
  | invalidateDone (u : EvCtx)
  /-- R379: Debug CMD 1 stops the whole context. -/
  | halt (u : EvCtx)
  /-- R379: Debug CMD 2 restarts every stopped workgroup of the context. -/
  | resume (u : EvCtx)
  /-- R380: Debug CMD 3 issues one unit for the selected thread's set. -/
  | step (u : EvCtx)
  /-- R378: A set about to issue a breakpoint PC stops instead. -/
  | breakpointMatch (u : EvNone)
  /-- R379: Every thread of the stop's scope has stopped and DSTATE becomes STOPPED. -/
  | debugStopped (u : EvCtx)
  /-- R381: Reading DRDATA returns the selected stopped thread's register. -/
  | drdataRead (u : EvCtx)
  /-- R381: Writing DRDATA sets the selected stopped thread's register. -/
  | drdataWrite (u : EvCtxN)
  /-- R383: A STEPTO write steps the time base or sets STEPERR. -/
  | steptoWrite (u : EvNat)
  /-- R403: RCMD 1 in RECOVERY verifies the image. -/
  | install (u : EvNone)
  /-- R403: Verification ends: the image is written to flash and the module reset, or RERR is set. -/
  | imageVerified (u : EvNone)
  /-- R403: RCMD 2 stops every context, tears down partitions and enters RECOVERY. -/
  | enter (u : EvNone)
  /-- R407: A write of LIBSIZE sets the common library and draws its key pair. -/
  | libsizeWrite (u : EvNat)
  /-- R399: A host access through PF BAR4 reaches a physical address. -/
  | pfApertureAccess (u : EvAper)
  /-- R399: A host access through VF BAR4 is translated as an access of one context. -/
  | vfApertureAccess (u : EvAper)
  /-- R397: A host write to a register that has no row of its own. -/
  | registerWrite (u : EvReg)
  /-- R405: SPDM request answered with VERSION and resetting the connection state. -/
  | getVersion (u : EvSpdm)
  /-- R406: SPDM request answered with CAPABILITIES after VERSION. -/
  | getCapabilities (u : EvSpdm)
  /-- R406: SPDM request answered with ALGORITHMS after CAPABILITIES. -/
  | negotiateAlgorithms (u : EvSpdm)
  /-- R405: SPDM request answered with the slot 0 digests. -/
  | getDigests (u : EvSpdm)
  /-- R405: SPDM request answered with part of the slot 0 certificate chain. -/
  | getCertificate (u : EvSpdm)
  /-- R405: SPDM request answered with a signed CHALLENGE_AUTH. -/
  | challenge (u : EvSpdm)
  /-- R406: SPDM request answered with measurement registers read at one point. -/
  | getMeasurements (u : EvSpdm)
  /-- R406: Any other SPDM request code is answered by ERROR UnsupportedRequest. -/
  | spdmOtherRequest (u : EvSpdm)
  /-- R405: A DOE abort returns the function's connection state to its start. -/
  | doeAbort (u : EvNat)
  /-- R401: A Gnoermoz link goes down, poisoning accesses in flight on it. -/
  | linkDown (u : EvNat)
  /-- R401: A Gnoermoz link comes up and its LINKUP bit is set. -/
  | linkUp (u : EvNat)
  /-- R400: An access arriving from a peer is accepted under the peer map and translated, or refused. -/
  | peerAccess (u : EvPeer)
  /-- R158: The constant-block read of a TSHAPE or XPLD, or the image read of a PDLOAD, returns and the copy is complete, releasing units that wait on it in the issue stage. -/
  | copyComplete (u : EvJob)
  /-- R383: An IEEE 1588 message timestamped on the management Ethernet port drives the servo, which changes RATE, LOCKED and DIVERGED. -/
  | ieee1588Message (u : EvPtp)
  /-- R317: The driver cancels a launch whose dependency can never be met, or whose workgroup an undeliverable trap has stopped. -/
  | launchCancel (u : EvLaunch)
  deriving DecidableEq, Repr

end Sys2Proof
end

