-- ==== Sys2Proof/Machine/Operands.lean ====
section
/-!
DEFINITION. The operand forms of every instruction: which registers a unit names and how wide, which PFX items and
rounding codes its major accepts (R74 to R83, R89 to R91), and from these the illegal-encoding reasons of R92.
-/
namespace Sys2Proof.Machine
open Sys2Proof

/-- The registers in a width group (R30). -/
def grp (w : BitVec 2) : Nat := 2 ^ w.toNat

/-- One operand that a unit names: a group of v and g registers in the numbering of R29, or a k register; whether it
is read and whether it is written. -/
inductive Touch where
  | reg (n size : Nat) (rd wr : Bool)
  | mask (k : Nat) (rd wr : Bool)
  deriving DecidableEq, Repr

/-- The PFX items an instruction accepts (R82, R89): mask, third source, saturation, negation, and SEL's use of k;
`some` is false where the PFX column reads "—". -/
structure Items where
  some : Bool
  m : Bool
  c : Bool
  s : Bool
  n : Bool
  sel : Bool
  deriving DecidableEq, Repr

/-- The rounding class (R62). -/
inductive RndClass where
  | rounding | bounded | non
  deriving DecidableEq, Repr

/-- The role an instruction needs (R204, R212): any, matrix, matrix or epilogue, producer. -/
inductive Role where
  | any | matrix | epilogue | producer
  deriving DecidableEq, Repr

/-- Width codes of R75 that leave a choice. -/
inductive WCode where
  | any | w3264
  deriving DecidableEq, Repr

/-- What the legality rules and the wait rules see of a unit: its prefix words, W bit and length in words; the
operands it names in the order d, a, b, and the c operand of its PFX; whether its selectors are assigned (reason 2), its reserved bits zero
(reason 3) and its width and pair fields accepted (reason 4); what its PFX may carry; whether it writes a register
and whether its entry lets it write a g register (R33); the role, root context and paradigm slot it needs. -/
structure Shape where
  p : Option Pfx
  x : Option Ximm
  h : Bool
  lset : Bool
  touches : List Touch
  cop : List Touch
  ok2 : Bool
  ok3 : Bool
  ok4 : Bool
  items : Items
  rnd : RndClass
  regDst : Bool
  gDst : Bool
  needsC : Bool
  role : Role
  root : Bool
  slot : Option Nat
  deriving DecidableEq, Repr

def iNone : Items := { some := false, m := false, c := false, s := false, n := false, sel := false }
def iM : Items := { iNone with some := true, m := true }
def iS : Items := { iNone with some := true, s := true }
def iMS : Items := { iM with s := true }
def iMN : Items := { iM with n := true }
def iMSN : Items := { iMS with n := true }
def iMSC : Items := { iMS with c := true }
def iMSCN : Items := { iMSN with c := true }
def iSel : Items := { iNone with some := true, sel := true }

/-- A register field read (R29). -/
def rd (n : BitVec 7) (size : Nat) : Touch := .reg n.toNat size true false
/-- A register field written. -/
def wr (n : BitVec 7) (size : Nat) : Touch := .reg n.toNat size false true
/-- A k register read, and one written. -/
def kr (k : Nat) : Touch := .mask k true false
def kw (k : Nat) : Touch := .mask k false true
/-- G-set register fields: read, written, both, and even pairs (R78). -/
def gr (n : BitVec 5) : Touch := .reg (96 + n.toNat) 1 true false
def gw (n : BitVec 5) : Touch := .reg (96 + n.toNat) 1 false true
def grw (n : BitVec 5) : Touch := .reg (96 + n.toNat) 1 true true
def gr2 (n : BitVec 5) : Touch := .reg (96 + n.toNat) 2 true false
def gw2 (n : BitVec 5) : Touch := .reg (96 + n.toNat) 2 false true

/-- Whether a 7-bit field names a g register, and whether it is even. -/
def isG (n : BitVec 7) : Bool := decide (96 ≤ n.toNat)
def evenReg (n : BitVec 7) : Bool := n.toNat % 2 == 0
def evenG (n : BitVec 5) : Bool := n.toNat % 2 == 0
/-- A k index held in a 7-bit field, and whether the bits above it are zero (R76). -/
def kIdx (n : BitVec 7) : Nat := n.toNat % 8
def kHigh (n : BitVec 7) : Bool := decide (n.toNat < 8)

/-- The cv bit of an optional PFX, and the register of its c field. -/
def cvOf (p : Option Pfx) : Bool := match p with | some x => x.cv | none => false
def cOf (p : Option Pfx) : Nat := match p with | some x => x.c.toNat | none => 0

/-- The third source as an operand, when the PFX carries one. -/
def cTouch (p : Option Pfx) (size : Nat) : List Touch := if cvOf p then [.reg (cOf p) size true false] else []

/-- A lane instruction with every selector, reserved bit and width accepted. -/
def lane (p : Option Pfx) (x : Option Ximm) (h : Bool) (ts : List Touch) (it : Items) (r : RndClass) : Shape :=
  { p := p, x := x, h := h, lset := true, touches := ts, cop := [], ok2 := true, ok3 := true, ok4 := true, items := it, rnd := r,
    regDst := true, gDst := false, needsC := false, role := .any, root := false, slot := none }

/-- A uniform instruction. -/
def uni (h : Bool) (ts : List Touch) : Shape :=
  { p := none, x := none, h := h, lset := false, touches := ts, cop := [], ok2 := true, ok3 := true, ok4 := true, items := iNone,
    rnd := .non, regDst := true, gDst := true, needsC := false, role := .any, root := false, slot := none }

/-- An event: nothing for the legality rules to see. -/
def Shape.event : Shape := uni false []

/-- Whether a width code accepts w (R75). -/
def WCode.ok (c : WCode) (w : BitVec 2) : Bool := match c with | .any => true | .w3264 => decide (w.toNat < 2)

/-- LR with a width: d, a, b and c widened alike; `rmw` when d is also read. -/
def lrw (u : LRw) (c : WCode) (it : Items) (r : RndClass) (rmw : Bool) : Shape :=
  { lane u.p none u.h [.reg u.d.toNat (grp u.w) rmw true, rd u.a (grp u.w), rd u.b (grp u.w)] it r with
    cop := cTouch u.p (grp u.w), ok4 := c.ok u.w }

/-- LR with w = 00; `dsize` registers are written, and `even` says whether a required pair is even. -/
def lr0 (u : LR0) (dsize : Nat) (it : Items) (r : RndClass) (rmw even : Bool) : Shape :=
  { lane u.p none u.h [.reg u.d.toNat dsize rmw true, rd u.a 1, rd u.b 1] it r with
    cop := cTouch u.p 1, ok4 := even }

/-- A compare (R126). -/
def lcmpw (u : LCmpW) (c : WCode) (it : Items) (ok : Bool) : Shape :=
  { lane u.p none u.h [kw u.k.toNat, rd u.a (grp u.w), rd u.b (grp u.w)] it .non with ok2 := ok, ok4 := c.ok u.w }

/-- A packed compare: an even pair of k registers (R76). -/
def lcmp0 (u : LCmp0) (it : Items) (ok : Bool) : Shape :=
  { lane u.p none u.h [kw u.k.toNat, kw (u.k.toNat + 1), rd u.a 1, rd u.b 1] it .non with
    ok2 := ok, ok4 := u.k.toNat % 2 == 0 }

/-- The registers of a value of LU type t (R79): two for .F64, .I64 and .N64. -/
def typeGroup (t : BitVec 3) : Nat := if t = 1 ∨ t = 6 ∨ t = 7 then 2 else 1
/-- Whether w follows the type (R75). -/
def typeW (t : BitVec 3) (w : BitVec 2) : Bool := decide (w.toNat = typeGroup t - 1)

/-- LU with a type and w following it. -/
def luw (u : LUw) (ok : Bool) (it : Items) (r : RndClass) : Shape :=
  { lane u.p none u.h [wr u.d (typeGroup u.t), rd u.a (typeGroup u.t)] it r with ok2 := ok, ok4 := typeW u.t u.w }

/-- LU with implied widths. -/
def luf (u : LUf) (ok : Bool) (src dst : Nat) (it : Items) (r : RndClass) : Shape :=
  { lane u.p none u.h [wr u.d dst, rd u.a src] it r with ok2 := ok }

/-- CVTS reads its scale from c and requires it (R136). -/
def Shape.needC (s : Shape) (p : Option Pfx) : Shape :=
  { s with needsC := true, cop := cTouch p 1 }

/-- Bits of a conversion type: a float source code, an integer code 0 to 7, a destination code (R79). -/
def floatBits (t : Nat) : Nat := match t with | 0 => 64 | 1 => 32 | 2 => 16 | 3 => 16 | _ => 8
def intBits (t : Nat) : Nat := match t / 2 with | 0 => 8 | 1 => 16 | 2 => 32 | _ => 64
def dstBits (fn : Nat) : Nat := if fn < 6 then floatBits fn else if fn < 8 then 8 else intBits (fn - 8)
def srcBits (int : Bool) (t : Nat) : Nat := if int then intBits t else floatBits t

/-- Elements per lane of a conversion (R134). -/
def cvtElems (sb db : Nat) : Nat := if sb = 8 ∨ db = 8 then 4 else if sb = 16 ∨ db = 16 then 2 else 1

/-- The smallest width group of 1, 2, 4 or 8 registers that holds n registers. -/
def coverGroup (n : Nat) : Nat := if n ≤ 1 then 1 else if n ≤ 2 then 2 else if n ≤ 4 then 4 else 8

/-- The source and destination groups of a conversion (R134, R138). -/
def cvtSrcGroup (int : Bool) (t fn : Nat) : Nat :=
  coverGroup ((cvtElems (srcBits int t) (dstBits fn) * srcBits int t + 31) / 32)
def cvtDstGroup (int : Bool) (t fn : Nat) : Nat :=
  if fn = 6 ∨ fn = 7 then 2 else coverGroup ((cvtElems (srcBits int t) (dstBits fn) * dstBits fn + 31) / 32)

/-- Registers of four elements of a BLKENC source or BLKDEC destination type (R138, R139). -/
def blkGroup (t : Nat) : Nat := match t with | 0 => 4 | 1 => 8 | _ => 2

/-- RAND: a destination only. -/
def ldst (p : Option Pfx) (h ok2 ok3 ok4 : Bool) (ts : List Touch) : Shape :=
  { lane p none h ts iM .non with ok2 := ok2, ok3 := ok3, ok4 := ok4 }

/-- VOTE (R146): the predicate in a k register; fn 0 to 2 write a k register, fn 3 an even g pair. -/
def vote (u : LAf) : Shape :=
  let k := kr (kIdx u.a)
  if u.fn.toNat = 3 then
    { lane u.p none u.h [wr u.d 2, k] iM .non with ok3 := kHigh u.a, ok4 := isG u.d && evenReg u.d, gDst := true }
  else
    { lane u.p none u.h [kw (kIdx u.d), k] iM .non with ok2 := u.fn.toNat < 3, ok3 := kHigh u.a && kHigh u.d }

/-- ELECT (R150). -/
def elect (u : LDf) : Shape :=
  if u.fn.toNat = 1 then { lane u.p none u.h [wr u.d 1] iM .non with ok4 := isG u.d, gDst := true }
  else { lane u.p none u.h [kw (kIdx u.d)] iM .non with ok2 := u.fn.toNat < 2, ok3 := kHigh u.d }

/-- KMOV (R152). -/
def kmov (u : LAf) : Shape :=
  match u.fn.toNat with
  | 0 => { lane u.p none u.h [kw (kIdx u.d), kr (kIdx u.a)] iM .non with ok3 := kHigh u.d && kHigh u.a }
  | 1 => { lane u.p none u.h [kw (kIdx u.d), rd u.a 1] iM .non with ok3 := kHigh u.d }
  | 2 => { lane u.p none u.h [wr u.d 1, kr (kIdx u.a)] iM .non with ok3 := kHigh u.a }
  | _ => { lane u.p none u.h [] iM .non with ok2 := false }

/-- Loads and stores (R185): a global address is an even pair. -/
def lmem (u : LMem) (load glob ok : Bool) : Shape :=
  { lane u.p none u.h [.reg u.d.toNat (grp u.w) (! load) load, rd u.a (if glob then 2 else 1)] iM .non with
    ok2 := ok, ok4 := ! glob || evenReg u.a, regDst := load }

/-- Atomics (R80, R192): the data group is read, and written by ATOM and ATOMS. -/
def atomic (p : Option Pfx) (h : Bool) (d a : BitVec 7) (op : Nat) (w : BitVec 2) (glob back ok : Bool) : Shape :=
  let wok := if op = 9 then w.toNat = 1 ∨ w.toNat = 2 else if op = 10 then w.toNat = 0 else w.toNat < 2
  { lane p none h [.reg d.toNat (grp w) true back, rd a (if glob then 2 else 1)] iM .non with
    ok2 := ok, ok4 := decide wok && (! glob || evenReg a), regDst := back }

/-- Registers of a DXVAL or DXENC operand (R257). -/
def dxGroup (t : BitVec 3) : Nat := if t = 1 then 2 else 1

/-- The system register indices of R42, and how many g registers each takes (R41). -/
def sysListed (i : Nat) : Bool :=
  decide (i ≤ 0x06 ∨ (0x08 ≤ i ∧ i ≤ 0x0C) ∨ (0x10 ≤ i ∧ i ≤ 0x14) ∨ (0x20 ≤ i ∧ i ≤ 0x25) ∨ i = 0x28 ∨
    (0x30 ≤ i ∧ i ≤ 0x34) ∨ i = 0x36 ∨ i = 0x38 ∨ i = 0x3A)
def sysGroup (i : Nat) : Nat := if i = 0x34 ∨ i = 0x3A then 2 else 1

/-- The shape of every instruction (R89, R90 and the instruction entries). TIDX touches the whole aligned group of its coordinates,
the registers above the last one with it (R86, R143). Log entry 85. -/
def shapeOf (i : Instr) : Shape :=
  match i with
  | .iaddI u => lrw u .w3264 iMS .non false
  | .iaddN u => lrw u .w3264 iMS .non false
  | .isubI u => lrw u .w3264 iMS .non false
  | .isubN u => lrw u .w3264 iMS .non false
  | .imulI u => lrw u .w3264 iMS .non false
  | .imulN u => lrw u .w3264 iMS .non false
  | .imulhI u => lrw u .w3264 iM .non false
  | .imulhN u => lrw u .w3264 iM .non false
  | .imulwI u => lr0 u 2 iM .non false (evenReg u.d)
  | .imulwN u => lr0 u 2 iM .non false (evenReg u.d)
  | .imadI u => lrw u .w3264 iMSC .non (! cvOf u.p)
  | .imadN u => lrw u .w3264 iMSC .non (! cvOf u.p)
  | .iminI u => lrw u .w3264 iM .non false
  | .iminN u => lrw u .w3264 iM .non false
  | .imaxI u => lrw u .w3264 iM .non false
  | .imaxN u => lrw u .w3264 iM .non false
  | .isadI u => lrw u .w3264 iM .non true
  | .isadN u => lrw u .w3264 iM .non true
  | .icmpI u => lcmpw u .w3264 iM (u.cond.toNat < 6)
  | .icmpN u => lcmpw u .w3264 iM (u.cond.toNat < 6)
  | .iaddI16x2 u => lr0 u 1 iMS .non false true
  | .iaddN16x2 u => lr0 u 1 iMS .non false true
  | .isubI16x2 u => lr0 u 1 iMS .non false true
  | .isubN16x2 u => lr0 u 1 iMS .non false true
  | .iminI16x2 u => lr0 u 1 iM .non false true
  | .iminN16x2 u => lr0 u 1 iM .non false true
  | .imaxI16x2 u => lr0 u 1 iM .non false true
  | .imaxN16x2 u => lr0 u 1 iM .non false true
  | .icmpI16x2 u => lcmp0 u iM (u.cond.toNat < 6)
  | .icmpN16x2 u => lcmp0 u iM (u.cond.toNat < 6)
  | .and u => lrw u .any iM .non false
  | .or u => lrw u .any iM .non false
  | .xor u => lrw u .any iM .non false
  | .andn u => lrw u .any iM .non false
  | .shl u => lrw u .w3264 iM .non false
  | .shr u => lrw u .w3264 iM .non false
  | .sar u => lrw u .w3264 iM .non false
  | .rotl u => lrw u .w3264 iM .non false
  | .bfxI u => lrw u .w3264 iM .non false
  | .bfxN u => lrw u .w3264 iM .non false
  | .bfi u => lrw u .w3264 iM .non true
  | .sel u => lrw u .any iSel .non false
  | .fadd u => lrw u .w3264 iMSN .rounding false
  | .fsub u => lrw u .w3264 iMSN .rounding false
  | .fmul u => lrw u .w3264 iMSN .rounding false
  | .ffma u => lrw u .w3264 iMSCN .rounding (! cvOf u.p)
  | .fmin u => lrw u .w3264 iMN .non false
  | .fmax u => lrw u .w3264 iMN .non false
  | .fdiv u => lrw u .w3264 iMSN .rounding false
  | .fcmp u => lcmpw u .w3264 iMN (u.cond.toNat < 8)
  | .fscale u => lrw u .w3264 iMSN .rounding false
  | .faddBf16x2 u => lr0 u 1 iMSN .rounding false true
  | .fsubBf16x2 u => lr0 u 1 iMSN .rounding false true
  | .fmulBf16x2 u => lr0 u 1 iMSN .rounding false true
  | .ffmaBf16x2 u => lr0 u 1 iMSCN .rounding (! cvOf u.p) true
  | .fminBf16x2 u => lr0 u 1 iMN .non false true
  | .fmaxBf16x2 u => lr0 u 1 iMN .non false true
  | .fcmpBf16x2 u => lcmp0 u iMN (u.cond.toNat < 8)
  | .faddFp16x2 u => lr0 u 1 iMSN .rounding false true
  | .fsubFp16x2 u => lr0 u 1 iMSN .rounding false true
  | .fmulFp16x2 u => lr0 u 1 iMSN .rounding false true
  | .ffmaFp16x2 u => lr0 u 1 iMSCN .rounding (! cvOf u.p) true
  | .fminFp16x2 u => lr0 u 1 iMN .non false true
  | .fmaxFp16x2 u => lr0 u 1 iMN .non false true
  | .fcmpFp16x2 u => lcmp0 u iMN (u.cond.toNat < 8)
  | .iabs u => luw u (4 ≤ u.t.toNat) iMS .non
  | .ineg u => luw u (4 ≤ u.t.toNat) iMS .non
  | .clz u => luw u (4 ≤ u.t.toNat) iM .non
  | .popc u => luw u (4 ≤ u.t.toNat) iM .non
  | .brev u => luw u (4 ≤ u.t.toNat) iM .non
  | .fclass u => luw u (u.t.toNat < 4) iMN .non
  | .frnd u => luw u (u.t.toNat < 4) iMN .rounding
  | .fract u => luw u (u.t.toNat < 4) iMN .rounding
  | .exp2 u => luw u (u.t.toNat < 4) iMN .bounded
  | .log2 u => luw u (u.t.toNat < 4) iMN .bounded
  | .rcp u => luw u (u.t.toNat < 4) iMN .bounded
  | .rsq u => luw u (u.t.toNat < 4) iMN .bounded
  | .sqrt u => luw u (u.t.toNat < 4) iMN .bounded
  | .sin u => luw u (u.t.toNat < 4) iMN .bounded
  | .cos u => luw u (u.t.toNat < 4) iMN .bounded
  | .tanh u => luw u (u.t.toNat < 4) iMN .bounded
  | .cvtFloatSource u => luf u (u.t.toNat < 6) (cvtSrcGroup false u.t.toNat u.fn.toNat) (cvtDstGroup false u.t.toNat u.fn.toNat) iMSN .rounding
  | .cvtIntegerSource u => luf u (u.fn.toNat ≠ 6 ∧ u.fn.toNat ≠ 7) (cvtSrcGroup true u.t.toNat u.fn.toNat) (cvtDstGroup true u.t.toNat u.fn.toNat) iMS .rounding
  | .cvts u => (luf u (u.t.toNat < 6 ∧ u.fn.toNat < 8) (cvtSrcGroup false u.t.toNat u.fn.toNat) (cvtDstGroup false u.t.toNat u.fn.toNat) iMSCN .rounding).needC u.p
  | .blkenc u => luf u (u.t.toNat < 4 ∧ u.fn.toNat < 2) (blkGroup u.t.toNat) 2 iS .rounding
  | .blkdec u => luf u (u.t.toNat < 4 ∧ u.fn.toNat < 2) 2 (blkGroup u.t.toNat) iMS .rounding
  | .rand u => ldst u.p u.h (u.fn.toNat < 3) true true [wr u.d 1]
  | .tidx u => luf u (u.t.toNat < 5) 1 (coverGroup (u.t.toNat + 1)) iM .non
  | .shfl u => lrw u .w3264 iM .non false
  | .shflUp u => lane u.p none u.h [wr u.d 1, rd u.a 1] iM .non
  | .shflDn u => lane u.p none u.h [wr u.d 1, rd u.a 1] iM .non
  | .shflXor u => lane u.p none u.h [wr u.d 1, rd u.a 1] iM .non
  | .xperm u => { lane u.p none u.h [wr u.d (grp u.w), rd u.a (grp u.w)] iM .non with ok2 := u.fn.toNat < 8 }
  | .vote u => vote u
  | .reduce u => { lane u.p none u.h [wr u.d (typeGroup u.t), rd u.a (typeGroup u.t)] iM .non with ok2 := decide (u.fn.toNat < 3 ∨ (u.fn.toNat < 6 ∧ 4 ≤ u.t.toNat)), ok4 := typeW u.t u.w }
  | .scan u => { lane u.p none u.h [wr u.d (typeGroup u.t), rd u.a (typeGroup u.t)] iM .non with ok2 := decide (u.fn.toNat < 3 ∨ (u.fn.toNat < 6 ∧ 4 ≤ u.t.toNat)), ok4 := typeW u.t u.w }
  | .matchLanes u => luw u (4 ≤ u.t.toNat) iM .non
  | .elect u => elect u
  | .rdlane u => { lrw u .w3264 iNone .non false with gDst := true }
  | .mov u => lane u.p none u.h [wr u.d (grp u.w), rd u.a (grp u.w)] iM .non
  | .kmov u => kmov u
  | .kpop u => { lane u.p none u.h [wr u.d 1, kr (kIdx u.a)] iNone .non with ok3 := kHigh u.a, gDst := true }
  | .iaddImm u => lane u.p u.x u.h [wr u.d 1, rd u.a 1] iMS .non
  | .andImm u => lane u.p u.x u.h [wr u.d 1, rd u.a 1] iM .non
  | .orImm u => lane u.p u.x u.h [wr u.d 1, rd u.a 1] iM .non
  | .xorImm u => lane u.p u.x u.h [wr u.d 1, rd u.a 1] iM .non
  | .shlImm u => lane u.p none u.h [wr u.d 1, rd u.a 1] iM .non
  | .shrImm u => lane u.p none u.h [wr u.d 1, rd u.a 1] iM .non
  | .sarImm u => lane u.p none u.h [wr u.d 1, rd u.a 1] iM .non
  | .rotlImm u => lane u.p none u.h [wr u.d 1, rd u.a 1] iM .non
  | .icmpIImm u => { lane u.p u.x u.h [kw u.k.toNat, rd u.a 1] iM .non with ok2 := u.cond.toNat < 6 }
  | .icmpNImm u => { lane u.p u.x u.h [kw u.k.toNat, rd u.a 1] iM .non with ok2 := u.cond.toNat < 6 }
  | .movi u => lane u.p u.x u.h [wr u.d 1] iM .non
  | .jmpi u => { lane u.p none u.h [rd u.a 1] iM .non with regDst := false }
  | .calli u => { lane u.p none u.h [rd u.a 1] iM .non with regDst := false }
  | .ldg u => lmem u true true (u.q.toNat < 7)
  | .stg u => lmem u false true (u.q.toNat < 7)
  | .lds u => lmem u true false (u.q.toNat < 4)
  | .sts u => lmem u false false (u.q.toNat < 4)
  | .ldv u => lmem u true false (u.q.toNat < 7)
  | .stv u => lmem u false false (u.q.toNat < 7)
  | .feset u => { lane u.p none u.h [rd u.a 1] iM .non with regDst := false }
  | .feclr u => { lane u.p none u.h [rd u.a 1] iM .non with regDst := false }
  | .atom u => atomic u.p u.h u.d u.a u.off4.toNat u.w true true (decide (3 ≤ u.q.toNat ∧ u.q.toNat < 7 ∧ u.off4.toNat < 11))
  | .atoms u => atomic u.p u.h u.d u.a u.off4.toNat u.w false true (decide (u.off4.toNat < 11))
  | .red u => atomic u.p u.h u.d u.a u.off4.toNat u.w true false (decide (3 ≤ u.q.toNat ∧ u.q.toNat < 7 ∧ (u.off4.toNat < 8 ∨ u.off4.toNat = 10)))
  | .mma u => { lane u.p none u.h [rd u.d 1, rd u.a 1] iNone .non with ok4 := isG u.d, regDst := false, role := .matrix }
  | .mread u => { lane u.p none u.h [wr u.d (if u.t = 7 then 2 else 1), rd u.a 1] iMS .rounding with role := .epilogue }
  | .kvgather u => { lane u.p none u.h [rd u.d 1, rd u.a 1] iM .non with ok4 := isG u.d, regDst := false }
  | .rotq u => { lrw u .any iM .non true with ok4 := isG u.b }
  | .accept u => { lane u.p none u.h [kw u.k.toNat, kw (u.k.toNat + 1), rd u.a (if u.w = 1 then 2 else 1), rd u.b 1] iM .non with ok4 := decide (u.w.toNat < 2 ∧ u.k.toNat % 2 = 0) }
  | .dxt u => { lane u.p none u.h [wr u.d 2, rd u.a 1, rd u.b 1] iM .non with ok4 := evenReg u.d && ! isG u.d, slot := some u.w.toNat }
  | .dxcmp u => { lane u.p none u.h [kw u.k.toNat, rd u.a 1, rd u.b 1] iM .non with ok2 := u.cond.toNat < 8, slot := some u.w.toNat }
  | .dxval u => { lane u.p none u.h [wr u.d (dxGroup u.t), rd u.a (dxGroup u.t)] iM .non with ok2 := u.t.toNat < 2, slot := some u.slot.toNat }
  | .dxenc u => { lane u.p none u.h [wr u.d (dxGroup u.t), rd u.a (dxGroup u.t)] iM .non with ok2 := u.t.toNat < 2, slot := some u.slot.toNat }
  | .uadd u => uni u.h [gw u.d, gr u.a, gr u.b]
  | .usub u => uni u.h [gw u.d, gr u.a, gr u.b]
  | .umul u => uni u.h [gw u.d, gr u.a, gr u.b]
  | .umulhI u => uni u.h [gw u.d, gr u.a, gr u.b]
  | .umulhN u => uni u.h [gw u.d, gr u.a, gr u.b]
  | .uand u => uni u.h [gw u.d, gr u.a, gr u.b]
  | .uor u => uni u.h [gw u.d, gr u.a, gr u.b]
  | .uxor u => uni u.h [gw u.d, gr u.a, gr u.b]
  | .ushl u => uni u.h [gw u.d, gr u.a, gr u.b]
  | .ushr u => uni u.h [gw u.d, gr u.a, gr u.b]
  | .usar u => uni u.h [gw u.d, gr u.a, gr u.b]
  | .uminI u => uni u.h [gw u.d, gr u.a, gr u.b]
  | .uminN u => uni u.h [gw u.d, gr u.a, gr u.b]
  | .umaxI u => uni u.h [gw u.d, gr u.a, gr u.b]
  | .umaxN u => uni u.h [gw u.d, gr u.a, gr u.b]
  | .umov u => uni u.h [gw u.d, gr u.a]
  | .usel u => uni u.h [grw u.d, gr u.a, gr u.b]
  | .ucmpI u => { uni u.h [gw u.d, gr u.a, gr u.b] with ok2 := u.cond.toNat < 6 }
  | .ucmpN u => { uni u.h [gw u.d, gr u.a, gr u.b] with ok2 := u.cond.toNat < 6 }
  | .uaddImm u => uni u.h [gw u.d, gr u.a]
  | .uandImm u => uni u.h [gw u.d, gr u.a]
  | .uorImm u => uni u.h [gw u.d, gr u.a]
  | .uxorImm u => uni u.h [gw u.d, gr u.a]
  | .ushlImm u => uni u.h [gw u.d, gr u.a]
  | .ushrImm u => uni u.h [gw u.d, gr u.a]
  | .usarImm u => uni u.h [gw u.d, gr u.a]
  | .umovi u => uni u.h [gw u.d]
  | .uldc u => uni u.h [gw u.d, gr u.a]
  | .rdsys u => { uni u.h [.reg (96 + u.d.toNat) (sysGroup u.idx.toNat) false true] with ok2 := sysListed u.idx.toNat, ok4 := sysGroup u.idx.toNat == 1 || evenG u.d }
  | .wrsys u => { uni u.h [.reg (96 + u.a.toNat) (sysGroup u.idx.toNat) true false] with ok2 := sysListed u.idx.toNat, ok4 := sysGroup u.idx.toNat == 1 || evenG u.a }
  | .tshape u => uni u.h [gr u.a]
  | .xpld u => uni u.h [gr u.a]
  | .bra u => uni u.h []
  | .bru u => { uni u.h [gr u.a] with ok2 := u.cond.toNat < 6 }
  | .brt u => uni u.h [kr u.k.toNat]
  | .call u => uni u.h []
  | .callq u => { uni u.h [gr u.a] with ok3 := u.a == 0 || u.quire == 0 }
  | .ret u => uni u.h []
  | .exit u => uni u.h []
  | .nop u => uni u.h []
  | .trap u => uni u.h []
  | .trapret u => uni u.h []
  | .bkpt u => uni u.h []
  | .yield u => uni u.h []
  | .sleepto u => { uni u.h [gr2 u.a] with ok4 := evenG u.a }
  | .rdtime u => { uni u.h [gw2 u.d] with ok4 := evenG u.d }
  | .qload u => { uni u.h [gw u.d, gr u.a] with ok3 := u.a == 0 || u.quire == 0 }
  | .qpin u => { uni u.h [gw u.d, gr u.a] with ok3 := u.a == 0 || u.quire == 0 }
  | .qunpin u => { uni u.h [gw u.d, gr u.a] with ok3 := u.a == 0 || u.quire == 0 }
  | .qstat u => { uni u.h [gw u.d, gr u.a] with ok3 := u.a == 0 || u.quire == 0 }
  | .launch u => { uni u.h [gw2 u.d, gr2 u.a, gr u.b] with ok4 := evenG u.d && evenG u.a }
  | .fetchw u => uni u.h [gr u.a, gr u.b]
  | .hash u => { uni u.h [gw u.d, gr2 u.a] with ok4 := evenG u.a, root := true }
  | .sign u => { uni u.h [gw u.d, gr2 u.a] with ok4 := evenG u.a, root := true }
  | .mext u => { uni u.h [gw u.d, gr2 u.a] with ok4 := evenG u.a, root := true }
  | .mrd u => { uni u.h [gw u.d, gr2 u.a] with ok4 := evenG u.a, root := true }
  | .fence u => { uni u.h [] with ok2 := decide (u.kind ≠ 0 ∧ u.scope ≠ 7) }
  | .tierpf u => { uni u.h [gr u.d, gr2 u.a, gr u.b] with ok4 := evenG u.a }
  | .barinit u => uni u.h [gw u.d, gr u.a, gr u.b]
  | .arrive u => uni u.h [gw u.d, gr u.a, gr u.b]
  | .waitph u => uni u.h [gr u.a, gr u.b]
  | .testph u => uni u.h [gw u.d, gr u.a]
  | .cminit u => uni u.h [gw u.d, gr u.a, gr u.b]
  | .cmwait u => { uni u.h [gr u.a, gr2 u.b] with ok4 := evenG u.b }
  | .cmtest u => { uni u.h [gw u.d, gr u.a, gr2 u.b] with ok4 := evenG u.b }
  | .strm u => { uni u.h [gr u.a] with role := .producer }
  | .strmq u => { uni u.h [gr u.a, gr u.b] with role := .producer }
  | .mzero u => { uni u.h [] with role := .matrix }
  | .mlatb u => { uni u.h [gr u.a, gr u.b] with role := .matrix }
  | .mstore u => { uni u.h [gr u.a, gr2 u.b] with ok4 := evenG u.b, role := .epilogue }
  | .mstat u => { uni u.h [gw u.d] with role := .epilogue }
  | .gseal u => uni u.h [gr u.d, gr u.a]
  | .impose u => uni u.h [gr u.d, gr u.a]
  | .distrib u => uni u.h [gr u.d, gr u.a]
  | .distribCompact u => uni u.h [gr u.d, gr u.a]
  | .proofw u => { uni u.h [gw2 u.d, gr2 u.a] with ok4 := evenG u.d && evenG u.a }
  | .proofpub u => uni u.h [gr u.d, gr u.a]
  | .prstat u => { uni u.h [gw u.d, gr2 u.a, gr u.b] with ok4 := evenG u.a }
  | .kvappend u => uni u.h [gr u.d, gr u.a]
  | .specapp u => uni u.h [gr u.d, gr u.a]
  | .commit u => uni u.h [gr u.d, gr u.a]
  | .pdload u => { uni u.h [gr2 u.a] with ok4 := evenG u.a }
  | .pdinfo u => { uni u.h [gw u.d] with slot := some u.slot.toNat }
  | .resultReturn _ => .event
  | .sleepWake _ => .event
  | .quireLoadComplete _ => .event
  | .pageWalk _ => .event
  | .streamerJobCheck _ => .event
  | .chunkWrite _ => .event
  | .tierpfArrival _ => .event
  | .mlatbLatch _ => .event
  | .mmaPass _ => .event
  | .mstoreWrite _ => .event
  | .gsealPerform _ => .event
  | .imposePerform _ => .event
  | .distribPerform _ => .event
  | .proofpubPerform _ => .event
  | .kvgatherSnapshot _ => .event
  | .kvappendPerform _ => .event
  | .specappPerform _ => .event
  | .commitPerform _ => .event
  | .launchArrive _ => .event
  | .recordRead _ => .event
  | .placement _ => .event
  | .workgroupStart _ => .event
  | .launchComplete _ => .event
  | .fetchwDeliver _ => .event
  | .preempt _ => .event
  | .contextSwitch _ => .event
  | .contextSave _ => .event
  | .contextRestore _ => .event
  | .epochEnd _ => .event
  | .clockChange _ => .event
  | .timeStep _ => .event
  | .ppsInput _ => .event
  | .ppsOutput _ => .event
  | .powerOn _ => .event
  | .partitionSetup _ => .event
  | .partitionTeardown _ => .event
  | .create _ => .event
  | .teardown _ => .event
  | .contextClosed _ => .event
  | .qtailWrite _ => .event
  | .queueDescriptorWrite _ => .event
  | .fqheadWrite _ => .event
  | .fresumeRetry _ => .event
  | .fresumeAbort _ => .event
  | .invalidateRange _ => .event
  | .invalidateAll _ => .event
  | .invalidateDone _ => .event
  | .halt _ => .event
  | .resume _ => .event
  | .step _ => .event
  | .breakpointMatch _ => .event
  | .debugStopped _ => .event
  | .drdataRead _ => .event
  | .drdataWrite _ => .event
  | .steptoWrite _ => .event
  | .install _ => .event
  | .imageVerified _ => .event
  | .enter _ => .event
  | .libsizeWrite _ => .event
  | .pfApertureAccess _ => .event
  | .vfApertureAccess _ => .event
  | .registerWrite _ => .event
  | .getVersion _ => .event
  | .getCapabilities _ => .event
  | .negotiateAlgorithms _ => .event
  | .getDigests _ => .event
  | .getCertificate _ => .event
  | .challenge _ => .event
  | .getMeasurements _ => .event
  | .spdmOtherRequest _ => .event
  | .doeAbort _ => .event
  | .linkDown _ => .event
  | .linkUp _ => .event
  | .peerAccess _ => .event
  | .copyComplete _ => .event
  | .ieee1588Message _ => .event
  | .launchCancel _ => .event

/-- The number of words in a unit (R73). -/
def Shape.len (s : Shape) : Nat := natOfBool s.p.isSome + natOfBool s.x.isSome + 1

/-- Whether a PFX item that the principal word does not accept is present, or a rounding code is refused, or zeroing
has no register destination, or the principal word takes no PFX at all (reason 7, R82, R62). -/
def Shape.badItems (s : Shape) (p : Pfx) : Bool :=
  let it := s.items
  ! it.some
    || (decide (p.k ≠ 0) && ! it.m && ! it.sel)
    || (p.z && (! it.m || ! s.regDst))
    || (p.cv && ! it.c)
    || (p.sat && ! it.s)
    || ((p.na || p.nb || p.aa || p.ab) && ! it.n)
    || decide (p.mode ≠ 0 ∧ (s.rnd ≠ .rounding ∨ 6 ≤ p.mode.toNat))

/-- Whether a register operand breaks the alignment of R31, and whether it breaks the budget. -/
def Touch.misaligned (t : Touch) : Bool :=
  match t with | .reg n size _ _ => n % size ≠ 0 | .mask _ _ _ => false
def Touch.beyond (t : Touch) (budget : Nat) : Bool :=
  match t with | .reg n size _ _ => decide (n < 96 ∧ budget < n + size) | .mask _ _ _ => false

/-- The reasons that hold of a unit apart from reasons 1 and 8, which no decoded unit has, and from the reasons 10 and
11 that depend on the machine: pairs of reason and word index (R92). That CVTS without c is named at the principal word where the
unit has a PFX is the model's choice. Log entry 84. -/
def Shape.reasons (s : Shape) (budget : Nat) : List (Nat × Nat) :=
  let last := s.len - 1
  let pf : List (Nat × Nat) :=
    match s.p with
    | none => []
    | some p =>
      (if p.low ≠ 0 ∨ (p.cv = false ∧ p.c ≠ 0) then [(3, 0)] else [])
        ++ (if s.badItems p then [(7, 0)] else []) ++ (if p.h then [(9, 0)] else [])
  let xi : List (Nat × Nat) :=
    match s.x with
    | none => []
    | some x => if x.h then [(9, last - 1)] else []
  (if s.ok2 then [] else [(2, last)]) ++ (if s.ok3 then [] else [(3, last)]) ++ (if s.ok4 then [] else [(4, last)])
    ++ (if s.touches.any Touch.misaligned then [(5, last)] else [])
    ++ (if s.touches.any (·.beyond budget) then [(6, last)] else [])
    ++ (if s.cop.any Touch.misaligned then [(5, 0)] else [])
    ++ (if s.cop.any (·.beyond budget) then [(6, 0)] else [])
    ++ (if s.needsC && ! cvOf s.p then [(7, last)] else []) ++ pf ++ xi

/-- The lowest reason, and of equal reasons the lowest word (R92). -/
def leastReason (rs : List (Nat × Nat)) : Option (Nat × Nat) :=
  rs.foldl (fun o r => match o with
    | none => some r
    | some b => if r.1 < b.1 ∨ (r.1 = b.1 ∧ r.2 < b.2) then some r else some b) none

/-- sys.trapinfo of an illegal encoding (R92). -/
def reasonInfo (r : Nat × Nat) : Nat := r.1 + 256 * r.2

end Sys2Proof.Machine
end

