-- ==== Sys2Proof/Decode.lean ====
section
/-!
DEFINITION. The decoder and the encoder, written from the formats of R72 to R83 and the fields of the opcode table.
Decoding reads a unit of one to three words; a word whose reserved bits or selectors no row of the table allows is
rejected, and `unitFault` names the reason of R92. The encoder writes the same layouts.
-/
namespace Sys2Proof
open Sys2Proof.Machine

/-- A word of the L-set (R72): bit 31 clear, W, major, format bits. -/
def packL (h : Bool) (major : BitVec 7) (low : BitVec 23) : Word := 0#1 ++ BitVec.ofBool h ++ major ++ low
/-- A word of the G-set. -/
def packG (h : Bool) (major : BitVec 7) (low : BitVec 23) : Word := 1#1 ++ BitVec.ofBool h ++ major ++ low

/-- The fields common to all words (R72). -/
def wordG (w : Word) : Bool := w.extractLsb' 31 1 == 1#1
def wordW (w : Word) : Bool := w.extractLsb' 30 1 == 1#1
def wordMajor (w : Word) : Nat := (w.extractLsb' 23 7).toNat
def wordLow (w : Word) : BitVec 23 := w.extractLsb' 0 23

/-- PFX (R81). -/
def Pfx.toLow (u : Pfx) : BitVec 23 :=
  u.k ++ BitVec.ofBool u.z ++ u.mode ++ u.c ++ BitVec.ofBool u.cv ++ BitVec.ofBool u.sat ++ BitVec.ofBool u.na
    ++ BitVec.ofBool u.nb ++ BitVec.ofBool u.aa ++ BitVec.ofBool u.ab ++ u.low
def Pfx.ofLow (h : Bool) (l : BitVec 23) : Pfx :=
  { h := h, k := l.extractLsb' 20 3, z := l.extractLsb' 19 1 == 1#1, mode := l.extractLsb' 16 3,
    c := l.extractLsb' 9 7, cv := l.extractLsb' 8 1 == 1#1, sat := l.extractLsb' 7 1 == 1#1,
    na := l.extractLsb' 6 1 == 1#1, nb := l.extractLsb' 5 1 == 1#1, aa := l.extractLsb' 4 1 == 1#1,
    ab := l.extractLsb' 3 1 == 1#1, low := l.extractLsb' 0 3 }
def Pfx.word (u : Pfx) : Word := packL u.h 0x7F u.toLow
/-- XIMM (R83). -/
def Ximm.word (u : Ximm) : Word := packL u.h 0x7E u.imm
/-- The prefix words of a unit. -/
def pfxWords (p : Option Pfx) : List Word := match p with | none => [] | some u => [u.word]
def ximmWords (x : Option Ximm) : List Word := match x with | none => [] | some u => [u.word]

def LRw.toLow (u : LRw) : BitVec 23 := u.d ++ u.a ++ u.b ++ u.w
def LRw.ofLow (p : Option Pfx) (h : Bool) (l : BitVec 23) : LRw :=
  { p := p, h := h, d := l.extractLsb' 16 7, a := l.extractLsb' 9 7, b := l.extractLsb' 2 7, w := l.extractLsb' 0 2 }
def LR0.toLow (u : LR0) (g0 : BitVec 2) : BitVec 23 := u.d ++ u.a ++ u.b ++ g0
def LR0.ofLow (p : Option Pfx) (h : Bool) (l : BitVec 23) : LR0 :=
  { p := p, h := h, d := l.extractLsb' 16 7, a := l.extractLsb' 9 7, b := l.extractLsb' 2 7 }
def LCmpW.toLow (u : LCmpW) : BitVec 23 := u.cond ++ u.k ++ u.a ++ u.b ++ u.w
def LCmpW.ofLow (p : Option Pfx) (h : Bool) (l : BitVec 23) : LCmpW :=
  { p := p, h := h, cond := l.extractLsb' 19 4, k := l.extractLsb' 16 3, a := l.extractLsb' 9 7, b := l.extractLsb' 2 7, w := l.extractLsb' 0 2 }
def LCmp0.toLow (u : LCmp0) (g0 : BitVec 2) : BitVec 23 := u.cond ++ u.k ++ u.a ++ u.b ++ g0
def LCmp0.ofLow (p : Option Pfx) (h : Bool) (l : BitVec 23) : LCmp0 :=
  { p := p, h := h, cond := l.extractLsb' 19 4, k := l.extractLsb' 16 3, a := l.extractLsb' 9 7, b := l.extractLsb' 2 7 }
def LUw.toLow (u : LUw) (g0 : BitVec 4) : BitVec 23 := u.d ++ u.a ++ u.t ++ g0 ++ u.w
def LUw.ofLow (p : Option Pfx) (h : Bool) (l : BitVec 23) : LUw :=
  { p := p, h := h, d := l.extractLsb' 16 7, a := l.extractLsb' 9 7, t := l.extractLsb' 6 3, w := l.extractLsb' 0 2 }
def LUf.toLow (u : LUf) (g0 : BitVec 2) : BitVec 23 := u.d ++ u.a ++ u.t ++ u.fn ++ g0
def LUf.ofLow (p : Option Pfx) (h : Bool) (l : BitVec 23) : LUf :=
  { p := p, h := h, d := l.extractLsb' 16 7, a := l.extractLsb' 9 7, t := l.extractLsb' 6 3, fn := l.extractLsb' 2 4 }
def LDf.toLow (u : LDf) (g0 : BitVec 10) (g1 : BitVec 2) : BitVec 23 := u.d ++ g0 ++ u.fn ++ g1
def LDf.ofLow (p : Option Pfx) (h : Bool) (l : BitVec 23) : LDf :=
  { p := p, h := h, d := l.extractLsb' 16 7, fn := l.extractLsb' 2 4 }
def LShf.toLow (u : LShf) (g0 : BitVec 3) : BitVec 23 := u.d ++ u.a ++ g0 ++ u.delta
def LShf.ofLow (p : Option Pfx) (h : Bool) (l : BitVec 23) : LShf :=
  { p := p, h := h, d := l.extractLsb' 16 7, a := l.extractLsb' 9 7, delta := l.extractLsb' 0 6 }
def LAfw.toLow (u : LAfw) (g0 : BitVec 3) : BitVec 23 := u.d ++ u.a ++ g0 ++ u.fn ++ u.w
def LAfw.ofLow (p : Option Pfx) (h : Bool) (l : BitVec 23) : LAfw :=
  { p := p, h := h, d := l.extractLsb' 16 7, a := l.extractLsb' 9 7, fn := l.extractLsb' 2 4, w := l.extractLsb' 0 2 }
def LAf.toLow (u : LAf) (g0 : BitVec 3) (g1 : BitVec 2) : BitVec 23 := u.d ++ u.a ++ g0 ++ u.fn ++ g1
def LAf.ofLow (p : Option Pfx) (h : Bool) (l : BitVec 23) : LAf :=
  { p := p, h := h, d := l.extractLsb' 16 7, a := l.extractLsb' 9 7, fn := l.extractLsb' 2 4 }
def LUtfw.toLow (u : LUtfw) : BitVec 23 := u.d ++ u.a ++ u.t ++ u.fn ++ u.w
def LUtfw.ofLow (p : Option Pfx) (h : Bool) (l : BitVec 23) : LUtfw :=
  { p := p, h := h, d := l.extractLsb' 16 7, a := l.extractLsb' 9 7, t := l.extractLsb' 6 3, fn := l.extractLsb' 2 4, w := l.extractLsb' 0 2 }
def LAw.toLow (u : LAw) (g0 : BitVec 7) : BitVec 23 := u.d ++ u.a ++ g0 ++ u.w
def LAw.ofLow (p : Option Pfx) (h : Bool) (l : BitVec 23) : LAw :=
  { p := p, h := h, d := l.extractLsb' 16 7, a := l.extractLsb' 9 7, w := l.extractLsb' 0 2 }
def LA0.toLow (u : LA0) (g0 : BitVec 9) : BitVec 23 := u.d ++ u.a ++ g0
def LA0.ofLow (p : Option Pfx) (h : Bool) (l : BitVec 23) : LA0 :=
  { p := p, h := h, d := l.extractLsb' 16 7, a := l.extractLsb' 9 7 }
def LImm.toLow (u : LImm) : BitVec 23 := u.d ++ u.a ++ u.imm9
def LImm.ofLow (p : Option Pfx) (x : Option Ximm) (h : Bool) (l : BitVec 23) : LImm :=
  { p := p, x := x, h := h, d := l.extractLsb' 16 7, a := l.extractLsb' 9 7, imm9 := l.extractLsb' 0 9 }
def LSh.toLow (u : LSh) (g0 : BitVec 4) : BitVec 23 := u.d ++ u.a ++ g0 ++ u.count
def LSh.ofLow (p : Option Pfx) (h : Bool) (l : BitVec 23) : LSh :=
  { p := p, h := h, d := l.extractLsb' 16 7, a := l.extractLsb' 9 7, count := l.extractLsb' 0 5 }
def LCmpI.toLow (u : LCmpI) : BitVec 23 := u.cond ++ u.k ++ u.a ++ u.imm9
def LCmpI.ofLow (p : Option Pfx) (x : Option Ximm) (h : Bool) (l : BitVec 23) : LCmpI :=
  { p := p, x := x, h := h, cond := l.extractLsb' 19 4, k := l.extractLsb' 16 3, a := l.extractLsb' 9 7, imm9 := l.extractLsb' 0 9 }
def LMovi.toLow (u : LMovi) (g0 : BitVec 7) : BitVec 23 := u.d ++ g0 ++ u.imm9
def LMovi.ofLow (p : Option Pfx) (x : Option Ximm) (h : Bool) (l : BitVec 23) : LMovi :=
  { p := p, x := x, h := h, d := l.extractLsb' 16 7, imm9 := l.extractLsb' 0 9 }
def LJmp.toLow (u : LJmp) (g0 : BitVec 7) (g1 : BitVec 9) : BitVec 23 := g0 ++ u.a ++ g1
def LJmp.ofLow (p : Option Pfx) (h : Bool) (l : BitVec 23) : LJmp :=
  { p := p, h := h, a := l.extractLsb' 9 7 }
def LMem.toLow (u : LMem) : BitVec 23 := u.d ++ u.a ++ u.q ++ u.off4 ++ u.w
def LMem.ofLow (p : Option Pfx) (h : Bool) (l : BitVec 23) : LMem :=
  { p := p, h := h, d := l.extractLsb' 16 7, a := l.extractLsb' 9 7, q := l.extractLsb' 6 3, off4 := l.extractLsb' 2 4, w := l.extractLsb' 0 2 }
def LFe.toLow (u : LFe) (g0 : BitVec 7) (g1 : BitVec 3) (g2 : BitVec 2) : BitVec 23 := g0 ++ u.a ++ g1 ++ u.off4 ++ g2
def LFe.ofLow (p : Option Pfx) (h : Bool) (l : BitVec 23) : LFe :=
  { p := p, h := h, a := l.extractLsb' 9 7, off4 := l.extractLsb' 2 4 }
def LMem0.toLow (u : LMem0) (g0 : BitVec 3) : BitVec 23 := u.d ++ u.a ++ g0 ++ u.off4 ++ u.w
def LMem0.ofLow (p : Option Pfx) (h : Bool) (l : BitVec 23) : LMem0 :=
  { p := p, h := h, d := l.extractLsb' 16 7, a := l.extractLsb' 9 7, off4 := l.extractLsb' 2 4, w := l.extractLsb' 0 2 }
def LMma.toLow (u : LMma) (g0 : BitVec 3) : BitVec 23 := u.d ++ u.a ++ u.t ++ u.tile ++ u.plane ++ g0
def LMma.ofLow (p : Option Pfx) (h : Bool) (l : BitVec 23) : LMma :=
  { p := p, h := h, d := l.extractLsb' 16 7, a := l.extractLsb' 9 7, t := l.extractLsb' 6 3, tile := l.extractLsb' 4 2, plane := l.extractLsb' 3 1 }
def LMread.toLow (u : LMread) (g0 : BitVec 4) : BitVec 23 := u.d ++ u.a ++ u.t ++ u.tile ++ g0
def LMread.ofLow (p : Option Pfx) (h : Bool) (l : BitVec 23) : LMread :=
  { p := p, h := h, d := l.extractLsb' 16 7, a := l.extractLsb' 9 7, t := l.extractLsb' 6 3, tile := l.extractLsb' 4 2 }
def LGather.toLow (u : LGather) (g0 : BitVec 5) (g1 : BitVec 2) : BitVec 23 := u.d ++ u.a ++ g0 ++ u.proofed ++ u.v ++ g1
def LGather.ofLow (p : Option Pfx) (h : Bool) (l : BitVec 23) : LGather :=
  { p := p, h := h, d := l.extractLsb' 16 7, a := l.extractLsb' 9 7, proofed := l.extractLsb' 3 1, v := l.extractLsb' 2 1 }
def LAccept.toLow (u : LAccept) (g0 : BitVec 4) : BitVec 23 := g0 ++ u.k ++ u.a ++ u.b ++ u.w
def LAccept.ofLow (p : Option Pfx) (h : Bool) (l : BitVec 23) : LAccept :=
  { p := p, h := h, k := l.extractLsb' 16 3, a := l.extractLsb' 9 7, b := l.extractLsb' 2 7, w := l.extractLsb' 0 2 }
def LDx.toLow (u : LDx) (g0 : BitVec 2) (g1 : BitVec 2) : BitVec 23 := u.d ++ u.a ++ u.t ++ g0 ++ u.slot ++ g1
def LDx.ofLow (p : Option Pfx) (h : Bool) (l : BitVec 23) : LDx :=
  { p := p, h := h, d := l.extractLsb' 16 7, a := l.extractLsb' 9 7, t := l.extractLsb' 6 3, slot := l.extractLsb' 2 2 }
def GR3.toLow (u : GR3) (g0 : BitVec 8) : BitVec 23 := u.d ++ u.a ++ u.b ++ g0
def GR3.ofLow (h : Bool) (l : BitVec 23) : GR3 :=
  { h := h, d := l.extractLsb' 18 5, a := l.extractLsb' 13 5, b := l.extractLsb' 8 5 }
def GR2.toLow (u : GR2) (g0 : BitVec 13) : BitVec 23 := u.d ++ u.a ++ g0
def GR2.ofLow (h : Bool) (l : BitVec 23) : GR2 :=
  { h := h, d := l.extractLsb' 18 5, a := l.extractLsb' 13 5 }
def GCmp.toLow (u : GCmp) (g0 : BitVec 5) : BitVec 23 := u.d ++ u.a ++ u.b ++ g0 ++ u.cond
def GCmp.ofLow (h : Bool) (l : BitVec 23) : GCmp :=
  { h := h, d := l.extractLsb' 18 5, a := l.extractLsb' 13 5, b := l.extractLsb' 8 5, cond := l.extractLsb' 0 3 }
def GImm.toLow (u : GImm) : BitVec 23 := u.d ++ u.a ++ u.imm13
def GImm.ofLow (h : Bool) (l : BitVec 23) : GImm :=
  { h := h, d := l.extractLsb' 18 5, a := l.extractLsb' 13 5, imm13 := l.extractLsb' 0 13 }
def GSh.toLow (u : GSh) (g0 : BitVec 8) : BitVec 23 := u.d ++ u.a ++ g0 ++ u.count
def GSh.ofLow (h : Bool) (l : BitVec 23) : GSh :=
  { h := h, d := l.extractLsb' 18 5, a := l.extractLsb' 13 5, count := l.extractLsb' 0 5 }
def GMovi.toLow (u : GMovi) (g0 : BitVec 5) : BitVec 23 := u.d ++ g0 ++ u.imm13
def GMovi.ofLow (h : Bool) (l : BitVec 23) : GMovi :=
  { h := h, d := l.extractLsb' 18 5, imm13 := l.extractLsb' 0 13 }
def GRd.toLow (u : GRd) (g0 : BitVec 10) : BitVec 23 := u.d ++ g0 ++ u.idx
def GRd.ofLow (h : Bool) (l : BitVec 23) : GRd :=
  { h := h, d := l.extractLsb' 18 5, idx := l.extractLsb' 0 8 }
def GWr.toLow (u : GWr) (g0 : BitVec 5) (g1 : BitVec 5) : BitVec 23 := g0 ++ u.a ++ g1 ++ u.idx
def GWr.ofLow (h : Bool) (l : BitVec 23) : GWr :=
  { h := h, a := l.extractLsb' 13 5, idx := l.extractLsb' 0 8 }
def GShape.toLow (u : GShape) (g0 : BitVec 5) (g1 : BitVec 9) : BitVec 23 := g0 ++ u.a ++ g1 ++ u.entry
def GShape.ofLow (h : Bool) (l : BitVec 23) : GShape :=
  { h := h, a := l.extractLsb' 13 5, entry := l.extractLsb' 0 4 }
def GXpld.toLow (u : GXpld) (g0 : BitVec 5) (g1 : BitVec 10) : BitVec 23 := g0 ++ u.a ++ g1 ++ u.table
def GXpld.ofLow (h : Bool) (l : BitVec 23) : GXpld :=
  { h := h, a := l.extractLsb' 13 5, table := l.extractLsb' 0 3 }
def GB.toLow (u : GB) : BitVec 23 := u.off23
def GB.ofLow (h : Bool) (l : BitVec 23) : GB :=
  { h := h, off23 := l.extractLsb' 0 23 }
def GBru.toLow (u : GBru) : BitVec 23 := u.a ++ u.cond ++ u.off15
def GBru.ofLow (h : Bool) (l : BitVec 23) : GBru :=
  { h := h, a := l.extractLsb' 18 5, cond := l.extractLsb' 15 3, off15 := l.extractLsb' 0 15 }
def GBrt.toLow (u : GBrt) (g0 : BitVec 4) : BitVec 23 := g0 ++ u.pol ++ u.k ++ u.off15
def GBrt.ofLow (h : Bool) (l : BitVec 23) : GBrt :=
  { h := h, pol := l.extractLsb' 18 1, k := l.extractLsb' 15 3, off15 := l.extractLsb' 0 15 }
def GCallq.toLow (u : GCallq) (g0 : BitVec 5) : BitVec 23 := g0 ++ u.a ++ u.entry ++ u.quire
def GCallq.ofLow (h : Bool) (l : BitVec 23) : GCallq :=
  { h := h, a := l.extractLsb' 13 5, entry := l.extractLsb' 8 5, quire := l.extractLsb' 0 8 }
def G0.toLow (_ : G0) (g0 : BitVec 23) : BitVec 23 := g0
def G0.ofLow (h : Bool) (_ : BitVec 23) : G0 :=
  { h := h }
def GTrap.toLow (u : GTrap) (g0 : BitVec 10) : BitVec 23 := g0 ++ u.imm13
def GTrap.ofLow (h : Bool) (l : BitVec 23) : GTrap :=
  { h := h, imm13 := l.extractLsb' 0 13 }
def GA.toLow (u : GA) (g0 : BitVec 5) (g1 : BitVec 13) : BitVec 23 := g0 ++ u.a ++ g1
def GA.ofLow (h : Bool) (l : BitVec 23) : GA :=
  { h := h, a := l.extractLsb' 13 5 }
def GD.toLow (u : GD) (g0 : BitVec 18) : BitVec 23 := u.d ++ g0
def GD.ofLow (h : Bool) (l : BitVec 23) : GD :=
  { h := h, d := l.extractLsb' 18 5 }
def GQuire.toLow (u : GQuire) (g0 : BitVec 5) : BitVec 23 := u.d ++ u.a ++ g0 ++ u.quire
def GQuire.ofLow (h : Bool) (l : BitVec 23) : GQuire :=
  { h := h, d := l.extractLsb' 18 5, a := l.extractLsb' 13 5, quire := l.extractLsb' 0 8 }
def GAB.toLow (u : GAB) (g0 : BitVec 5) (g1 : BitVec 8) : BitVec 23 := g0 ++ u.a ++ u.b ++ g1
def GAB.ofLow (h : Bool) (l : BitVec 23) : GAB :=
  { h := h, a := l.extractLsb' 13 5, b := l.extractLsb' 8 5 }
def GFence.toLow (u : GFence) (g0 : BitVec 18) : BitVec 23 := g0 ++ u.kind ++ u.scope
def GFence.ofLow (h : Bool) (l : BitVec 23) : GFence :=
  { h := h, kind := l.extractLsb' 3 2, scope := l.extractLsb' 0 3 }
def GMzero.toLow (u : GMzero) (g0 : BitVec 20) : BitVec 23 := g0 ++ u.mode ++ u.tile
def GMzero.ofLow (h : Bool) (l : BitVec 23) : GMzero :=
  { h := h, mode := l.extractLsb' 2 1, tile := l.extractLsb' 0 2 }
def GMlatb.toLow (u : GMlatb) (g0 : BitVec 5) (g1 : BitVec 4) : BitVec 23 := g0 ++ u.a ++ u.b ++ g1 ++ u.fmt ++ u.plane
def GMlatb.ofLow (h : Bool) (l : BitVec 23) : GMlatb :=
  { h := h, a := l.extractLsb' 13 5, b := l.extractLsb' 8 5, fmt := l.extractLsb' 1 3, plane := l.extractLsb' 0 1 }
def GMstore.toLow (u : GMstore) (g0 : BitVec 5) (g1 : BitVec 3) : BitVec 23 := g0 ++ u.a ++ u.b ++ g1 ++ u.ty ++ u.tile
def GMstore.ofLow (h : Bool) (l : BitVec 23) : GMstore :=
  { h := h, a := l.extractLsb' 13 5, b := l.extractLsb' 8 5, ty := l.extractLsb' 2 3, tile := l.extractLsb' 0 2 }
def GMstat.toLow (u : GMstat) (g0 : BitVec 16) : BitVec 23 := u.d ++ g0 ++ u.tile
def GMstat.ofLow (h : Bool) (l : BitVec 23) : GMstat :=
  { h := h, d := l.extractLsb' 18 5, tile := l.extractLsb' 0 2 }
def GPd.toLow (u : GPd) (g0 : BitVec 5) (g1 : BitVec 11) : BitVec 23 := g0 ++ u.a ++ g1 ++ u.slot
def GPd.ofLow (h : Bool) (l : BitVec 23) : GPd :=
  { h := h, a := l.extractLsb' 13 5, slot := l.extractLsb' 0 2 }
def GPi.toLow (u : GPi) (g0 : BitVec 16) : BitVec 23 := u.d ++ g0 ++ u.slot
def GPi.ofLow (h : Bool) (l : BitVec 23) : GPi :=
  { h := h, d := l.extractLsb' 18 5, slot := l.extractLsb' 0 2 }

/-- A decoded instruction when the word has no bit that its row does not allow. -/
def keep (ok : Bool) (i : Instr) : Option Instr := if ok then some i else none

/-- The principal word of the L-set by its major (R89). -/
def decodeL (p : Option Pfx) (x : Option Ximm) (h : Bool) (major : Nat) (l : BitVec 23) : Option Instr :=
  match major with
  | 0x1 => some (.iaddI (LRw.ofLow p h l))
  | 0x2 => some (.iaddN (LRw.ofLow p h l))
  | 0x3 => some (.isubI (LRw.ofLow p h l))
  | 0x4 => some (.isubN (LRw.ofLow p h l))
  | 0x5 => some (.imulI (LRw.ofLow p h l))
  | 0x6 => some (.imulN (LRw.ofLow p h l))
  | 0x7 => some (.imulhI (LRw.ofLow p h l))
  | 0x8 => some (.imulhN (LRw.ofLow p h l))
  | 0x9 => keep ((LR0.ofLow p h l).toLow 0 == l) (.imulwI (LR0.ofLow p h l))
  | 0xa => keep ((LR0.ofLow p h l).toLow 0 == l) (.imulwN (LR0.ofLow p h l))
  | 0xb => some (.imadI (LRw.ofLow p h l))
  | 0xc => some (.imadN (LRw.ofLow p h l))
  | 0xd => some (.iminI (LRw.ofLow p h l))
  | 0xe => some (.iminN (LRw.ofLow p h l))
  | 0xf => some (.imaxI (LRw.ofLow p h l))
  | 0x10 => some (.imaxN (LRw.ofLow p h l))
  | 0x11 => some (.isadI (LRw.ofLow p h l))
  | 0x12 => some (.isadN (LRw.ofLow p h l))
  | 0x13 => some (.icmpI (LCmpW.ofLow p h l))
  | 0x14 => some (.icmpN (LCmpW.ofLow p h l))
  | 0x15 => keep ((LR0.ofLow p h l).toLow 0 == l) (.iaddI16x2 (LR0.ofLow p h l))
  | 0x16 => keep ((LR0.ofLow p h l).toLow 0 == l) (.iaddN16x2 (LR0.ofLow p h l))
  | 0x17 => keep ((LR0.ofLow p h l).toLow 0 == l) (.isubI16x2 (LR0.ofLow p h l))
  | 0x18 => keep ((LR0.ofLow p h l).toLow 0 == l) (.isubN16x2 (LR0.ofLow p h l))
  | 0x19 => keep ((LR0.ofLow p h l).toLow 0 == l) (.iminI16x2 (LR0.ofLow p h l))
  | 0x1a => keep ((LR0.ofLow p h l).toLow 0 == l) (.iminN16x2 (LR0.ofLow p h l))
  | 0x1b => keep ((LR0.ofLow p h l).toLow 0 == l) (.imaxI16x2 (LR0.ofLow p h l))
  | 0x1c => keep ((LR0.ofLow p h l).toLow 0 == l) (.imaxN16x2 (LR0.ofLow p h l))
  | 0x1d => keep ((LCmp0.ofLow p h l).toLow 0 == l) (.icmpI16x2 (LCmp0.ofLow p h l))
  | 0x1e => keep ((LCmp0.ofLow p h l).toLow 0 == l) (.icmpN16x2 (LCmp0.ofLow p h l))
  | 0x1f => some (.and (LRw.ofLow p h l))
  | 0x20 => some (.or (LRw.ofLow p h l))
  | 0x21 => some (.xor (LRw.ofLow p h l))
  | 0x22 => some (.andn (LRw.ofLow p h l))
  | 0x23 => some (.shl (LRw.ofLow p h l))
  | 0x24 => some (.shr (LRw.ofLow p h l))
  | 0x25 => some (.sar (LRw.ofLow p h l))
  | 0x26 => some (.rotl (LRw.ofLow p h l))
  | 0x27 => some (.bfxI (LRw.ofLow p h l))
  | 0x28 => some (.bfxN (LRw.ofLow p h l))
  | 0x29 => some (.bfi (LRw.ofLow p h l))
  | 0x2a => some (.sel (LRw.ofLow p h l))
  | 0x2b => some (.fadd (LRw.ofLow p h l))
  | 0x2c => some (.fsub (LRw.ofLow p h l))
  | 0x2d => some (.fmul (LRw.ofLow p h l))
  | 0x2e => some (.ffma (LRw.ofLow p h l))
  | 0x2f => some (.fmin (LRw.ofLow p h l))
  | 0x30 => some (.fmax (LRw.ofLow p h l))
  | 0x31 => some (.fdiv (LRw.ofLow p h l))
  | 0x32 => some (.fcmp (LCmpW.ofLow p h l))
  | 0x33 => some (.fscale (LRw.ofLow p h l))
  | 0x34 => keep ((LR0.ofLow p h l).toLow 0 == l) (.faddBf16x2 (LR0.ofLow p h l))
  | 0x35 => keep ((LR0.ofLow p h l).toLow 0 == l) (.fsubBf16x2 (LR0.ofLow p h l))
  | 0x36 => keep ((LR0.ofLow p h l).toLow 0 == l) (.fmulBf16x2 (LR0.ofLow p h l))
  | 0x37 => keep ((LR0.ofLow p h l).toLow 0 == l) (.ffmaBf16x2 (LR0.ofLow p h l))
  | 0x38 => keep ((LR0.ofLow p h l).toLow 0 == l) (.fminBf16x2 (LR0.ofLow p h l))
  | 0x39 => keep ((LR0.ofLow p h l).toLow 0 == l) (.fmaxBf16x2 (LR0.ofLow p h l))
  | 0x3a => keep ((LCmp0.ofLow p h l).toLow 0 == l) (.fcmpBf16x2 (LCmp0.ofLow p h l))
  | 0x3b => keep ((LR0.ofLow p h l).toLow 0 == l) (.faddFp16x2 (LR0.ofLow p h l))
  | 0x3c => keep ((LR0.ofLow p h l).toLow 0 == l) (.fsubFp16x2 (LR0.ofLow p h l))
  | 0x3d => keep ((LR0.ofLow p h l).toLow 0 == l) (.fmulFp16x2 (LR0.ofLow p h l))
  | 0x3e => keep ((LR0.ofLow p h l).toLow 0 == l) (.ffmaFp16x2 (LR0.ofLow p h l))
  | 0x3f => keep ((LR0.ofLow p h l).toLow 0 == l) (.fminFp16x2 (LR0.ofLow p h l))
  | 0x40 => keep ((LR0.ofLow p h l).toLow 0 == l) (.fmaxFp16x2 (LR0.ofLow p h l))
  | 0x41 => keep ((LCmp0.ofLow p h l).toLow 0 == l) (.fcmpFp16x2 (LCmp0.ofLow p h l))
  | 0x42 =>
    match (l.extractLsb' 2 4).toNat with
    | 0 => keep ((LUw.ofLow p h l).toLow 0 == l) (.iabs (LUw.ofLow p h l))
    | 1 => keep ((LUw.ofLow p h l).toLow 1 == l) (.ineg (LUw.ofLow p h l))
    | 2 => keep ((LUw.ofLow p h l).toLow 2 == l) (.clz (LUw.ofLow p h l))
    | 3 => keep ((LUw.ofLow p h l).toLow 3 == l) (.popc (LUw.ofLow p h l))
    | 4 => keep ((LUw.ofLow p h l).toLow 4 == l) (.brev (LUw.ofLow p h l))
    | _ => none
  | 0x43 =>
    match (l.extractLsb' 2 4).toNat with
    | 0 => keep ((LUw.ofLow p h l).toLow 0 == l) (.fclass (LUw.ofLow p h l))
    | 1 => keep ((LUw.ofLow p h l).toLow 1 == l) (.frnd (LUw.ofLow p h l))
    | 2 => keep ((LUw.ofLow p h l).toLow 2 == l) (.fract (LUw.ofLow p h l))
    | _ => none
  | 0x44 =>
    match (l.extractLsb' 2 4).toNat with
    | 0 => keep ((LUw.ofLow p h l).toLow 0 == l) (.exp2 (LUw.ofLow p h l))
    | 1 => keep ((LUw.ofLow p h l).toLow 1 == l) (.log2 (LUw.ofLow p h l))
    | 2 => keep ((LUw.ofLow p h l).toLow 2 == l) (.rcp (LUw.ofLow p h l))
    | 3 => keep ((LUw.ofLow p h l).toLow 3 == l) (.rsq (LUw.ofLow p h l))
    | 4 => keep ((LUw.ofLow p h l).toLow 4 == l) (.sqrt (LUw.ofLow p h l))
    | 5 => keep ((LUw.ofLow p h l).toLow 5 == l) (.sin (LUw.ofLow p h l))
    | 6 => keep ((LUw.ofLow p h l).toLow 6 == l) (.cos (LUw.ofLow p h l))
    | 7 => keep ((LUw.ofLow p h l).toLow 7 == l) (.tanh (LUw.ofLow p h l))
    | _ => none
  | 0x45 => keep ((LUf.ofLow p h l).toLow 0 == l) (.cvtFloatSource (LUf.ofLow p h l))
  | 0x46 => keep ((LUf.ofLow p h l).toLow 0 == l) (.cvtIntegerSource (LUf.ofLow p h l))
  | 0x47 => keep ((LUf.ofLow p h l).toLow 0 == l) (.cvts (LUf.ofLow p h l))
  | 0x48 => keep ((LUf.ofLow p h l).toLow 0 == l) (.blkenc (LUf.ofLow p h l))
  | 0x49 => keep ((LUf.ofLow p h l).toLow 0 == l) (.blkdec (LUf.ofLow p h l))
  | 0x4a => keep ((LDf.ofLow p h l).toLow 0 0 == l) (.rand (LDf.ofLow p h l))
  | 0x4b => keep ((LUf.ofLow p h l).toLow 0 == l) (.tidx (LUf.ofLow p h l))
  | 0x4c => some (.shfl (LRw.ofLow p h l))
  | 0x4d =>
    match (l.extractLsb' 6 3).toNat with
    | 0 => keep ((LShf.ofLow p h l).toLow 0 == l) (.shflUp (LShf.ofLow p h l))
    | 1 => keep ((LShf.ofLow p h l).toLow 1 == l) (.shflDn (LShf.ofLow p h l))
    | 2 => keep ((LShf.ofLow p h l).toLow 2 == l) (.shflXor (LShf.ofLow p h l))
    | _ => none
  | 0x4e => keep ((LAfw.ofLow p h l).toLow 0 == l) (.xperm (LAfw.ofLow p h l))
  | 0x4f => keep ((LAf.ofLow p h l).toLow 0 0 == l) (.vote (LAf.ofLow p h l))
  | 0x50 => some (.reduce (LUtfw.ofLow p h l))
  | 0x51 => some (.scan (LUtfw.ofLow p h l))
  | 0x52 => keep ((LUw.ofLow p h l).toLow 0 == l) (.matchLanes (LUw.ofLow p h l))
  | 0x53 => keep ((LDf.ofLow p h l).toLow 0 0 == l) (.elect (LDf.ofLow p h l))
  | 0x54 => some (.rdlane (LRw.ofLow p h l))
  | 0x55 => keep ((LAw.ofLow p h l).toLow 0 == l) (.mov (LAw.ofLow p h l))
  | 0x56 => keep ((LAf.ofLow p h l).toLow 0 0 == l) (.kmov (LAf.ofLow p h l))
  | 0x57 => keep ((LA0.ofLow p h l).toLow 0 == l) (.kpop (LA0.ofLow p h l))
  | 0x58 => some (.iaddImm (LImm.ofLow p x h l))
  | 0x59 => some (.andImm (LImm.ofLow p x h l))
  | 0x5a => some (.orImm (LImm.ofLow p x h l))
  | 0x5b => some (.xorImm (LImm.ofLow p x h l))
  | 0x5c => keep ((LSh.ofLow p h l).toLow 0 == l) (.shlImm (LSh.ofLow p h l))
  | 0x5d => keep ((LSh.ofLow p h l).toLow 0 == l) (.shrImm (LSh.ofLow p h l))
  | 0x5e => keep ((LSh.ofLow p h l).toLow 0 == l) (.sarImm (LSh.ofLow p h l))
  | 0x5f => keep ((LSh.ofLow p h l).toLow 0 == l) (.rotlImm (LSh.ofLow p h l))
  | 0x60 => some (.icmpIImm (LCmpI.ofLow p x h l))
  | 0x61 => some (.icmpNImm (LCmpI.ofLow p x h l))
  | 0x62 => keep ((LMovi.ofLow p x h l).toLow 0 == l) (.movi (LMovi.ofLow p x h l))
  | 0x63 => keep ((LJmp.ofLow p h l).toLow 0 0 == l) (.jmpi (LJmp.ofLow p h l))
  | 0x64 => keep ((LJmp.ofLow p h l).toLow 0 0 == l) (.calli (LJmp.ofLow p h l))
  | 0x65 => some (.ldg (LMem.ofLow p h l))
  | 0x66 => some (.stg (LMem.ofLow p h l))
  | 0x67 => some (.lds (LMem.ofLow p h l))
  | 0x68 => some (.sts (LMem.ofLow p h l))
  | 0x69 => some (.ldv (LMem.ofLow p h l))
  | 0x6a => some (.stv (LMem.ofLow p h l))
  | 0x6b => keep ((LFe.ofLow p h l).toLow 0 0 0 == l) (.feset (LFe.ofLow p h l))
  | 0x6c => keep ((LFe.ofLow p h l).toLow 0 0 0 == l) (.feclr (LFe.ofLow p h l))
  | 0x6d => some (.atom (LMem.ofLow p h l))
  | 0x6e => keep ((LMem0.ofLow p h l).toLow 2 == l) (.atoms (LMem0.ofLow p h l))
  | 0x6f => some (.red (LMem.ofLow p h l))
  | 0x70 => keep ((LMma.ofLow p h l).toLow 0 == l) (.mma (LMma.ofLow p h l))
  | 0x71 => keep ((LMread.ofLow p h l).toLow 0 == l) (.mread (LMread.ofLow p h l))
  | 0x72 => keep ((LGather.ofLow p h l).toLow 0 0 == l) (.kvgather (LGather.ofLow p h l))
  | 0x73 => some (.rotq (LRw.ofLow p h l))
  | 0x74 => keep ((LAccept.ofLow p h l).toLow 0 == l) (.accept (LAccept.ofLow p h l))
  | 0x75 => some (.dxt (LRw.ofLow p h l))
  | 0x76 => some (.dxcmp (LCmpW.ofLow p h l))
  | 0x77 => keep ((LDx.ofLow p h l).toLow 0 0 == l) (.dxval (LDx.ofLow p h l))
  | 0x78 => keep ((LDx.ofLow p h l).toLow 0 0 == l) (.dxenc (LDx.ofLow p h l))
  | _ => none

/-- The principal word of the G-set by its major (R90). -/
def decodeG (h : Bool) (major : Nat) (l : BitVec 23) : Option Instr :=
  match major with
  | 0x1 =>
    match (l.extractLsb' 0 8).toNat with
    | 0 => keep ((GR3.ofLow h l).toLow 0 == l) (.uadd (GR3.ofLow h l))
    | 1 => keep ((GR3.ofLow h l).toLow 1 == l) (.usub (GR3.ofLow h l))
    | 2 => keep ((GR3.ofLow h l).toLow 2 == l) (.umul (GR3.ofLow h l))
    | 3 => keep ((GR3.ofLow h l).toLow 3 == l) (.umulhI (GR3.ofLow h l))
    | 4 => keep ((GR3.ofLow h l).toLow 4 == l) (.umulhN (GR3.ofLow h l))
    | 5 => keep ((GR3.ofLow h l).toLow 5 == l) (.uand (GR3.ofLow h l))
    | 6 => keep ((GR3.ofLow h l).toLow 6 == l) (.uor (GR3.ofLow h l))
    | 7 => keep ((GR3.ofLow h l).toLow 7 == l) (.uxor (GR3.ofLow h l))
    | 8 => keep ((GR3.ofLow h l).toLow 8 == l) (.ushl (GR3.ofLow h l))
    | 9 => keep ((GR3.ofLow h l).toLow 9 == l) (.ushr (GR3.ofLow h l))
    | 10 => keep ((GR3.ofLow h l).toLow 10 == l) (.usar (GR3.ofLow h l))
    | 11 => keep ((GR3.ofLow h l).toLow 11 == l) (.uminI (GR3.ofLow h l))
    | 12 => keep ((GR3.ofLow h l).toLow 12 == l) (.uminN (GR3.ofLow h l))
    | 13 => keep ((GR3.ofLow h l).toLow 13 == l) (.umaxI (GR3.ofLow h l))
    | 14 => keep ((GR3.ofLow h l).toLow 14 == l) (.umaxN (GR3.ofLow h l))
    | 15 => keep ((GR2.ofLow h l).toLow 15 == l) (.umov (GR2.ofLow h l))
    | 16 => keep ((GR3.ofLow h l).toLow 16 == l) (.usel (GR3.ofLow h l))
    | 32 | 33 | 34 | 35 | 36 | 37 | 38 | 39 => keep ((GCmp.ofLow h l).toLow 4 == l) (.ucmpI (GCmp.ofLow h l))
    | 40 | 41 | 42 | 43 | 44 | 45 | 46 | 47 => keep ((GCmp.ofLow h l).toLow 5 == l) (.ucmpN (GCmp.ofLow h l))
    | _ => none
  | 0x2 => some (.uaddImm (GImm.ofLow h l))
  | 0x3 => some (.uandImm (GImm.ofLow h l))
  | 0x4 => some (.uorImm (GImm.ofLow h l))
  | 0x5 => some (.uxorImm (GImm.ofLow h l))
  | 0x6 => keep ((GSh.ofLow h l).toLow 0 == l) (.ushlImm (GSh.ofLow h l))
  | 0x7 => keep ((GSh.ofLow h l).toLow 0 == l) (.ushrImm (GSh.ofLow h l))
  | 0x8 => keep ((GSh.ofLow h l).toLow 0 == l) (.usarImm (GSh.ofLow h l))
  | 0x9 => keep ((GMovi.ofLow h l).toLow 0 == l) (.umovi (GMovi.ofLow h l))
  | 0xa => some (.uldc (GImm.ofLow h l))
  | 0xb => keep ((GRd.ofLow h l).toLow 0 == l) (.rdsys (GRd.ofLow h l))
  | 0xc => keep ((GWr.ofLow h l).toLow 0 0 == l) (.wrsys (GWr.ofLow h l))
  | 0xd => keep ((GShape.ofLow h l).toLow 0 0 == l) (.tshape (GShape.ofLow h l))
  | 0xe => keep ((GXpld.ofLow h l).toLow 0 0 == l) (.xpld (GXpld.ofLow h l))
  | 0x10 => some (.bra (GB.ofLow h l))
  | 0x11 => some (.bru (GBru.ofLow h l))
  | 0x12 => keep ((GBrt.ofLow h l).toLow 0 == l) (.brt (GBrt.ofLow h l))
  | 0x13 => some (.call (GB.ofLow h l))
  | 0x14 => keep ((GCallq.ofLow h l).toLow 0 == l) (.callq (GCallq.ofLow h l))
  | 0x15 => keep ((G0.ofLow h l).toLow 0 == l) (.ret (G0.ofLow h l))
  | 0x16 => keep ((G0.ofLow h l).toLow 0 == l) (.exit (G0.ofLow h l))
  | 0x17 => keep ((G0.ofLow h l).toLow 0 == l) (.nop (G0.ofLow h l))
  | 0x18 => keep ((GTrap.ofLow h l).toLow 0 == l) (.trap (GTrap.ofLow h l))
  | 0x19 => keep ((G0.ofLow h l).toLow 0 == l) (.trapret (G0.ofLow h l))
  | 0x1a => keep ((GTrap.ofLow h l).toLow 0 == l) (.bkpt (GTrap.ofLow h l))
  | 0x1b => keep ((G0.ofLow h l).toLow 0 == l) (.yield (G0.ofLow h l))
  | 0x1c => keep ((GA.ofLow h l).toLow 0 0 == l) (.sleepto (GA.ofLow h l))
  | 0x1d => keep ((GD.ofLow h l).toLow 0 == l) (.rdtime (GD.ofLow h l))
  | 0x1e => keep ((GQuire.ofLow h l).toLow 0 == l) (.qload (GQuire.ofLow h l))
  | 0x1f => keep ((GQuire.ofLow h l).toLow 0 == l) (.qpin (GQuire.ofLow h l))
  | 0x20 => keep ((GQuire.ofLow h l).toLow 0 == l) (.qunpin (GQuire.ofLow h l))
  | 0x21 => keep ((GQuire.ofLow h l).toLow 0 == l) (.qstat (GQuire.ofLow h l))
  | 0x22 => keep ((GR3.ofLow h l).toLow 0 == l) (.launch (GR3.ofLow h l))
  | 0x23 => keep ((GAB.ofLow h l).toLow 0 0 == l) (.fetchw (GAB.ofLow h l))
  | 0x24 => keep ((GR2.ofLow h l).toLow 0 == l) (.hash (GR2.ofLow h l))
  | 0x25 => keep ((GR2.ofLow h l).toLow 0 == l) (.sign (GR2.ofLow h l))
  | 0x26 => keep ((GR2.ofLow h l).toLow 0 == l) (.mext (GR2.ofLow h l))
  | 0x27 => keep ((GR2.ofLow h l).toLow 0 == l) (.mrd (GR2.ofLow h l))
  | 0x30 => keep ((GFence.ofLow h l).toLow 0 == l) (.fence (GFence.ofLow h l))
  | 0x31 => keep ((GR3.ofLow h l).toLow 0 == l) (.tierpf (GR3.ofLow h l))
  | 0x32 => keep ((GR3.ofLow h l).toLow 0 == l) (.barinit (GR3.ofLow h l))
  | 0x33 => keep ((GR3.ofLow h l).toLow 0 == l) (.arrive (GR3.ofLow h l))
  | 0x34 => keep ((GAB.ofLow h l).toLow 0 0 == l) (.waitph (GAB.ofLow h l))
  | 0x35 => keep ((GR2.ofLow h l).toLow 0 == l) (.testph (GR2.ofLow h l))
  | 0x36 => keep ((GR3.ofLow h l).toLow 0 == l) (.cminit (GR3.ofLow h l))
  | 0x37 => keep ((GAB.ofLow h l).toLow 0 0 == l) (.cmwait (GAB.ofLow h l))
  | 0x38 => keep ((GR3.ofLow h l).toLow 0 == l) (.cmtest (GR3.ofLow h l))
  | 0x39 => keep ((GA.ofLow h l).toLow 0 0 == l) (.strm (GA.ofLow h l))
  | 0x3a => keep ((GAB.ofLow h l).toLow 0 0 == l) (.strmq (GAB.ofLow h l))
  | 0x40 => keep ((GMzero.ofLow h l).toLow 0 == l) (.mzero (GMzero.ofLow h l))
  | 0x41 => keep ((GMlatb.ofLow h l).toLow 0 0 == l) (.mlatb (GMlatb.ofLow h l))
  | 0x42 => keep ((GMstore.ofLow h l).toLow 0 0 == l) (.mstore (GMstore.ofLow h l))
  | 0x43 => keep ((GMstat.ofLow h l).toLow 0 == l) (.mstat (GMstat.ofLow h l))
  | 0x48 => keep ((GR2.ofLow h l).toLow 0 == l) (.gseal (GR2.ofLow h l))
  | 0x49 => keep ((GR2.ofLow h l).toLow 0 == l) (.impose (GR2.ofLow h l))
  | 0x4a =>
    match (l.extractLsb' 0 8).toNat with
    | 0 => keep ((GR2.ofLow h l).toLow 0 == l) (.distrib (GR2.ofLow h l))
    | 1 => keep ((GR2.ofLow h l).toLow 1 == l) (.distribCompact (GR2.ofLow h l))
    | _ => none
  | 0x4b => keep ((GR2.ofLow h l).toLow 0 == l) (.proofw (GR2.ofLow h l))
  | 0x4c => keep ((GR2.ofLow h l).toLow 0 == l) (.proofpub (GR2.ofLow h l))
  | 0x4d => keep ((GR3.ofLow h l).toLow 0 == l) (.prstat (GR3.ofLow h l))
  | 0x4e => keep ((GR2.ofLow h l).toLow 0 == l) (.kvappend (GR2.ofLow h l))
  | 0x4f => keep ((GR2.ofLow h l).toLow 0 == l) (.specapp (GR2.ofLow h l))
  | 0x50 => keep ((GR2.ofLow h l).toLow 0 == l) (.commit (GR2.ofLow h l))
  | 0x58 => keep ((GPd.ofLow h l).toLow 0 0 == l) (.pdload (GPd.ofLow h l))
  | 0x59 => keep ((GPi.ofLow h l).toLow 0 == l) (.pdinfo (GPi.ofLow h l))
  | _ => none

/-- The majors that take an XIMM (R83). -/
def takesXimm (major : Nat) : Bool := decide ((0x58 ≤ major ∧ major ≤ 0x5B) ∨ (0x60 ≤ major ∧ major ≤ 0x62))

/-- The PFX at the head of a unit, and the words after it. -/
def splitPfx (ws : List Word) : Option Pfx × List Word :=
  match ws with
  | [] => (none, [])
  | w :: r => if ! wordG w && wordMajor w == 0x7F then (some (Pfx.ofLow (wordW w) (wordLow w)), r) else (none, ws)

/-- The XIMM at the head of what follows, and the words after it. -/
def splitXimm (ws : List Word) : Option Ximm × List Word :=
  match ws with
  | [] => (none, [])
  | w :: r => if ! wordG w && wordMajor w == 0x7E then (some { h := wordW w, imm := wordLow w }, r) else (none, ws)

/-- The principal word after its prefix words (R73, R81, R83). -/
def decodePrincipal (p : Option Pfx) (x : Option Ximm) (w : Word) : Option Instr :=
  if wordG w then
    if p.isSome || x.isSome then none else decodeG (wordW w) (wordMajor w) (wordLow w)
  else if x.isSome && ! takesXimm (wordMajor w) then none
  else decodeL p x (wordW w) (wordMajor w) (wordLow w)

/-- The unit at the head of a list of words: the instruction, or nothing when no row of the table has it. -/
def decode (ws : List Word) : Option Instr :=
  match splitXimm (splitPfx ws).2 with
  | (_, []) => none
  | (x, w :: _) => decodePrincipal (splitPfx ws).1 x w

/-- The words of an instruction; an event has none. -/
def encode (i : Instr) : List Word :=
  match i with
  | .iaddI u => pfxWords u.p ++ [packL u.h 0x1 (u.toLow)]
  | .iaddN u => pfxWords u.p ++ [packL u.h 0x2 (u.toLow)]
  | .isubI u => pfxWords u.p ++ [packL u.h 0x3 (u.toLow)]
  | .isubN u => pfxWords u.p ++ [packL u.h 0x4 (u.toLow)]
  | .imulI u => pfxWords u.p ++ [packL u.h 0x5 (u.toLow)]
  | .imulN u => pfxWords u.p ++ [packL u.h 0x6 (u.toLow)]
  | .imulhI u => pfxWords u.p ++ [packL u.h 0x7 (u.toLow)]
  | .imulhN u => pfxWords u.p ++ [packL u.h 0x8 (u.toLow)]
  | .imulwI u => pfxWords u.p ++ [packL u.h 0x9 (u.toLow 0)]
  | .imulwN u => pfxWords u.p ++ [packL u.h 0xa (u.toLow 0)]
  | .imadI u => pfxWords u.p ++ [packL u.h 0xb (u.toLow)]
  | .imadN u => pfxWords u.p ++ [packL u.h 0xc (u.toLow)]
  | .iminI u => pfxWords u.p ++ [packL u.h 0xd (u.toLow)]
  | .iminN u => pfxWords u.p ++ [packL u.h 0xe (u.toLow)]
  | .imaxI u => pfxWords u.p ++ [packL u.h 0xf (u.toLow)]
  | .imaxN u => pfxWords u.p ++ [packL u.h 0x10 (u.toLow)]
  | .isadI u => pfxWords u.p ++ [packL u.h 0x11 (u.toLow)]
  | .isadN u => pfxWords u.p ++ [packL u.h 0x12 (u.toLow)]
  | .icmpI u => pfxWords u.p ++ [packL u.h 0x13 (u.toLow)]
  | .icmpN u => pfxWords u.p ++ [packL u.h 0x14 (u.toLow)]
  | .iaddI16x2 u => pfxWords u.p ++ [packL u.h 0x15 (u.toLow 0)]
  | .iaddN16x2 u => pfxWords u.p ++ [packL u.h 0x16 (u.toLow 0)]
  | .isubI16x2 u => pfxWords u.p ++ [packL u.h 0x17 (u.toLow 0)]
  | .isubN16x2 u => pfxWords u.p ++ [packL u.h 0x18 (u.toLow 0)]
  | .iminI16x2 u => pfxWords u.p ++ [packL u.h 0x19 (u.toLow 0)]
  | .iminN16x2 u => pfxWords u.p ++ [packL u.h 0x1a (u.toLow 0)]
  | .imaxI16x2 u => pfxWords u.p ++ [packL u.h 0x1b (u.toLow 0)]
  | .imaxN16x2 u => pfxWords u.p ++ [packL u.h 0x1c (u.toLow 0)]
  | .icmpI16x2 u => pfxWords u.p ++ [packL u.h 0x1d (u.toLow 0)]
  | .icmpN16x2 u => pfxWords u.p ++ [packL u.h 0x1e (u.toLow 0)]
  | .and u => pfxWords u.p ++ [packL u.h 0x1f (u.toLow)]
  | .or u => pfxWords u.p ++ [packL u.h 0x20 (u.toLow)]
  | .xor u => pfxWords u.p ++ [packL u.h 0x21 (u.toLow)]
  | .andn u => pfxWords u.p ++ [packL u.h 0x22 (u.toLow)]
  | .shl u => pfxWords u.p ++ [packL u.h 0x23 (u.toLow)]
  | .shr u => pfxWords u.p ++ [packL u.h 0x24 (u.toLow)]
  | .sar u => pfxWords u.p ++ [packL u.h 0x25 (u.toLow)]
  | .rotl u => pfxWords u.p ++ [packL u.h 0x26 (u.toLow)]
  | .bfxI u => pfxWords u.p ++ [packL u.h 0x27 (u.toLow)]
  | .bfxN u => pfxWords u.p ++ [packL u.h 0x28 (u.toLow)]
  | .bfi u => pfxWords u.p ++ [packL u.h 0x29 (u.toLow)]
  | .sel u => pfxWords u.p ++ [packL u.h 0x2a (u.toLow)]
  | .fadd u => pfxWords u.p ++ [packL u.h 0x2b (u.toLow)]
  | .fsub u => pfxWords u.p ++ [packL u.h 0x2c (u.toLow)]
  | .fmul u => pfxWords u.p ++ [packL u.h 0x2d (u.toLow)]
  | .ffma u => pfxWords u.p ++ [packL u.h 0x2e (u.toLow)]
  | .fmin u => pfxWords u.p ++ [packL u.h 0x2f (u.toLow)]
  | .fmax u => pfxWords u.p ++ [packL u.h 0x30 (u.toLow)]
  | .fdiv u => pfxWords u.p ++ [packL u.h 0x31 (u.toLow)]
  | .fcmp u => pfxWords u.p ++ [packL u.h 0x32 (u.toLow)]
  | .fscale u => pfxWords u.p ++ [packL u.h 0x33 (u.toLow)]
  | .faddBf16x2 u => pfxWords u.p ++ [packL u.h 0x34 (u.toLow 0)]
  | .fsubBf16x2 u => pfxWords u.p ++ [packL u.h 0x35 (u.toLow 0)]
  | .fmulBf16x2 u => pfxWords u.p ++ [packL u.h 0x36 (u.toLow 0)]
  | .ffmaBf16x2 u => pfxWords u.p ++ [packL u.h 0x37 (u.toLow 0)]
  | .fminBf16x2 u => pfxWords u.p ++ [packL u.h 0x38 (u.toLow 0)]
  | .fmaxBf16x2 u => pfxWords u.p ++ [packL u.h 0x39 (u.toLow 0)]
  | .fcmpBf16x2 u => pfxWords u.p ++ [packL u.h 0x3a (u.toLow 0)]
  | .faddFp16x2 u => pfxWords u.p ++ [packL u.h 0x3b (u.toLow 0)]
  | .fsubFp16x2 u => pfxWords u.p ++ [packL u.h 0x3c (u.toLow 0)]
  | .fmulFp16x2 u => pfxWords u.p ++ [packL u.h 0x3d (u.toLow 0)]
  | .ffmaFp16x2 u => pfxWords u.p ++ [packL u.h 0x3e (u.toLow 0)]
  | .fminFp16x2 u => pfxWords u.p ++ [packL u.h 0x3f (u.toLow 0)]
  | .fmaxFp16x2 u => pfxWords u.p ++ [packL u.h 0x40 (u.toLow 0)]
  | .fcmpFp16x2 u => pfxWords u.p ++ [packL u.h 0x41 (u.toLow 0)]
  | .iabs u => pfxWords u.p ++ [packL u.h 0x42 (u.toLow 0)]
  | .ineg u => pfxWords u.p ++ [packL u.h 0x42 (u.toLow 1)]
  | .clz u => pfxWords u.p ++ [packL u.h 0x42 (u.toLow 2)]
  | .popc u => pfxWords u.p ++ [packL u.h 0x42 (u.toLow 3)]
  | .brev u => pfxWords u.p ++ [packL u.h 0x42 (u.toLow 4)]
  | .fclass u => pfxWords u.p ++ [packL u.h 0x43 (u.toLow 0)]
  | .frnd u => pfxWords u.p ++ [packL u.h 0x43 (u.toLow 1)]
  | .fract u => pfxWords u.p ++ [packL u.h 0x43 (u.toLow 2)]
  | .exp2 u => pfxWords u.p ++ [packL u.h 0x44 (u.toLow 0)]
  | .log2 u => pfxWords u.p ++ [packL u.h 0x44 (u.toLow 1)]
  | .rcp u => pfxWords u.p ++ [packL u.h 0x44 (u.toLow 2)]
  | .rsq u => pfxWords u.p ++ [packL u.h 0x44 (u.toLow 3)]
  | .sqrt u => pfxWords u.p ++ [packL u.h 0x44 (u.toLow 4)]
  | .sin u => pfxWords u.p ++ [packL u.h 0x44 (u.toLow 5)]
  | .cos u => pfxWords u.p ++ [packL u.h 0x44 (u.toLow 6)]
  | .tanh u => pfxWords u.p ++ [packL u.h 0x44 (u.toLow 7)]
  | .cvtFloatSource u => pfxWords u.p ++ [packL u.h 0x45 (u.toLow 0)]
  | .cvtIntegerSource u => pfxWords u.p ++ [packL u.h 0x46 (u.toLow 0)]
  | .cvts u => pfxWords u.p ++ [packL u.h 0x47 (u.toLow 0)]
  | .blkenc u => pfxWords u.p ++ [packL u.h 0x48 (u.toLow 0)]
  | .blkdec u => pfxWords u.p ++ [packL u.h 0x49 (u.toLow 0)]
  | .rand u => pfxWords u.p ++ [packL u.h 0x4a (u.toLow 0 0)]
  | .tidx u => pfxWords u.p ++ [packL u.h 0x4b (u.toLow 0)]
  | .shfl u => pfxWords u.p ++ [packL u.h 0x4c (u.toLow)]
  | .shflUp u => pfxWords u.p ++ [packL u.h 0x4d (u.toLow 0)]
  | .shflDn u => pfxWords u.p ++ [packL u.h 0x4d (u.toLow 1)]
  | .shflXor u => pfxWords u.p ++ [packL u.h 0x4d (u.toLow 2)]
  | .xperm u => pfxWords u.p ++ [packL u.h 0x4e (u.toLow 0)]
  | .vote u => pfxWords u.p ++ [packL u.h 0x4f (u.toLow 0 0)]
  | .reduce u => pfxWords u.p ++ [packL u.h 0x50 (u.toLow)]
  | .scan u => pfxWords u.p ++ [packL u.h 0x51 (u.toLow)]
  | .matchLanes u => pfxWords u.p ++ [packL u.h 0x52 (u.toLow 0)]
  | .elect u => pfxWords u.p ++ [packL u.h 0x53 (u.toLow 0 0)]
  | .rdlane u => pfxWords u.p ++ [packL u.h 0x54 (u.toLow)]
  | .mov u => pfxWords u.p ++ [packL u.h 0x55 (u.toLow 0)]
  | .kmov u => pfxWords u.p ++ [packL u.h 0x56 (u.toLow 0 0)]
  | .kpop u => pfxWords u.p ++ [packL u.h 0x57 (u.toLow 0)]
  | .iaddImm u => pfxWords u.p ++ ximmWords u.x ++ [packL u.h 0x58 (u.toLow)]
  | .andImm u => pfxWords u.p ++ ximmWords u.x ++ [packL u.h 0x59 (u.toLow)]
  | .orImm u => pfxWords u.p ++ ximmWords u.x ++ [packL u.h 0x5a (u.toLow)]
  | .xorImm u => pfxWords u.p ++ ximmWords u.x ++ [packL u.h 0x5b (u.toLow)]
  | .shlImm u => pfxWords u.p ++ [packL u.h 0x5c (u.toLow 0)]
  | .shrImm u => pfxWords u.p ++ [packL u.h 0x5d (u.toLow 0)]
  | .sarImm u => pfxWords u.p ++ [packL u.h 0x5e (u.toLow 0)]
  | .rotlImm u => pfxWords u.p ++ [packL u.h 0x5f (u.toLow 0)]
  | .icmpIImm u => pfxWords u.p ++ ximmWords u.x ++ [packL u.h 0x60 (u.toLow)]
  | .icmpNImm u => pfxWords u.p ++ ximmWords u.x ++ [packL u.h 0x61 (u.toLow)]
  | .movi u => pfxWords u.p ++ ximmWords u.x ++ [packL u.h 0x62 (u.toLow 0)]
  | .jmpi u => pfxWords u.p ++ [packL u.h 0x63 (u.toLow 0 0)]
  | .calli u => pfxWords u.p ++ [packL u.h 0x64 (u.toLow 0 0)]
  | .ldg u => pfxWords u.p ++ [packL u.h 0x65 (u.toLow)]
  | .stg u => pfxWords u.p ++ [packL u.h 0x66 (u.toLow)]
  | .lds u => pfxWords u.p ++ [packL u.h 0x67 (u.toLow)]
  | .sts u => pfxWords u.p ++ [packL u.h 0x68 (u.toLow)]
  | .ldv u => pfxWords u.p ++ [packL u.h 0x69 (u.toLow)]
  | .stv u => pfxWords u.p ++ [packL u.h 0x6a (u.toLow)]
  | .feset u => pfxWords u.p ++ [packL u.h 0x6b (u.toLow 0 0 0)]
  | .feclr u => pfxWords u.p ++ [packL u.h 0x6c (u.toLow 0 0 0)]
  | .atom u => pfxWords u.p ++ [packL u.h 0x6d (u.toLow)]
  | .atoms u => pfxWords u.p ++ [packL u.h 0x6e (u.toLow 2)]
  | .red u => pfxWords u.p ++ [packL u.h 0x6f (u.toLow)]
  | .mma u => pfxWords u.p ++ [packL u.h 0x70 (u.toLow 0)]
  | .mread u => pfxWords u.p ++ [packL u.h 0x71 (u.toLow 0)]
  | .kvgather u => pfxWords u.p ++ [packL u.h 0x72 (u.toLow 0 0)]
  | .rotq u => pfxWords u.p ++ [packL u.h 0x73 (u.toLow)]
  | .accept u => pfxWords u.p ++ [packL u.h 0x74 (u.toLow 0)]
  | .dxt u => pfxWords u.p ++ [packL u.h 0x75 (u.toLow)]
  | .dxcmp u => pfxWords u.p ++ [packL u.h 0x76 (u.toLow)]
  | .dxval u => pfxWords u.p ++ [packL u.h 0x77 (u.toLow 0 0)]
  | .dxenc u => pfxWords u.p ++ [packL u.h 0x78 (u.toLow 0 0)]
  | .uadd u => [packG u.h 0x1 (u.toLow 0)]
  | .usub u => [packG u.h 0x1 (u.toLow 1)]
  | .umul u => [packG u.h 0x1 (u.toLow 2)]
  | .umulhI u => [packG u.h 0x1 (u.toLow 3)]
  | .umulhN u => [packG u.h 0x1 (u.toLow 4)]
  | .uand u => [packG u.h 0x1 (u.toLow 5)]
  | .uor u => [packG u.h 0x1 (u.toLow 6)]
  | .uxor u => [packG u.h 0x1 (u.toLow 7)]
  | .ushl u => [packG u.h 0x1 (u.toLow 8)]
  | .ushr u => [packG u.h 0x1 (u.toLow 9)]
  | .usar u => [packG u.h 0x1 (u.toLow 10)]
  | .uminI u => [packG u.h 0x1 (u.toLow 11)]
  | .uminN u => [packG u.h 0x1 (u.toLow 12)]
  | .umaxI u => [packG u.h 0x1 (u.toLow 13)]
  | .umaxN u => [packG u.h 0x1 (u.toLow 14)]
  | .umov u => [packG u.h 0x1 (u.toLow 15)]
  | .usel u => [packG u.h 0x1 (u.toLow 16)]
  | .ucmpI u => [packG u.h 0x1 (u.toLow 4)]
  | .ucmpN u => [packG u.h 0x1 (u.toLow 5)]
  | .uaddImm u => [packG u.h 0x2 (u.toLow)]
  | .uandImm u => [packG u.h 0x3 (u.toLow)]
  | .uorImm u => [packG u.h 0x4 (u.toLow)]
  | .uxorImm u => [packG u.h 0x5 (u.toLow)]
  | .ushlImm u => [packG u.h 0x6 (u.toLow 0)]
  | .ushrImm u => [packG u.h 0x7 (u.toLow 0)]
  | .usarImm u => [packG u.h 0x8 (u.toLow 0)]
  | .umovi u => [packG u.h 0x9 (u.toLow 0)]
  | .uldc u => [packG u.h 0xa (u.toLow)]
  | .rdsys u => [packG u.h 0xb (u.toLow 0)]
  | .wrsys u => [packG u.h 0xc (u.toLow 0 0)]
  | .tshape u => [packG u.h 0xd (u.toLow 0 0)]
  | .xpld u => [packG u.h 0xe (u.toLow 0 0)]
  | .bra u => [packG u.h 0x10 (u.toLow)]
  | .bru u => [packG u.h 0x11 (u.toLow)]
  | .brt u => [packG u.h 0x12 (u.toLow 0)]
  | .call u => [packG u.h 0x13 (u.toLow)]
  | .callq u => [packG u.h 0x14 (u.toLow 0)]
  | .ret u => [packG u.h 0x15 (u.toLow 0)]
  | .exit u => [packG u.h 0x16 (u.toLow 0)]
  | .nop u => [packG u.h 0x17 (u.toLow 0)]
  | .trap u => [packG u.h 0x18 (u.toLow 0)]
  | .trapret u => [packG u.h 0x19 (u.toLow 0)]
  | .bkpt u => [packG u.h 0x1a (u.toLow 0)]
  | .yield u => [packG u.h 0x1b (u.toLow 0)]
  | .sleepto u => [packG u.h 0x1c (u.toLow 0 0)]
  | .rdtime u => [packG u.h 0x1d (u.toLow 0)]
  | .qload u => [packG u.h 0x1e (u.toLow 0)]
  | .qpin u => [packG u.h 0x1f (u.toLow 0)]
  | .qunpin u => [packG u.h 0x20 (u.toLow 0)]
  | .qstat u => [packG u.h 0x21 (u.toLow 0)]
  | .launch u => [packG u.h 0x22 (u.toLow 0)]
  | .fetchw u => [packG u.h 0x23 (u.toLow 0 0)]
  | .hash u => [packG u.h 0x24 (u.toLow 0)]
  | .sign u => [packG u.h 0x25 (u.toLow 0)]
  | .mext u => [packG u.h 0x26 (u.toLow 0)]
  | .mrd u => [packG u.h 0x27 (u.toLow 0)]
  | .fence u => [packG u.h 0x30 (u.toLow 0)]
  | .tierpf u => [packG u.h 0x31 (u.toLow 0)]
  | .barinit u => [packG u.h 0x32 (u.toLow 0)]
  | .arrive u => [packG u.h 0x33 (u.toLow 0)]
  | .waitph u => [packG u.h 0x34 (u.toLow 0 0)]
  | .testph u => [packG u.h 0x35 (u.toLow 0)]
  | .cminit u => [packG u.h 0x36 (u.toLow 0)]
  | .cmwait u => [packG u.h 0x37 (u.toLow 0 0)]
  | .cmtest u => [packG u.h 0x38 (u.toLow 0)]
  | .strm u => [packG u.h 0x39 (u.toLow 0 0)]
  | .strmq u => [packG u.h 0x3a (u.toLow 0 0)]
  | .mzero u => [packG u.h 0x40 (u.toLow 0)]
  | .mlatb u => [packG u.h 0x41 (u.toLow 0 0)]
  | .mstore u => [packG u.h 0x42 (u.toLow 0 0)]
  | .mstat u => [packG u.h 0x43 (u.toLow 0)]
  | .gseal u => [packG u.h 0x48 (u.toLow 0)]
  | .impose u => [packG u.h 0x49 (u.toLow 0)]
  | .distrib u => [packG u.h 0x4a (u.toLow 0)]
  | .distribCompact u => [packG u.h 0x4a (u.toLow 1)]
  | .proofw u => [packG u.h 0x4b (u.toLow 0)]
  | .proofpub u => [packG u.h 0x4c (u.toLow 0)]
  | .prstat u => [packG u.h 0x4d (u.toLow 0)]
  | .kvappend u => [packG u.h 0x4e (u.toLow 0)]
  | .specapp u => [packG u.h 0x4f (u.toLow 0)]
  | .commit u => [packG u.h 0x50 (u.toLow 0)]
  | .pdload u => [packG u.h 0x58 (u.toLow 0 0)]
  | .pdinfo u => [packG u.h 0x59 (u.toLow 0)]
  | .resultReturn _ => []
  | .sleepWake _ => []
  | .quireLoadComplete _ => []
  | .pageWalk _ => []
  | .streamerJobCheck _ => []
  | .chunkWrite _ => []
  | .tierpfArrival _ => []
  | .mlatbLatch _ => []
  | .mmaPass _ => []
  | .mstoreWrite _ => []
  | .gsealPerform _ => []
  | .imposePerform _ => []
  | .distribPerform _ => []
  | .proofpubPerform _ => []
  | .kvgatherSnapshot _ => []
  | .kvappendPerform _ => []
  | .specappPerform _ => []
  | .commitPerform _ => []
  | .launchArrive _ => []
  | .recordRead _ => []
  | .placement _ => []
  | .workgroupStart _ => []
  | .launchComplete _ => []
  | .fetchwDeliver _ => []
  | .preempt _ => []
  | .contextSwitch _ => []
  | .contextSave _ => []
  | .contextRestore _ => []
  | .epochEnd _ => []
  | .clockChange _ => []
  | .timeStep _ => []
  | .ppsInput _ => []
  | .ppsOutput _ => []
  | .powerOn _ => []
  | .partitionSetup _ => []
  | .partitionTeardown _ => []
  | .create _ => []
  | .teardown _ => []
  | .contextClosed _ => []
  | .qtailWrite _ => []
  | .queueDescriptorWrite _ => []
  | .fqheadWrite _ => []
  | .fresumeRetry _ => []
  | .fresumeAbort _ => []
  | .invalidateRange _ => []
  | .invalidateAll _ => []
  | .invalidateDone _ => []
  | .halt _ => []
  | .resume _ => []
  | .step _ => []
  | .breakpointMatch _ => []
  | .debugStopped _ => []
  | .drdataRead _ => []
  | .drdataWrite _ => []
  | .steptoWrite _ => []
  | .install _ => []
  | .imageVerified _ => []
  | .enter _ => []
  | .libsizeWrite _ => []
  | .pfApertureAccess _ => []
  | .vfApertureAccess _ => []
  | .registerWrite _ => []
  | .getVersion _ => []
  | .getCapabilities _ => []
  | .negotiateAlgorithms _ => []
  | .getDigests _ => []
  | .getCertificate _ => []
  | .challenge _ => []
  | .getMeasurements _ => []
  | .spdmOtherRequest _ => []
  | .doeAbort _ => []
  | .linkDown _ => []
  | .linkUp _ => []
  | .peerAccess _ => []
  | .copyComplete _ => []
  | .ieee1588Message _ => []
  | .launchCancel _ => []

/-- Fields of the L-set that a major fixes, as low bit, length and the reason of R92 for another value than zero: an
unassigned t, fn or q value is 2, a nonzero reserved field 3, a refused w 4. -/
def lGaps (major : Nat) : List (Nat × Nat × Nat) :=
  match major with
  | 0x9 | 0xa | 0x15 | 0x16 | 0x17 | 0x18 | 0x19 | 0x1a | 0x1b | 0x1c | 0x1d | 0x1e | 0x34 | 0x35 | 0x36 | 0x37 | 0x38 | 0x39 | 0x3a | 0x3b | 0x3c | 0x3d | 0x3e | 0x3f | 0x40 | 0x41 | 0x45 | 0x46 | 0x47 | 0x48 | 0x49 | 0x4b => [(0, 2, 4)]
  | 0x4a | 0x53 => [(9, 7, 3), (6, 3, 2), (0, 2, 4)]
  | 0x4e => [(6, 3, 2)]
  | 0x4f | 0x56 => [(6, 3, 2), (0, 2, 4)]
  | 0x52 => [(2, 4, 2)]
  | 0x55 => [(6, 3, 2), (2, 4, 2)]
  | 0x57 => [(6, 3, 2), (2, 4, 2), (0, 2, 4)]
  | 0x5c | 0x5d | 0x5e | 0x5f => [(5, 4, 3)]
  | 0x62 => [(9, 7, 3)]
  | 0x63 | 0x64 => [(16, 7, 3), (2, 7, 3), (0, 2, 4)]
  | 0x6b | 0x6c => [(16, 7, 3), (6, 3, 2), (0, 2, 4)]
  | 0x70 => [(2, 1, 3), (0, 2, 4)]
  | 0x71 => [(2, 2, 3), (0, 2, 4)]
  | 0x72 => [(6, 3, 2), (4, 2, 3), (0, 2, 4)]
  | 0x74 => [(19, 4, 3)]
  | 0x77 | 0x78 => [(4, 2, 3), (0, 2, 4)]
  | _ => []

/-- Selectors of the L-set that a major does not assign: reason 2. ATOMS takes q = 2 alone. -/
def lSelector (major : Nat) (l : BitVec 23) : Bool :=
  match major with
  | 0x42 => decide ((l.extractLsb' 2 4).toNat < 5)
  | 0x43 => decide ((l.extractLsb' 2 4).toNat < 3)
  | 0x44 => decide ((l.extractLsb' 2 4).toNat < 8)
  | 0x4d => decide ((l.extractLsb' 6 3).toNat < 3)
  | 0x6e => decide ((l.extractLsb' 6 3).toNat = 2)
  | _ => true

/-- Fields of the G-set that must be zero (R90): all are reason 3. -/
def gGaps (major fn : Nat) : List (Nat × Nat) :=
  match major with
  | 0x6 | 0x7 | 0x8 => [(5, 8)]
  | 0x9 => [(13, 5)]
  | 0xb => [(8, 10)]
  | 0xc => [(18, 5), (8, 5)]
  | 0xd => [(18, 5), (4, 9)]
  | 0xe => [(18, 5), (3, 10)]
  | 0x12 => [(19, 4)]
  | 0x14 => [(18, 5)]
  | 0x15 | 0x16 | 0x17 | 0x19 | 0x1b => [(0, 23)]
  | 0x18 | 0x1a => [(13, 10)]
  | 0x1c | 0x39 => [(18, 5), (0, 13)]
  | 0x1d => [(0, 18)]
  | 0x1e | 0x1f | 0x20 | 0x21 | 0x4a => [(8, 5)]
  | 0x22 | 0x31 | 0x32 | 0x33 | 0x36 | 0x38 | 0x4d => [(0, 8)]
  | 0x23 | 0x34 | 0x37 | 0x3a => [(18, 5), (0, 8)]
  | 0x24 | 0x25 | 0x26 | 0x27 | 0x35 | 0x48 | 0x49 | 0x4b | 0x4c | 0x4e | 0x4f | 0x50 => [(0, 13)]
  | 0x30 => [(5, 18)]
  | 0x40 => [(3, 20)]
  | 0x41 => [(18, 5), (4, 4)]
  | 0x42 => [(18, 5), (5, 3)]
  | 0x43 | 0x59 => [(2, 16)]
  | 0x58 => [(18, 5), (2, 11)]
  | 0x01 => if fn = 0x0F then [(8, 5)] else []
  | _ => []

/-- Values of fn that the uniform ALU and DISTRIB do not assign: reason 2 (R90). -/
def gSelector (major fn : Nat) : Bool :=
  match major with
  | 0x01 => decide (fn ≤ 0x10 ∨ (0x20 ≤ fn ∧ fn ≤ 0x25) ∨ (0x28 ≤ fn ∧ fn ≤ 0x2D))
  | 0x4A => decide (fn ≤ 1)
  | _ => true

/-- The low bits of a word with the given fields cleared. -/
def clearFields (l : BitVec 23) (fs : List (Nat × Nat)) : BitVec 23 :=
  fs.foldl (fun a f => a &&& ~~~ (BitVec.ofNat 23 ((2 ^ f.2 - 1) <<< f.1))) l

/-- The majors that are assigned (R89, R90). -/
def majorAssigned (g : Bool) (major : Nat) : Bool :=
  if g then
    decide (major ≠ 0 ∧ major ≠ 0x0F ∧ major ≤ 0x59 ∧ ¬ (0x28 ≤ major ∧ major ≤ 0x2F) ∧
      ¬ (0x3B ≤ major ∧ major ≤ 0x3F) ∧ ¬ (0x44 ≤ major ∧ major ≤ 0x47) ∧ ¬ (0x51 ≤ major ∧ major ≤ 0x57))
  else decide (major ≠ 0 ∧ major ≤ 0x78)

/-- The reasons of a unit's shape where the principal word stands at index `at_`: words before it may be left out of the shape. -/
def placedReasons (sh : Shape) (at_ budget : Nat) : List (Nat × Nat) :=
  (sh.reasons budget).map (fun r => (r.1, if r.2 = sh.len - 1 then at_ else r.2))

/-- The reasons that a principal word at index `at_` breaks (R92): unassigned major; selectors and fixed fields; and
the operand rules of the row it has once its fixed fields are cleared. -/
def principalReasons (p : Option Pfx) (x : Option Ximm) (w : Word) (at_ budget : Nat) : List (Nat × Nat) :=
  let major := wordMajor w
  let l := wordLow w
  if ! majorAssigned (wordG w) major then [(1, at_)]
  else if wordG w then
    let fn := (l.extractLsb' 0 8).toNat
    let gs := gGaps major fn
    let rs := (if gSelector major fn then [] else [(2, at_)])
      ++ (if gs.all (fun f => (l.extractLsb' f.1 f.2).toNat == 0) then [] else [(3, at_)])
    match decodeG (wordW w) major (clearFields l gs) with
    | some i => rs ++ placedReasons (shapeOf i) at_ budget
    | none => rs
  else
    let gs := lGaps major
    let rs := (if lSelector major l then [] else [(2, at_)])
      ++ gs.filterMap (fun f => if (l.extractLsb' f.1 f.2.1).toNat == 0 then none else some (f.2.2, at_))
    match decodeL p x (wordW w) major (clearFields l (gs.map (fun f => (f.1, f.2.1)))) with
    | some i => rs ++ placedReasons (shapeOf i) at_ budget
    | none => rs

/-- The reason and word index of an undecodable unit (R61, R92), for a group with this register budget. Where a prefix is followed by a
principal word it does not apply to, that word's own reasons count beside reason 8; of two such prefixes the XIMM's index is
named; and a unit past the quire's last word has reason 1 at its PC: these are the model's choices. Log entries 81
and 84. -/
def unitFault (ws : List Word) (budget : Nat) : Nat × Nat :=
  let p := (splitPfx ws).1
  let sx := splitXimm (splitPfx ws).2
  let n := natOfBool p.isSome + natOfBool sx.1.isSome
  let own : List (Nat × Nat) :=
    (match p with
      | none => []
      | some u => (if u.low ≠ 0 ∨ (u.cv = false ∧ u.c ≠ 0) then [(3, 0)] else []) ++ (if 6 ≤ u.mode.toNat then [(7, 0)] else [])
          ++ (if u.h then [(9, 0)] else []))
    ++ (match sx.1 with | none => [] | some u => if u.h then [(9, n - 1)] else [])
  let rest : List (Nat × Nat) :=
    match sx.2 with
    | [] => if n = 0 then [(1, 0)] else [(8, n - 1)]
    | w :: _ =>
      let m := wordMajor w
      if n ≠ 0 ∧ wordG w = false ∧ (m = 0x7F ∨ m = 0x7E) then [(8, n - 1)]
      else if n ≠ 0 ∧ wordG w = true then [(8, n - 1)] ++ principalReasons none none w n budget
      else if sx.1.isSome && ! takesXimm m then [(8, n - 1)] ++ principalReasons p none w n budget
      else principalReasons p sx.1 w n budget
  match leastReason (own ++ rest) with
  | some r => r
  | none => (1, n)

/-- The bytes of an instruction as the hardware stores them: each word little-endian, the first at the lowest address
(R2, R72). -/
def wordBytes (w : Word) : List Byte := bytesOf w.toNat 4

/-- The words of a list of bytes. -/
def wordsOfBytes : List Byte → List Word
  | a :: b :: c :: d :: r => BitVec.ofNat 32 (natOfBytes [a, b, c, d]) :: wordsOfBytes r
  | _ => []

/-- The instruction the decoder reads from a table word: its bits laid out as the hardware stores them, the words
above them zero. -/
def decodeTableWord (nbits w : Nat) : Option Instr :=
  decode (wordsOfBytes (bytesOf (w % 2 ^ nbits) 12))

end Sys2Proof
end

