-- ==== Sys2Proof/Machine/Formats.lean ====
section
/-!
DEFINITION. Number formats and rounding (R45 to R51, R55, R61 to R68): what a bit pattern means, the exact value of
an operation, and the one rounding of it. Exact values are fractions of natural numbers with a sign.
-/
namespace Sys2Proof.Machine
open Sys2Proof

/-! ### Formats (R45, R46, R55) -/

/-- A binary floating-point format: exponent and fraction widths, bias, and whether it has infinities. -/
structure Fmt where
  ebits : Nat
  fbits : Nat
  bias : Nat
  hasInf : Bool
  deriving DecidableEq, Repr

def fp64 : Fmt := { ebits := 11, fbits := 52, bias := 1023, hasInf := true }
def fp32 : Fmt := { ebits := 8, fbits := 23, bias := 127, hasInf := true }
def fp16 : Fmt := { ebits := 5, fbits := 10, bias := 15, hasInf := true }
def bf16 : Fmt := { ebits := 8, fbits := 7, bias := 127, hasInf := true }
def e5m2 : Fmt := { ebits := 5, fbits := 2, bias := 15, hasInf := true }
def e4m3 : Fmt := { ebits := 4, fbits := 3, bias := 7, hasInf := false }
def a96f : Fmt := { ebits := 15, fbits := 80, bias := 16383, hasInf := true }

/-- The width of a format in bits. -/
def Fmt.width (f : Fmt) : Nat := f.ebits + f.fbits + 1
/-- The sign bit's weight. -/
def Fmt.signBit (f : Fmt) : Nat := 2 ^ (f.ebits + f.fbits)
/-- The magnitude code of the largest finite value. -/
def Fmt.maxMag (f : Fmt) : Nat :=
  if f.hasInf then (2 ^ f.ebits - 1) * 2 ^ f.fbits - 1 else 2 ^ (f.ebits + f.fbits) - 2
/-- The magnitude code of infinity, where the format has one. -/
def Fmt.infMag (f : Fmt) : Nat := (2 ^ f.ebits - 1) * 2 ^ f.fbits
/-- The exponent of the spacing of subnormals. -/
def Fmt.qmin (f : Fmt) : Int := 1 - (f.bias : Int) - (f.fbits : Int)

/-- A value: a NaN with its sign and fraction field (of `fb` bits), an infinity, or an exact finite value
±num / den, zero keeping its sign. -/
inductive FVal where
  | nan (s : Bool) (frac fb : Nat)
  | inf (s : Bool)
  | fin (s : Bool) (num den : Nat)
  deriving DecidableEq, Repr

/-- The canonical NaN of whatever format it is put into (R46, R49). -/
def FVal.canonNan : FVal := .nan false 1 1

/-- m × 2^k as a fraction. -/
def scaled (m : Nat) (k : Int) : Nat × Nat := if 0 ≤ k then (m * 2 ^ k.toNat, 1) else (m, 2 ^ (-k).toNat)

/-- m × 2^k as a value. -/
def FVal.ofScaled (s : Bool) (m : Nat) (k : Int) : FVal := .fin s (scaled m k).1 (scaled m k).2

/-- An integer as a value; zero is +0. -/
def FVal.ofInt (x : Int) : FVal := .fin (decide (x < 0)) x.natAbs 1

/-- What a bit pattern means (R45, R46). -/
def Fmt.value (f : Fmt) (x : Nat) : FVal :=
  let s := x.testBit (f.ebits + f.fbits)
  let e := x / 2 ^ f.fbits % 2 ^ f.ebits
  let fr := x % 2 ^ f.fbits
  if f.hasInf = true ∧ e = 2 ^ f.ebits - 1 then if fr = 0 then .inf s else .nan s fr f.fbits
  else if f.hasInf = false ∧ e = 2 ^ f.ebits - 1 ∧ fr = 2 ^ f.fbits - 1 then .nan s fr f.fbits
  else .ofScaled s (if e = 0 then fr else 2 ^ f.fbits + fr) (f.qmin + ((max e 1 : Nat) : Int) - 1)

def FVal.isNan (v : FVal) : Bool := match v with | .nan _ _ _ => true | _ => false
def FVal.isInf (v : FVal) : Bool := match v with | .inf _ => true | _ => false
def FVal.isZero (v : FVal) : Bool := match v with | .fin _ n _ => n == 0 | _ => false
def FVal.sign (v : FVal) : Bool := match v with | .nan s _ _ => s | .inf s => s | .fin s _ _ => s
/-- The value with its sign flipped. -/
def FVal.neg (v : FVal) : FVal :=
  match v with | .nan s f b => .nan (!s) f b | .inf s => .inf (!s) | .fin s n d => .fin (!s) n d

/-! ### Rounding (R61 to R65) -/

/-- The largest e with 2^e ≤ num / den, for num > 0. -/
def floorLog2 (num den : Nat) : Int :=
  let d : Int := (Nat.log2 num : Int) - (Nat.log2 den : Int)
  let t := scaled den d
  if t.1 ≤ num * t.2 then d else d - 1

/-- num / den rounded to a multiple of 2^q, as that multiple (R61, R65); `r` is the draw of rsto. -/
def roundAt (s : Bool) (num den : Nat) (q : Int) (mode r : Nat) : Nat :=
  let t := scaled den q
  let n := num * t.2
  let d := t.1
  let k := n / d
  let m := n % d
  if m = 0 then k
  else
    match mode with
    | 1 => k
    | 2 => if s then k else k + 1
    | 3 => if s then k + 1 else k
    | 4 => if d ≤ 2 * m then k + 1 else k
    | 5 => if 65536 * d ≤ 65536 * m + r * d then k + 1 else k
    | _ => if d < 2 * m then k + 1 else if 2 * m = d ∧ k % 2 = 1 then k + 1 else k

/-- An exact value rounded to an integer (R63, R64: the grid of integers), keeping its sign apart. -/
def roundInt (s : Bool) (num den mode r : Nat) : Nat := roundAt s num den 0 mode r

/-- The exponent of the spacing of a format's grid at a nonzero magnitude (R63). -/
def Fmt.spacing (f : Fmt) (num den : Nat) : Int := max (floorLog2 num den - (f.fbits : Int)) f.qmin

/-- The magnitude code that a nonzero exact magnitude rounds to on the extended grid of R63. -/
def Fmt.roundMag (f : Fmt) (s : Bool) (num den mode r : Nat) : Nat :=
  let q := f.spacing num den
  (q - f.qmin).toNat * 2 ^ f.fbits + roundAt s num den q mode r

/-- A sign put on a magnitude code. -/
def Fmt.signed (f : Fmt) (s : Bool) (mag : Nat) : Nat := if s then f.signBit + mag else mag

/-- A NaN put into a format (R67): sign kept, the top fraction bits kept or placed at the top, quiet bit set. -/
def Fmt.nan (f : Fmt) (s : Bool) (frac fb : Nat) : Nat :=
  if f.hasInf then
    let g := if f.fbits ≤ fb then frac / 2 ^ (fb - f.fbits) else frac * 2 ^ (f.fbits - fb)
    f.signed s (f.infMag + (g % 2 ^ f.fbits ||| 2 ^ (f.fbits - 1)))
  else f.signed s (2 ^ (f.ebits + f.fbits) - 1)

/-- An infinite result (R64, R67): ±F with saturation, NaN of that sign in a format without infinity. -/
def Fmt.infinite (f : Fmt) (s sat : Bool) : Nat :=
  if sat then f.signed s f.maxMag
  else if f.hasInf then f.signed s f.infMag else f.signed s (2 ^ (f.ebits + f.fbits) - 1)

/-- The overflow result of R64. -/
def Fmt.overflow (f : Fmt) (s sat : Bool) (mode : Nat) : Nat :=
  if mode = 1 ∨ (mode = 2 ∧ s = true) ∨ (mode = 3 ∧ s = false) then f.signed s f.maxMag else f.infinite s sat

/-- `round_to` with overflow and saturation (R63, R64), and R67 for NaN and infinity. -/
def Fmt.round (f : Fmt) (mode : Nat) (sat : Bool) (r : Nat) (v : FVal) : Nat :=
  match v with
  | .nan s fr fb => f.nan s fr fb
  | .inf s => f.infinite s sat
  | .fin s n d =>
    if n = 0 then f.signed s 0
    else
      let m := f.roundMag s n d mode r
      if f.maxMag < m then f.overflow s sat mode else f.signed s m

/-! ### Exact operations (R49, R50, R68) -/

/-- The first NaN among operands (R49). -/
def firstNan (vs : List FVal) : Option FVal := vs.find? FVal.isNan

/-- The exact sum of two values that are not NaN; an exact zero from opposite signs is +0, or −0 under rdn (R50). -/
def addVal (mode : Nat) (x y : FVal) : FVal :=
  match x, y with
  | .inf a, .inf b => if a = b then .inf a else .canonNan
  | .inf a, _ => .inf a
  | _, .inf b => .inf b
  | .fin a n d, .fin b m e =>
    let t : Int := (if a then -1 else 1) * ((n * e : Nat) : Int) + (if b then -1 else 1) * ((m * d : Nat) : Int)
    if t = 0 then .fin (if a = b then a else mode == 3) 0 1 else .fin (decide (t < 0)) t.natAbs (d * e)
  | _, _ => .canonNan

/-- The exact product of two values that are not NaN. -/
def mulVal (x y : FVal) : FVal :=
  match x, y with
  | .inf a, .inf b => .inf (a != b)
  | .inf a, .fin b m _ => if m = 0 then .canonNan else .inf (a != b)
  | .fin a n _, .inf b => if n = 0 then .canonNan else .inf (a != b)
  | .fin a n d, .fin b m e => .fin (a != b) (n * m) (d * e)
  | _, _ => .canonNan

/-- The exact quotient of two values that are not NaN (R128). -/
def divVal (x y : FVal) : FVal :=
  match x, y with
  | .inf _, .inf _ => .canonNan
  | .inf a, .fin b _ _ => .inf (a != b)
  | .fin a _ _, .inf b => .fin (a != b) 0 1
  | .fin a n d, .fin b m e =>
    if m = 0 then if n = 0 then .canonNan else .inf (a != b) else .fin (a != b) (n * e) (d * m)
  | _, _ => .canonNan

/-- x × 2^k (R130). Beyond ±20,000 every format's result is the same, so k is clipped there. Log entry 33. -/
def scaleVal (x : FVal) (k : Int) : FVal :=
  match x with
  | .fin s n d =>
    let t := scaled n (max (-20000) (min k 20000))
    .fin s t.1 (d * t.2)
  | v => v

def fAdd (mode : Nat) (x y : FVal) : FVal := (firstNan [x, y]).getD (addVal mode x y)
def fSub (mode : Nat) (x y : FVal) : FVal := (firstNan [x, y]).getD (addVal mode x y.neg)
def fMul (_ : Nat) (x y : FVal) : FVal := (firstNan [x, y]).getD (mulVal x y)
def fDiv (_ : Nat) (x y : FVal) : FVal := (firstNan [x, y]).getD (divVal x y)
/-- x × y + z, rounded once by its user. An invalid product is the canonical NaN whatever z is, unless z is a NaN. -/
def fFma (mode : Nat) (x y z : FVal) : FVal :=
  (firstNan [x, y, z]).getD (let p := mulVal x y; if p.isNan then p else addVal mode p z)

/-- x − floor(x) (R131): an exact zero is +0, an infinity is invalid. -/
def fFract (x : FVal) : FVal :=
  match x with
  | .nan s f b => .nan s f b
  | .inf _ => .canonNan
  | .fin s n d =>
    let r := n % d
    if r = 0 then .fin false 0 1 else if s then .fin false (d - r) d else .fin false r d

/-- The integral value of x (R131); a zero result keeps the sign of x (R50). -/
def fRnd (mode r : Nat) (x : FVal) : FVal :=
  match x with
  | .fin s n d => .fin s (roundInt s n d mode r) 1
  | v => v

/-- The value with negation and absolute value applied to its bits (R82). -/
def Fmt.negAbs (f : Fmt) (neg ab : Bool) (x : Nat) : Nat :=
  let m := x % f.signBit
  let s := if ab then neg else (neg != x.testBit (f.ebits + f.fbits))
  f.signed s m

/-- The order of R129, in which −0 lies below +0, for patterns that are not NaN. -/
def Fmt.orderKey (f : Fmt) (x : Nat) : Int :=
  if x.testBit (f.ebits + f.fbits) then - ((x % f.signBit : Nat) : Int) - 1 else ((x % f.signBit : Nat) : Int)
/-- The order of values, in which both zeros are equal, for patterns that are not NaN (R80). -/
def Fmt.valueKey (f : Fmt) (x : Nat) : Int :=
  if x.testBit (f.ebits + f.fbits) then - ((x % f.signBit : Nat) : Int) else ((x % f.signBit : Nat) : Int)

/-- Whether a pattern is a NaN. -/
def Fmt.isNan (f : Fmt) (x : Nat) : Bool := (f.value x).isNan

/-- FMIN and FMAX (R129): a NaN operand gives the NaN of R49. -/
def Fmt.minMax (f : Fmt) (greater : Bool) (x y : Nat) : Nat :=
  match firstNan [f.value x, f.value y] with
  | some v => f.round 0 false 0 v
  | none =>
    if greater then if f.orderKey x < f.orderKey y then y else x
    else if f.orderKey y < f.orderKey x then y else x

/-- The class mask of R131, as a number of 10 bits. -/
def Fmt.classMask (f : Fmt) (x : Nat) : Nat :=
  match f.value x with
  | .nan _ fr fb => if fr.testBit (fb - 1) then 2 ^ 9 else 2 ^ 8
  | .inf s => if s then 2 ^ 0 else 2 ^ 7
  | .fin s n _ =>
    let sub := x / 2 ^ f.fbits % 2 ^ f.ebits == 0
    if n = 0 then if s then 2 ^ 3 else 2 ^ 4
    else if sub then if s then 2 ^ 2 else 2 ^ 5
    else if s then 2 ^ 1 else 2 ^ 6

/-! ### Conversions (R66, R67, R53) -/

/-- Code F: to an integer type of n bits, signed or not: rounded, then clamped; NaN gives 0. -/
def toInteger (n : Nat) (signed : Bool) (mode r : Nat) (v : FVal) : Nat :=
  let lo : Int := if signed then -(2 ^ (n - 1) : Nat) else 0
  let hi : Int := if signed then (2 ^ (n - 1) : Nat) - 1 else (2 ^ n : Nat) - 1
  match v with
  | .nan _ _ _ => 0
  | .inf s => wrapN (if s then lo else hi) n
  | .fin s num den =>
    let k : Int := (roundInt s num den mode r : Nat)
    wrapN (max lo (min (if s then -k else k) hi)) n

/-- An exact integer brought into n bits: wrapped, or clamped with saturation (R53). -/
def fitInt (n : Nat) (signed sat : Bool) (t : Int) : Nat :=
  if sat then
    let lo : Int := if signed then -(2 ^ (n - 1) : Nat) else 0
    let hi : Int := if signed then (2 ^ (n - 1) : Nat) - 1 else (2 ^ n : Nat) - 1
    wrapN (max lo (min t hi)) n
  else wrapN t n

/-- n bits read as an integer. -/
def readInt (signed : Bool) (x n : Nat) : Int := if signed then sext x n else ((x % 2 ^ n : Nat) : Int)

/-- Between floating formats (R66, codes =, X and N): equal formats keep their bits, a signalling NaN made quiet. -/
def cvtFloat (src dst : Fmt) (mode : Nat) (sat : Bool) (r x : Nat) : Nat :=
  dst.round mode sat r (src.value x)

/-- Whether the conversion is one that rounds, and so takes a draw under rsto (R65): codes N. Log entry 32. -/
def cvtRounds (src dst : Fmt) : Bool := decide (dst.fbits < src.fbits) || decide (dst.ebits < src.ebits)

end Sys2Proof.Machine
end

