-- ==== Sys2Proof/Machine/Flags.lean ====
section
/-!
DEFINITION. The machine's flags are the k registers, written by compares: the conditions of R80, on integers, on
floating-point patterns and against zero.
-/
namespace Sys2Proof.Machine
open Sys2Proof

/-- Conditions 0 to 5 on ordered values. -/
def condOf (c : Nat) (lt eq : Bool) : Bool :=
  match c with
  | 0 => eq
  | 1 => !eq
  | 2 => lt
  | 3 => lt || eq
  | 4 => !(lt || eq)
  | 5 => !lt
  | _ => false

/-- An integer compare (R80). -/
def intCond (c : Nat) (x y : Int) : Bool := condOf c (decide (x < y)) (decide (x = y))

/-- A floating-point compare (R80): with a NaN operand only NE and UN hold. -/
def floatCond (f : Fmt) (c x y : Nat) : Bool :=
  let un := f.isNan x || f.isNan y
  match c with
  | 6 => un
  | 7 => !un
  | _ => if un then c == 1 else condOf c (decide (f.valueKey x < f.valueKey y)) (decide (f.valueKey x = f.valueKey y))

/-- A BRU condition on a g register against 0 (R80). -/
def zeroCond (c : Nat) (g : Word) : Bool :=
  let x := g.toInt
  match c with
  | 0 => x == 0
  | 1 => x != 0
  | 2 => decide (x < 0)
  | 3 => decide (0 ≤ x)
  | 4 => decide (0 < x)
  | 5 => decide (x ≤ 0)
  | _ => false

end Sys2Proof.Machine
end

