-- ==== Sys2Proof/Config.lean ====
section
/-!
DEFINITION. What the spec leaves to the implementation or to chance: free values. None has a body, so nothing can be
proved of what it is. `draw` is the counter of State that every step advances; `key` tells the choices of one step
apart.
-/
namespace Sys2Proof

/-- A choice among alternatives, by number (R8, R11, R86, R268). Log entry 5. -/
opaque Config.choose (draw key : Nat) : Nat
/-- A 32-bit value that the spec does not state. -/
opaque Config.freeWord (draw key : Nat) : Word
/-- A byte read from host memory or from a peer module, which the module does not hold (R184, R357). Log entry 13. -/
opaque Config.outsideByte (draw addr : Nat) : Byte
/-- The home cluster of a 128-byte line of device memory, which the device chooses (R23, R193). Log entry 68. -/
opaque Config.homeCluster (line : Nat) : Nat
/-- Nanoseconds that pass during a step (R19, R383). Log entry 6. -/
opaque Config.tick (draw : Nat) : Nat
/-- The value a special function returns within its bound (R132): function code, type code, operand bits.
Log entry 9. -/
opaque Config.special (fn ty x : Nat) : Nat
/-- The dyadic value an MMA step computes within its bound (R69), as a numerator over 2^16600. Log entry 8. -/
opaque Config.mmaSum (draw key : Nat) : Int
/-- The 32 bytes that a granule decrypts to under another key or version than it was written with (R409): granule
number, tag written, tag read, plaintext. Log entry 20. -/
opaque Config.recrypt (granule wrote reads plain : Nat) : Nat
/-- The RSASSA-PKCS1-v1_5 signature of a SHA-256 digest under the device identity key, as a number of 3,072 bits
(R181, R404). Log entry 19. -/
opaque Config.sign (digest : Nat) : Nat
/-- Whether a signature over a digest verifies under the fused key (R402). Log entry 19. -/
opaque Config.verify (digest signature : Nat) : Bool
/-- The certificate chain of slot 0 (R404). Log entry 19. -/
opaque Config.certificate : List Byte
/-- Whether measurement index i counts as a TCB component's in a summary hash (R405): the spec does not say which do. Log entry 18. -/
opaque Config.tcbIndex (i : Nat) : Bool
/-- The boot ROM, the image the module left manufacture with, and the fuse and strap values (R402). Log entry 19. -/
opaque Config.rom : List Byte
opaque Config.factoryImage : List Byte
opaque Config.fuses : List Byte
/-- The self-test's result record and whether it passed (R9, R402). Log entry 19. -/
opaque Config.selfTestRecord : List Byte
opaque Config.selfTestPasses : Bool
/-- Whether a write of the image to flash succeeds (R403). Log entry 19. -/
opaque Config.flashWrites (draw : Nat) : Bool
/-- Random bytes of SPDM responses (R405). -/
opaque Config.nonceByte (draw key : Nat) : Byte
/-- Whether a peer module accepts an access and translates it (R358, R400). Log entry 13. -/
opaque Config.peerAccepts (draw addr : Nat) : Bool
/-- Whether bytes read from outside the module arrive poisoned (R370). Log entry 13. -/
opaque Config.outsidePoison (draw addr : Nat) : Bool
/-- Hardware errors (R227, R228, R369): what an error strikes after a step (0 nothing), and where; the single-bit errors
that an operation of the matrix engine corrects; and whether a row of it meets a parity error. Log entry 42. -/
opaque Config.upset (draw : Nat) : Nat
opaque Config.upsetAt (draw : Nat) : Nat
opaque Config.corrected (draw key : Nat) : Nat
opaque Config.parity (draw row : Nat) : Bool
/-- Whether the host completes an AtomicOp without error (R195). Log entry 13. -/
opaque Config.hostAtomicOk (draw key : Nat) : Bool

end Sys2Proof
end

