-- ==== Sys2Proof/Machine/Sparse.lean ====
section
/-!
DEFINITION. Sparse maps: the one representation of memories, register files and bit sets of the state. A map
lists (key, value) pairs with strictly rising keys and lists no key whose value is the value `z` that an unlisted
key reads as, so equal maps are equal lists.
-/
namespace Sys2Proof.Machine

/-- A sparse map from numbers to values. -/
abbrev SMap (β : Type) := List (Nat × β)

/-- The value at key `k`; `z` where the map lists nothing. -/
def SMap.get {β : Type} (m : SMap β) (k : Nat) (z : β) : β :=
  match m with
  | [] => z
  | (a, b) :: r => if a = k then b else SMap.get r k z

/-- The map without what it lists at `k`. -/
def SMap.erase {β : Type} (m : SMap β) (k : Nat) : SMap β := m.filter (fun p => decide (p.1 ≠ k))

/-- The map with `v` listed at `k`, keys kept rising. -/
def SMap.insert {β : Type} (m : SMap β) (k : Nat) (v : β) : SMap β :=
  match m with
  | [] => [(k, v)]
  | (a, b) :: r =>
    if a < k then (a, b) :: SMap.insert r k v else if a = k then (k, v) :: r else (k, v) :: (a, b) :: r

/-- The map that reads `v` at `k`: writing the value an unlisted key reads as removes the entry. -/
def SMap.set {β : Type} [DecidableEq β] (m : SMap β) (k : Nat) (v z : β) : SMap β :=
  if v = z then SMap.erase m k else SMap.insert m k v

/-- The canonical form: keys strictly rising, no entry equal to what an unlisted key reads as. -/
def SMap.wf {β : Type} [DecidableEq β] (m : SMap β) (z : β) : Bool :=
  match m with
  | [] => true
  | (a, b) :: r => decide (b ≠ z) && r.all (fun p => decide (a < p.1)) && SMap.wf r z

/-- The map without the keys of [lo, hi). -/
def SMap.clearRange {β : Type} (m : SMap β) (lo hi : Nat) : SMap β :=
  m.filter (fun p => decide (p.1 < lo ∨ hi ≤ p.1))

/-- The entries of [lo, hi). -/
def SMap.range {β : Type} (m : SMap β) (lo hi : Nat) : SMap β :=
  m.filter (fun p => decide (lo ≤ p.1 ∧ p.1 < hi))

/-- The values at the `n` keys from `k` on. -/
def SMap.read {β : Type} (m : SMap β) (k n : Nat) (z : β) : List β :=
  match n with
  | 0 => []
  | n + 1 => SMap.get m k z :: SMap.read m (k + 1) n z

/-- The map with the listed values written from key `k` on. -/
def SMap.write {β : Type} [DecidableEq β] (m : SMap β) (k : Nat) (vs : List β) (z : β) : SMap β :=
  match vs with
  | [] => m
  | v :: r => SMap.write (SMap.set m k v z) (k + 1) r z

/-- An element put into a sorted list, after its equals. -/
def insertBy {α : Type} (le : α → α → Bool) (x : α) : List α → List α
  | [] => [x]
  | y :: r => if le x y && ! le y x then x :: y :: r else y :: insertBy le x r

/-- A list sorted, equals in their order. -/
def sortBy {α : Type} (le : α → α → Bool) (l : List α) : List α := l.foldl (fun a x => insertBy le x a) []

end Sys2Proof.Machine
end

