-- ==== Sys2Proof/Machine/State.lean ====
section
/-!
DEFINITION. The state of the module: everything the spec gives it, as plain data, and the state after reset.
Numbers that the spec adds, shifts or shows to software as words are bit vectors; identifiers, counts and memory
keys are natural numbers. The section that names each piece stands in its docstring.
-/
namespace Sys2Proof.Machine
open Sys2Proof

/-! ### What a load may see (R277 to R296) -/

/-- For each location, the place in its coherence order (R281) of the latest store that must be seen: a location that is
not listed, from its first. -/
abbrev View := SMap Nat

/-- An agent (R277): a thread by its core, workgroup, group and index. An engine acting for a job has index 1024 and stands for
the context of its job in place of a group; what is no agent of a workgroup has workgroup 0, and a core number beyond the
module's cores when it belongs to none. -/
structure Agent where
  core : Nat
  wid : Nat
  gi : Nat
  ti : Nat
  deriving DecidableEq, Repr

/-- What a store carries besides its bytes: its agent, its strength (0 plain, else the scope's code, R278), for each scope
0 to 6 what a release of its agent at that scope or a wider one had ordered before it (R279, R280, R289), and its stamp: the
die clock of its agent's die as it was performed there (R292), of no counters until then. -/
structure Stored where
  agent : Agent
  strong : Nat
  rel : List View
  stamp : List Nat
  deriving DecidableEq, Repr

/-- A store that a later one to its location has overwritten: its place in the coherence order, the bytes the location
held, those of them that it wrote as a set of bits, the tag they were written under (R408), and what it carries. -/
structure Version where
  pos : Nat
  bytes : List Byte
  mask : Nat
  tag : Nat
  info : Stored
  deriving DecidableEq, Repr

/-- The stores to one location (R278): the place of the newest, the bytes it wrote, what it carries, and the older ones, newest
first. -/
structure Versions where
  last : Nat
  mask : Nat
  info : Stored
  older : List Version
  deriving DecidableEq, Repr

/-- A store that a thread has seen at a location through one address (R281, R283, R284): the address and the location as
numbers of `locKey`, the place, and the narrowest scope that the thread shares with the store's agent. -/
structure Seen where
  va : Nat
  loc : Nat
  pos : Nat
  scope : Nat
  deriving DecidableEq, Repr

/-- A load whose result has not returned and that nothing later of its thread has followed yet, so that it may still be
performed (R281, R286): the order number of its results and their first register, its space as in `locKey`, the address that the
program gave and the place, its bytes, the version they are read under, its strength, and for each byte the place in the
coherence order of the store that it would now return; with what its thread has seen and may acquire once that is what it
returns. -/
structure Load where
  ord : Nat
  reg : Nat
  space : Nat
  addr : Nat
  place : Nat
  size : Nat
  ver : Nat
  strong : Nat
  picks : List Nat
  seen : List Seen
  acq : List View
  deriving DecidableEq, Repr

/-! ### Threads (R25, R34 to R37, R85, R174, R266) -/

/-- Why a thread is parked (R266), with what its wake needs. -/
inductive ParkKind where
  /-- A W marker: every result outstanding must return (R85); the PC of the W unit. `drain` when it is the drain
  before a handler's first instruction, which raises no DATA_POISON (R88, R370). -/
  | wait (unit : Word) (drain : Bool)
  /-- WAITPH on a barrier object, until its phase bit differs from the parity observed; `h` is the unit's W bit (R199). -/
  | phase (obj : Nat) (parity h : Bool)
  /-- CMWAIT on a chunk map with a mask (R203). -/
  | chunk (obj : Nat) (mask : Nat) (h : Bool)
  /-- LDS.FE or LDS.FEC on granules first to last (R190). -/
  | fullEmpty (first last : Nat)
  /-- A quire load in progress (R172). -/
  | quire (q : Nat)
  /-- SLEEPTO, until the deadline (R178). -/
  | sleep (deadline : Nat) (h : Bool)
  /-- PROOFW, its fetch pending at the forme unit (R237); `taken` once the fetch took effect. -/
  | proofw (job : Nat)
  /-- A full streamer port or matrix engine, with the places needed (R205, R214). -/
  | port (streamer : Bool) (need : Nat)
  /-- BARINIT or CMINIT with arrivals or jobs in flight on the object (R201, R203). -/
  | inFlight (obj : Nat)
  /-- A trap pending while another thread of the group is in handler state (R174). -/
  | handler
  /-- A recoverable translation fault, until record `seq` is resumed (R362). -/
  | fault (seq : Nat)
  /-- Trap delivery waiting for the handler's quire to load (R174): the handler's PC, the cause, its detail and its address. -/
  | delivery (vec : Word) (cause info addr : Nat)
  /-- A park whose condition has been met while another thread of its set still waits (R267): whether the thread goes
  past its unit, the unit's W bit, and the quire that the park was on. -/
  | met (past h : Bool) (q : Option Nat)
  deriving DecidableEq, Repr

/-- The run state of a thread (R266); being STOPPED by a debugger is kept beside it. -/
inductive RunState where
  | ready
  /-- Parked; threads parked together by one unit share `set` and wake together (R267). -/
  | parked (kind : ParkKind) (set : Nat)
  | exited
  deriving DecidableEq, Repr

/-- One V-class result not yet final (R85, R86): the register it goes to (R29 numbering, 128 + n for k_n), its value
once known, whether it has returned, whether its bytes were poisoned, the PC and the address of its instruction, the
asynchronous work that supplies the value when that is not known at issue, and whether a later instruction has
written the register before it became final. `ord` is the place of its instruction in the order of issue. -/
structure Pending where
  ord : Nat
  reg : Nat
  value : Word
  known : Bool
  returned : Bool
  poison : Bool
  pc : Word
  addr : Nat
  job : Nat
  late : Bool
  deriving DecidableEq, Repr

/-- A poison mark on a register (R370): the place, the PC and the address of the instruction whose result it is. -/
structure Mark where
  ord : Nat
  pc : Word
  addr : Nat
  deriving DecidableEq, Repr

/-- The state of one thread. -/
structure Thread where
  /-- v0 to v95 (R25); an unlisted register holds zero. -/
  v : SMap Word
  /-- k1 to k7 in bits 1 to 7; bit 0 is kept 0, k0 reads one (R29). -/
  k : BitVec 8
  /-- The PC (R34). -/
  pc : Word
  /-- The newest min(D, 16) return entries, newest first (R36). -/
  stack : List Word
  /-- The depth D of the return stack, 0 to 80 (R36). -/
  depth : Nat
  run : RunState
  /-- STOPPED by a debug stop (R266, R379), and whether it was READY when it stopped (R380). -/
  stopped : Bool
  offered : Bool
  /-- The unit whose next issue ignores breakpoints: the thread stopped at a match there (R378). -/
  pass : Option Word
  /-- The unit at which the thread stands since a translation fault, until it issues again: its copy is not complete (R158). -/
  redo : Option Word
  /-- The unwaited set, as register numbers (R85). -/
  unwaited : List Nat
  /-- Results outstanding (R85). -/
  pending : List Pending
  /-- Poison marks on v and k registers (R370). -/
  marks : List (Nat × Mark)
  /-- The RAND stream counter n (R117). -/
  stream : Nat
  /-- Handler state and the resume PC (R174). -/
  handler : Bool
  resume : Word
  /-- The age of R268. -/
  age : Nat
  /-- The thread has issued a YIELD in the cycle before (R163). -/
  yielded : Bool
  /-- What the thread must see (R281), what it has seen or stored itself, what its releases at each scope have ordered,
  what an acquire at each scope would add (R279, R280), and its loads that may still be performed. -/
  view : View
  own : List Seen
  rels : List View
  acq : List View
  loads : List Load
  deriving DecidableEq, Repr

/-! ### Groups and workgroups (R25, R42, R188, R198, R202, R261 to R264) -/

/-- The state of one group. -/
structure Group where
  /-- sys.gwidth, sys.lanebase, sys.role, sys.budget, sys.tbase (R42). -/
  width : Nat
  lanebase : Nat
  role : Nat
  budget : Nat
  tbase : Nat
  /-- g1 to g31 (R25); an unlisted register holds zero. -/
  g : SMap Word
  /-- Outstanding results to g registers, their marks, and the other of the two values that threads which have not yet waited
  may find (R85, R86): under the register's number the value that a result replaced, under that number and 256 the result that a
  write has replaced. -/
  gPending : List Pending
  gMarks : List (Nat × Mark)
  gOld : SMap Word
  /-- Group-level system registers (R42). -/
  trapvec : Word
  trapcause : BitVec 8
  trappc : Word
  traplane : BitVec 6
  trapaddr : DWord
  trapinfo : Word
  spill : Word
  seed : DWord
  /-- Registers of the workgroup that a saved image has given the group another value for, by index (R42, R352). -/
  sys : SMap Word
  /-- The shape table, 16 entries of 96 bytes (R142, R158). -/
  shapes : SMap Byte
  threads : List Thread
  deriving DecidableEq, Repr

/-- What a barrier slot holds for a registered object (R198, R202). -/
inductive Obj where
  /-- A phase barrier: the current phase's first nonzero status word, its error count, and the waiter bitmap. -/
  | barrier (code : Word) (errors : Nat) (waiters : BitVec 16)
  | chunkMap
  deriving DecidableEq, Repr

/-- One workgroup placed on a core. -/
structure Workgroup where
  /-- The model's number for it. -/
  wid : Nat
  part : Nat
  ctx : Nat
  core : Nat
  /-- Its launch: queue and count (R307). -/
  queue : Nat
  count : Nat
  wglin : Nat
  wgx : Nat
  wgy : Nat
  wgz : Nat
  /-- 3 + nlev, and the member index at levels 3 to 7 (R42, R311). -/
  levels : Nat
  lvl : List Nat
  /-- sys.slot (R262). -/
  slot : Nat
  /-- Entry PC, trap vector, constant block (R309). -/
  entry : Word
  consts : Nat
  started : Bool
  /-- Every thread has exited; the workgroup is kept while work still writes its scratch (R210). -/
  retired : Bool
  /-- Scratch: base on the core, demand, bytes, full bits and poisoned granules (R188, R189, R369). -/
  scratchBase : Nat
  scratchSize : Nat
  scratch : SMap Byte
  full : SMap Bool
  scratchPoison : SMap Bool
  /-- The stores to each granule (R278, R286), and what the wakes on objects acquire, by `syncKey` (R279). -/
  stores : SMap Versions
  sync : SMap View
  /-- Vault space: base in the home vault and demand; the home vaults that handles 1 and above name, as core and base
  (R182, R312). -/
  vaultBase : Nat
  vaultSize : Nat
  handles : List (Nat × Nat)
  /-- Registered objects by scratch offset (R198, R202). -/
  objects : List (Nat × Obj)
  /-- Pattern tables, 8 of 256 bytes (R158). -/
  patterns : SMap Byte
  /-- What the completions of its work in the engines have ordered (R315). -/
  work : View
  /-- Workgroups withdrawn by FETCHW and not yet marked done: queue, count, index (R180). -/
  fetched : List (Nat × Nat × Nat)
  groups : List Group
  deriving DecidableEq, Repr

/-! ### A context on a core (R13, R25, R28, R165, R213, R348) -/

/-- The state of one quire (R165). -/
inductive QuireState where
  | absent | loading | resident | failed | badEntry
  deriving DecidableEq, Repr

/-- A quire of a context on a core (R165 to R168): state, tokens, frames held, image bytes, the order in which it was
last entered (0 never), whether its entry marks it shareable, the set of frames that it maps, the image's digest, the
address a load reads it from, and while FAILED the QUIRE_ABSENT reason and address of the failure (R172, R351); and what the
fences of the threads that last requested it had ordered (R300). -/
structure Quire where
  q : Nat
  state : QuireState
  tokens : Nat
  frames : Nat
  image : SMap Byte
  length : Nat
  entered : Nat
  shareable : Bool
  store : Nat
  digest : Nat
  source : Nat
  why : Nat × Nat
  view : View
  deriving DecidableEq, Repr

/-- An accumulator tile (R25, R218, R226): mode, elements, poison marks, corrected count. -/
structure Tile where
  integer : Bool
  elems : SMap (BitVec 96)
  poison : SMap Bool
  corrected : Nat
  deriving DecidableEq, Repr

/-- A latch plane (R25, R219): format code, image bytes, bad mark. -/
structure Plane where
  fmt : Nat
  bytes : SMap Byte
  bad : Bool
  deriving DecidableEq, Repr

/-- Where a core keeps a context (R349). -/
inductive Where where
  | active | shadow | saved
  deriving DecidableEq, Repr

/-- The array state of one context on one core. -/
structure Resident where
  part : Nat
  ctx : Nat
  core : Nat
  loc : Where
  /-- Whether the core is being quiesced for a switch (R353). -/
  quiescing : Bool
  tiles : List Tile
  planes : List Plane
  /-- Paradigm slots p0 to p3: none when empty, else the image bytes (R28, R248). -/
  paradigms : List (Option (SMap Byte))
  quires : List Quire
  /-- Quires that a restore is still reloading: until they are back no thread of the context issues here (R351). -/
  reload : List Nat
  deriving DecidableEq, Repr

/-! ### Asynchronous work (R84, R197, R204 to R211, R213, R229) -/

/-- What a leaf gives: the page's base and size, its frame and attributes. -/
structure Page where
  base : Nat
  size : Nat
  frame : Nat
  ver : BitVec 8
  host : Bool
  hint : BitVec 2
  sc : Bool
  wr : Bool
  deriving DecidableEq, Repr

/-- What a piece of asynchronous work is. Command blocks are held as read at issue (R205, R229). -/
inductive JobKind where
  /-- A streamer job: command block, shape entry, the translated runs of its source once its checks have passed, and
  the chunks written (R206 to R209). -/
  | stream (cmd shape : List Byte) (source : Option (List (Nat × Nat × Page))) (chunks : List Nat)
  /-- A tier prefetch: range and barrier (R211). -/
  | tierpf (base len : Nat) (bar : Option Nat)
  /-- MLATB: image offset, barrier, format, plane (R219). -/
  | mlatb (image bar fmt plane : Nat)
  /-- MMA of one group: format, tile, plane, row base, barrier, and the (relative index, row offset) of its threads
  (R221). -/
  | mma (fmt tile plane rb bar : Nat) (rows : List (Nat × Nat))
  /-- MZERO that waits for earlier operations on its tile (R213, R218). -/
  | mzero (tile : Nat) (integer : Bool)
  /-- MREAD of one group: destination, tile, type, mode, saturation, and the (relative index, selection word, draws)
  of its participants (R223). -/
  | mread (d tile ty mode : Nat) (sat : Bool) (rows : List (Nat × Word × List Nat))
  /-- MSTORE: tile, type, destination, control words (R224, R225). -/
  | mstore (tile ty dst : Nat) (c0 c1 : Word)
  /-- MSTAT of one group (R226). -/
  | mstat (tile : Nat)
  /-- A forme-unit operation: major opcode, compact flag, command block, barrier (R229). -/
  | forme (major : Nat) (compact : Bool) (cmd : List Byte) (bar : Option Nat)
  /-- PROOFW whose fetch is pending: forme address, the forme's identity, the register its descriptor goes to, and
  the W bit of its unit (R237). -/
  | proofw (forme key d : Nat) (h : Bool)
  /-- PRSTAT: forme address, the forme's identity, entry, and the translated runs of the header and the entry
  (R239). -/
  | prstat (forme key entry : Nat) (pages : List (Nat × Nat × Page))
  /-- KVGATHER: control block, K or V, .PROOFED, and the (relative index, position) of its participants (R240). -/
  | gather (ctl : List Byte) (v proofed : Bool) (rows : List (Nat × Word))
  /-- LAUNCH on its way to the distributor: record bytes, queue, and the status of the checks made at issue (R179,
  R310). -/
  | launch (record : List Byte) (queue status : Nat)
  /-- FETCHW: mailbox offset and feed handle, and what the workgroup's next FETCHW on the feed has released, once it has issued
  (R180). -/
  | fetchw (mailbox : Nat) (handle : Word) (next : Option View)
  /-- A copy of TSHAPE (0, entry), XPLD (1, table) or PDLOAD (2, slot) with the bytes read (R158, R252). -/
  | copy (what index : Nat) (bytes : List Byte)
  deriving DecidableEq, Repr

/-- One piece of asynchronous work: its number in issue order, its issuing group and the threads of it that issued,
the PC of its unit and what it is. -/
structure Job where
  id : Nat
  part : Nat
  ctx : Nat
  core : Nat
  wid : Nat
  gi : Nat
  tis : List Nat
  pc : Word
  kind : JobKind
  /-- What its issue ordered before it (R297), and what it has written so far. -/
  view : View
  wrote : View
  /-- It has been waiting in the forme unit for an item to drain (R334); of a gather: it has been withdrawn (R241). -/
  waited : Bool
  deriving DecidableEq, Repr

/-! ### Launches, contexts and partitions (R306, R309, R314, R344, R346, R377, R385, R398) -/

/-- The state of a launch (R314), with the code its completion record shows. -/
inductive LaunchState where
  | queued | admitted | complete | failed | cancelled
  deriving DecidableEq, Repr

/-- One launch held by the distributor (R306 to R318). -/
structure Launch where
  queue : Nat
  count : Nat
  /-- The 256 record bytes as read (R309). -/
  record : List Byte
  state : LaunchState
  /-- First nonzero status word reported (R313). -/
  status : Word
  /-- Workgroups whose bits are set, and workgroups placed or withdrawn, by linear index. -/
  done : List Nat
  placed : List Nat
  tstart : DWord
  tend : DWord
  /-- Dependency ranges read from tables: 2 × workgroup + entry, and the 8-byte table entry (R316). -/
  ranges : SMap DWord
  /-- Dependencies already logged as failed (R317). -/
  depLogged : List Nat
  /-- The order in which it finished; 0 while unfinished (R317). -/
  finished : Nat
  /-- What its queueing has released, and what the setting of each workgroup's bit has (R179, R180, R315, R318). -/
  start : View
  gave : SMap View
  deriving DecidableEq, Repr

/-- A launch queue (R306). -/
structure Queue where
  qbase : DWord
  qdev : Bool
  qsize : BitVec 5
  qtail : Word
  qhead : Word
  /-- How often QHEAD has wrapped, the model's own: a launch's count is not taken modulo 2^32. -/
  laps : Nat
  deriving DecidableEq, Repr

/-- The state of a context (R346). -/
inductive CtxState where
  | none | live | closing | closed
  deriving DecidableEq, Repr

/-- One context: its control window and what the distributor and the dies keep for it. -/
structure Context where
  part : Nat
  ctx : Nat
  /-- Window registers of R346. -/
  ptroot : DWord
  savearea : DWord
  fqbase : DWord
  fqsize : BitVec 4
  fqhead : Word
  fqtail : Word
  frameq : BitVec 7
  strict : Bool
  cmd : BitVec 2
  state : CtxState
  fresume : Word
  invva : DWord
  invlog : BitVec 6
  invall : Bool
  invgo : Bool
  /-- FQVEC and FQEN (R398), FQLOST (R373). -/
  fqvec : BitVec 6
  fqen : Bool
  fqlost : Word
  /-- Trace registers (R385). -/
  trbase : DWord
  trmask : BitVec 8
  trsize : BitVec 4
  trlost : Word
  trhead : Word
  trtail : Word
  /-- Debug registers (R377); BPPC and BPEN in order. -/
  arm : Bool
  dscope : BitVec 2
  capture : Bool
  dcmd : BitVec 2
  noissue : Bool
  bpn : BitVec 3
  why : BitVec 4
  dstate : BitVec 2
  dhandle : Word
  dwg : Word
  dthr : BitVec 10
  dridx : BitVec 10
  bppc : List Word
  bpen : List Bool
  /-- A single step in progress: the workgroup whose threads it lets issue (R380). -/
  stepping : Option Nat
  /-- What the stop that stands holds (R379): the workgroup that began it (0 for HALT), whether its scope is the whole
  context, and the launches, by handle, that are its scope. -/
  stopper : Nat
  heldAll : Bool
  heldLaunches : List Word
  /-- The ranges of the invalidations in progress, as base and length (R361). -/
  invSpans : List (Nat × Nat)
  queues : SMap Queue
  launches : List Launch
  /-- The quire-table address, once a launch has been admitted (R164). -/
  qtable : Option Nat
  /-- The next fault sequence number (R362). -/
  seq : Nat
  deriving DecidableEq, Repr

/-- A partition descriptor and what the controller keeps for a partition (R344, R407). -/
structure Partition where
  clusters : BitVec 24
  stackSet : BitVec 8
  cachemode : BitVec 8
  vf : BitVec 3
  hbmq : DWord
  tierq : DWord
  vaultq : Word
  go : Bool
  up : Bool
  err : BitVec 8
  /-- The number of the partition's memory key pair; 0 for none. -/
  key : Nat
  /-- The distributor's place in the class sequence of R319, and the last queue served in each class, as
  64 × context + queue + 1. -/
  turn : Nat
  lastServed : List Nat
  deriving DecidableEq, Repr

/-! ### Translation and formes (R360, R362, R332) -/

/-- A translation held in a TLB (R360): the core of a micro-TLB, or 256 + die; tag, page and attributes. -/
structure TlbEntry where
  place : Nat
  part : Nat
  ctx : Nat
  base : Nat
  size : Nat
  frame : Nat
  ver : BitVec 8
  host : Bool
  hint : BitVec 2
  sc : Bool
  wr : Bool
  deriving DecidableEq, Repr

/-- A fault record waiting in its die's miss buffer for room in the fault queue (R360, R362): its 32 bytes. -/
structure FaultWait where
  part : Nat
  ctx : Nat
  core : Nat
  record : List Byte
  deriving DecidableEq, Repr

/-- A proof item that a workgroup has fetched (R332): forme (physical address of its record) and the address its
workgroup knows it by, entry, generation, layer, workgroup, and whether it is draining. -/
structure ProofItem where
  forme : Nat
  va : Nat
  entry : Nat
  gen : Nat
  layer : Nat
  wid : Nat
  draining : Bool
  deriving DecidableEq, Repr

/-- What a base die keeps for one 16 KiB block of a peer-mode stack (R389, R390): access counter, the hint of the
most recent translated access, and whether it has been accessed since the last epoch's end that found it room. -/
structure Block where
  count : BitVec 8
  hint : BitVec 2
  touched : Bool
  deriving DecidableEq, Repr

/-! ### The hub die (R382, R387, R389, R399 to R406) -/

/-- The migration registers of one stack (R389). -/
structure Migration where
  demote : BitVec 8
  promote : BitVec 8
  epoch : BitVec 16
  promoted : Word
  demoted : Word
  /-- The count when the last epoch ended or the stack's partition was set up: the model's own. -/
  since : Nat
  deriving DecidableEq, Repr

/-- The state of the recovery mailbox (R403). -/
inductive BootState where
  | booting | running | recovery | verifying
  deriving DecidableEq, Repr

/-- The SPDM connection state of one function (R406). -/
inductive Spdm where
  | start | version | capabilities | algorithms
  deriving DecidableEq, Repr

/-- What the responder has exchanged on a function that its signatures cover (R404, R405): the three opening exchanges,
the digest and certificate exchanges since the last challenge, the measurement exchanges since the last signature. -/
structure Heard where
  opening : List Byte
  slots : List Byte
  measured : List Byte
  deriving DecidableEq, Repr

/-- A store to a peer that has left and may still be in flight (R401): context, address, core, PC, who field. -/
structure SentStore where
  part : Nat
  ctx : Nat
  addr : Nat
  core : Nat
  pc : Nat
  who : Nat
  deriving DecidableEq, Repr

/-- What the module answers to a host access or request (R9, R397, R399, R405). -/
inductive Reply where
  /-- The bytes of a read. -/
  | data (bytes : List Byte)
  | unsupportedRequest
  | completerAbort
  /-- An SPDM response object on a function. -/
  | spdm (fn : Nat) (bytes : List Byte)
  /-- Data answered to a peer with its poison, or a refusal. -/
  | peer (bytes : List Byte) (poison : Bool)
  | peerRefused
  /-- The self-test's report of a failed part (R9): the record that the boot ROM measured into MR3. -/
  | selfTestFailed (record : List Byte)
  deriving DecidableEq, Repr

/-- The threads about to issue one unit (R270): the workgroup, its groups with the threads of each, and the PC. -/
structure IssueSet where
  wid : Nat
  members : List (Nat × List Nat)
  pc : Word
  deriving DecidableEq, Repr

/-- A trap (R368): cause, sys.trapinfo, sys.trapaddr. -/
structure Trap where
  cause : Nat
  info : Nat
  addr : Nat
  deriving DecidableEq, Repr

/-- What asks for a quire's load in a cycle (R169). -/
inductive Asker where
  /-- A thread of a group at its unit, with the trap that it takes before QUIRE_ABSENT (R172, R368). -/
  | reach (gi ti : Nat) (first : Option Trap) (set : Nat)
  /-- A thread whose trap is being delivered to its handler, with the handler's PC (R174). -/
  | deliver (gi ti : Nat) (t : Trap) (vec pc resume : Word) (set : Nat)
  /-- QLOAD or QPIN of a group, with the register that receives the status (R171). -/
  | status (gi d : Nat) (pin : Bool)
  deriving DecidableEq, Repr

/-- A load requested in the cycle, the unit's PC, and what the fences of the requesting threads have ordered before it
(R300). -/
structure LoadRequest where
  wid : Nat
  q : Nat
  pc : Word
  asker : Asker
  view : View
  deriving DecidableEq, Repr

/-- What a unit leaves for the end of its cycle (R43, R44, R169, R411): its workgroup, PC and length, its groups' trap vectors as
the cycle found them, the traps of its threads, and the loads that it asks for. -/
structure UnitEnd where
  wid : Nat
  pc : Word
  len : Nat
  vecs : List (Nat × Word)
  traps : List (Nat × Nat × Trap)
  loads : List LoadRequest
  deriving DecidableEq, Repr

/-- The state of the module. -/
structure State where
  /-- Device memory by physical address (R359), the key and version each granule was written under (R407 to R409,
  0 while never written) and poisoned 32-byte granules (R369). -/
  mem : List Host.Cell
  memTag : SMap Nat
  memPoison : SMap Bool
  /-- Vaults: core × 2^23 + offset (R13, R182), and poisoned 16-byte granules. -/
  vault : SMap Byte
  vaultPoison : SMap Bool
  /-- The stores to each aligned 8-byte part of device memory and of the vaults, by `locKey` (R278, R281), and the die clock
  of each compute die (R292). -/
  stores : SMap Versions
  dieClocks : List (List Nat)
  /-- What the host's own writes have put in place by its latest register write (R296, R361), what releases at .sys have made
  certain for the host and the peers (R289, R296), what each function of the host and each peer has read and written, by the
  number of the agent (R281, R283), and what the operations on each forme have released, by its identity (R231, R238). -/
  hostView : View
  sysView : View
  outsideViews : SMap View
  formeViews : SMap View
  /-- Migration state of 16 KiB blocks by physical block number, and the blocks held in the other medium (R389). -/
  blocks : SMap Block
  swapped : SMap Bool
  partitions : List Partition
  contexts : List Context
  residents : List Resident
  wgs : List Workgroup
  jobs : List Job
  /-- The number of the next job, workgroup, parked set and quire entry. -/
  nextId : Nat
  tlb : List TlbEntry
  missBuffer : List FaultWait
  items : List ProofItem
  /-- Host registers of the physical function: common library (R387), migration (R389), aperture base (R399), peer
  map and links (R400, R401). -/
  libbase : DWord
  libsize : DWord
  libstack : BitVec 3
  libkey : Nat
  migration : List Migration
  papbase : DWord
  peers : SMap DWord
  linkup : BitVec 12
  /-- Stores to peers that may still be in flight, oldest first (R401). -/
  sent : List SentStore
  /-- Aperture control of the eight virtual functions (R399). -/
  apctl : List Word
  apva : List DWord
  /-- Virtual functions the host has enabled through NumVFs, and functions whose AtomicOp Requester Enable is set
  (R344, R195); both are host configuration. -/
  numVfs : Nat
  atomicEn : BitVec 9
  /-- The time base (R382): the one count that every die reads (log entry 6), source, flags, rate, steps, step request; a step
  waiting for the 1PPS edge. -/
  time : DWord
  src : BitVec 2
  locked : Bool
  diverged : Bool
  steperr : Bool
  rate : Word
  steps : Word
  stepto : DWord
  ppsPending : Bool
  /-- The last multiple of 10^9 ns, as its quotient, whose passing has raised the 1PPS output (R384). -/
  ppsEdges : Nat
  /-- Arithmetic clock in MHz and power limit in W (R20). -/
  clock : Nat
  powerLimit : Nat
  /-- Recovery mailbox (R403) and the firmware image in flash; none is the image the module left manufacture with. -/
  rstate : BootState
  rerr : BitVec 8
  rcmd : BitVec 2
  rlen : Word
  window : SMap Byte
  flash : Option (List Byte)
  /-- A failed self-test keeps the module out of service (R9). -/
  inService : Bool
  /-- Measurement registers MR0 to MR15 (R402). -/
  mrs : List (BitVec 256)
  /-- Key pairs drawn so far (R407). -/
  keys : Nat
  /-- SPDM connection state of each function, PF first (R405). -/
  spdm : List Spdm
  heard : List Heard
  /-- What the host has been sent: replies, and MSI-X messages as function and vector (R398). -/
  replies : List Reply
  messages : List (Nat × Nat)
  /-- Host accesses, host requests and outside events not yet served, oldest first. -/
  inbox : List Instr
  /-- The set that exec acts for; set by step (R270). -/
  issue : IssueSet
  /-- While both slots issue in one cycle, what their units leave for the cycle's end is kept (R169, R411). -/
  holdEnds : Bool
  ends : List UnitEnd
  /-- The model's own counter: how many free values the steps so far have been given. -/
  draws : Nat
  deriving DecidableEq, Repr

/-- Why a step stops the machine. -/
inductive Fault where
  /-- The self-test failed and the module is out of service (R9): raised by `step` alone, when nothing is left that
  the module could do. Safe: the hardware runs no program from there either. -/
  | outOfService
  deriving DecidableEq, Repr

/-- Why the model declines a step. -/
inductive Refusal where
  /-- The instruction has no meaning in the model yet; raised by an arm of `exec` alone. Safe: nothing can be proved
  about what it does. -/
  | notModelled (mnemonic : String)
  deriving DecidableEq, Repr

/-- A function whose connection state is at its start (R405). -/
def Heard.none : Heard := { opening := [], slots := [], measured := [] }

/-- A partition descriptor after reset (R344). -/
def Partition.reset : Partition :=
  { clusters := 0, stackSet := 0, cachemode := 0, vf := 0, hbmq := 0, tierq := 0, vaultq := 0, go := false, up := false,
    err := 0, key := 0, turn := 0, lastServed := [0, 0, 0, 0] }

/-- A launch queue after reset (R306). -/
def Queue.reset : Queue := { qbase := 0, qdev := false, qsize := 0, qtail := 0, qhead := 0, laps := 0 }

/-- A context after reset (R346, R373, R377, R385, R398). -/
def Context.reset (part ctx : Nat) : Context :=
  { part := part, ctx := ctx, ptroot := 0, savearea := 0, fqbase := 0, fqsize := 0, fqhead := 0, fqtail := 0,
    frameq := 0, strict := false, cmd := 0, state := .none, fresume := 0, invva := 0, invlog := 0, invall := false,
    invgo := false, fqvec := 0, fqen := false, fqlost := 0, trbase := 0, trmask := 0, trsize := 0, trlost := 0,
    trhead := 0, trtail := 0, arm := false, dscope := 0, capture := false, dcmd := 0, noissue := false, bpn := 0,
    why := 0, dstate := 0, dhandle := 0, dwg := 0, dthr := 0, dridx := 0, bppc := List.replicate 8 0,
    bpen := List.replicate 8 false, stepping := none, stopper := 0, heldAll := false, heldLaunches := [], invSpans := [], queues := [], launches := [], qtable := none, seq := 0 }

/-- A tile when its life begins: A96F, every element +0 (R25). -/
def Tile.reset : Tile := { integer := false, elems := [], poison := [], corrected := 0 }

/-- A latch plane when its life begins: zero bytes, format E4M3 (R25). -/
def Plane.reset : Plane := { fmt := 0, bytes := [], bad := false }

/-- The array state of a context that a core has just made ACTIVE with an empty image (R349). -/
def Resident.reset (part ctx core : Nat) : Resident :=
  { part := part, ctx := ctx, core := core, loc := .active, quiescing := false,
    tiles := List.replicate 4 Tile.reset, planes := List.replicate 2 Plane.reset,
    paradigms := List.replicate 4 none, quires := [], reload := [] }

/-- The migration registers of a stack after reset (R389). -/
def Migration.reset : Migration := { demote := 2, promote := 8, epoch := 1000, promoted := 0, demoted := 0, since := 0 }

/-- A thread that starts: its index in v0, PC at the entry, READY (R25, R266). -/
def Thread.start (i : Nat) (entry : Word) : Thread :=
  { v := if i = 0 then [] else [(0, BitVec.ofNat 32 i)], k := 0, pc := entry, stack := [], depth := 0, run := .ready,
    stopped := false, offered := false, pass := none, redo := none, unwaited := [], pending := [], marks := [], stream := 0, handler := false,
    resume := 0, age := 0, yielded := false, view := [], own := [], rels := [], acq := [], loads := [] }

/-- A group that starts, with the trap vector of its launch record (R25, R42). Log entry 27. -/
def Group.start (width lanebase role budget tbase : Nat) (trapvec entry : Word) : Group :=
  { width := width, lanebase := lanebase, role := role, budget := budget, tbase := tbase, g := [], gPending := [],
    gMarks := [], gOld := [], trapvec := trapvec, trapcause := 0, trappc := 0, traplane := 0, trapaddr := 0,
    trapinfo := 0, spill := 0, seed := 0, sys := [], shapes := [],
    threads := (List.range width).map (fun i => Thread.start i entry) }

/-- An issue set of nothing. -/
def IssueSet.empty : IssueSet := { wid := 0, members := [], pc := 0 }

/-- The module right after reset: no partition, no context, no workgroup; every register at its Reset value.
Log entries 2, 3, 14 and 15. -/
def State.reset : State :=
  { mem := [], memTag := [], memPoison := [], vault := [], vaultPoison := [], stores := [],
    dieClocks := List.replicate 4 [0, 0, 0, 0], hostView := [], sysView := [], outsideViews := [], formeViews := [], blocks := [], swapped := [],
    partitions := List.replicate 8 Partition.reset, contexts := [], residents := [], wgs := [], jobs := [],
    nextId := 1, tlb := [], missBuffer := [], items := [], libbase := 0, libsize := 0, libstack := 0, libkey := 0,
    migration := List.replicate 8 Migration.reset, papbase := 0, peers := [], linkup := 0, sent := [],
    apctl := List.replicate 8 0, apva := List.replicate 8 0, numVfs := 0, atomicEn := 0, time := 0, src := 0,
    locked := false, diverged := false, steperr := false, rate := 0, steps := 0, stepto := 0, ppsPending := false,
    ppsEdges := 0, clock := 1400, powerLimit := 2600, rstate := .booting, rerr := 0, rcmd := 0, rlen := 0,
    window := [], flash := none, inService := true, mrs := List.replicate 16 0, keys := 0,
    spdm := List.replicate 9 .start, heard := List.replicate 9 Heard.none, replies := [], messages := [], inbox := [], issue := IssueSet.empty, holdEnds := false, ends := [], draws := 0 }

end Sys2Proof.Machine
end

