-- ==== Sys2Proof/Machine/Views.lean ====
section
/-!
DEFINITION. Which stores a load may see (R277 to R296): the coherence order of each location with the stores that later
ones have overwritten, what each thread must see, what releases and acquires pass on, and the die clocks. Memory itself holds
the newest store of every location. Log entry 1.
-/
namespace Sys2Proof.Machine
open Sys2Proof

/-! ### Locations and views -/

/-- A location as one number: 0 device memory, 1 the vaults, 2 the counters of the die clocks, 4 + workgroup its scratch; the
addresses of device memory and of the vaults as programs write them are in the same spaces. -/
def locKey (space i : Nat) : Nat := space * 2 ^ 64 + i
/-- The space of a workgroup's scratch, and a granule in it. -/
def scratchSpace (wid : Nat) : Nat := 4 + wid
def scratchKey (wid g : Nat) : Nat := locKey (scratchSpace wid) g
/-- Counter f of a die clock: a view that holds it asks for the first stores of die f, by number (R293). -/
def dieKey (f : Nat) : Nat := locKey 2 f
/-- A location as later stores find it: a view that holds it asks that they follow that place, not that loads see it
(R281). -/
def afterKey (loc : Nat) : Nat := 2 ^ 200 + loc

/-- The bound that a view sets for a location. -/
def View.at (v : View) (loc : Nat) : Nat := SMap.get v loc 0
/-- A view that also asks for place `p` of a location. -/
def View.raise (v : View) (loc p : Nat) : View := if p ≤ v.at loc then v else SMap.insert v loc p
/-- What two views ask for together. -/
def View.join (v u : View) : View := u.foldl (fun a x => View.raise a x.1 x.2) v

/-- The view of scope m in a list by scope. -/
def viewAt (vs : List View) (m : Nat) : View := (vs[m]?).getD []
/-- Two lists by scope, joined scope by scope. -/
def joinAll (a b : List View) : List View := (List.range (max a.length b.length)).map (fun m => (viewAt a m).join (viewAt b m))
/-- A list by scope with a view at one scope alone. -/
def viewOf (m : Nat) (v : View) : List View := (List.range (m + 1)).map (fun k => if k = m then v else [])

/-! ### Agents (R277, R292, R299) -/

/-- What a core's own units do for no job (table walks, quire loads), and what the hub die does, the root core's die (R277,
R292). -/
def Agent.unit (core : Nat) : Agent := { core := core, wid := 0, gi := 0, ti := 1024 }
def Agent.hub : Agent := Agent.unit 192
/-- The host through function fn, and peer d: agents of .sys alone (R277, R296). -/
def Agent.host (fn : Nat) : Agent := { core := 200 + fn, wid := 0, gi := 0, ti := 1024 }
def Agent.peer (d : Nat) : Agent := { core := 300 + d, wid := 0, gi := 0, ti := 1024 }
/-- The forme unit of a compute die (R23, R277). -/
def Agent.formeUnit (die : Nat) : Agent := { core := 400 + die, wid := 0, gi := 0, ti := 1024 }
/-- An engine acting for a job of a workgroup: an agent of the core that issued it (R277). -/
def Agent.engine (core wid part ctx : Nat) : Agent := { core := core, wid := wid, gi := 64 * part + ctx, ti := 1024 }

/-- Whether an agent is the host or a peer. -/
def Agent.outside (a : Agent) : Bool := decide (200 ≤ a.core ∧ a.core < 400)
/-- The compute die that an agent's stores are stamped as: the root core and the host as die 0 (R292). A load of the root core's is
placed at die 0 too: log entry 1. -/
def Agent.die (a : Agent) : Nat := if a.core < 192 then a.core / 48 else a.core - 400
/-- The die whose clock bounds an agent's loads (R293); the host and the peers have none (R296). -/
def Agent.reader (a : Agent) : Nat := if a.outside then 4 else a.die
/-- The narrowest scope whose instance holds two agents (R277). -/
def Agent.shared (a b : Agent) : Nat :=
  if a = b then 0
  else if a.outside || b.outside then 6
  else if a.wid = b.wid ∧ a.wid ≠ 0 then (if a.gi = b.gi ∧ a.ti < 1024 ∧ b.ti < 1024 then 1 else 2)
  else if a.core < 192 ∧ b.core < 192 ∧ a.core / 8 = b.core / 8 then 3
  else if a.core ≠ 192 ∧ b.core ≠ 192 ∧ a.die = b.die then 4
  else 5

/-! ### The coherence order of a location (R281) -/

/-- The store of an agent, not yet performed at its die. -/
def Stored.by (a : Agent) : Stored := { agent := a, strong := 0, rel := [], stamp := [] }
/-- The initial contents of a location, as a store that every die has applied (R281). -/
def Stored.none : Stored := { agent := Agent.hub, strong := 0, rel := [], stamp := [0, 0, 0, 0] }
/-- A location nothing has written since the memory's life began. -/
def Versions.none : Versions := { last := 0, mask := 0, info := Stored.none, older := [] }

/-- Places that a new store leaves below it for stores that turn out to come before it. -/
def storeGap : Nat := 2 ^ 32

/-- A location overwritten in the bytes of `mask`: what it held joins the older stores (R281). -/
def pushStore (h : SMap Versions) (loc : Nat) (old : List Byte) (mask tag : Nat) : SMap Versions :=
  let v := SMap.get h loc Versions.none
  SMap.insert h loc { last := v.last + storeGap, mask := mask, info := Stored.by Agent.hub,
                      older := { pos := v.last, bytes := old, mask := v.mask, tag := tag, info := v.info } :: v.older }
/-- The newest store of a location marked with what it carries. -/
def markStore (h : SMap Versions) (loc : Nat) (i : Stored) : SMap Versions :=
  let v := SMap.get h loc Versions.none
  SMap.insert h loc { v with info := i }
/-- The newest store of a location marked as a read-modify-write's: it extends what the store it read carried (R279), and nothing
may come between the two (R290). -/
def markRmw (h : SMap Versions) (loc : Nat) (i : Stored) : SMap Versions :=
  let v := SMap.get h loc Versions.none
  match v.older with
  | o :: _ => SMap.insert h loc { v with last := o.pos + 1, info := { i with rel := joinAll i.rel o.info.rel } }
  | _ => SMap.insert h loc { v with info := i }
/-- The bytes of a location that cells, as byte and value, write. -/
def cellMask (cells : List (Nat × Byte)) : Nat := cells.foldl (fun m c => m ||| 2 ^ c.1) 0
/-- The newest store of a location shared out among the lanes of the unit that made it, in ascending lane order: one store for
each, with what that carries (R185, R191). `base` is what the location held before, under the tag of now. -/
def markLanes (h : SMap Versions) (loc : Nat) (base : List Byte) (tag : Nat) (ls : List (List (Nat × Byte) × Stored)) : SMap Versions :=
  let v := SMap.get h loc Versions.none
  let first := match v.older with | o :: _ => o.pos | _ => 0
  let steps := ls.foldl (fun (acc : List Version) l =>
    let b := match acc with | o :: _ => (o.pos, o.bytes) | _ => (first, base)
    { pos := b.1 + 1, bytes := l.1.foldl (fun bs c => bs.set c.1 c.2) b.2, mask := cellMask l.1, tag := tag, info := l.2 } :: acc) []
  match steps with
  | top :: mids => SMap.insert h loc { v with mask := top.mask, info := top.info, older := mids ++ v.older }
  | _ => h

/-- The place, the bytes written and the tag of the store after the k-th older one. -/
def Versions.next (v : Versions) (k tag : Nat) : Nat × Nat × Nat :=
  if k = 0 then (v.last, v.mask, tag) else ((v.older[k - 1]?).map (fun o => (o.pos, o.mask, o.tag))).getD (0, 0, 0)

/-- The older stores that a new store of the bytes in `mask` may follow at once, though later stores are there already (R281,
R284, R286): those from `floor` on whose next store writes every one of the bytes, under the same tag. -/
def Versions.slots (v : Versions) (floor mask tag : Nat) : List Nat :=
  (List.range v.older.length).filter (fun k => match v.older[k]? with
    | some o => decide (floor ≤ o.pos) && (o.tag == 0 || o.tag == tag) && decide (o.pos + 2 ≤ (v.next k tag).1)
        && (v.next k tag).2.1 &&& mask == mask && (v.next k tag).2.2 == tag
    | _ => false)

/-- A store put after the k-th older one: its place in the order, and the location with it. A read-modify-write follows what it
has read at once (R290). -/
def Versions.slip (v : Versions) (k : Nat) (rmw : Bool) (cells : List (Nat × Byte)) (mask tag : Nat) (i : Stored) : Versions × Nat :=
  match v.older[k]? with
  | some o =>
    let pos := if rmw then o.pos + 1 else (o.pos + (v.next k tag).1) / 2
    ({ v with older := v.older.take k ++
        { pos := pos, bytes := cells.foldl (fun b c => b.set c.1 c.2) o.bytes, mask := mask, tag := tag,
          info := if rmw then { i with rel := joinAll i.rel o.info.rel } else i } :: v.older.drop k }, pos)
  | _ => (v, v.last)

/-- What the store at a place carries. -/
def Versions.info? (v : Versions) (pos : Nat) : Option Stored :=
  if v.last = pos then some v.info else (v.older.find? (fun o => o.pos == pos)).map (·.info)
/-- The store whose byte i a location holds at a place, the latest so far that wrote the byte: whose value a load of the byte
returns (R279). Log entry 1. -/
def Versions.author (v : Versions) (pos i : Nat) : Stored :=
  if v.last ≤ pos ∧ v.mask.testBit i = true then v.info
  else ((v.older.find? (fun o => decide (o.pos ≤ pos) && o.mask.testBit i)).map (·.info)).getD Stored.none
/-- The place of an agent's latest store to a location. -/
def Versions.placeOf (v : Versions) (a : Agent) : Nat :=
  if v.info.agent = a then v.last else ((v.older.find? (fun o => o.info.agent == a)).map (·.pos)).getD 0
/-- The latest place of the stores of some agents to a location. -/
def Versions.placeWhere (v : Versions) (hit : Agent → Bool) : Nat :=
  v.older.foldl (fun m o => if hit o.info.agent then max m o.pos else m) (if hit v.info.agent then v.last else 0)
/-- The places of a location's stores, oldest first. -/
def Versions.places (v : Versions) : List Nat := ((v.older.map (·.pos)).reverse) ++ [v.last]

/-! ### The die clocks (R292 to R294) -/

/-- Counter f of a clock or stamp. -/
def counter (clock : List Nat) (f : Nat) : Nat := (clock[f]?).getD 0
/-- The later of two clocks, counter by counter. -/
def joinClock (a b : List Nat) : List Nat := (List.range 4).map (fun f => max (counter a f) (counter b f))
/-- Whether the die with number e has applied a store, by its clock; its own agents' from when they are performed (R293). -/
def Stored.applied (i : Stored) (e : Nat) (clock : List Nat) : Bool :=
  ! i.stamp.isEmpty && (i.agent.die == e || decide (counter i.stamp i.agent.die ≤ counter clock i.agent.die))
/-- The latest place of a location that a die has applied. -/
def Versions.top (v : Versions) (e : Nat) (clock : List Nat) : Nat :=
  v.older.foldl (fun m o => if o.info.applied e clock then max m o.pos else m) (if v.info.applied e clock then v.last else 0)
/-- Whether a die holds a store, or may still apply it: one that is earlier than a store it has applied is superseded
(R293). -/
def Stored.reaches (i : Stored) (pos e : Nat) (clock : List Nat) (v : Versions) : Bool :=
  i.agent.die == e || i.applied e clock || decide (v.top e clock ≤ pos)
/-- The latest place that a view's counters ask a die's observer to see: the stores of the other dies that they cover
(R293). -/
def Versions.covered (v : Versions) (e : Nat) (view : View) : Nat :=
  let hit (i : Stored) : Bool := ! i.stamp.isEmpty && i.agent.die != e && decide (counter i.stamp i.agent.die ≤ view.at (dieKey i.agent.die))
  v.older.foldl (fun m o => if hit o.info then max m o.pos else m) (if hit v.info then v.last else 0)
/-- What an observer of a die must see of a location by its view. -/
def Versions.bound (v : Versions) (e : Nat) (view : View) (loc : Nat) : Nat := max (view.at loc) (v.covered e view)

/-- The stores of the module's memories with the die clocks. -/
abbrev Ledger := SMap Versions × List (List Nat)
/-- A store performed at its agent's die: the die's own counter is incremented and the store takes the clock as its stamp
(R292). -/
def Ledger.perform (m : Ledger) (loc pos : Nat) : Ledger :=
  let v := SMap.get m.1 loc Versions.none
  match v.info? pos with
  | some i =>
    if i.stamp.isEmpty then
      let d := i.agent.die
      let c := (List.range 4).map (fun f => counter ((m.2[d]?).getD []) f + natOfBool (f == d))
      let mark (x : Stored) : Stored := { x with stamp := c }
      (SMap.insert m.1 loc { v with
          info := if v.last = pos then mark v.info else v.info
          older := v.older.map (fun o => if o.pos = pos then { o with info := mark o.info } else o) }, m.2.set d c)
    else m
  | none => m
/-- A store applied at die e, after all that its stamp covers (R293). -/
def Ledger.apply (e : Nat) (m : Ledger) (loc pos : Nat) : Ledger :=
  let m1 := m.perform loc pos
  match (SMap.get m1.1 loc Versions.none).info? pos with
  | some i => (m1.1, m1.2.modify e (fun c => joinClock c i.stamp))
  | none => m1
/-- What a release has ordered made certain: the stores of a view performed at their die; at .dev applied at all four dies
(R289, R293). -/
def Ledger.certain (m : Ledger) (view : View) (wide : Bool) : Ledger :=
  view.foldl (fun m x => (((SMap.get m.1 x.1 Versions.none).places).filter (fun p => decide (p ≤ x.2))).foldl (fun m p =>
    if wide then (List.range 4).foldl (fun m e => Ledger.apply e m x.1 p) m else m.perform x.1 p) m) m
/-- What the dies perform and apply by themselves: any store that has not been superseded there, at any time (R293, R294).
Log entry 1. -/
def Ledger.drift (draw : Nat) (m : Ledger) : Ledger :=
  m.1.foldl (fun m x => x.2.places.foldl (fun m p => (List.range 4).foldl (fun m e =>
    let v := SMap.get m.1 x.1 Versions.none
    if Config.choose draw (2 ^ 300 + 4 * (x.1 * 2 ^ 64 + p) + e) % 2 = 1 ∧ v.top e ((m.2[e]?).getD []) ≤ p then Ledger.apply e m x.1 p
    else m) m) m) m

/-- What a thread that has read a store of another die finds there: all that its die has applied by then (R293). -/
def dieView (e : Nat) (clock : List Nat) : View :=
  ((List.range 4).filter (· != e)).foldl (fun v f => v.raise (dieKey f) (counter clock f)) []

/-! ### What one read may return (R281, R282, R293, R408) -/

/-- What one read of a location by an agent of die e may return: its bytes, the place and what the store carries. The newest
store comes first; then every older one that the bound permits, that was written under the tag now read, and that the die
holds. -/
def Versions.permitted (v : Versions) (e : Nat) (clock : List Nat) (bound tag : Nat) (now : List Byte) : List (List Byte × Nat × Stored) :=
  (now, v.last, v.info) :: (v.older.filter (fun o => decide (bound ≤ o.pos) && (o.tag == 0 || o.tag == tag)
    && o.info.reaches o.pos e clock v)).map (fun o => (o.bytes, o.pos, o.info))
/-- The choice among them. Log entry 1. -/
def Versions.pick (v : Versions) (e : Nat) (clock : List Nat) (bound tag : Nat) (now : List Byte) (c : Nat) : List Byte × Nat × Stored :=
  match v.permitted e clock bound tag now with
  | [r] => r
  | all => (all[c % all.length]?).getD (now, v.last, v.info)

/-! ### Threads (R279 to R284) -/

/-- The bound for a thread's read of a location through an address: what it must see, and what it has itself seen or
stored through that address (R281, R283, R284). -/
def Thread.bound (t : Thread) (va loc : Nat) : Nat :=
  (t.own.filter (fun x => x.va == va && x.loc == loc)).foldl (fun m x => max m x.pos) (t.view.at loc)
/-- The place that a thread's store to a location through an address must follow (R281). -/
def Thread.floor (t : Thread) (va loc : Nat) : Nat := max (t.bound va loc) (t.view.at (afterKey loc))

/-- A store seen, or made, through an address: it replaces those that it makes idle, the earlier ones of a scope no
narrower. -/
def Thread.note (t : Thread) (x : Seen) : Thread :=
  { t with own := x :: t.own.filter (fun y => ! (y.va == x.va && y.loc == x.loc && decide (y.pos ≤ x.pos) && decide (x.scope ≤ y.scope))) }

/-- What a thread has seen, and what its later fence acquires take of it. -/
def Thread.take (t : Thread) (seen : List Seen) (acq : List View) : Thread :=
  let u := seen.foldl Thread.note t
  { u with acq := joinAll u.acq acq }
/-- The loads of a thread that may still be performed are performed now, with what they have found. -/
def Thread.freeze (t : Thread) : Thread := { t.loads.foldl (fun t l => t.take l.seen l.acq) t with loads := [] }
/-- Those among them that an access of the thread's own to the same locations, through the same address, now follows (R283). -/
def Thread.follow (t : Thread) (space addr size : Nat) : Thread :=
  let hit (l : Load) : Bool := l.space == space && rangesMeet l.addr l.size addr size
  { (t.loads.filter hit).foldl (fun t l => t.take l.seen l.acq) t with loads := t.loads.filter (fun l => ! hit l) }

/-- What a release of a thread at a scope orders (R280, R287, R289): what the thread must see, its own stores, and what
it has seen of agents within the scope. Later stores follow all that it has seen (R281). -/
def Thread.released (t : Thread) (scope : Nat) : View :=
  let u := t.freeze
  (u.own.filter (fun x => decide (x.scope ≤ scope))).foldl (fun v x => v.raise x.loc x.pos)
    (u.own.foldl (fun v x => v.raise (afterKey x.loc) x.pos) u.view)

/-- A fence release at a scope (R279): it adds to what earlier ones have ordered. -/
def Thread.release (t : Thread) (scope : Nat) : Thread :=
  let v := t.released scope
  let u := t.freeze
  { u with rels := (List.range 7).map (fun m => if m ≤ scope then (viewAt u.rels m).join v else viewAt u.rels m) }

/-- A fence acquire at a scope (R279): the thread must see what the releases it has read from ordered. -/
def Thread.acquire (t : Thread) (scope : Nat) : Thread :=
  let u := t.freeze
  { u with
    view := (List.range 7).foldl (fun v m => if m ≤ scope then v.join (viewAt u.acq m) else v) u.view
    acq := (List.range 7).map (fun m => if m ≤ scope then [] else viewAt u.acq m) }

/-- What a full fence at .cl or wider adds (R284): accesses through two addresses of one location are ordered. -/
def Thread.align (t : Thread) : Thread :=
  let u := t.freeze
  { u with view := u.own.foldl (fun v x => v.raise x.loc x.pos) u.view }

/-- What a thread must see from now on (a wake, a start, an acquire that an instruction's entry names). -/
def Thread.learn (t : Thread) (v : View) : Thread :=
  let u := t.freeze
  { u with view := u.view.join v }

/-- The scope at which a fence acquire takes what a store carries, with that view: two mutually strong accesses synchronise at
the narrowest scope they share (R279, R289). A store of the host or of a peer carries the earlier ones of its function, which are
applied before it for whoever reads it (R296): any acquire takes them, since it orders the reader's later accesses (R287).
Log entry 1. -/
def Stored.passes (i : Stored) (me : Agent) (strong : Nat) : Option (Nat × View) :=
  let m := i.agent.shared me
  if i.agent.outside then some (1, viewAt i.rel 6)
  else if m ≤ i.strong ∧ m ≤ strong then some (m, viewAt i.rel m) else Option.none

/-- What the fences of a thread at .dev and wider have ordered, which the load engine finds when the thread requests a quire
(R300). -/
def Thread.code (t : Thread) : View := viewAt t.rels 5

/-- What a store of a thread carries (R279, R289). -/
def Thread.carries (t : Thread) (me : Agent) (strong : Nat) : Stored := { agent := me, strong := strong, rel := t.rels, stamp := [] }
/-- What a store that is itself a release at .wg carries (R279, R287). -/
def Thread.carriesRelease (t : Thread) (me : Agent) : Stored := (t.release 2).carries me 2

/-! ### Engines and the module -/

/-- Where a workgroup keeps what the wakes on an object acquire (R279): 0 the arrivals of the current phase, 1 those of the phase
that flipped last, 2 + i the setting of chunk bit i. -/
def syncKey (a k : Nat) : Nat := 128 * a + k

/-- The stores of the module with the die clocks, and the state with them changed. -/
def State.ledger (s : State) : Ledger := (s.stores, s.dieClocks)
def State.withLedger (s : State) (m : Ledger) : State := { s with stores := m.1, dieClocks := m.2 }
/-- What the fences of a thread have ordered is made certain before its next store (R289, R293, R296). -/
def State.settleFences (s : State) (t : Thread) : State :=
  { s.withLedger ((s.ledger.certain (viewAt t.rels 4) false).certain (viewAt t.rels 5) true) with sysView := s.sysView.join (viewAt t.rels 6) }
/-- The clock of a die. -/
def State.clockOf (s : State) (e : Nat) : List Nat := (s.dieClocks[e]?).getD []

/-- The stores of a location that the engines of a core have made for a context: a later job's access follows them, since
footprints that meet are ordered (R210, R298). -/
def Versions.engines (v : Versions) (who : Agent) : Nat :=
  let hit (i : Stored) : Bool := who.ti == 1024 && who.wid != 0 && i.agent.ti == 1024 && i.agent.wid != 0 && i.agent.core == who.core && i.agent.gi == who.gi
  v.older.foldl (fun m o => if hit o.info then max m o.pos else m) (if hit v.info then v.last else 0)

/-- What some agents have stored, as a view. -/
def State.madeBy (s : State) (hit : Agent → Bool) : View :=
  s.stores.filterMap (fun x => let p := x.2.placeWhere hit; if p = 0 then none else some (x.1, p))
/-- The host writes a register by which the module comes to use what the host has written to memory: its writes are in place by
then (R296, R361). Log entry 1. -/
def State.hostOrders (s : State) : State :=
  { s with hostView := s.hostView.join (s.madeBy (fun a => a.outside && decide (a.core < 300))) }
/-- What an agent outside the module finds (R281, R283, R289, R296): what releases at .sys have made certain, and what it has itself
read and written; and the state once it has read or written more. -/
def State.outsideView (s : State) (who : Agent) : View := s.sysView.join (SMap.get s.outsideViews who.core [])
def State.outsideSees (s : State) (who : Agent) (v : View) : State :=
  { s with outsideViews := SMap.insert s.outsideViews who.core ((SMap.get s.outsideViews who.core []).join v) }

/-- One read of a location: its number, and what the read returned. -/
abbrev Sight := Nat × List Byte × Nat × Stored
/-- Whether a read of an agent of die e returned a store of another die. -/
def Sight.foreign (e : Nat) (x : Sight) : Bool := decide (0 < x.2.2.1) && e != 4 && x.2.2.2.agent.die != e
/-- The dies' clocks once an agent of die e has read: its die has applied what was read from the others (R293). -/
def State.reached (s : State) (e : Nat) (xs : List Sight) : State :=
  s.withLedger ((xs.filter (Sight.foreign e)).foldl (fun m x => Ledger.apply e m x.1 x.2.2.1) s.ledger)
/-- What an acquire after those reads orders, beyond what the stores carry (R293). -/
def State.crossing (s : State) (e : Nat) (xs : List Sight) : View := if xs.any (Sight.foreign e) then dieView e (s.clockOf e) else []

/-- The newest stores of the locations that differ between two records of them, as a view. -/
def wroteSince (old new : SMap Versions) : View :=
  new.filterMap (fun x => if (SMap.get old x.1 Versions.none).last = x.2.last then none else some (x.1, x.2.last))
/-- Those stores marked as an agent's. -/
def markSince (old new : SMap Versions) (i : Stored) : SMap Versions :=
  new.map (fun x => if (SMap.get old x.1 Versions.none).last = x.2.last then x else (x.1, { x.2 with info := i }))

end Sys2Proof.Machine
end

