-- ==== Sys2Proof/Machine/Memory.lean ====
section
/-!
DEFINITION. Device memory: the physical map (R359), bytes with their encryption tag and poison (R369, R407 to R409),
access counters (R389), translation (R356 to R360), and the records that the module writes there itself: the fault
queue (R362, R372, R373) and the trace ring (R385).
-/
namespace Sys2Proof.Machine
open Sys2Proof

/-! ### Looking up and changing parts of the state -/

/-- The partition descriptor of partition p. -/
def State.part (s : State) (p : Nat) : Partition := (s.partitions[p]?).getD Partition.reset
/-- The state with partition p changed. -/
def State.modPart (s : State) (p : Nat) (f : Partition → Partition) : State :=
  { s with partitions := s.partitions.modify p f }

/-- Context c of partition p; a window that nothing has written holds its reset values. -/
def State.context (s : State) (p c : Nat) : Context :=
  (s.contexts.find? (fun x => x.part == p && x.ctx == c)).getD (Context.reset p c)
/-- The state with context c of partition p changed. -/
def State.modContext (s : State) (p c : Nat) (f : Context → Context) : State :=
  if s.contexts.any (fun x => x.part == p && x.ctx == c) then
    { s with contexts := s.contexts.map (fun x => if x.part = p ∧ x.ctx = c then f x else x) }
  else { s with contexts := s.contexts ++ [f (Context.reset p c)] }

/-- The root partition's number: the root core's context belongs to none of the eight partitions of R344.
Log entry 12. -/
def rootPart : Nat := 8
/-- The core number the model gives the root core; the compute cores are 0 to 191 (R10). Log entry 12. -/
def rootCore : Nat := 192

/-- The cluster and the die of a core (R10). -/
def clusterOf (core : Nat) : Nat := core / 8
def dieOf (core : Nat) : Nat := core / 48

/-- The cores of a partition (R10, R344); the root core is the root partition's. -/
def State.coresOf (s : State) (p : Nat) : List Nat :=
  if p = rootPart then [rootCore]
  else (List.range 192).filter (fun c => (s.part p).clusters.getLsbD (clusterOf c))

/-- The function of a partition: 0 the physical function, 1 + v virtual function v (R397). -/
def State.fnOf (s : State) (p : Nat) : Nat := if p = rootPart then 0 else 1 + (s.part p).vf.toNat

/-- An MSI-X message (R398). Log entry 17. -/
def State.message (s : State) (fn vector : Nat) : State := { s with messages := s.messages ++ [(fn, vector)] }

/-! ### The physical map (R1, R359, R387) -/

/-- Bytes of one stack's HBM and of its LPDDR-6 pair. -/
def hbmBytes : Nat := 48 * 10 ^ 9
def tierBytes : Nat := 96 * 10 ^ 9
/-- The 512 MiB block of quotas. -/
def quotaBlock : Nat := 2 ^ 29

/-- What a physical address names: HBM or tier of a stack with the offset in it, or nothing (R359). -/
inductive Region where
  | hbm (stack off : Nat)
  | tier (stack off : Nat)
  | nothing
  deriving DecidableEq, Repr

def regionOf (a : Nat) : Region :=
  if a < 2 ^ 39 then
    if a % 2 ^ 36 < hbmBytes then .hbm (a / 2 ^ 36) (a % 2 ^ 36) else .nothing
  else
    let b := a - 2 ^ 39
    if b < 2 ^ 40 ∧ b % 2 ^ 37 < tierBytes then .tier (b / 2 ^ 37) (b % 2 ^ 37) else .nothing

/-- Whether the registers name a common library (R387): base and length are multiples of 512 MiB, and the whole length lies in the
LPDDR-6 pair of the stack that LIBSTACK names. Log entry 50. -/
def State.libWell (s : State) : Bool :=
  decide (s.libbase.toNat % quotaBlock = 0) && decide (s.libsize.toNat % quotaBlock = 0) &&
    match regionOf s.libbase.toNat with
    | .tier st off => st == s.libstack.toNat && decide (off + s.libsize.toNat ≤ tierBytes)
    | _ => false
/-- Base and length of the common library; both are 0 where the registers name none. Log entry 50. -/
def State.libBase (s : State) : Nat := if s.libWell then s.libbase.toNat else 0
def State.libSize (s : State) : Nat := if s.libWell then s.libsize.toNat else 0

/-- Whether an address lies in the common library (R387). -/
def State.inLibrary (s : State) (a : Nat) : Bool := decide (s.libBase ≤ a ∧ a < s.libBase + s.libSize)

/-- The partition that holds stack `st`, if any. -/
def State.stackOwner (s : State) (st : Nat) : Option Nat :=
  (List.range 8).find? (fun p => (s.part p).up && (s.part p).stackSet.getLsbD st)

/-- Whether a stack of an UP partition is in peer mode (R16). -/
def State.peerMode (s : State) (st : Nat) : Bool :=
  match s.stackOwner st with
  | some p => ! (s.part p).cachemode.getLsbD st
  | none => false

/-- The stacks of a partition, and its peer-mode stacks, ascending. -/
def Partition.stackList (d : Partition) : List Nat := (List.range 8).filter (fun st => d.stackSet.getLsbD st)
def Partition.peerList (d : Partition) : List Nat := d.stackList.filter (fun st => ! d.cachemode.getLsbD st)

/-- Of `q` blocks spread over a list of stacks as evenly as blocks allow, those of stack `st` (R359). -/
def shareOf (q : Nat) (sts : List Nat) (st : Nat) : Nat :=
  match sts.findIdx? (· == st) with
  | none => 0
  | some r => q / sts.length + (if r < q % sts.length then 1 else 0)

/-- The number of 512 MiB blocks of stack `st`'s tier below offset block `b` that the common library takes. -/
def State.libraryBelow (s : State) (st b : Nat) : Nat :=
  match regionOf s.libBase with
  | .tier lst off => if lst = st then min (s.libSize / quotaBlock) (b - off / quotaBlock) else 0
  | _ => 0

/-- Whether an address lies in the quota region of partition p (R359). -/
def State.inQuota (s : State) (p a : Nat) : Bool :=
  if p = rootPart then decide (regionOf a ≠ .nothing)
  else
    let d := s.part p
    match regionOf a with
    | .hbm st off =>
      d.up && decide (off / quotaBlock < shareOf (d.hbmq.toNat / quotaBlock) d.peerList st)
    | .tier st off =>
      d.up && ! s.inLibrary a &&
        decide (off / quotaBlock - s.libraryBelow st (off / quotaBlock) < shareOf (d.tierq.toNat / quotaBlock) d.stackList st)
    | .nothing => false

/-- Whether an address lies in the reserve of partition p: its stacks, outside its quota region and the library. -/
def State.inReserve (s : State) (p a : Nat) : Bool :=
  let d := s.part p
  match regionOf a with
  | .hbm st _ => d.up && d.stackSet.getLsbD st && ! d.cachemode.getLsbD st && ! s.inQuota p a
  | .tier st _ => d.up && d.stackSet.getLsbD st && ! s.inLibrary a && ! s.inQuota p a
  | .nothing => false

/-- Whether an address can be addressed at all: a cache-mode stack's HBM cannot (R359). -/
def State.addressable (s : State) (a : Nat) : Bool :=
  match regionOf a with
  | .hbm st _ =>
    match s.stackOwner st with
    | some p => ! (s.part p).cachemode.getLsbD st
    | none => true
  | .tier _ _ => true
  | .nothing => false

/-- The key under which an address is encrypted: the partition's or the library's; 0 for none (R407). -/
def State.keyOf (s : State) (a : Nat) : Nat :=
  if s.inLibrary a then s.libkey
  else
    match regionOf a with
    | .hbm st _ => (match s.stackOwner st with | some p => (s.part p).key | none => 0)
    | .tier st _ => (match s.stackOwner st with | some p => (s.part p).key | none => 0)
    | .nothing => 0

/-- The tag of a granule: the key and the version it is written or read under (R408); memory without a key is not
encrypted, so a version changes nothing there (R359). 0 is never a tag. Log entry 20. -/
def tagOf (key ver : Nat) : Nat := if key = 0 then 1 else 1 + ver + 256 * key

/-! ### Bytes (R2, R369, R408, R409) -/

/-- The bytes of a granule as read under a tag: as written, or unrelated bytes when its tag differs (R409).
Log entry 20. -/
def State.granule (s : State) (g tag : Nat) : List Byte :=
  let plain := SMap.read s.mem (32 * g) 32 0
  let wrote := s.memTag.get g 0
  if wrote = 0 ∨ wrote = tag then plain else bytesOf (Config.recrypt g wrote tag (natOfBytes plain)) 32

/-- One byte of device memory under a version. Log entry 2. -/
def State.physByte (s : State) (a ver : Nat) : Byte :=
  let g := a / 32
  let wrote := s.memTag.get g 0
  if wrote = 0 ∨ wrote = tagOf (s.keyOf a) ver then SMap.get s.mem a 0
  else ((s.granule g (tagOf (s.keyOf a) ver))[a % 32]?).getD 0

/-- `n` bytes from physical address `a`, and whether any lies in a poisoned granule. Log entry 2. -/
def State.readPhys (s : State) (a n ver : Nat) : List Byte × Bool :=
  ((List.range n).map (fun i => s.physByte (a + i) ver),
    (List.range n).any (fun i => s.memPoison.get ((a + i) / 32) false))

/-- The granules that a list of cells touches, without repeats. -/
def granulesOf (cells : List (Nat × Byte)) (size : Nat) : List Nat :=
  cells.foldl (fun l c => if l.contains (c.1 / size) then l else l ++ [c.1 / size]) []

/-- The bytes of one granule that a list of cells writes, as a set of bits. -/
def maskOf (cells : List (Nat × Byte)) (size p : Nat) : Nat :=
  (cells.filter (fun c => c.1 / size == p)).foldl (fun m c => m ||| 2 ^ (c.1 % size)) 0

/-- One granule written with the cells that fall in it: a whole granule takes its new bytes and loses its poison; a
part is merged after a read, which a poisoned granule fails (R369). -/
def State.writeGranule (s : State) (g ver : Nat) (cells : List (Nat × Byte)) : State × Bool :=
  let tag := tagOf (s.keyOf (32 * g)) ver
  let mine := cells.filter (fun c => c.1 / 32 == g)
  let whole := (List.range 32).all (fun i => mine.any (fun c => c.1 == 32 * g + i))
  if ! whole && s.memPoison.get g false then (s, true)
  else
    let base := if whole then s.mem
      else if s.memTag.get g 0 = 0 ∨ s.memTag.get g 0 = tag then s.mem
      else SMap.write s.mem (32 * g) (s.granule g tag) 0
    ({ s with
        stores := (granulesOf mine 8).foldl (fun h p =>
          pushStore h (locKey 0 p) (SMap.read s.mem (8 * p) 8 0) (maskOf mine 8 p) (s.memTag.get g 0)) s.stores
        mem := mine.foldl (fun m c => SMap.set m c.1 c.2 0) base
        memTag := SMap.set s.memTag g tag 0
        memPoison := if whole then SMap.erase s.memPoison g else s.memPoison }, false)

/-- Cells written to device memory under a version; also the granules found poisoned by a read-modify-write. -/
def State.writeCells (s : State) (cells : List (Nat × Byte)) (ver : Nat) : State × List Nat :=
  (granulesOf cells 32).foldl (fun acc g =>
    let r := acc.1.writeGranule g ver cells
    (r.1, if r.2 then acc.2 ++ [g] else acc.2)) (s, [])

/-- Bytes written from a physical address on. -/
def cellsAt (a : Nat) (bs : List Byte) : List (Nat × Byte) := bs.zipIdx.map (fun p => (a + p.2, p.1))
def State.writePhys (s : State) (a : Nat) (bs : List Byte) (ver : Nat) : State := (s.writeCells (cellsAt a bs) ver).1

/-- The location of a physical address as an observer of die e finds it that must see the stores from `bound` on and those of its
view (R281, R293): its 8 bytes, the place of the store and what that carries. A poisoned granule is read as it is.
Log entry 1. -/
def State.seePlace (s : State) (a ver e bound : Nat) (view : View) (key : Nat) : List Byte × Nat × Stored :=
  let loc := locKey 0 (a / 8)
  let v := s.stores.get loc Versions.none
  let now := (s.readPhys (8 * (a / 8)) 8 ver).1
  if s.memPoison.get (a / 32) false then (now, v.last, v.info)
  else v.pick e (s.clockOf e) (max bound (v.bound e view loc)) (tagOf (s.keyOf (8 * (a / 8))) ver) now (Config.choose s.draws key)

/-! ### Access counters (R389, R390) -/

/-- A block nothing has touched since its partition was set up. -/
def Block.fresh : Block := { count := 0, hint := 0, touched := false }

/-- One access of a request (R187) or an engine to a block of a peer-mode stack, with the hint of the translation
used. -/
def State.touchBlock (s : State) (a : Nat) (hint : BitVec 2) : State :=
  let ok := match regionOf a with
    | .hbm st _ => s.peerMode st
    | .tier st _ => s.peerMode st && ! s.inLibrary a
    | .nothing => false
  if ok then
    let b := s.blocks.get (a / 2 ^ 14) Block.fresh
    let b1 : Block := { b with count := if b.count = 255 then 255 else b.count + 1, hint := hint, touched := true }
    { s with blocks := SMap.set s.blocks (a / 2 ^ 14) b1 Block.fresh }
  else s

/-! ### The fault queue and the trace ring (R362, R372, R373, R385) -/

/-- A record of the fault queue (R362): address, sequence, cause, kind, core, time, PC, who. Log entry 77. -/
def faultRecord (addr seq cause kind core time pc who : Nat) : List Byte :=
  bytesOf addr 8 ++ bytesOf (seq % 2 ^ 24) 4 ++ bytesOf cause 1 ++ bytesOf kind 1 ++ bytesOf core 2 ++ bytesOf time 8
    ++ bytesOf pc 4 ++ bytesOf who 4

/-- Whether the fault queue of a context is full. -/
def Context.fqFull (c : Context) : Bool := (c.fqtail - c.fqhead).toNat == 2 ^ c.fqsize.toNat

/-- A record written at the queue's tail, with the interrupt that announces it (R362, R398). Log entry 66. -/
def State.pushRecord (s : State) (p c : Nat) (rec : List Byte) : State :=
  let x := s.context p c
  let s1 := s.writePhys (x.fqbase.toNat + 32 * (x.fqtail.toNat % 2 ^ x.fqsize.toNat)) rec 0
  let s2 := s1.modContext p c (fun y => { y with fqtail := y.fqtail + 1 })
  if x.fqtail = x.fqhead ∧ x.fqen = true then s2.message (s.fnOf p) x.fqvec.toNat else s2

/-- A recoverable fault (kinds 0 to 3): a sequence number, and the record written or kept in the miss buffer until
there is room (R362). Log entries 66 and 77. -/
def State.raiseFault (s : State) (p c addr cause kind core pc who : Nat) : State × Nat :=
  let x := s.context p c
  let rec_ := faultRecord addr x.seq cause kind core s.time.toNat pc who
  let s1 := s.modContext p c (fun y => { y with seq := (y.seq + 1) % 2 ^ 24 })
  if x.fqFull || s.missBuffer.any (fun w => w.part == p && w.ctx == c) then
    ({ s1 with missBuffer := s1.missBuffer ++ [{ part := p, ctx := c, core := core, record := rec_ }] }, x.seq)
  else (s1.pushRecord p c rec_, x.seq)

/-- A log record (kinds 4, 5 and 6): dropped and counted when the queue is full (R373). -/
def State.logRecord (s : State) (p c addr cause kind core pc who : Nat) : State :=
  let x := s.context p c
  if x.fqFull then s.modContext p c (fun y => { y with fqlost := if y.fqlost = 0xFFFFFFFF then y.fqlost else y.fqlost + 1 })
  else
    let rec_ := faultRecord addr x.seq cause kind core s.time.toNat pc who
    (s.modContext p c (fun y => { y with seq := (y.seq + 1) % 2 ^ 24 })).pushRecord p c rec_

/-- Whether a die's miss buffer is full: misses to one page share an entry (R360). -/
def State.missFull (s : State) (die : Nat) : Bool :=
  decide (256 ≤ (((s.missBuffer.filter (fun w => dieOf w.core == die)).map
    (fun w => (w.part, w.ctx, natOfBytes (w.record.take 8) / 2 ^ 14))).eraseDups).length)

/-- The records of the miss buffer that now find room, oldest first (R362). Log entry 66. -/
def State.flushMisses (s : State) (n : Nat) : State :=
  match n with
  | 0 => s
  | n + 1 =>
    match s.missBuffer.find? (fun w => ! (s.context w.part w.ctx).fqFull) with
    | none => s
    | some w =>
      State.flushMisses ({ s with missBuffer := s.missBuffer.erase w }.pushRecord w.part w.ctx w.record) n

/-- Whether a range of physical memory is a partition's own to hold tables, rings and areas: its quota region or its
reserve (R359). -/
def State.ownRange (s : State) (p a n : Nat) : Bool :=
  (s.inQuota p a || s.inReserve p a) && (s.inQuota p (a + n - 1) || s.inReserve p (a + n - 1))

/-- One trace record (R385): written when the ring is on and its agent enabled; counted as lost when it is full, or when
its place is no memory of the partition (R359). Log entry 73. -/
def State.trace (s : State) (p c agent event core status handle wglin detail : Nat) : State :=
  let x := s.context p c
  if x.trsize = 0 ∨ x.trmask.getLsbD agent = false then s
  else if (x.trtail - x.trhead).toNat = 2 ^ x.trsize.toNat
      ∨ s.ownRange p (x.trbase.toNat + 32 * (x.trtail.toNat % 2 ^ x.trsize.toNat)) 32 = false then
    s.modContext p c (fun y => { y with trlost := if y.trlost = 0xFFFFFFFF then y.trlost else y.trlost + 1 })
  else
    let rec_ := bytesOf s.time.toNat 8 ++ bytesOf agent 1 ++ bytesOf event 1 ++ bytesOf core 2 ++ bytesOf status 4
      ++ bytesOf handle 4 ++ bytesOf wglin 4 ++ bytesOf detail 8
    (s.writePhys (x.trbase.toNat + 32 * (x.trtail.toNat % 2 ^ x.trsize.toNat)) rec_ 0).modContext p c
      (fun y => { y with trtail := y.trtail + 1 })

/-! ### Translation (R356 to R360, R388) -/

/-- The outcome of a translation: a page, or a cause of R362 (1 NOTMAPPED, 2 WRITE, 3 BADPTE, 4 PEER, 5 POISONED). -/
inductive Xlat where
  | page (p : Page)
  | fault (cause : Nat)
  deriving DecidableEq, Repr

/-- The fields of a page-table entry (R357). -/
def pteBit (e i : Nat) : Bool := e.testBit i
def pteFrame (e : Nat) : Nat := bitsOf e 51 14 * 2 ^ 14
def pteAttrs (e : Nat) : Nat := bitsOf e 63 56 * 256 + bitsOf e 7 7 * 128 + bitsOf e 5 2

/-- A table entry as a walk of die e reads it, with its poison: a plain .dev load (R358), which finds what the host has put in
place or a later store (R361). Page tables use version 0 (R359). Log entry 1. -/
def State.readPte (s : State) (e a : Nat) : Nat × Bool :=
  (natOfBytes (s.seePlace a 0 e 0 s.hostView (900000 + a)).1, (s.readPhys a 8 0).2)

/-- The group of 16 level-1 entries that a contiguous leaf belongs to is all valid and contiguous, with equal
attributes and consecutive frames from a 512 MiB boundary (R358). -/
def State.contigOk (s : State) (die table idx e : Nat) : Bool :=
  let first := idx / 16 * 16
  let f0 := pteFrame (s.readPte die (table + 8 * first)).1
  decide (f0 % 2 ^ 29 = 0) &&
    (List.range 16).all (fun k =>
      let ek := (s.readPte die (table + 8 * (first + k))).1
      pteBit ek 0 && pteBit ek 1 && pteBit ek 6 && pteAttrs ek == pteAttrs e && pteFrame ek == f0 + k * 2 ^ 25)
/-- Whether a walk that checks a contiguous group meets poison in any of its 16 entries. Log entry 56. -/
def State.contigPoison (s : State) (die table idx : Nat) : Bool :=
  (List.range 16).any (fun k => (s.readPte die (table + 8 * (idx / 16 * 16 + k))).2)

/-- Whether a leaf frame may be mapped by a context of partition p (R359, R388). -/
def State.leafOk (s : State) (p : Nat) (frame : Nat) (wr host : Bool) : Bool :=
  host || (s.inQuota p frame && s.addressable frame && (! s.inLibrary frame || p == rootPart))
    || (s.inLibrary frame && (! wr || p == rootPart))

/-- A table walk of die `die` (R356 to R358): `level` counts down from 3 at the root. -/
def State.walk (s : State) (die p va : Nat) (level table : Nat) : Xlat :=
  let shift := match level with | 3 => 47 | 2 => 36 | 1 => 25 | _ => 14
  let bits := if level = 3 then 5 else 11
  let idx := va / 2 ^ shift % 2 ^ bits
  let r := s.readPte die (table + 8 * idx)
  let e := r.1
  if r.2 then .fault 5
  else if ! pteBit e 0 then .fault 1
  else if bitsOf e 55 52 ≠ 0 ∨ bitsOf e 13 8 ≠ 0 then .fault 3
  else
    let leaf := pteBit e 1
    let frame := pteFrame e
    if leaf then
      let pg (base size fr : Nat) : Xlat :=
        .page { base := base, size := size, frame := fr, ver := BitVec.ofNat 8 (bitsOf e 63 56), host := pteBit e 7,
                hint := BitVec.ofNat 2 (bitsOf e 5 4), sc := pteBit e 3, wr := pteBit e 2 }
      if 2 ≤ level then .fault 3
      else if level = 1 then
        if frame % 2 ^ 25 ≠ 0 ∨ s.leafOk p frame (pteBit e 2) (pteBit e 7) = false then .fault 3
        else if pteBit e 6 then
          if s.contigPoison die table idx then .fault 5
          else if s.contigOk die table idx e then pg (va / 2 ^ 29 * 2 ^ 29) (2 ^ 29) (frame / 2 ^ 29 * 2 ^ 29) else .fault 3
        else pg (va / 2 ^ 25 * 2 ^ 25) (2 ^ 25) frame
      else if pteBit e 6 = true ∨ s.leafOk p frame (pteBit e 2) (pteBit e 7) = false then .fault 3
      else pg (va / 2 ^ 14 * 2 ^ 14) (2 ^ 14) frame
    else if bitsOf e 7 2 ≠ 0 ∨ (s.inQuota p frame || s.inReserve p frame) = false then .fault 3
    else match level with
      | 0 => .fault 3
      | l + 1 => State.walk s die p va l frame

/-- The page of a TLB entry. -/
def TlbEntry.page (t : TlbEntry) : Page :=
  { base := t.base, size := t.size, frame := t.frame, ver := t.ver, host := t.host, hint := t.hint, sc := t.sc, wr := t.wr }

/-- The TLB entry that one place holds for an address (R360). -/
def State.tlbHit (s : State) (place p c va : Nat) : Option TlbEntry :=
  s.tlb.find? (fun t => t.place == place && t.part == p && t.ctx == c && decide (t.base ≤ va ∧ va < t.base + t.size))

/-- A translation put into one place; when the place is full, the entry it replaces is the device's choice (R360).
Log entry 24. -/
def State.tlbFill (s : State) (place p c : Nat) (g : Page) : State :=
  let cap := if place < 256 then 64 else 1024
  let mine := s.tlb.filter (·.place == place)
  let room := if mine.length < cap then s.tlb
    else match mine[Config.choose s.draws (place + 7) % cap]? with
      | some v => s.tlb.erase v
      | none => s.tlb
  let room := room.filter (fun t => ! (t.place == place && t.part == p && t.ctx == c && rangesMeet t.base t.size g.base g.size))
  { s with tlb := { place := place, part := p, ctx := c, base := g.base, size := g.size, frame := g.frame, ver := g.ver,
                    host := g.host, hint := g.hint, sc := g.sc, wr := g.wr } :: room }

/-- Whether an access of kind 0 load, 1 store, 2 atomic is permitted on a page (R358). -/
def Page.permits (g : Page) (kind : Nat) : Bool := kind == 0 || g.wr

/-- A walk for an access, with its outcome put into the TLBs (R358, R360): a translation that fails, WRITE among the
failures, is never cached. Log entry 56. -/
def State.pageWalk (s : State) (p c core va kind : Nat) : State × Xlat :=
  match s.walk (Agent.unit core).reader p va 3 (s.context p c).ptroot.toNat with
  | .page g =>
    if g.permits kind then ((s.tlbFill (256 + dieOf core) p c g).tlbFill core p c g, .page g) else (s, .fault 2)
  | .fault k => (s, .fault k)

/-- The peer entry of a partition and device number (R400), and whether it carries traffic now. -/
def State.peerEntry (s : State) (p d : Nat) : DWord := s.peers.get (64 * p + d) 0
def State.peerUp (s : State) (p d : Nat) : Bool :=
  let e := s.peerEntry p d
  e.getLsbD 31 && decide ((e.setWidth 12 &&& s.linkup) ≠ 0)

/-- A page that stands for a peer's memory: its bytes are not the module's. -/
def peerPage (va : Nat) : Page :=
  { base := va / 2 ^ 14 * 2 ^ 14, size := 2 ^ 14, frame := 0, ver := 0, host := true, hint := 0, sc := false, wr := true }

/-- The page of a module address for an access: the micro-TLB, the die's TLB, a walk (R360). An entry that does not permit
the access is passed over, so that a retry walks again (R358). Log entries 24 and 56. -/
def State.lookup (s : State) (p c core va kind : Nat) : State × Xlat :=
  match (s.tlbHit core p c va).filter (fun t => t.page.permits kind) with
  | some t => (s, .page t.page)
  | none =>
    match (s.tlbHit (256 + dieOf core) p c va).filter (fun t => t.page.permits kind) with
    | some t => (s.tlbFill core p c t.page, .page t.page)
    | none => s.pageWalk p c core va kind

/-- The translation of a global address for an access of kind 0 load, 1 store, 2 atomic (R182, R184, R358): a store or
atomic needs wr; a device field names a peer, which may refuse the access or fail to translate it (R400). -/
def State.translate (s : State) (p c core addr kind : Nat) : State × Xlat :=
  let d := bitsOf addr 57 52
  let va := addr % 2 ^ 52
  if d ≠ 0 then (s, if s.peerUp p d && Config.peerAccepts s.draws addr then .page (peerPage va) else .fault 4)
  else s.lookup p c core va kind

/-- Whether a module address misses both TLBs (R360). -/
def State.misses (s : State) (p c core addr : Nat) : Bool :=
  bitsOf addr 57 52 == 0 && (s.tlbHit core p c (addr % 2 ^ 52)).isNone && (s.tlbHit (256 + dieOf core) p c (addr % 2 ^ 52)).isNone

/-- The physical address of a virtual one on its page. -/
def Page.phys (g : Page) (va : Nat) : Nat := g.frame + (va % 2 ^ 52 - g.base)

/-- One access of a request or an engine to a translated page counted (R389). -/
def State.touchPage (s : State) (g : Page) (va : Nat) : State := if g.host then s else s.touchBlock (g.phys va) g.hint

/-- `n` bytes of a global address already translated: module memory, or bytes from outside the module, which may arrive
poisoned (R370). Log entry 13. -/
def State.readPage (s : State) (g : Page) (va n : Nat) : List Byte × Bool :=
  if g.host then ((List.range n).map (fun i => Config.outsideByte s.draws (va + i)), Config.outsidePoison s.draws va)
  else s.readPhys (g.phys va) n g.ver.toNat

/-- What an agent other than a thread finds at each of n bytes from an address of a page (R282): plain reads, of an engine after
what the engines of its core have written (R298). Log entry 1. -/
def State.sights (s : State) (who : Agent) (g : Page) (va n : Nat) (view : View) (key : Nat) : List Sight :=
  (List.range n).map (fun i =>
    let a := g.phys (va + i)
    let loc := locKey 0 (a / 8)
    (loc, s.seePlace a g.ver.toNat who.reader ((s.stores.get loc Versions.none).engines who) view (key + i)))
/-- Those bytes, and whether any is poisoned. -/
def State.readPageAs (s : State) (who : Agent) (g : Page) (va n : Nat) (view : View) (key : Nat) : List Byte × Bool :=
  if g.host then s.readPage g va n
  else
    ((s.sights who g va n view key).zipIdx.map (fun x => (x.1.2.1[g.phys (va + x.2) % 8]?).getD 0), (s.readPage g va n).2)

/-- Bytes written to a global address already translated; what goes outside the module leaves it. Log entry 13. -/
def State.writePage (s : State) (g : Page) (va : Nat) (bs : List Byte) : State :=
  if g.host then s else s.writePhys (g.phys va) bs g.ver.toNat

/-- The outcome of reading a range of virtual memory: its bytes with their poison, or the cause and address of the
first byte that does not translate. -/
inductive Fetched where
  | bytes (bs : List Byte) (poison : Option Nat)
  | fault (cause addr : Nat)
  deriving DecidableEq, Repr

/-- The pieces of a range that lie on one 16 KiB page each: address and length. -/
def pageRuns (a n : Nat) : (fuel : Nat) → List (Nat × Nat)
  | 0 => []
  | f + 1 =>
    if n = 0 then []
    else
      let k := min n (2 ^ 14 - a % 2 ^ 14)
      (a, k) :: pageRuns (a + k) (n - k) f

/-- Every page of a range translated, in ascending order, before anything moves (R209). -/
def State.translateRuns (s : State) (p c core kind : Nat) (rs : List (Nat × Nat)) : State × (List (Nat × Nat × Page)) × Option (Nat × Nat) :=
  match rs with
  | [] => (s, [], none)
  | (a, n) :: r =>
    match s.translate p c core a kind with
    | (s1, .fault k) => (s1, [], some (k, a))
    | (s1, .page g) =>
      let t := State.translateRuns s1 p c core kind r
      (t.1, (a, n, g) :: t.2.1, t.2.2)

/-- Every failing page of a range, with its cause (R362). -/
def State.failing (s : State) (p c core kind : Nat) (rs : List (Nat × Nat)) : List (Nat × Nat) :=
  rs.filterMap (fun r => match (s.translate p c core r.1 kind).2 with | .fault k => some (k, r.1) | .page _ => none)

/-- The pages of translated runs counted once each (R389). -/
def State.touchRuns (s : State) (rs : List (Nat × Nat × Page)) : State := rs.foldl (fun s q => s.touchPage q.2.2 q.1) s

/-- A range of virtual memory read whole. Log entry 1. -/
def State.readVirt (s : State) (p c core a n : Nat) : State × Fetched :=
  let t := s.translateRuns p c core 0 (pageRuns a n (n / 2 ^ 14 + 2))
  match t.2.2 with
  | some (k, x) => (t.1, .fault k x)
  | none =>
    let parts := t.2.1.map (fun q => (q.1, q.2.1, t.1.readPage q.2.2 q.1 q.2.1))
    let bad := t.2.1.findSome? (fun q =>
      if q.2.2.host then (if Config.outsidePoison s.draws q.1 then some q.1 else none)
      else (List.range q.2.1).findSome? (fun i =>
        if t.1.memPoison.get ((q.2.2.phys q.1 + i) / 32) false then some (q.1 + i) else none))
    (t.1.touchRuns t.2.1, .bytes (parts.flatMap (fun q => q.2.2.1)) bad)

/-- A range read whole by the load engine of a core, as plain loads at .dev with no release before them (R300): it finds what
the requesting thread's fences have ordered and what the host has put in place, or later stores. Log entry 1. -/
def State.readCode (s : State) (p c core a n : Nat) (view : View) : State × Fetched :=
  match s.readVirt p c core a n with
  | (s1, .bytes bs bad) =>
    let t := s.translateRuns p c core 0 (pageRuns a n (n / 2 ^ 14 + 2))
    if t.2.1.any (fun q => q.2.2.host) then (s1, .bytes bs bad)
    else (s1, .bytes (t.2.1.flatMap (fun q =>
      (s.readPageAs (Agent.unit core) q.2.2 q.1 q.2.1 (view.join s.hostView) (800000 + (q.1 - a))).1)) bad)
  | r => r

/-- A range of virtual memory written whole, or nothing written and the cause and address of the first byte that does
not translate for stores. Log entry 1. -/
def State.writeVirt (s : State) (p c core a : Nat) (bs : List Byte) : State × Option (Nat × Nat) :=
  let t := s.translateRuns p c core 1 (pageRuns a bs.length (bs.length / 2 ^ 14 + 2))
  match t.2.2 with
  | some f => (t.1, some f)
  | none => (t.2.1.foldl (fun s q => s.writePage q.2.2 q.1 ((bs.drop (q.1 - a)).take q.2.1)) (t.1.touchRuns t.2.1), none)

end Sys2Proof.Machine
end

