-- ==== Sys2Proof/Machine/Ops.lean ====
section
/-!
DEFINITION. The operations that every meaning is made of: reading and writing threads, groups and workgroups;
registers with their outstanding results (R29, R85, R86); quires (R165 to R168); the prologue that a unit passes
before it acts (R368); taking a trap (R43, R174, R175) and returning from one (R176); parking and waking (R266,
R267); and the issue of one unit.
-/
namespace Sys2Proof.Machine
open Sys2Proof

/-- The outcome of an instruction. -/
abbrev Out := Host.Outcome State Fault Refusal

/-! ### Workgroups, groups and threads -/

/-- The workgroup with a number. -/
def State.wg? (s : State) (wid : Nat) : Option Workgroup := s.wgs.find? (fun w => w.wid == wid)
/-- The state with one workgroup changed. -/
def State.modWg (s : State) (wid : Nat) (f : Workgroup → Workgroup) : State :=
  { s with wgs := s.wgs.map (fun w => if w.wid = wid then f w else w) }
/-- The state with one group changed. -/
def State.modGroup (s : State) (wid gi : Nat) (f : Group → Group) : State :=
  s.modWg wid (fun w => { w with groups := w.groups.modify gi f })
/-- The state with one thread changed. -/
def State.modThread (s : State) (wid gi ti : Nat) (f : Thread → Thread) : State :=
  s.modGroup wid gi (fun g => { g with threads := g.threads.modify ti f })
/-- One group of a workgroup. -/
def State.group? (s : State) (wid gi : Nat) : Option Group := (s.wg? wid).bind (fun w => w.groups[gi]?)
/-- One thread of a workgroup. -/
def State.thread? (s : State) (wid gi ti : Nat) : Option Thread := (s.group? wid gi).bind (fun g => g.threads[ti]?)

/-- A context on a core, as the core keeps it; one that has none reads as an empty image (R349). -/
def State.resident (s : State) (p c core : Nat) : Resident :=
  (s.residents.find? (fun r => r.part == p && r.ctx == c && r.core == core)).getD (Resident.reset p c core)
/-- The state with one context on a core changed. -/
def State.modResident (s : State) (p c core : Nat) (f : Resident → Resident) : State :=
  if s.residents.any (fun r => r.part == p && r.ctx == c && r.core == core) then
    { s with residents := s.residents.map (fun r => if r.part = p ∧ r.ctx = c ∧ r.core = core then f r else r) }
  else { s with residents := s.residents ++ [f (Resident.reset p c core)] }

/-- A number that nothing has been given yet. -/
def State.fresh (s : State) : State × Nat := ({ s with nextId := s.nextId + 1 }, s.nextId)

/-- The launch handle of a workgroup (R307). -/
def Workgroup.handle (w : Workgroup) : Nat := w.queue * 2 ^ 24 + w.count % 2 ^ 24

/-- Whether a workgroup runs in the root context (R181). -/
def Workgroup.root (w : Workgroup) : Bool := w.part == rootPart

/-! ### Registers (R29, R30, R33, R85, R86) -/

/-- What one thread's instruction sees: the machine, its workgroup, group and thread, the threads of the group that
issue, those that participate, and the PFX of the unit (R81, R115). Log entry 59. -/
structure LaneEnv where
  s : State
  wg : Workgroup
  gi : Nat
  g : Group
  ti : Nat
  t : Thread
  issued : List Nat
  parts : List Nat
  pfx : Option Pfx

/-- The value a g register holds (R29). -/
def Group.greg (g : Group) (n : Nat) : Word := if n = 0 then 0 else g.g.get n 0

/-- The value a register name holds for a thread, apart from results outstanding (R29). -/
def Thread.held (t : Thread) (g : Group) (n : Nat) : Word := if n < 96 then t.v.get n 0 else g.greg (n - 96)

/-- The value a premature read delivers: the held value, an outstanding result that is known and no longer open to a later
store, or for a g register the other of its two values; the choice is free for each register of a lane, and one for a unit's
every thread for a g register (R86). Log entry 7. -/
def prematureWord (s : State) (g : Group) (ti : Nat) (t : Thread) (n : Nat) : Word :=
  let key := if n < 96 then 1000 + 256 * (g.lanebase + ti) + n else n
  let outs := (if n < 96 then t.pending else g.gPending).filterMap (fun p =>
    if p.reg = n ∧ p.known = true ∧ t.loads.all (fun l => l.ord != p.ord) = true then some p.value else none)
  let olds := if n < 96 then [] else g.gOld.filterMap (fun o => if o.1 % 256 = n then some o.2 else none)
  let all := t.held g n :: (outs ++ olds)
  (all[Config.choose s.draws key % all.length]?).getD 0

/-- A thread's read of a register name in a unit that some threads of its group issue (R29, R86). A g register that one of
them has waited for is final for all. Log entry 7. -/
def readReg (s : State) (g : Group) (issued : List Nat) (ti : Nat) (t : Thread) (n : Nat) : Word :=
  if t.unwaited.contains n && (decide (n < 96) || issued.all (fun i => match g.threads[i]? with
      | some u => u.unwaited.contains n
      | none => true)) then prematureWord s g ti t n
  else t.held g n

/-- A thread's read of a k register: k0 reads one (R29, R86). Log entry 7. -/
def readMask (s : State) (g : Group) (ti : Nat) (t : Thread) (k : Nat) : Bool :=
  let held := if k = 0 then true else t.k.getLsbD k
  if t.unwaited.contains (128 + k) then
    let key := 1000 + 256 * (g.lanebase + ti) + 128 + k
    let outs := t.pending.filterMap (fun p => if p.reg = 128 + k ∧ p.known = true then some (p.value.getLsbD 0) else none)
    let all := held :: outs
    (all[Config.choose s.draws key % all.length]?).getD held
  else held

/-- A register of the lane. -/
def LaneEnv.reg (e : LaneEnv) (n : Nat) : Word := readReg e.s e.g e.issued e.ti e.t n
/-- A width group as a number, the lowest register least significant (R30). -/
def LaneEnv.val (e : LaneEnv) (n size : Nat) : Nat :=
  (List.range size).foldl (fun x i => x + (e.reg (n + i)).toNat * 2 ^ (32 * i)) 0
/-- A k register of the lane. -/
def LaneEnv.mask (e : LaneEnv) (k : Nat) : Bool := readMask e.s e.g e.ti e.t k
/-- Another thread of the group. -/
def LaneEnv.other (e : LaneEnv) (i : Nat) : Option Thread := e.g.threads[i]?
/-- A register of thread `i` of the group: zero once that thread has exited (R116). -/
def LaneEnv.regOf (e : LaneEnv) (i n : Nat) : Word :=
  match e.other i with
  | none => 0
  | some t => if t.run = .exited then 0 else readReg e.s e.g e.issued i t n
/-- A width group of thread `i`. -/
def LaneEnv.valOf (e : LaneEnv) (i n size : Nat) : Nat :=
  (List.range size).foldl (fun x k => x + (e.regOf i (n + k)).toNat * 2 ^ (32 * k)) 0
/-- A k register of thread `i`. -/
def LaneEnv.maskOf (e : LaneEnv) (i k : Nat) : Bool :=
  match e.other i with | none => false | some t => readMask e.s e.g i t k
/-- The environment of thread `i` of the same group. -/
def LaneEnv.at (e : LaneEnv) (i : Nat) : LaneEnv := { e with ti := i, t := (e.other i).getD e.t }

/-- A number written to a width group, as (register, value) pairs, low register first (R30). -/
def splitWords (n size x : Nat) : List (Nat × Word) :=
  (List.range size).map (fun i => (n + i, BitVec.ofNat 32 (x / 2 ^ (32 * i))))

/-- A v register written: outstanding results to it become late, its poison mark goes (R86, R370). -/
def Thread.writeV (t : Thread) (n : Nat) (x : Word) : Thread :=
  { t with
    v := SMap.set t.v n x 0
    pending := t.pending.map (fun p => if p.reg = n then { p with late := true } else p)
    marks := t.marks.filter (fun m => m.1 ≠ n) }
/-- A k register written: a write to k0 is discarded (R29). -/
def Thread.writeK (t : Thread) (k : Nat) (b : Bool) : Thread :=
  if k = 0 then t
  else
    { t with
      k := if b then t.k ||| BitVec.ofNat 8 (2 ^ k) else t.k &&& ~~~ (BitVec.ofNat 8 (2 ^ k))
      pending := t.pending.map (fun p => if p.reg = 128 + k then { p with late := true } else p)
      marks := t.marks.filter (fun m => m.1 ≠ 128 + k) }
/-- The other of a g register's two values once it is written (R86): the result that it has received, if that is in. A second
write leaves that as it is. -/
def Group.otherValue (g : Group) (n : Nat) : SMap Word :=
  if g.gOld.any (fun o => o.1 == 96 + n) then
    if g.gPending.any (fun p => p.reg == 96 + n) then SMap.erase g.gOld (96 + n)
    else SMap.insert (SMap.erase g.gOld (96 + n)) (352 + n) (g.greg n)
  else g.gOld
/-- A g register written: a write to g0 is discarded (R29). -/
def Group.writeG (g : Group) (n : Nat) (x : Word) : Group :=
  if n = 0 then g
  else
    { g with
      g := SMap.set g.g n x 0
      gPending := g.gPending.map (fun p => if p.reg = 96 + n then { p with late := true } else p)
      gOld := g.otherValue n
      gMarks := g.gMarks.filter (fun m => m.1 ≠ 96 + n) }

/-- Registers written by one lane of an instruction: v names always, g names only where its entry allows (R33).
Log entry 28. -/
def State.writeRegs (s : State) (wid gi ti : Nat) (gDst : Bool) (ws : List (Nat × Word)) : State :=
  ws.foldl (fun s w =>
    if w.1 < 96 then s.modThread wid gi ti (·.writeV w.1 w.2)
    else if gDst then s.modGroup wid gi (·.writeG (w.1 - 96) w.2) else s) s
/-- k registers written by one lane. -/
def State.writeMasks (s : State) (wid gi ti : Nat) (ks : List (Nat × Bool)) : State :=
  ks.foldl (fun s k => s.modThread wid gi ti (·.writeK k.1 k.2)) s

/-- An outstanding result whose value is known at issue. -/
def Pending.now (ord reg : Nat) (value : Word) (poison : Bool) (pc : Word) (addr : Nat) : Pending :=
  { ord := ord, reg := reg, value := value, known := true, returned := false, poison := poison, pc := pc, addr := addr, job := 0, late := false }
/-- An outstanding result that a piece of asynchronous work supplies. Log entry 59. -/
def Pending.later (ord reg : Nat) (pc : Word) (job : Nat) : Pending :=
  { ord := ord, reg := reg, value := 0, known := false, returned := false, poison := false, pc := pc, addr := 0, job := job, late := false }

/-- Results of one lane made outstanding (R85): v and k registers of the thread. -/
def State.addPending (s : State) (wid gi ti : Nat) (ps : List Pending) : State :=
  s.modThread wid gi ti (fun t => { t with pending := t.pending ++ ps, unwaited := t.unwaited ++ ps.map (·.reg) })
/-- Results to g registers made outstanding: they join the unwaited set of every thread of the group (R85). -/
def State.addGPending (s : State) (wid gi : Nat) (ps : List Pending) : State :=
  let ps1 := ps.filter (fun p => p.reg ≠ 96)
  s.modGroup wid gi (fun g =>
    { g with
      gPending := g.gPending ++ ps1
      gOld := ps1.foldl (fun m p => SMap.insert (SMap.erase m (256 + p.reg)) p.reg (g.greg (p.reg - 96))) g.gOld
      threads := g.threads.map (fun t => { t with unwaited := t.unwaited ++ ps1.map (·.reg) }) })

/-! ### Scratch (R182, R188, R189, R202, R369) -/

/-- `n` bytes of scratch from offset `a`, and whether any is poisoned. -/
def Workgroup.readScratch (w : Workgroup) (a n : Nat) : List Byte × Bool :=
  (SMap.read w.scratch a n 0, (List.range n).any (fun i => w.scratchPoison.get ((a + i) / 16) false))
/-- The address of the first poisoned granule that n bytes of scratch meet (R197). -/
def Workgroup.firstPoison (w : Workgroup) (a n : Nat) : Option Nat :=
  ((List.range n).find? (fun i => w.scratchPoison.get ((a + i) / 16) false)).map (a + ·)
/-- A 32-bit word of scratch. -/
def Workgroup.scratchWord (w : Workgroup) (a : Nat) : Nat := natOfBytes (w.readScratch a 4).1

/-- One granule of scratch written with the cells that fall in it (R369); whether its read-modify-write failed. -/
def Workgroup.writeScratchGranule (w : Workgroup) (g : Nat) (cells : List (Nat × Byte)) : Workgroup × Bool :=
  let mine := cells.filter (fun c => c.1 / 16 == g)
  let whole := (List.range 16).all (fun i => mine.any (fun c => c.1 == 16 * g + i))
  if ! whole && w.scratchPoison.get g false then (w, true)
  else
    ({ w with
        stores := if mine.isEmpty then w.stores else pushStore w.stores g (SMap.read w.scratch (16 * g) 16 0) (maskOf mine 16 g) 0
        scratch := mine.foldl (fun m c => SMap.set m c.1 c.2 0) w.scratch
        scratchPoison := if whole then SMap.erase w.scratchPoison g else w.scratchPoison }, false)
/-- Cells written to scratch; also the granules found poisoned. -/
def Workgroup.writeScratchCells (w : Workgroup) (cells : List (Nat × Byte)) : Workgroup × List Nat :=
  (granulesOf cells 16).foldl (fun acc g =>
    let r := acc.1.writeScratchGranule g cells
    (r.1, if r.2 then acc.2 ++ [g] else acc.2)) (w, [])
/-- Granules first to last set full or empty. -/
def Workgroup.setFull (w : Workgroup) (first last : Nat) (b : Bool) : Workgroup :=
  { w with full := (List.range (last + 1 - first)).foldl (fun m i => SMap.set m (first + i) b false) w.full }
/-- The newest store of granules marked with what it carries. -/
def Workgroup.markGranules (w : Workgroup) (gs : List Nat) (i : Stored) : Workgroup :=
  { w with stores := gs.foldl (fun h g => markStore h g i) w.stores }
/-- What an engine's fill carries: a release at .wg of what its job had to follow (R190, R297, R298). -/
def Workgroup.engineStore (w : Workgroup) (v : View) : Stored :=
  { agent := Agent.engine w.core w.wid w.part w.ctx, strong := 2, rel := [v, v, v], stamp := [] }
/-- An engine's write: each granule it writes becomes full in the same event (R189). -/
def Workgroup.engineWrite (w : Workgroup) (cells : List (Nat × Byte)) (v : View) : Workgroup × List Nat :=
  let r := w.writeScratchCells cells
  (((granulesOf cells 16).foldl (fun w g => w.setFull g g true) r.1).markGranules (granulesOf cells 16) (w.engineStore v), r.2)
/-- Bytes of a registered object written by the barrier unit or an engine: no data write (R189), and none that a load may
miss. -/
def Workgroup.putObject (w : Workgroup) (a : Nat) (bs : List Byte) : Workgroup :=
  { w with scratch := SMap.write w.scratch a bs 0, scratchPoison := SMap.erase w.scratchPoison (a / 16),
           stores := SMap.erase w.stores (a / 16) }
/-- What the wakes on an object acquire: what one more release orders joins part k of it (R279). -/
def Workgroup.joinSync (w : Workgroup) (a k : Nat) (v : View) : Workgroup :=
  { w with sync := SMap.insert w.sync (syncKey a k) ((SMap.get w.sync (syncKey a k) []).join v) }
/-- A phase flips: its arrivals' releases are what the wakes from it acquire, and a new phase begins with none (R279). -/
def Workgroup.flipSync (w : Workgroup) (a : Nat) : Workgroup :=
  { w with sync := SMap.erase (SMap.insert w.sync (syncKey a 1) (SMap.get w.sync (syncKey a 0) [])) (syncKey a 0) }
/-- An object begins anew: nothing has been released on it. -/
def Workgroup.clearSync (w : Workgroup) (a : Nat) : Workgroup := { w with sync := w.sync.clearRange (syncKey a 0) (syncKey a 128) }
/-- What a wait on a chunk map acquires: the releases of the bits of its mask, and of every set bit when a status ends it
(R203, R279). -/
def Workgroup.mapSync (w : Workgroup) (a mask : Nat) : View :=
  (List.range 64).foldl (fun (v : View) i => if mask.testBit i then v.join (SMap.get w.sync (syncKey a (2 + i)) []) else v)
    (SMap.get w.sync (syncKey a 1) [])

/-- The spill area of a group: base and length; none while sys.spill is 0 (R38). -/
def Group.spillArea (g : Group) : Option (Nat × Nat) :=
  if g.spill = 0 then none else some (g.spill.toNat, 256 * g.width)
/-- Whether a scratch range meets a spill area. Log entry 40. -/
def Workgroup.inSpill (w : Workgroup) (a n : Nat) : Bool :=
  w.groups.any (fun g => match g.spillArea with | some r => rangesMeet a n r.1 r.2 | none => false)
/-- The protected ranges of a workgroup: spill areas (code 1) and registered objects (code 0xA) (R38, R202).
Log entries 30 and 40. -/
def Workgroup.protectedCode (w : Workgroup) (a n : Nat) : Option Nat :=
  if w.inSpill a n then some 0x1
  else if w.objects.any (fun o => rangesMeet a n o.1 16) then some 0xA else none

/-- The object registered at a scratch offset. -/
def Workgroup.obj? (w : Workgroup) (a : Nat) : Option Obj := (w.objects.find? (fun o => o.1 == a)).map (·.2)
/-- Whether an offset names a registered phase barrier, or chunk map. -/
def Workgroup.isBarrier (w : Workgroup) (a : Nat) : Bool := match w.obj? a with | some (.barrier _ _ _) => true | _ => false
def Workgroup.isChunkMap (w : Workgroup) (a : Nat) : Bool := match w.obj? a with | some .chunkMap => true | _ => false

/-! ### Quires (R99, R164 to R170) -/

/-- The PC fields (R34). -/
def pcQuire (pc : Word) : Nat := pc.toNat / 2 ^ 24
def pcOffset (pc : Word) : Nat := pc.toNat % 2 ^ 24
def mkPc (q off : Nat) : Word := BitVec.ofNat 32 (q * 2 ^ 24 + off)

/-- A quire never named before is ABSENT. -/
def Quire.fresh (q : Nat) : Quire :=
  { q := q, state := .absent, tokens := 0, frames := 0, image := [], length := 0, entered := 0, shareable := false, store := 0, digest := 0, source := 0, why := (0, 0),
    view := [] }
/-- Quire q of a context on a core. -/
def Resident.quire (r : Resident) (q : Nat) : Quire := (r.quires.find? (fun x => x.q == q)).getD (Quire.fresh q)
/-- The state with quire q changed. -/
def Resident.modQuire (r : Resident) (q : Nat) (f : Quire → Quire) : Resident :=
  if r.quires.any (fun x => x.q == q) then { r with quires := r.quires.map (fun x => if x.q = q then f x else x) }
  else { r with quires := r.quires ++ [f (Quire.fresh q)] }

/-- The words of a unit at an offset of a resident quire: at most three, none beyond the image. -/
def Quire.words (x : Quire) (off : Nat) : List Word :=
  ((List.range 3).filter (fun i => decide (off + 4 * i + 4 ≤ x.length))).map (fun i =>
    BitVec.ofNat 32 (natOfBytes (SMap.read x.image (off + 4 * i) 4 0)))

/-- The return entries of a thread, spilled ones read from scratch (R36). -/
def Thread.entries (t : Thread) (w : Workgroup) (g : Group) (ti : Nat) : List Word :=
  t.stack ++ (List.range (t.depth - t.stack.length)).map (fun e =>
    BitVec.ofNat 32 (w.scratchWord (g.spill.toNat + 256 * ti + 4 * e)))

/-- One thread's share of a quire's occupancy: its PC, its return entries, its park, its resume PC (R166). -/
def Thread.occupies (t : Thread) (w : Workgroup) (g : Group) (ti q : Nat) : Nat :=
  if t.run = .exited then 0
  else
    natOfBool (pcQuire t.pc == q) + ((t.entries w g ti).filter (fun e => pcQuire e == q)).length
      + natOfBool (match t.run with
          | .parked (.quire k) _ => k == q
          | .parked (.delivery v _ _ _) _ => pcQuire v == q
          | .parked (.met _ _ (some k)) _ => k == q
          | _ => false)
      + natOfBool (t.handler && pcQuire t.resume == q)

/-- The occupancy count of a quire of a context on a core (R166); a workgroup placed and not started holds its entry
quire through its threads' PCs. -/
def State.occupancy (s : State) (p c core q : Nat) : Nat :=
  (s.wgs.filter (fun w => w.part == p && w.ctx == c && w.core == core)).foldl (fun n w =>
    w.groups.foldl (fun n g => g.threads.zipIdx.foldl (fun n x => n + x.1.occupies w g x.2 q) n) n) 0

/-- Frames of the instruction store that a context's quires hold on a core. -/
def Resident.framesHeld (r : Resident) : Nat := r.quires.foldl (fun n x => n + x.frames) 0

/-- Quires that may be evicted for a load, in the order of R168: least recently entered first, a quire never entered
before any other, ties to the lowest number. -/
def State.evictable (s : State) (r : Resident) (q : Nat) : List Quire :=
  let ok := r.quires.filter (fun x => x.q ≠ q && x.state == .resident && x.tokens == 0 &&
    s.occupancy r.part r.ctx r.core x.q == 0)
  sortBy (fun a b => decide (a.entered < b.entered ∨ (a.entered = b.entered ∧ a.q ≤ b.q))) ok

/-- The quires evicted, in order, until `need` frames are free; none when they cannot supply enough (R168). -/
def evictFor : (free need : Nat) → List Quire → Option (List Nat)
  | free, need, [] => if need ≤ free then some [] else none
  | free, need, x :: r => if need ≤ free then some [] else (evictFor (free + x.frames) need r).map (x.q :: ·)

/-- A quire evicted: its frames free, its state ABSENT (R165, R167). -/
def Quire.evict (x : Quire) : Quire := { x with state := .absent, frames := 0, image := [], length := 0, store := 0 }

/-- What a request for a load finds (R165, R171, R172). -/
inductive LoadAnswer where
  /-- The load has started, or found the quire shared and RESIDENT at once (R170). -/
  | started
  | already
  | noFrames
  | badEntry
  deriving DecidableEq, Repr

/-- A quire-table entry: image, length, flags, digest; none when it cannot be used (R164). -/
structure QuireEntry where
  image : Nat
  length : Nat
  shareable : Bool
  autoload : Bool
  digest : Nat
  deriving DecidableEq, Repr

/-- The entry of quire q in the table at `t`, with the address of an entry that could not be read (R164, R172). -/
def State.quireEntryIn (s : State) (p c core t q : Nat) (view : View) : State × Option QuireEntry × Nat :=
  match s.readCode p c core (t + 64 * q) 64 view with
  | (s1, .fault _ _) => (s1, none, t + 64 * q)
  | (s1, .bytes _ (some _)) => (s1, none, t + 64 * q)
  | (s1, .bytes bs none) =>
    let image := natOfBytes (bs.take 8)
    let len := natOfBytes ((bs.drop 8).take 4)
    let flags := natOfBytes ((bs.drop 12).take 1)
    let ok := image % 4096 = 0 ∧ len % 4096 = 0 ∧ 4096 ≤ len ∧ len ≤ 65536 ∧ flags < 8 ∧ flags.testBit 2 = true ∧
      ((bs.drop 13).take 19).all (· == 0) = true
    (s1, if ok then some { image := image, length := len, shareable := flags.testBit 0, autoload := flags.testBit 1,
                           digest := natOfBytes (bs.drop 32) } else none, 0)
/-- The entry in the context's own table, once it has one (R164), as a thread whose fences have ordered `view` finds it. -/
def State.quireEntry (s : State) (p c core q : Nat) (view : View) : State × Option QuireEntry × Nat :=
  match (s.context p c).qtable with
  | none => (s, none, 0)
  | some t => s.quireEntryIn p c core t q view

/-- The number of threads and stores that a frame quota counts for a context on a core. -/
def State.frameQuota (s : State) (p c : Nat) : Nat := (s.context p c).frameq.toNat

/-- A load requested and the choice of what it evicts made (R165, R168, R169): the entry read, frames found, and the quire
LOADING. -/
def State.requestLoad (s : State) (p c core q : Nat) (view : View) : State × LoadAnswer :=
  let r := s.resident p c core
  let x := r.quire q
  if x.state = .loading ∨ x.state = .resident then (s, .already)
  else
    match s.quireEntry p c core q view with
    | (s1, none, _) => (s1.modResident p c core (·.modQuire q (fun y => { y with state := .badEntry })), .badEntry)
    | (s1, some e, _) =>
      let f := e.length / 4096
      match evictFor (s.frameQuota p c - r.framesHeld) f (s1.evictable r q) with
      | none => (s1, .noFrames)
      | some out =>
        let s2 := out.foldl (fun s k => s.modResident p c core (·.modQuire k Quire.evict)) s1
        ({ s2 with nextId := s2.nextId + 1 }.modResident p c core (·.modQuire q (fun z =>
            { z with state := .loading, frames := f, image := [], length := e.length, shareable := e.shareable, store := s2.nextId,
                     digest := e.digest, source := e.image, view := view })), .started)

/-- A load that has been requested starts (R169, R170): its quire is RESIDENT at once when another context of the core holds the
same shareable image. -/
def State.startLoad (s : State) (p c core q : Nat) : State :=
  let x := (s.resident p c core).quire q
  if x.state = .loading ∧ x.shareable = true then
    match s.residents.findSome? (fun o => if o.core = core ∧ (o.part ≠ p ∨ o.ctx ≠ c) ∧ o.loc ≠ .saved then
        o.quires.find? (fun y => y.state == .resident && y.digest == x.digest && y.shareable) else none) with
    | some y => s.modResident p c core (·.modQuire q (fun z =>
        { z with state := .resident, image := y.image, length := y.length, store := y.store }))
    | none => s
  else s

/-- A load that nothing else of its cycle accompanies: requested and started. -/
def State.loadQuire (s : State) (p c core q : Nat) (view : View) : State × LoadAnswer :=
  match s.requestLoad p c core q view with
  | (s1, .started) => (s1.startLoad p c core q, .started)
  | r => r

/-- Whether another context of a core maps the frames of a context's quire (R170, R171). -/
def State.quireShared (s : State) (p c core q : Nat) : Bool :=
  let x := (s.resident p c core).quire q
  x.state == .resident && s.residents.any (fun o => o.core == core && ! (o.part == p && o.ctx == c) && o.loc != .saved &&
    o.quires.any (fun y => y.state == .resident && y.store == x.store))

/-- The quire entered by a thread (R168): entries of one cycle, which is one step, tie. -/
def State.enterQuire (s : State) (p c core q : Nat) : State :=
  s.modResident p c core (·.modQuire q (fun x => { x with entered := s.draws + 1 }))

/-- A thread's PC set, entering a quire when it passes into another one. -/
def State.setPc (s : State) (wid gi ti : Nat) (pc : Word) : State :=
  match s.wg? wid, s.thread? wid gi ti with
  | some w, some t =>
    let s1 := s.modThread wid gi ti (fun t => { t with pc := pc })
    if pcQuire t.pc = pcQuire pc then s1 else s1.enterQuire w.part w.ctx w.core (pcQuire pc)
  | _, _ => s

/-! ### The issue set and what a unit's threads do (R268, R367, R368) -/

/-- What becomes of a thread at a unit: it completes, traps or parks at the unit; it needs a quire loaded, and takes
another trap first when the load cannot start (R172, R368); its group's read does not translate, with the record's kind and
the failing pages as cause and address (R362); or it completes and its group asks for a load, with the register that
receives the status (R171). -/
inductive Verdict where
  | done
  | trap (t : Trap)
  | park (k : ParkKind)
  | load (q : Nat) (first : Option Trap)
  | miss (kind : Nat) (pages : List (Nat × Nat))
  | ask (q d : Nat) (pin : Bool)
  deriving DecidableEq, Repr

/-- Whether a thread completes its unit. -/
def Verdict.completes (v : Verdict) : Bool := match v with | .done => true | .ask _ _ _ => true | _ => false

/-- A thread of the issue set with what becomes of it. -/
structure Fate where
  gi : Nat
  ti : Nat
  v : Verdict
  deriving DecidableEq, Repr

def illegalTrap (r : Nat × Nat) : Trap := { cause := 0x01, info := reasonInfo r, addr := 0 }
def alignTrap (info addr : Nat) : Trap := { cause := 0x03, info := info, addr := addr }

/-- The reasons 10 and 11 of R92, which depend on the context and on the paradigm slots. -/
def machineReasons (s : State) (w : Workgroup) (sh : Shape) : List (Nat × Nat) :=
  (if sh.root && ! w.root then [(10, sh.len - 1)] else [])
    ++ (match sh.slot with
        | some k => if ((s.resident w.part w.ctx w.core).paradigms[k]?).join.isNone then [(11, sh.len - 1)] else []
        | none => [])

/-- Whether a role may issue an instruction (R204, R212, R264). -/
def roleOk (need : Role) (role : Nat) : Bool :=
  match need with
  | .any => true
  | .producer => role == 1
  | .matrix => role == 2
  | .epilogue => role == 2 || role == 3

/-- The mask register a unit's PFX names: k0 without one (R81, R115). -/
def Shape.maskReg (sh : Shape) : Nat := match sh.p with | some p => p.k.toNat | none => 0
/-- Whether a unit masks lanes: SEL uses its k for selection (R82). -/
def Shape.masks (sh : Shape) : Bool := sh.items.m
/-- Whether zeroing is on. -/
def Shape.zero (sh : Shape) : Bool := match sh.p with | some p => p.z | none => false

/-- Whether a thread participates (R115). -/
def participates (s : State) (sh : Shape) (g : Group) (ti : Nat) : Bool :=
  match g.threads[ti]? with
  | none => false
  | some t => ! sh.masks || readMask s g ti t sh.maskReg

/-- The registers of an operand as numbers of the unwaited set. -/
def Touch.names (t : Touch) : List Nat :=
  match t with
  | .reg n size _ _ => (List.range size).map (n + ·)
  | .mask k _ _ => [128 + k]

/-- Whether an operand is written. -/
def Touch.written (t : Touch) : Bool := match t with | .reg _ _ _ w => w | .mask _ _ w => w

/-- sys.trapinfo of a HAZARD for a register (R368). -/
def hazardInfo (n : Nat) : Nat := if n < 128 then n else 0x80 + (n - 128)

/-- Registers of other threads that a cross-lane instruction reads: thread, first register, count (R86). -/
abbrev CrossReads := LaneEnv → List (Nat × Nat × Nat)

/-- What a thread that does not participate touches: under zeroing the v and k destinations, and the mask register
(R82, R86, R87). -/
def maskPremature (e : LaneEnv) (sh : Shape) : Option Nat :=
  let dst := if sh.zero then (sh.touches.filter Touch.written).flatMap Touch.names else []
  ((dst.filter (fun n => decide (n < 96 ∨ 128 ≤ n))).find? (fun n => e.t.unwaited.contains n)).or
    (if sh.p.isSome ∧ sh.maskReg ≠ 0 ∧ e.t.unwaited.contains (128 + sh.maskReg) then some (128 + sh.maskReg) else none)

/-- The first premature register of a thread at a unit, in the order d, a, b, c, PFX mask (R86, R368). `cross` lists
the reads that stand in place of operands a and b. -/
def firstPremature (e : LaneEnv) (sh : Shape) (cross : Option (List (Nat × Nat × Nat))) : Option Nat :=
  let own (ts : List Touch) : Option Nat := (ts.flatMap Touch.names).find? (fun n => e.t.unwaited.contains n)
  let mask := if sh.p.isSome ∧ sh.maskReg ≠ 0 ∧ e.t.unwaited.contains (128 + sh.maskReg) then some (128 + sh.maskReg) else none
  match cross with
  | none => (own (sh.touches ++ sh.cop)).or mask
  | some cs =>
    let src := cs.findSome? (fun c => match e.other c.1 with
      | none => none
      | some t => ((List.range c.2.2).map (c.2.1 + ·)).find? (fun n => t.unwaited.contains n))
    (own (sh.touches.take 1)).or (src.or ((own sh.cop).or mask))

/-- The environments of a group's issuing threads. -/
def laneEnv (s : State) (sh : Shape) (w : Workgroup) (gi : Nat) (g : Group) (issued : List Nat) (ti : Nat) : Option LaneEnv :=
  (g.threads[ti]?).map (fun t =>
    { s := s, wg := w, gi := gi, g := g, ti := ti, t := t, issued := issued,
      parts := issued.filter (fun i => participates s sh g i), pfx := sh.p })

/-- sys.strict as a group has it: what a saved image has given it, where it has (R42, R86). -/
def LaneEnv.strict (e : LaneEnv) : Bool :=
  match (e.g.sys.find? (fun x => x.1 == 0x25)).map (·.2) with
  | some v => v.getLsbD 0
  | none => (e.s.context e.wg.part e.wg.ctx).strict

/-- The cause that stands before the unit's own effect (R368, order 1 to 3): illegal encoding, role, hazard. -/
def prologue (sh : Shape) (cross : Option CrossReads) (extra : List (Nat × Nat)) (e : LaneEnv) : Option Trap :=
  match leastReason (sh.reasons e.g.budget ++ machineReasons e.s e.wg sh ++ extra) with
  | some r => some (illegalTrap r)
  | none =>
    if ! roleOk sh.role e.g.role then some { cause := 0x02, info := e.g.role, addr := 0 }
    else if e.strict then
      let found := if sh.masks && ! e.parts.contains e.ti then maskPremature e sh else firstPremature e sh (cross.map (· e))
      found.map (fun n => { cause := 0x07, info := hazardInfo n, addr := 0 })
    else none

/-! ### Parking and waking (R85, R266, R267, R370) -/

/-- A thread parked at its unit. -/
def Thread.park (t : Thread) (k : ParkKind) (set : Nat) : Thread := { t with run := .parked k set, age := 0, pass := none, redo := match k with | .fault _ => some t.pc | _ => none }
/-- A thread made READY. -/
def Thread.wake (t : Thread) : Thread := { t with run := .ready, age := 0 }

/-- The final value of a register with results outstanding (R86): the one result, or a free choice when several
results compete, and what a later instruction wrote when it stands after all of them. Log entry 7. -/
def settle (s : State) (key : Nat) (held : Word) (ps : List Pending) : Word × Option Pending :=
  match ps with
  | [] => (held, none)
  | [p] => if p.late then (if Config.choose s.draws key % 2 = 0 then (held, none) else (p.value, some p)) else (p.value, some p)
  | p :: r =>
    let i := Config.choose s.draws key % (r.length + 2)
    if i = 0 ∧ ((r.getLast?).getD p).late = true then (held, none)
    else match ps[(i - 1) % ps.length]? with
      | some q => (q.value, some q)
      | none => (p.value, some p)

/-- The register names in a list of results, without repeats. -/
def resultRegs (ps : List Pending) : List Nat := (ps.map (·.reg)).eraseDups

/-- A thread's outstanding results made final, and its unwaited set emptied (R85). Log entry 7. -/
def Thread.commit (s : State) (g : Group) (ti : Nat) (t : Thread) : Thread :=
  (resultRegs t.pending).foldl (fun u n =>
    let ps := t.pending.filter (fun p => p.reg == n)
    let key := 100000 + 256 * (g.lanebase + ti) + n
    if n < 128 then
      let r := settle s key (u.v.get n 0) ps
      let m := match r.2 with
        | some p => if p.poison then [(n, ({ ord := p.ord, pc := p.pc, addr := p.addr } : Mark))] else []
        | none => u.marks.filter (fun m => m.1 == n)
      { u with v := SMap.set u.v n r.1 0, marks := u.marks.filter (fun m => m.1 ≠ n) ++ m }
    else
      let b := u.k.getLsbD (n - 128)
      let r := settle s key (if b then 1 else 0) ps
      { u with k := if r.1.getLsbD 0 then u.k ||| BitVec.ofNat 8 (2 ^ (n - 128)) else u.k &&& ~~~ (BitVec.ofNat 8 (2 ^ (n - 128))) })
    { t with pending := [], unwaited := [] }

/-- The results of a thread that are known written to its registers, its unwaited set kept: what a save, a debugger or another
thread finds of an instruction that has written some lanes' results (R88, R148, R366). Log entry 7. -/
def Thread.land (s : State) (g : Group) (ti : Nat) (t : Thread) : Thread :=
  let u := ({ t with pending := t.pending.filter (·.known) }).commit s g ti
  { u.freeze with unwaited := t.unwaited, pending := t.pending.filter (fun p => ! p.known) }

/-- A group's outstanding g results made final. Log entry 7. -/
def Group.commit (s : State) (g : Group) : Group :=
  (resultRegs g.gPending).foldl (fun u n =>
    let ps := g.gPending.filter (fun p => p.reg == n)
    let r := settle s (200000 + n) (u.greg (n - 96)) ps
    let m := match r.2 with
      | some p => if p.poison then [(n, ({ ord := p.ord, pc := p.pc, addr := p.addr } : Mark))] else []
      | none => u.gMarks.filter (fun m => m.1 == n)
    { u with g := if n = 96 then u.g else SMap.set u.g (n - 96) r.1 0, gMarks := u.gMarks.filter (fun m => m.1 ≠ n) ++ m })
    { g with gPending := [] }

/-- The known results of a whole group written to its registers (R88, R148, R366). -/
def Group.land (s : State) (g : Group) : Group :=
  let h := ({ g with gPending := g.gPending.filter (·.known) }).commit s
  { h with
    gPending := g.gPending.filter (fun p => ! p.known)
    threads := g.threads.zipIdx.map (fun t => t.1.land s g t.2) }
/-- The known results of a workgroup written to its registers. -/
def Workgroup.land (s : State) (w : Workgroup) : Workgroup := { w with groups := w.groups.map (Group.land s) }

/-- Whether every result outstanding for a thread has returned. -/
def Thread.allReturned (t : Thread) (g : Group) : Bool :=
  t.pending.all (·.returned) && g.gPending.all (·.returned)

/-! ### Debug stops and undeliverable traps (R174, R175, R379, R381) -/

/-- Whether a thread would be offered but for a stop: it is READY, or its results drain before its handler's first unit
(R88, R266). -/
def RunState.offers (x : RunState) : Bool := match x with | .ready => true | .parked (.wait _ true) _ => true | _ => false
/-- A thread made STOPPED; one whose PROOFW fetch is pending stands at its unit again (R237, R379). -/
def Thread.stop (t : Thread) : Thread :=
  match t.run with
  | .parked (.proofw _) _ => { t with stopped := true, offered := t.stopped && t.offered, age := 0, run := .ready }
  | _ => { t with stopped := true, offered := if t.stopped then t.offered else t.run.offers, age := 0 }
/-- Every thread of one workgroup made STOPPED, with the results that are known in its registers (R148). -/
def Workgroup.stop (s : State) (w : Workgroup) : Workgroup :=
  { w.land s with groups := (w.land s).groups.map (fun g => { g with threads := g.threads.map Thread.stop }) }
/-- The pending fetches of a workgroup withdrawn (R237). -/
def State.withdrawFetches (s : State) (wid : Nat) : State :=
  { s with jobs := s.jobs.filter (fun j => match j.kind with | .proofw _ _ _ _ => j.wid ≠ wid | _ => true) }

/-- Whether the stop that stands in a context is already a stop of a workgroup: it began it, or its scope takes it in
(R379). -/
def Context.stops (x : Context) (w : Workgroup) : Bool :=
  x.dstate != 0 && (x.heldAll || x.stopper == w.wid || x.heldLaunches.contains (BitVec.ofNat 32 w.handle))
/-- A stop that begins, or joins the one that stands, with the SCOPE of the moment. -/
def Context.extend (x : Context) (w : Workgroup) : Context :=
  { x with
    heldAll := x.heldAll || decide (2 ≤ x.dscope.toNat)
    heldLaunches := if x.dscope = 1 then BitVec.ofNat 32 w.handle :: x.heldLaunches else x.heldLaunches }

/-- A stop begun by one workgroup (R379): the SCOPE stops; the first stop sets WHY, BPN, DHANDLE and DWG; a later stop of
another workgroup while one stands writes a STOPPED record. Log entry 74. -/
def State.debugStop (s : State) (wid why bpn : Nat) (pc : Word) : State :=
  match s.wg? wid with
  | none => s
  | some w =>
    let c := s.context w.part w.ctx
    let hit (x : Workgroup) : Bool := x.part == w.part && x.ctx == w.ctx &&
      (x.wid == wid || (c.dscope == 1 && x.queue == w.queue && x.count == w.count) || decide (2 ≤ c.dscope.toNat))
    let s1 := (s.wgs.filter hit).foldl (fun s x => s.withdrawFetches x.wid)
      { s with wgs := s.wgs.map (fun x => if hit x then x.stop s else x) }
    if c.dstate = 0 then
      s1.modContext w.part w.ctx (fun y =>
        { y with
          dstate := 1, why := BitVec.ofNat 4 why, bpn := BitVec.ofNat 3 bpn, dhandle := BitVec.ofNat 32 w.handle,
          dwg := BitVec.ofNat 32 w.wglin, stepping := none, stopper := w.wid, heldAll := false, heldLaunches := [] }.extend w)
    else if c.stops w then s1.modContext w.part w.ctx (·.extend w)
    else (s1.modContext w.part w.ctx (·.extend w)).logRecord w.part w.ctx (w.handle + 2 ^ 32 * w.wglin) 0x16 5 w.core pc.toNat
      (256 * w.slot)

/-- An undeliverable trap (R174, R175, R381): an UNDELIVERABLE record, and the workgroup stops with WHY = 5; its
threads stand at the unit. -/
def State.undeliverable (s : State) (wid : Nat) (pc : Word) (t : Trap) (nested : Bool) (lane : Nat) : State :=
  match s.wg? wid with
  | none => s
  | some w =>
    (s.logRecord w.part w.ctx (t.cause + (if nested then 256 else 0) + 2 ^ 32 * t.info) 0x12 5 w.core pc.toNat
      (256 * w.slot + lane)).debugStop wid 5 0 pc

/-! ### Taking a trap and returning from one (R43, R88, R174 to R176) -/

/-- Where a trap is to be resumed: the word after the unit for TRAP and BKPT, the unit's first word otherwise (R174).
Log entry 58. -/
def resumePc (pc : Word) (len : Nat) (t : Trap) : Word :=
  if t.cause = 0x08 ∨ t.cause = 0x09 then pc + BitVec.ofNat 32 (4 * len) else pc

/-- The trap registers of a group written for one thread (R42, R43). Log entry 39. -/
def Group.trapRegs (g : Group) (pc : Word) (ti : Nat) (t : Trap) : Group :=
  { g with trapcause := BitVec.ofNat 8 t.cause, trappc := pc, traplane := BitVec.ofNat 6 (g.lanebase + ti),
           trapaddr := BitVec.ofNat 64 t.addr, trapinfo := BitVec.ofNat 32 t.info }

/-- A DATA_POISON that is delivered clears the marks of its thread and of its group's g registers (R370). Log entry 10. -/
def State.clearMarks (s : State) (wid gi ti cause : Nat) : State :=
  if cause = 0x0A then
    s.modGroup wid gi (fun g => { g with gMarks := [], threads := g.threads.modify ti (fun t => { t with marks := [] }) })
  else s

/-- A thread of a group in handler state: outstanding results drain before the handler's first instruction issues, at once
when all have returned (R88). -/
def Group.enterHandler (s : State) (ti : Nat) (pc resume : Word) (set : Nat) (g : Group) : Group :=
  match g.threads[ti]? with
  | none => g
  | some t =>
    let u := { t with handler := true, resume := resume, pass := none }
    if u.allReturned g then { g with threads := g.threads.set ti (u.commit s g ti).wake }.commit s
    else { g with threads := g.threads.set ti (u.park (.wait pc true) set) }

/-- A trap of a cause delivered to one thread whose handler quire is RESIDENT: resume PC recorded, handler state entered, PC
at the handler `vec` (R174). -/
def State.enterHandler (s : State) (wid gi ti : Nat) (vec pc resume : Word) (cause set : Nat) : State :=
  ((s.setPc wid gi ti vec).clearMarks wid gi ti cause).modGroup wid gi (Group.enterHandler s ti pc resume set)

/-- Threads of a group parked until none of it is in handler state (R43, R174). -/
def State.holdLanes (s : State) (wid gi set : Nat) (is : List Nat) : State :=
  is.foldl (fun s i => s.modThread wid gi i (·.park .handler set)) s

/-- Whether the entry of a handler's quire that is not RESIDENT lets delivery park on its load: it is autoload, and a branch to
the handler would find it within its length (R174). -/
def State.handlerLoads (s : State) (w : Workgroup) (vec : Word) (view : View) : State × Bool :=
  let x := (s.resident w.part w.ctx w.core).quire (pcQuire vec)
  match s.quireEntry w.part w.ctx w.core (pcQuire vec) view with
  | (s1, some e, _) => (s1, e.autoload && decide (pcOffset vec < if x.state = .loading then x.length else e.length))
  | (s1, none, _) => (s1, false)

/-- Delivery of one group's traps at a unit to the handler at `vec`, in ascending lane order (R43, R174, R175): the lowest
trapping lane is described and enters the handler, or parks on the handler's quire; the group's other trapping threads stay at
the unit until no thread of the group is in handler state. Also the load that delivery asks for. Log entry 39. -/
def State.deliverGroup (s : State) (wid gi : Nat) (vec pc : Word) (len : Nat) (ts : List (Nat × Trap)) : State × List LoadRequest :=
  match s.wg? wid, s.group? wid gi, ts with
  | some w, some g, (ti, t) :: rest =>
    let inHandler (i : Nat) : Bool := match g.threads[i]? with | some x => x.handler | none => false
    let set := s.nextId
    let s0 := { s with nextId := s.nextId + 1 }
    match ((ti, t) :: rest).find? (fun x => inHandler x.1) with
    | some x => (s0.undeliverable wid pc x.2 true (g.lanebase + x.1), [])
    | none =>
      if g.threads.any (·.handler) then (s0.holdLanes wid gi set (((ti, t) :: rest).map (·.1)), [])
      else
        let x := (s0.resident w.part w.ctx w.core).quire (pcQuire vec)
        let resume := resumePc pc len t
        let view := match g.threads[ti]? with | some u => u.code | none => []
        if vec = 0 ∨ pcOffset vec % 4 ≠ 0 then (s0.undeliverable wid pc t false (g.lanebase + ti), [])
        else if x.state = .resident then
          if x.length ≤ pcOffset vec then (s0.undeliverable wid pc t false (g.lanebase + ti), [])
          else (((s0.modGroup wid gi (·.trapRegs pc ti t)).enterHandler wid gi ti vec pc resume t.cause set).holdLanes wid gi set
            (rest.map (·.1)), [])
        else
          match s0.handlerLoads w vec view with
          | (s1, true) =>
            (((s1.modGroup wid gi (·.trapRegs pc ti t)).modThread wid gi ti (fun u =>
                ({ u with handler := true, resume := resume } : Thread).park (.delivery vec t.cause t.info t.addr) set)).holdLanes wid gi set
                  (rest.map (·.1)),
              [{ wid := wid, q := pcQuire vec, pc := pc, asker := .deliver gi ti t vec pc resume set, view := view }])
          | (s1, false) => (s1.undeliverable wid pc t false (g.lanebase + ti), [])
  | _, _, _ => (s, [])

/-- The trap vectors of a workgroup's groups. -/
def State.vecsOf (s : State) (wid : Nat) : List (Nat × Word) :=
  match s.wg? wid with
  | some w => w.groups.zipIdx.map (fun g => (g.2, g.1.trapvec))
  | none => []
/-- The trap vector of a group as a unit's cycle found it (R44). -/
def UnitEnd.vec (u : UnitEnd) (gi : Nat) : Word := ((u.vecs.find? (fun v => v.1 == gi)).map (·.2)).getD 0
/-- The traps among a unit's fates. -/
def trapsOf (fs : List Fate) : List (Nat × Nat × Trap) :=
  fs.filterMap (fun f => match f.v with | .trap t => some (f.gi, f.ti, t) | _ => none)
/-- The traps of one of its groups, in ascending lane order (R43). -/
def UnitEnd.trapsIn (u : UnitEnd) (gi : Nat) : List (Nat × Trap) :=
  sortBy (fun a b => decide (a.1 ≤ b.1)) (u.traps.filterMap (fun x => if x.1 = gi then some x.2 else none))

/-- Every trap of a unit delivered, group by group (R43), with the loads that delivery asks for. -/
def State.deliver (s : State) (u : UnitEnd) : State × List LoadRequest :=
  ((u.traps.map (·.1)).eraseDups).foldl (fun acc gi =>
    let r := acc.1.deliverGroup u.wid gi (u.vec gi) u.pc u.len (u.trapsIn gi)
    (r.1, acc.2 ++ r.2)) (s, [])

/-- Threads held by another thread's handler offered again once the group has none in handler state (R43, R174). -/
def State.releaseHeld (s : State) (wid gi : Nat) : State :=
  s.modGroup wid gi (fun g =>
    if g.threads.any (·.handler) then g
    else { g with threads := g.threads.map (fun t => match t.run with | .parked .handler _ => t.wake | _ => t) })

/-- The return from a trap (R176): PC at the resume PC, handler state cleared, nothing else changed. Log entry 58. -/
def State.trapReturn (s : State) (wid gi ti : Nat) : State :=
  match s.thread? wid gi ti with
  | none => s
  | some t => ((s.setPc wid gi ti t.resume).modThread wid gi ti (fun u => { u with handler := false })).releaseHeld wid gi

/-! ### Loads requested in a cycle (R169, R171, R172, R174) -/

def quireAbsent (q reason addr : Nat) : Trap := { cause := 0x06, info := q + 256 * reason, addr := addr }

/-- A delivery whose handler quire cannot become RESIDENT: handler state and resume PC withdrawn, the threads at the unit as
they stood, and the trap undeliverable with its own cause (R174). -/
def State.withdrawDelivery (s : State) (wid gi ti : Nat) (pc : Word) (t : Trap) : State :=
  match s.group? wid gi with
  | none => s
  | some g =>
    ((s.modThread wid gi ti (fun u => { u.wake with handler := false, resume := 0 })).releaseHeld wid gi).undeliverable wid pc t false
      (g.lanebase + ti)

/-- The status that QLOAD and QPIN write to a g register (R171). -/
def loadStatus (pin resident : Bool) (a : LoadAnswer) : Nat :=
  match pin, a with
  | false, .started => 0
  | false, .already => 1
  | false, .noFrames => 2
  | false, .badEntry => 3
  | true, .noFrames => 4
  | true, .badEntry => 3
  | true, _ => if resident then 0 else 1

/-- The trap of a thread whose unit needed a quire that cannot be loaded, for STACK_OVERFLOW stands before QUIRE_ABSENT
(R172, R368). -/
def loadTrap (a : LoadAnswer) (q : Nat) (first : Option Trap) : Option Trap :=
  match a with
  | .noFrames => some (first.getD (quireAbsent q 5 0))
  | .badEntry => some (first.getD (quireAbsent q 1 0))
  | _ => none

/-- The choices of several loads, each after the one before it (R169). -/
def State.chooseLoads (s : State) (rs : List LoadRequest) : State × List (LoadRequest × LoadAnswer) :=
  rs.foldl (fun acc r => match acc.1.wg? r.wid with
    | none => acc
    | some w =>
      let t := acc.1.requestLoad w.part w.ctx w.core r.q r.view
      (t.1, acc.2 ++ [(r, t.2)])) (s, [])

/-- The trap of a thread at its unit whose load could not start. -/
def reachTrap (a : LoadRequest × LoadAnswer) : Option (Nat × Nat × Trap) :=
  match a.1.asker with
  | .reach gi ti first _ => (loadTrap a.2 a.1.q first).map (fun t => (gi, ti, t))
  | _ => none

/-- What follows a request once the loads of its cycle have started (R169, R171, R172, R174): a status is written, a thread parks
on the load in progress, a delivery enters the handler or is withdrawn. -/
def State.afterLoad (s : State) (a : LoadRequest × LoadAnswer) : State :=
  match s.wg? a.1.wid with
  | none => s
  | some w =>
    let x := (s.resident w.part w.ctx w.core).quire a.1.q
    match a.1.asker with
    | .status gi d pin =>
      let s1 := if pin = true ∧ a.2 = .badEntry then
          s.modResident w.part w.ctx w.core (·.modQuire a.1.q (fun x => { x with tokens := x.tokens - 1 }))
        else s
      s1.modGroup a.1.wid gi (·.writeG d (BitVec.ofNat 32 (loadStatus pin (x.state == .resident) a.2)))
    | .reach gi ti first set =>
      if (loadTrap a.2 a.1.q first).isSome ∨ x.state = .resident then s else s.modThread a.1.wid gi ti (·.park (.quire a.1.q) set)
    | .deliver gi ti t vec pc resume set =>
      if a.2 = .noFrames ∨ a.2 = .badEntry then s.withdrawDelivery a.1.wid gi ti pc t
      else if x.state = .resident then
        if pcOffset vec < x.length then s.enterHandler a.1.wid gi ti vec pc resume t.cause set
        else s.withdrawDelivery a.1.wid gi ti pc t
      else s

/-- The end of a cycle (R43, R44, R169): the choices of its units' loads; their traps, those of threads whose loads cannot start
among them, delivered; the choices of the loads that delivery asks for; then every load starts. -/
def State.settleEnds (s : State) (us : List UnitEnd) : State :=
  let c := us.foldl (fun (acc : State × List (UnitEnd × List (LoadRequest × LoadAnswer))) u =>
    let r := acc.1.chooseLoads u.loads
    (r.1, acc.2 ++ [({ u with traps := u.traps ++ r.2.filterMap reachTrap }, r.2)])) (s, [])
  let d := c.2.foldl (fun (acc : State × List LoadRequest) x =>
    let r := acc.1.deliver x.1
    (r.1, acc.2 ++ r.2)) (c.1, [])
  let h := d.1.chooseLoads d.2
  let all := c.2.flatMap (·.2) ++ h.2
  let s1 := all.foldl (fun s a => match a.2, s.wg? a.1.wid with
    | .started, some w => s.startLoad w.part w.ctx w.core a.1.q
    | _, _ => s) h.1
  all.foldl State.afterLoad s1

/-- What a unit leaves for the end of its cycle: settled at once, or kept while both slots issue (R169, R411). -/
def State.endUnit (s : State) (u : UnitEnd) : State :=
  if u.traps.isEmpty && u.loads.isEmpty then s
  else if s.holdEnds then { s with ends := s.ends ++ [u] } else s.settleEnds [u]

/-- Traps delivered outside a unit's own end. -/
def State.deliverNow (s : State) (wid : Nat) (pc : Word) (len : Nat) (fs : List Fate) : State :=
  s.endUnit { wid := wid, pc := pc, len := len, vecs := s.vecsOf wid, traps := trapsOf fs, loads := [] }

/-! ### Waiting on results (R85, R267, R370) -/

/-- The earliest mark a thread sees at a W: its own registers' and its group's (R370). -/
def firstMark (g : Group) (t : Thread) : Option Mark :=
  ((t.marks ++ g.gMarks).map (·.2)).foldl (fun o m => match o with
    | none => some m
    | some b => if m.ord < b.ord then some m else some b) none

/-- The threads of a workgroup parked in one set at a wait for results. -/
def Workgroup.waiters (w : Workgroup) (set : Nat) : List (Nat × Nat × Word × Bool) :=
  w.groups.zipIdx.flatMap (fun g => g.1.threads.zipIdx.filterMap (fun t =>
    match t.1.run with
    | .parked (.wait u d) k => if k = set then some (g.2, t.2, u, d) else none
    | _ => none))

/-- Whether every result outstanding for a thread of a workgroup has returned (R85). -/
def Workgroup.returned (w : Workgroup) (gi ti : Nat) : Bool :=
  match w.groups[gi]? with
  | some g => (match g.threads[ti]? with | some t => t.allReturned g | none => true)
  | none => true

/-- Whether the threads of a waiting set have all their results. -/
def Workgroup.due (w : Workgroup) (set : Nat) : Bool := (w.waiters set).all (fun x => w.returned x.1 x.2.1)

/-- The waiters whose results become final, thread by thread, then their groups' (R85, R86). -/
def State.commitWaiters (s : State) (wid : Nat) (ws : List (Nat × Nat × Word × Bool)) : State :=
  let s1 := ws.foldl (fun s x => s.modGroup wid x.1 (fun g =>
    { g with threads := g.threads.modify x.2.1 (fun t => (t.commit s g x.2.1).wake) })) s
  ((ws.map (·.1)).eraseDups).foldl (fun s gi => s.modGroup wid gi (fun g => g.commit s)) s1

/-- The waiters that a poison mark stops at their unit, with the unit (R370). -/
def State.poisonedWaiters (s : State) (wid : Nat) (ws : List (Nat × Nat × Word × Bool)) : List (Word × Fate) :=
  ws.filterMap (fun x =>
    if x.2.2.2 then none
    else match s.group? wid x.1 with
      | none => none
      | some g => match g.threads[x.2.1]? with
        | none => none
        | some t => (firstMark g t).map (fun m =>
            (x.2.2.1, ({ gi := x.1, ti := x.2.1, v := .trap { cause := 0x0A, info := m.pc.toNat, addr := m.addr } } : Fate))))

/-- DATA_POISON for the poisoned waiters, whose threads stand at their units again (R370). -/
def State.poisonWaiters (s : State) (wid : Nat) (poisoned : List (Word × Fate)) : State :=
  match poisoned with
  | [] => s
  | (u, _) :: _ =>
    (poisoned.foldl (fun s f => s.modThread wid f.2.gi f.2.ti (fun t => { t with pc := u })) s).deliverNow wid u 1 (poisoned.map (·.2))

/-- Whether a park ends together with those of the other threads that the unit parked (R267): full-empty waits, translation
faults and waits for a handler end thread by thread. -/
def ParkKind.together (k : ParkKind) : Bool :=
  match k with
  | .fullEmpty _ _ => false
  | .fault _ => false
  | .handler => false
  | .delivery _ _ _ _ => false
  | _ => true
/-- Whether a park's own condition has been met, results apart. -/
def ParkKind.isMet (k : ParkKind) : Bool := match k with | .met _ _ _ => true | .wait _ _ => true | _ => false

/-- Whether some thread of a set still waits for a condition other than its results (R267). -/
def Workgroup.unmet (w : Workgroup) (set : Nat) : Bool :=
  w.groups.any (fun g => g.threads.any (fun t => match t.run with
    | .parked k n => n == set && k.together && ! k.isMet
    | _ => false))

/-- A thread past its unit. -/
def Thread.past (t : Thread) : Thread := { t with pc := t.pc + 4, age := 0, pass := none, redo := none }

/-- A thread whose park has been met, once its set's conditions all hold: past its unit when that is done, and waiting for its
results when the unit bore W (R85, R178, R267). -/
def Thread.settleMet (t : Thread) (set : Nat) : Thread :=
  match t.run with
  | .parked (.met true true _) n => if n = set then t.past.park (.wait t.pc false) set else t
  | _ => t
/-- A thread whose park has been met, READY once its whole set is. -/
def Thread.freeMet (t : Thread) (set : Nat) : Thread :=
  match t.run with
  | .parked (.met past _ _) n => if n = set then (if past then t.past else t).wake else t
  | _ => t
/-- Every thread of a workgroup changed. -/
def Workgroup.mapThreads (w : Workgroup) (f : Thread → Thread) : Workgroup :=
  { w with groups := w.groups.map (fun g => { g with threads := g.threads.map f }) }

/-- One set whose conditions have all been met and whose results have all returned wakes: results final, DATA_POISON for a
thread with a mark (R85, R267, R370). -/
def State.wakeSet (s : State) (wid set : Nat) : State :=
  match s.wg? wid with
  | none => s
  | some w0 =>
    if w0.unmet set then s
    else
      let s1 := s.modWg wid (·.mapThreads (·.settleMet set))
      let w := w0.mapThreads (·.settleMet set)
      if ! w.due set then s1
      else
        let ws := w.waiters set
        let s2 := (s1.modWg wid (·.mapThreads (·.freeMet set))).commitWaiters wid ws
        s2.poisonWaiters wid (s2.poisonedWaiters wid ws)

/-- The sets of a workgroup that wait on results, or whose parks have been met. -/
def Workgroup.waitingSets (w : Workgroup) : List Nat :=
  (w.groups.flatMap (fun g => g.threads.filterMap (fun t =>
    match t.run with | .parked k n => if k.isMet then some n else none | _ => none))).eraseDups

/-- Every set of a workgroup that waits on results is tried. -/
def State.wakeWaits (s : State) (wid : Nat) : State :=
  match s.wg? wid with
  | none => s
  | some w => w.waitingSets.foldl (fun s k => s.wakeSet wid k) s

/-! ### Issuing one unit -/

/-- The groups and threads of the issue set, as environments of a unit. -/
def State.issueLanes (s : State) (sh : Shape) : List LaneEnv :=
  match s.wg? s.issue.wid with
  | none => []
  | some w => s.issue.members.flatMap (fun m =>
      match w.groups[m.1]? with
      | none => []
      | some g => m.2.filterMap (fun ti => laneEnv s sh w m.1 g m.2 ti))

/-- A thread past the unit: its PC after the unit's last word. -/
def State.advance (s : State) (wid gi ti : Nat) (n : Nat) : State :=
  s.modThread wid gi ti (fun t => { t with pc := t.pc + BitVec.ofNat 32 (4 * n), age := 0, pass := none, redo := none })

/-- The failing pages of the groups' reads of a unit: page, cause, address, kind, and the thread described (R362). -/
def missesOf (fs : List Fate) : List (Nat × Nat × Nat × Nat × Nat × Nat) :=
  fs.flatMap (fun f => match f.v with
    | .miss kind ps => ps.map (fun x => (x.2 / 2 ^ 14, x.1, x.2, kind, f.gi, f.ti))
    | _ => [])

/-- The groups' failing reads of a unit: one record for each failing page, and each thread parked on the record of its first
page (R158, R362). -/
def State.parkMisses (s : State) (wid : Nat) (pc : Word) (fs : List Fate) : State × List Fate :=
  let ms := missesOf fs
  match s.wg? wid, ms with
  | some w, _ :: _ =>
    let r := ((ms.map (·.1)).eraseDups).foldl (fun (acc : State × List (Nat × Nat)) pg =>
      match ms.find? (fun m => m.1 == pg) with
      | some (_, cause, addr, kind, gi, ti) =>
        let t := acc.1.raiseFault w.part w.ctx (addr % 2 ^ 64) cause kind w.core pc.toNat
          (256 * w.slot + (((w.groups[gi]?).map (·.lanebase)).getD 0) + ti)
        (t.1, acc.2 ++ [(pg, t.2)])
      | none => acc) (s, [])
    (r.1, fs.map (fun f => match f.v with
      | .miss _ (x :: _) => { f with v := .park (.fault (((r.2.find? (fun y => y.1 == x.2 / 2 ^ 14)).map (·.2)).getD 0)) }
      | _ => f))
  | _, _ => (s, fs)

/-- What the fences of some threads of a group have ordered before they request a quire (R300). -/
def State.codeOf (s : State) (wid gi : Nat) (tis : List Nat) : View :=
  tis.foldl (fun (v : View) ti => match s.thread? wid gi ti with | some t => v.join t.code | none => v) []

/-- The loads that a unit's threads and groups ask for (R171, R172). -/
def State.loadsOf (s : State) (all : List (Nat × Nat)) (fs : List Fate) (wid : Nat) (pc : Word) (set : Nat) : List LoadRequest :=
  fs.filterMap (fun f => match f.v with
    | .load q first => some { wid := wid, q := q, pc := pc, asker := .reach f.gi f.ti first set, view := s.codeOf wid f.gi [f.ti] }
    | .ask q d pin => some { wid := wid, q := q, pc := pc, asker := .status f.gi d pin,
                             view := s.codeOf wid f.gi ((all.filter (fun x => x.1 == f.gi)).map (·.2)) }
    | _ => none)

/-- The end of a unit: completed threads go on, and park when it bears W (R85); parking threads park; traps are
delivered and loads requested at the end of its cycle (R169); sets whose results are back wake. `jump` when the unit has set the
PCs of its completed threads itself; `vecs` are the trap vectors that its cycle found (R44). -/
def finishUnit (sh : Shape) (jump : Bool) (all : List (Nat × Nat)) (fates : List Fate) (pc : Word) (wid : Nat) (vecs : List (Nat × Word))
    (before : State) : State :=
  let m := before.parkMisses wid pc fates
  let s := m.1
  let fs := m.2
  let out (x : Nat × Nat) : Bool := fs.any (fun f => f.gi == x.1 && f.ti == x.2 && ! f.v.completes)
  let ok := all.filter (fun x => ! out x)
  let set := s.nextId
  let s0 := { s with nextId := s.nextId + 1 }
  let s1 := if jump then ok.foldl (fun s x => s.modThread wid x.1 x.2 (fun t => { t with age := 0, pass := none, redo := none })) s0
    else ok.foldl (fun s x => s.advance wid x.1 x.2 sh.len) s0
  let s2 := if sh.h then ok.foldl (fun s x => s.modThread wid x.1 x.2 (fun t =>
      if t.run = .ready then t.park (.wait pc false) set else t)) s1 else s1
  let s3 := fs.foldl (fun s f => match f.v with
      | .park k => s.modThread wid f.gi f.ti (·.park k set)
      | .load _ _ => s.modThread wid f.gi f.ti (fun t => { t with age := 0, pass := none, redo := none })
      | .trap _ => s.modThread wid f.gi f.ti (fun t => { t with pass := none, redo := none })
      | _ => s) s2
  (s3.endUnit { wid := wid, pc := pc, len := sh.len, vecs := vecs, traps := trapsOf fs, loads := s3.loadsOf all fs wid pc set }).wakeWaits wid

/-- What the body of a unit is given and answers: the state, the lanes that pass the prologue; the new state and the
threads that do not complete. -/
abbrev Body := State → List LaneEnv → State × List Fate

/-- One unit issued by the current issue set: the prologue of R368 for each thread, the body for those that pass, and
the end of the unit. A thread that traps in the prologue stands among the threads of the set and the participants that the
others see (R115). Log entry 87. -/
def runUnit (i : Instr) (jump : Bool) (cross : Option CrossReads) (extra : State → Workgroup → List (Nat × Nat)) (body : Body)
    (s : State) : State :=
  let sh := shapeOf i
  let es := s.issueLanes sh
  let pre := es.filterMap (fun e => (prologue sh cross (extra s e.wg) e).map (fun t => ({ gi := e.gi, ti := e.ti, v := .trap t } : Fate)))
  let r := body s (es.filter (fun e => ! pre.any (fun f => f.gi == e.gi && f.ti == e.ti)))
  finishUnit sh jump (es.map (fun e => (e.gi, e.ti))) (pre ++ r.2) s.issue.pc s.issue.wid (s.vecsOf s.issue.wid) r.1

/-- No reasons beyond the shape's own. -/
def noExtra : State → Workgroup → List (Nat × Nat) := fun _ _ => []

/-- The groups among the lanes of a unit, each with its first lane: a G-set word acts once for each (R153). -/
def groupLanes (es : List LaneEnv) : List LaneEnv :=
  es.foldl (fun l e => if l.any (fun x => x.gi == e.gi) then l else l ++ [e]) []

/-- The issue set's threads as fates of one group. -/
def fatesOf (es : List LaneEnv) (gi : Nat) (v : Verdict) : List Fate :=
  (es.filter (fun e => e.gi == gi)).map (fun e => { gi := e.gi, ti := e.ti, v := v })

/-- A unit that decodes to no instruction: every thread traps with its group's reason (R92). -/
def illegalUnit (ws : List Word) (reason : List Word → Nat → Nat × Nat) (s : State) : State :=
  let sh := Shape.event
  let es := s.issueLanes sh
  finishUnit sh false (es.map (fun e => (e.gi, e.ti)))
    (es.map (fun e => { gi := e.gi, ti := e.ti, v := .trap (illegalTrap (reason ws e.g.budget)) })) s.issue.pc s.issue.wid
    (s.vecsOf s.issue.wid) s

end Sys2Proof.Machine
end

