-- ==== Sys2Proof/Machine/Lane.lean ====
section
/-!
DEFINITION. The issue of one per-lane instruction: who participates, merge and zero (R82, R115), the random stream
(R140, R141), results at once or outstanding (R84, R85); and the readings of operands as elements (R51) that the
lane families share.
-/
namespace Sys2Proof.Machine
open Sys2Proof

/-- What an instruction makes of one lane: registers and k registers to write, and how many words of its random
stream it takes. -/
structure LaneOut where
  regs : List (Nat × Word)
  masks : List (Nat × Bool)
  draws : Nat
  deriving DecidableEq, Repr

/-- Registers written; k registers written. -/
def LaneOut.ofRegs (rs : List (Nat × Word)) : LaneOut := { regs := rs, masks := [], draws := 0 }
def LaneOut.ofMask (k : Nat) (b : Bool) : LaneOut := { regs := [], masks := [(k, b)], draws := 0 }

/-- The destinations of a unit, all zero. -/
def Shape.zeroed (sh : Shape) : LaneOut :=
  { regs := sh.touches.flatMap (fun t => match t with
      | .reg n size _ true => (List.range size).map (fun i => (n + i, (0 : Word)))
      | _ => [])
    masks := sh.touches.filterMap (fun t => match t with | .mask k _ true => some (k, false) | _ => none)
    draws := 0 }

/-- The registers of a result that are written at all (R29, R33). Log entry 28. -/
def LaneOut.regsKept (o : LaneOut) (gDst : Bool) : List (Nat × Word) :=
  o.regs.filter (fun w => decide (w.1 < 96) || (gDst && w.1 ≠ 96))

/-- One lane's results written at once. Log entry 28. -/
def State.laneNow (s : State) (wid gi ti : Nat) (gDst : Bool) (o : LaneOut) : State :=
  let s1 := (s.writeRegs wid gi ti gDst o.regs).writeMasks wid gi ti o.masks
  if o.draws = 0 then s1 else s1.modThread wid gi ti (fun t => { t with stream := (t.stream + o.draws) % 2 ^ 64 })

/-- One lane's results made outstanding (R85); a k register's result holds its bit in bit 0. Log entry 28. -/
def State.laneLater (s : State) (wid gi ti : Nat) (ord : Nat) (pc : Word) (gDst : Bool) (o : LaneOut) : State :=
  let ps := (o.regsKept gDst).map (fun w => Pending.now ord w.1 w.2 false pc 0)
    ++ (o.masks.filter (fun k => k.1 ≠ 0)).map (fun k => Pending.now ord (128 + k.1) (if k.2 then 1 else 0) false pc 0)
  let s1 := (s.addPending wid gi ti (ps.filter (fun p => p.reg < 96 ∨ 128 ≤ p.reg)))
  let s2 := s1.addGPending wid gi (ps.filter (fun p => 96 ≤ p.reg ∧ p.reg < 128))
  if o.draws = 0 then s2 else s2.modThread wid gi ti (fun t => { t with stream := (t.stream + o.draws) % 2 ^ 64 })

/-- What a lane of a unit writes: its own result when it participates, zero under zeroing, nothing otherwise (R82,
R115). Zeroing never touches a g register. -/
def laneResult (sh : Shape) (f : LaneEnv → LaneOut) (e : LaneEnv) : Option LaneOut :=
  if e.parts.contains e.ti then some (f e)
  else if sh.zero then some { sh.zeroed with regs := sh.zeroed.regs.filter (fun w => w.1 < 96) }
  else none

/-- The results of every lane of a unit written, computed before any is written. -/
def writeLanes (sh : Shape) (v : Bool) (f : LaneEnv → LaneOut) : Body := fun s es =>
  let outs := es.map (fun e => (e, laneResult sh f e))
  (outs.foldl (fun s x => match x.2 with
    | none => s
    | some o => if v then s.laneLater x.1.wg.wid x.1.gi x.1.ti s.nextId s.issue.pc sh.gDst o
                else s.laneNow x.1.wg.wid x.1.gi x.1.ti sh.gDst o) s, [])

/-- A per-lane instruction of fixed latency that computes `f` in each lane. Log entry 1. -/
def laneUnit (i : Instr) (f : LaneEnv → LaneOut) (s : State) : State :=
  runUnit i false none noExtra (writeLanes (shapeOf i) false f) s

/-- A per-lane instruction of V class (R84). -/
def laneUnitV (i : Instr) (f : LaneEnv → LaneOut) (s : State) : State :=
  runUnit i false none noExtra (writeLanes (shapeOf i) true f) s

/-- A cross-lane instruction: `c` lists what a lane reads of other threads (R86, R116). -/
def crossUnit (i : Instr) (v : Bool) (c : CrossReads) (f : LaneEnv → LaneOut) (s : State) : State :=
  runUnit i false (some c) noExtra (writeLanes (shapeOf i) v f) s

/-- The mask bits of lanes, where a PFX names a mask: they say who takes part in what the instruction combines (R82, R87,
R115). -/
def LaneEnv.maskReads (e : LaneEnv) (lanes : List Nat) : List (Nat × Nat × Nat) :=
  match e.pfx with
  | some p => if p.k = 0 then [] else lanes.map (fun i => (i, 128 + p.k.toNat, 1))
  | none => []

/-! ### PFX items of a lane (R81, R82) -/

def LaneEnv.mode (e : LaneEnv) : Nat := match e.pfx with | some p => p.mode.toNat | none => 0
def LaneEnv.sat (e : LaneEnv) : Bool := match e.pfx with | some p => p.sat | none => false
def LaneEnv.negA (e : LaneEnv) : Bool := match e.pfx with | some p => p.na | none => false
def LaneEnv.negB (e : LaneEnv) : Bool := match e.pfx with | some p => p.nb | none => false
def LaneEnv.absA (e : LaneEnv) : Bool := match e.pfx with | some p => p.aa | none => false
def LaneEnv.absB (e : LaneEnv) : Bool := match e.pfx with | some p => p.ab | none => false

/-! ### The random stream (R140, R141) -/

/-- The mixing function of R140, modulo 2^64. -/
def mix64 (x : Nat) : Nat :=
  let x := x ^^^ (x >>> 30)
  let x := x * 0xBF58476D1CE4E5B9 % 2 ^ 64
  let x := x ^^^ (x >>> 27)
  let x := x * 0x94D049BB133111EB % 2 ^ 64
  x ^^^ (x >>> 31)

/-- word(n) of stream `strm` under key `key` (R140). -/
def streamWord (key strm n : Nat) : Nat :=
  let g := 0x9E3779B97F4A7C15
  mix64 ((mix64 ((key + strm * g) % 2 ^ 64) + (n + 1) * g) % 2 ^ 64) / 2 ^ 32

/-- The lane's stream number (R140). -/
def LaneEnv.streamOf (e : LaneEnv) : Nat :=
  (match (e.g.sys.find? (fun x => x.1 == 0x08)).map (·.2) with | some v => v.toNat | none => e.wg.wglin) * 2 ^ 10 + e.g.tbase + e.ti
/-- The lane's stream word `k` places on. -/
def LaneEnv.word (e : LaneEnv) (k : Nat) : Nat := streamWord e.g.seed.toNat e.streamOf (e.t.stream + k)
/-- The draw of the `k`-th element that the lane's instruction rounds (R65, R141). -/
def LaneEnv.draw (e : LaneEnv) (k : Nat) : Nat := e.word k / 2 ^ 16
/-- How many words rounding `n` elements takes. -/
def LaneEnv.drawn (e : LaneEnv) (n : Nat) : Nat := if e.mode = 5 then n else 0

/-! ### Elements (R51, R79) -/

/-- The format of an LU floating type (R79). -/
def fmtOf (t : Nat) : Fmt := match t with | 0 => fp32 | 1 => fp64 | 2 => bf16 | _ => fp16
/-- Elements of an LU type in a lane, and the bits of one. -/
def elemsOf (t : Nat) : Nat := if t = 2 ∨ t = 3 then 2 else 1
def elemBits (t : Nat) : Nat := match t with | 0 => 32 | 1 => 64 | 2 => 16 | 3 => 16 | 4 => 32 | 5 => 32 | _ => 64

/-- Element i of a packed number. -/
def elemAt (x bits i : Nat) : Nat := x / 2 ^ (bits * i) % 2 ^ bits
/-- The number that elements make, element 0 lowest. -/
def packElems (bits : Nat) (xs : List Nat) : Nat :=
  xs.zipIdx.foldl (fun n x => n + x.1 % 2 ^ bits * 2 ^ (bits * x.2)) 0

/-- Registers that hold a number of `bits` bits, at least one. -/
def regsFor (bits : Nat) : Nat := max 1 ((bits + 31) / 32)

/-- The bits of an element width code w of 00 or 01. -/
def widthBits (w : BitVec 2) : Nat := if w = 0 then 32 else 64

end Sys2Proof.Machine
end

