-- ==== Sys2Proof/Machine/Access.lean ====
section
/-!
DEFINITION. The lanes' accesses to the three memory spaces (R182 to R195, R305, R362, R369, R370): addresses and their
checks, translation with its recoverable faults, loads, stores with their poisoned granules, full-empty bits and
read-modify-writes.
-/
namespace Sys2Proof.Machine
open Sys2Proof

/-- The lane of a thread on its core. -/
def LaneEnv.lane (e : LaneEnv) : Nat := e.g.lanebase + e.ti
/-- The thread of a lane as an agent (R277). -/
def LaneEnv.agent (e : LaneEnv) : Agent := { core := e.wg.core, wid := e.wg.wid, gi := e.gi, ti := e.ti }
/-- The lane's thread changed. -/
def State.modLane (s : State) (e : LaneEnv) (f : Thread → Thread) : State := s.modThread e.wg.wid e.gi e.ti f
/-- Lanes in ascending order (R185, R191, R193). -/
def byLane (es : List LaneEnv) : List LaneEnv := sortBy (fun a b => decide (a.lane ≤ b.lane)) es
/-- Whether a lane participates. -/
def LaneEnv.takes (e : LaneEnv) : Bool := e.parts.contains e.ti

/-- The access size of w (R185). -/
def accessBytes (w : BitVec 2) : Nat := 4 * grp w
/-- The address an LM word names (R77, R183). Log entry 29. -/
def lmAddr (u : LMem) (pair : Bool) (e : LaneEnv) : Nat :=
  e.val u.a.toNat (if pair then 2 else 1) + u.off4.toNat * accessBytes u.w

/-- The data group as bytes. -/
def dataBytes (d size : Nat) (e : LaneEnv) : List Byte := bytesOf (e.val d size) (4 * size)

/-- The who field of a record (R362): slot and lane. -/
def LaneEnv.who (e : LaneEnv) : Nat := 256 * e.wg.slot + e.lane
/-- A lane's verdict as a fate. -/
def LaneEnv.fate (e : LaneEnv) (v : Verdict) : Fate := { gi := e.gi, ti := e.ti, v := v }

/-- A STORE_POISONED record (R369, R372). Log entry 10. -/
def State.logPoison (s : State) (e : LaneEnv) (addr : Nat) : State :=
  s.logRecord e.wg.part e.wg.ctx (addr % 2 ^ 64) 0x10 5 e.wg.core s.issue.pc.toNat e.who

/-! ### Results and zeroing -/

/-- Results that a load or atomic leaves outstanding, register by register, each with its poison (R85, R370).
Log entry 28. -/
def State.loadResult (s : State) (e : LaneEnv) (d : Nat) (rs : List (Word × Bool)) (addr : Nat) : State :=
  s.addPending e.wg.wid e.gi e.ti ((rs.zipIdx.map (fun r => Pending.now s.nextId (d + r.2) r.1.1 r.1.2 s.issue.pc addr)).filter
    (fun p => p.reg < 96))

/-- Bytes as registers. -/
def wordsOf (bs : List Byte) : List Word :=
  (List.range (bs.length / 4)).map (fun i => BitVec.ofNat 32 (natOfBytes ((bs.drop (4 * i)).take 4)))

/-- The non-participants of a load or atomic under zeroing: `size` registers from d receive zero (R82). -/
def zeroRest (z : Bool) (d size : Nat) (s : State) (es : List LaneEnv) : State :=
  if z then
    (es.filter (fun e => ! e.takes)).foldl (fun s e => s.loadResult e d (List.replicate size (0, false)) 0) s
  else s

/-! ### An access as the memory model takes it (R278 to R286) -/

/-- A lane's access to n bytes: its space as in `locKey`, the bytes of a location there (8, or the 16 of a granule of scratch),
the address that the program gave, the place, and the strength. -/
structure Spot where
  e : LaneEnv
  space : Nat
  sz : Nat
  addr : Nat
  place : Nat
  n : Nat
  strong : Nat

/-- The location of byte i, and the address of that location's bytes, as numbers of `locKey`. -/
def Spot.loc (p : Spot) (i : Nat) : Nat := locKey p.space ((p.place + i) / p.sz)
def Spot.va (p : Spot) (i : Nat) : Nat := locKey p.space ((p.addr + i) / p.sz)
/-- The lane's thread once its earlier loads of those locations, through this address, are performed (R283). -/
def Spot.after (p : Spot) (t : Thread) : Thread :=
  t.follow p.space (p.addr / p.sz * p.sz) ((p.addr + p.n - 1) / p.sz * p.sz + p.sz - p.addr / p.sz * p.sz)
/-- What the free choice of byte i goes by: a plain load takes one store for each byte, a strong one for each location
(R282). -/
def Spot.key (p : Spot) (i : Nat) : Nat :=
  300000 + 64 * p.e.lane + (if p.strong = 0 then i else (p.place + i) / p.sz - p.place / p.sz)

/-- A location of the vaults as an observer of die e finds it that must see the stores from `bound` on and those of its view
(R281, R291, R293). Log entries 1 and 3. -/
def State.seeVaultPlace (s : State) (k e bound : Nat) (view : View) (key : Nat) : List Byte × Nat × Stored :=
  let loc := locKey 1 (k / 8)
  let v := s.stores.get loc Versions.none
  let now := SMap.read s.vault (8 * (k / 8)) 8 0
  if s.vaultPoison.get (k / 16) false then (now, v.last, v.info)
  else v.pick e (s.clockOf e) (max bound (v.bound e view loc)) 0 now (Config.choose s.draws key)
/-- A granule of scratch as a thread of the workgroup finds it (R278, R286). Log entry 1. -/
def State.seeGranule (s : State) (w : Workgroup) (g bound key : Nat) : List Byte × Nat × Stored :=
  let v := w.stores.get g Versions.none
  let now := SMap.read w.scratch (16 * g) 16 0
  if w.scratchPoison.get g false then (now, v.last, v.info)
  else v.pick 4 [] bound 0 now (Config.choose s.draws key)
/-- The location of one byte of a space as an observer finds it. -/
def State.seeIn (s : State) (w : Workgroup) (space place ver e bound : Nat) (view : View) (key : Nat) : List Byte × Nat × Stored :=
  if space = 0 then s.seePlace place ver e bound view key
  else if space = 1 then s.seeVaultPlace place e bound view key
  else s.seeGranule w (place / 16) (max bound (view.at (locKey space (place / 16)))) key
/-- The stores to a location of a space. -/
def State.storesIn (s : State) (w : Workgroup) (space place : Nat) : Versions :=
  if space < 2 then s.stores.get (locKey space (place / 8)) Versions.none else w.stores.get (place / 16) Versions.none
/-- The store that byte i of a lane's access returns (R281, R282). Log entry 1. -/
def State.seeSpot (s : State) (w : Workgroup) (p : Spot) (ver i : Nat) : List Byte × Nat × Stored :=
  s.seeIn w p.space (p.place + i) ver p.e.agent.reader ((p.after p.e.t).bound (p.va i) (p.loc i)) p.e.t.view (p.key i)

/-- The registers that bytes found at a place make up. -/
def wordsSeen (place sz n : Nat) (see : Nat → List Byte × Nat × Stored) : List Word :=
  (List.range (n / 4)).map (fun k => BitVec.ofNat 32 (natOfBytes ((List.range 4).map (fun j =>
    ((see (4 * k + j)).1[(place + 4 * k + j) % sz]?).getD 0))))

/-- What a lane's thread has seen once it has read (R281, R283), each byte of the store that wrote it (R279). -/
def Spot.seen (s : State) (w : Workgroup) (p : Spot) (see : Nat → List Byte × Nat × Stored) : List Seen :=
  (List.range p.n).map (fun i =>
    let r := see i
    { va := p.va i, loc := p.loc i, pos := max r.2.1 ((p.after p.e.t).bound (p.va i) (p.loc i)),
      scope := ((s.storesIn w p.space (p.place + i)).author r.2.1 ((p.place + i) % p.sz)).agent.shared p.e.agent })
/-- What its later fence acquires take of those stores (R279, R289). -/
def Spot.acquired (s : State) (w : Workgroup) (p : Spot) (see : Nat → List Byte × Nat × Stored) : List View :=
  (List.range p.n).foldl (fun a i =>
    match ((s.storesIn w p.space (p.place + i)).author (see i).2.1 ((p.place + i) % p.sz)).passes p.e.agent p.strong with
    | some (m, v) => if v.isEmpty then a else joinAll a (viewOf m v)
    | none => a) []

/-- A lane's thread once it has loaded: a load that may still be performed later keeps what it has found with itself (R281);
`open_` gives its results' order number and first register, and the version it reads under. -/
def Spot.loaded (s : State) (w : Workgroup) (p : Spot) (see : Nat → List Byte × Nat × Stored) (cross : View)
    (open_ : Option (Nat × Nat × Nat)) (t : Thread) : Thread :=
  let u := p.after t
  let seen := p.seen s w see
  let acq := if cross.isEmpty then p.acquired s w see else joinAll (p.acquired s w see) (viewOf 1 cross)
  match open_ with
  | some (ord, reg, ver) =>
    { u with loads := { ord := ord, reg := reg, space := p.space, addr := p.addr, place := p.place, size := p.n, ver := ver,
                        strong := p.strong, picks := (List.range p.n).map (fun i => (see i).2.1), seen := seen, acq := acq } :: u.loads }
  | none => u.take seen acq

/-- A lane's read performed: its die has applied what it read from the others, and its thread has seen it. -/
def State.observeSpot (s at_ : State) (w : Workgroup) (p : Spot) (see : Nat → List Byte × Nat × Stored) (open_ : Option (Nat × Nat × Nat)) :
    State :=
  let xs := (List.range p.n).map (fun i => (p.loc i, see i))
  let e := p.e.agent.reader
  let s1 := if p.space < 2 then s.reached e xs else s
  s1.modLane p.e (p.loaded at_ w see (if p.space < 2 then s1.crossing e xs else []) open_)

/-- What a lane's store writes of one location: the location's number in its space and that of its address, the bytes as places
in the location, and the tag they are written under. -/
structure Piece where
  e : LaneEnv
  space : Nat
  part : Nat
  va : Nat
  cells : List (Nat × Byte)
  tag : Nat
def Piece.loc (q : Piece) : Nat := locKey q.space q.part
/-- The pieces of a lane's store. -/
def Spot.pieces (p : Spot) (tag : Nat → Nat) (bs : List Byte) : List Piece :=
  (granulesOf (cellsAt p.place bs) p.sz).map (fun k =>
    { e := p.e, space := p.space, part := k, va := p.addr / p.sz + (k - p.place / p.sz),
      cells := ((cellsAt p.place bs).filter (fun c => c.1 / p.sz == k)).map (fun c => (c.1 % p.sz, c.2)), tag := tag k })

/-- Where a piece of a plain or strong store may stand in the coherence order other than last: after an older store that its
thread need not have passed, when the next one writes over all of it (R281, R284). No two lanes of the unit may share the
location. Log entry 1. -/
def State.slotOf (s : State) (ps : List Piece) (q : Piece) : Option Nat :=
  if 1 < (ps.filter (fun x => x.loc == q.loc)).length then none
  else
    match (s.stores.get q.loc Versions.none).slots (q.e.t.floor (locKey q.space q.va) q.loc) (cellMask q.cells) q.tag with
    | [] => none
    | ks =>
      let c := Config.choose s.draws (340000 + 1024 * q.e.lane + q.part % 8) % (ks.length + 1)
      if c = 0 then none else ks[c - 1]?

/-- A unit's stores to the module's memories entered in the coherence order of their locations: those of `late` after the older
store that each names, the others as the newest, each with what it carries. `base` is what a location held before. -/
def enterStores (h : SMap Versions) (base : Piece → List Byte) (rmw : Bool) (carries : LaneEnv → Stored) (ps : List Piece)
    (late : List (Piece × Nat)) : SMap Versions :=
  let h1 := late.foldl (fun h q =>
    SMap.insert h q.1.loc ((SMap.get h q.1.loc Versions.none).slip q.2 false q.1.cells (cellMask q.1.cells) q.1.tag (carries q.1.e)).1) h
  (ps.map Piece.loc).eraseDups.foldl (fun h l =>
    match ps.filter (fun q => q.loc == l) with
    | [] => h
    | q :: r => if rmw then markRmw h l (carries q.e)
      else markLanes h l (base q) q.tag ((q :: r).map (fun x => (x.cells, carries x.e)))) h1

/-- The lanes' threads have seen their own stores (R283). -/
def State.ownPieces (s : State) (h : SMap Versions) (ps : List Piece) : State :=
  ps.foldl (fun s q => s.modLane q.e (fun t =>
    t.note { va := locKey q.space q.va, loc := q.loc, pos := (SMap.get h q.loc Versions.none).placeOf q.e.agent, scope := 0 })) s

/-- Before a lane's store what its thread's fences have ordered is made certain, and its earlier loads of those locations are
performed (R283, R289, R293). -/
def State.readyStore (s : State) (p : Spot) : State := (s.settleFences p.e.t).modLane p.e p.after

/-! ### Global memory -/

/-- The ALIGNMENT a global address raises (R183). Log entries 29 and 30. -/
def globalBad (a n : Nat) : Option Trap :=
  if a % n ≠ 0 then some (alignTrap 0x6 (a % 2 ^ 64)) else if 2 ^ 58 ≤ a then some (alignTrap 0x8 (a % 2 ^ 64)) else none

/-- A lane's access to global memory, translated. Log entry 29. -/
structure Access where
  e : LaneEnv
  addr : Nat
  page : Page

/-- Every participant's access translated, in ascending lane order; those that do not translate, with their causes. -/
def State.translateLanes (s : State) (kind : Nat) : List (LaneEnv × Nat) → State × List Access × List (LaneEnv × Nat × Nat)
  | [] => (s, [], [])
  | (e, a) :: r =>
    match s.translate e.wg.part e.wg.ctx e.wg.core a kind with
    | (s1, .page g) =>
      let t := State.translateLanes s1 kind r
      (t.1, { e := e, addr := a, page := g } :: t.2.1, t.2.2)
    | (s1, .fault k) =>
      let t := State.translateLanes s1 kind r
      (t.1, t.2.1, (e, a, k) :: t.2.2)

/-- Recoverable faults raised, one record for each faulting page of the unit, and its threads parked on it (R362).
`kind` is the record's. -/
def State.raiseFaults (s : State) (kind : Nat) (fs : List (LaneEnv × Nat × Nat)) : State × List Fate :=
  let pages := (fs.map (fun f => f.2.1 / 2 ^ 14)).eraseDups
  pages.foldl (fun acc pg =>
    match fs.filter (fun f => f.2.1 / 2 ^ 14 == pg) with
    | [] => acc
    | f :: r =>
      let t := acc.1.raiseFault f.1.wg.part f.1.wg.ctx (f.2.1 % 2 ^ 64) f.2.2 kind f.1.wg.core s.issue.pc.toNat f.1.who
      (t.1, acc.2 ++ (f :: r).map (fun x => x.1.fate (.park (.fault t.2))))) (s, [])

/-- The participants' global accesses of n bytes: those that may proceed, and what becomes of the others. -/
def State.globalAccess (s : State) (kind n : Nat) (addr : LaneEnv → Nat) (es : List LaneEnv) : State × List Access × List Fate :=
  let ls := (byLane (es.filter LaneEnv.takes)).map (fun e => (e, addr e))
  let bad := ls.filterMap (fun l => (globalBad l.2 n).map (fun t => l.1.fate (.trap t)))
  let t := s.translateLanes kind (ls.filter (fun l => (globalBad l.2 n).isNone))
  let r := t.1.raiseFaults kind t.2.2
  (r.1, t.2.1, bad ++ r.2)

/-- The requests that the coalescer makes of a unit's accesses, one for each 128-byte segment (R187), counted where they
reach a block (R389). -/
def State.touchRequests (s : State) (xs : List Access) : State :=
  ((xs.map (fun x => x.addr / 128)).eraseDups).foldl (fun s g =>
    match xs.find? (fun x => x.addr / 128 == g) with
    | some x => s.touchPage x.page x.addr
    | none => s) s

/-- The newest values of the registers that a global access covers, each with its poison (R370). -/
def State.loadGlobal (s : State) (x : Access) (n : Nat) : List (Word × Bool) :=
  (List.range (n / 4)).map (fun i =>
    let r := s.readPage x.page (x.addr + 4 * i) 4
    (BitVec.ofNat 32 (natOfBytes r.1), r.2))

/-- The access as the memory model takes it. -/
def Access.spot (x : Access) (n strong : Nat) : Spot :=
  { e := x.e, space := 0, sz := 8, addr := x.addr, place := x.page.phys x.addr, n := n, strong := strong }

/-- The store that byte i of a lane's load returns (R281): on an SC page the newest (R295). Log entry 1. -/
def State.seeGlobal (s : State) (x : Access) (n strong i : Nat) : List Byte × Nat × Stored :=
  if x.page.sc then
    let a := x.page.phys (x.addr + i)
    let v := s.stores.get (locKey 0 (a / 8)) Versions.none
    ((s.readPhys (8 * (a / 8)) 8 x.page.ver.toNat).1, v.last, v.info)
  else s.seeSpot x.e.wg (x.spot n strong) x.page.ver.toNat i

/-- The registers a lane's load of n bytes returns, each with its poison (R281, R282, R370). Log entry 1. -/
def State.returnGlobal (s : State) (x : Access) (n strong : Nat) : List (Word × Bool) :=
  if x.page.host then s.loadGlobal x n
  else (wordsSeen (x.page.phys x.addr) 8 n (s.seeGlobal x n strong)).zip ((s.loadGlobal x n).map (·.2))

/-- A lane's load performed, or left to be performed until its result returns: not when it is of an SC page (R295) or of a
poisoned granule. `at_` is the memory it reads, `d` its first register. Log entry 1. -/
def State.observeGlobal (s at_ : State) (x : Access) (d n strong : Nat) : State :=
  if x.page.host then s
  else s.observeSpot at_ x.e.wg (x.spot n strong) (at_.seeGlobal x n strong)
    (if x.page.sc || (at_.loadGlobal x n).any (·.2) then none else some (s.nextId, d, x.page.ver.toNat))

/-- A lane's store that leaves for a peer (R400, R401): it joins those that may still be in flight, of which some have
arrived by now. Log entry 55. -/
def State.sendStore (s : State) (x : Access) : State :=
  if bitsOf x.addr 57 52 = 0 then s
  else { s with sent := (s.sent.zipIdx.filter (fun q => Config.choose s.draws (310000 + q.2) % 2 == 0)).map (·.1) ++
    [{ part := x.e.wg.part, ctx := x.e.wg.ctx, addr := x.addr, core := x.e.wg.core, pc := s.issue.pc.toNat, who := x.e.who }] }

/-- Bytes stored by a unit's lanes in ascending lane order at a strength: module memory takes them granule by granule
(R369), what goes outside leaves the module (R184, R401). Log entry 1. -/
def State.storeGlobal (s : State) (strong : Nat) (rmw : Bool) (ws : List (Access × List Byte)) : State :=
  let here := ws.filter (fun w => ! w.1.page.host)
  let s0 := here.foldl (fun s w => s.readyStore (w.1.spot w.2.length strong)) s
  let ps := here.flatMap (fun w => (w.1.spot w.2.length strong).pieces
    (fun k => tagOf (s.keyOf (8 * k)) w.1.page.ver.toNat) w.2)
  let late := (here.filter (fun w => ! rmw && ! w.1.page.sc)).flatMap (fun w =>
    ((w.1.spot w.2.length strong).pieces (fun k => tagOf (s.keyOf (8 * k)) w.1.page.ver.toNat) w.2).filterMap (fun q =>
      if s.memPoison.get (q.part / 4) false || s.memTag.get (q.part / 4) 0 != q.tag then none
      else (s0.slotOf ps q).map (fun k => (q, k))))
  let isLate (loc : Nat) : Bool := late.any (fun q => q.1.loc == loc)
  let vers := (here.map (fun w => w.1.page.ver.toNat)).eraseDups
  let r := vers.foldl (fun (acc : State × List Nat) v =>
    let mine := here.filter (fun w => w.1.page.ver.toNat == v)
    let r := acc.1.writeCells ((mine.flatMap (fun w => cellsAt (w.1.page.phys w.1.addr) w.2)).filter (fun c => ! isLate (locKey 0 (c.1 / 8)))) v
    (r.2.foldl (fun s g =>
      match mine.find? (fun w => w.1.page.phys w.1.addr / 32 == g) with
      | some w => s.logPoison w.1.e (w.1.addr / 32 * 32)
      | none => s) r.1, acc.2 ++ r.2)) (s0, [])
  let made := ps.filter (fun q => ! r.2.contains (q.part / 4))
  let h := enterStores r.1.stores (fun q => (s0.readPhys (8 * q.part) 8 ((q.tag - 1) % 256)).1) rmw (fun e => e.t.carries e.agent strong)
    (made.filter (fun q => ! isLate q.loc)) late
  (ws.filter (fun w => w.1.page.host)).foldl (fun s w => s.sendStore w.1) ({ r.1 with stores := h }.ownPieces h made)

/-! ### Scratch -/

/-- The ALIGNMENT a scratch access raises (R183), and for a store, full-empty operation or atomic a protected range
(R38, R202). Log entries 29 and 30. -/
def scratchBad (w : Workgroup) (a n : Nat) (changes : Bool) : Option Trap :=
  if a % n ≠ 0 then some (alignTrap 0x6 a)
  else if w.scratchSize < a + n then some (alignTrap 0x7 a)
  else if changes then (w.protectedCode a n).map (fun c => alignTrap c a)
  else none

/-- The participants' scratch accesses of n bytes, in ascending lane order. Log entry 31. -/
def scratchAccess (n : Nat) (changes : Bool) (addr : LaneEnv → Nat) (es : List LaneEnv) : List (LaneEnv × Nat) × List Fate :=
  let ls := (byLane (es.filter LaneEnv.takes)).map (fun e => (e, addr e))
  (ls.filter (fun l => (scratchBad l.1.wg l.2 n changes).isNone),
    ls.filterMap (fun l => (scratchBad l.1.wg l.2 n changes).map (fun t => l.1.fate (.trap t))))

/-- The newest values of the registers that a scratch access covers. -/
def Workgroup.loadScratch (w : Workgroup) (a n : Nat) : List (Word × Bool) :=
  (List.range (n / 4)).map (fun i =>
    let r := w.readScratch (a + 4 * i) 4
    (BitVec.ofNat 32 (natOfBytes r.1), r.2))

/-- Granules first and last of n bytes at a. -/
def granuleSpan (a n : Nat) : Nat × Nat := (a / 16, (a + n - 1) / 16)
/-- The granules of n bytes at a. -/
def granulesIn (a n : Nat) : List Nat :=
  (List.range ((granuleSpan a n).2 + 1 - (granuleSpan a n).1)).map ((granuleSpan a n).1 + ·)

/-- A lane's access to scratch as the memory model takes it: strong at .wg (R278). -/
def LaneEnv.scratchSpot (e : LaneEnv) (a n : Nat) : Spot :=
  { e := e, space := scratchSpace e.wg.wid, sz := 16, addr := a, place := a, n := n, strong := 2 }

/-- The store to a granule that byte i of a lane's load returns (R278, R286): one that a full-empty wait observes is the newest
(R190). Log entry 1. -/
def LaneEnv.seeScratch (e : LaneEnv) (w : Workgroup) (fresh : Bool) (a n i : Nat) : List Byte × Nat × Stored :=
  if fresh then
    let v := w.stores.get ((a + i) / 16) Versions.none
    (SMap.read w.scratch (16 * ((a + i) / 16)) 16 0, v.last, v.info)
  else e.s.seeSpot w (e.scratchSpot a n) 0 i

/-- The registers a lane's scratch load returns (R286, R370). Log entry 1. -/
def LaneEnv.returnScratch (e : LaneEnv) (w : Workgroup) (fresh : Bool) (a n : Nat) : List (Word × Bool) :=
  (wordsSeen a 16 n (e.seeScratch w fresh a n)).zip ((w.loadScratch a n).map (·.2))

/-- What the releases that a lane's acquiring load observes have ordered (R190, R279): those of the stores that wrote its bytes,
and of the latest of each granule, the fill's. -/
def LaneEnv.scratchLearns (e : LaneEnv) (w : Workgroup) (fresh : Bool) (a n : Nat) : View :=
  (List.range n).foldl (fun (v : View) i =>
    let r := e.seeScratch w fresh a n i
    let take (v : View) (x : Stored) : View := match x.passes e.agent 2 with | some y => v.join y.2 | none => v
    take (take v ((w.stores.get ((a + i) / 16) Versions.none).author r.2.1 ((a + i) % 16))) r.2.2) []

/-- A lane's scratch load performed, or, when it is plain, left to be performed until its result returns; an acquire takes what
the stores carry (R190, R279, R286). Log entry 1. -/
def State.observeScratch (s : State) (e : LaneEnv) (w : Workgroup) (fresh acq : Bool) (d a n : Nat) : State :=
  let s1 := s.observeSpot e.s w (e.scratchSpot a n) (e.seeScratch w fresh a n)
    (if acq || fresh || (w.loadScratch a n).any (·.2) then none else some (s.nextId, d, 0))
  if acq then s1.modLane e (·.learn (e.scratchLearns w fresh a n)) else s1

/-- Whether granules are all full. -/
def Workgroup.allFull (w : Workgroup) (first last : Nat) : Bool :=
  (List.range (last + 1 - first)).all (fun i => w.full.get (first + i) false)

/-- Threads parked on granules that have become full are offered again (R190). -/
def State.wakeFull (s : State) (wid : Nat) : State :=
  s.modWg wid (fun w =>
    { w with
      groups := w.groups.map (fun g =>
        { g with
          threads := g.threads.map (fun t => match t.run with
            | .parked (.fullEmpty a b) _ => if w.allFull a b then t.wake else t
            | _ => t) }) })

/-- Bytes stored to scratch by a unit's lanes at a strength in ascending lane order, which is the order of each granule (R191);
`fill` sets the granules full (R189), `rel` makes the store a release at .wg (R279). -/
def State.storeScratch (s : State) (strong : Nat) (fill rel rmw : Bool) (ws : List (LaneEnv × Nat × List Byte)) : State :=
  match ws with
  | [] => s
  | (e, _, _) :: _ =>
    let spot (w : LaneEnv × Nat × List Byte) : Spot := w.1.scratchSpot w.2.1 w.2.2.length
    let s0 := ws.foldl (fun s w => s.readyStore (spot w)) s
    let old := (s0.wg? e.wg.wid).getD e.wg
    let cells := ws.flatMap (fun w => cellsAt w.2.1 w.2.2)
    let r := old.writeScratchCells cells
    let made := (ws.flatMap (fun w => (spot w).pieces (fun _ => 0) w.2.2)).filter (fun q => ! r.2.contains q.part)
    let h := enterStores (r.1.stores.map (fun x => (locKey (scratchSpace e.wg.wid) x.1, x.2)))
      (fun q => SMap.read old.scratch (16 * q.part) 16 0) rmw
      (fun e => if rel then e.t.carriesRelease e.agent else e.t.carries e.agent strong) made []
    let s1 := s0.modWg e.wg.wid (fun w => { w with
      scratch := r.1.scratch, scratchPoison := r.1.scratchPoison,
      stores := h.map (fun x => (x.1 - locKey (scratchSpace e.wg.wid) 0, x.2)) })
    let s2 := if rel then ws.foldl (fun s w => s.modLane w.1 Thread.freeze) s1 else s1
    let s3 := r.2.foldl (fun s g =>
      match ws.find? (fun w => rangesMeet w.2.1 w.2.2.length (16 * g) 16) with
      | some w => s.logPoison w.1 (16 * g)
      | none => s) (s2.ownPieces h made)
    if fill then
      (s3.modWg e.wg.wid (fun w => (granulesOf cells 16).foldl (fun w g => w.setFull g g true) w)).wakeFull e.wg.wid
    else s3

/-! ### Vaults (R182, R312) -/

/-- The vault place, as core and base, that a vault address names for a workgroup; none for a handle beyond the bound
level (R182, R312). Log entry 3. -/
def Workgroup.vaultHome (w : Workgroup) (handle : Nat) : Option (Nat × Nat) :=
  if handle = 0 then some (w.core, w.vaultBase) else (w.handles[handle - 1]?).filter (fun h => decide (h.1 ≤ rootCore))

/-- The key of a vault byte in the machine's map: core × 2^23 + offset (R13). -/
def vaultKey (core off : Nat) : Nat := core * 2 ^ 23 + off

/-- Where n bytes at a vault address lie, or the ALIGNMENT it raises (R183). -/
def vaultPlace (w : Workgroup) (a n : Nat) : Except Trap Nat :=
  if a % n ≠ 0 then .error (alignTrap 0x6 a)
  else
    match w.vaultHome (a / 2 ^ 23) with
    | none => .error (alignTrap 0x7 a)
    | some h => if w.vaultSize < a % 2 ^ 23 + n then .error (alignTrap 0x7 a) else .ok (vaultKey h.1 (h.2 + a % 2 ^ 23))

/-- Cells written to the vaults, granule by granule, and the granules found poisoned (R369). -/
def State.writeVaultCells (s : State) (cells : List (Nat × Byte)) : State × List Nat :=
  (granulesOf cells 16).foldl (fun acc g =>
    let mine := cells.filter (fun c => c.1 / 16 == g)
    let whole := (List.range 16).all (fun i => mine.any (fun c => c.1 == 16 * g + i))
    if ! whole && acc.1.vaultPoison.get g false then (acc.1, acc.2 ++ [g])
    else
      ({ acc.1 with
          stores := (granulesOf mine 8).foldl (fun h p =>
            pushStore h (locKey 1 p) (SMap.read acc.1.vault (8 * p) 8 0) (maskOf mine 8 p) 0) acc.1.stores
          vault := mine.foldl (fun m c => SMap.set m c.1 c.2 0) acc.1.vault
          vaultPoison := if whole then SMap.erase acc.1.vaultPoison g else acc.1.vaultPoison }, acc.2)) (s, [])

/-- A lane's access to a vault as the memory model takes it: `a` is the address, `k` the place. -/
def LaneEnv.vaultSpot (e : LaneEnv) (a k n strong : Nat) : Spot :=
  { e := e, space := 1, sz := 8, addr := a, place := k, n := n, strong := strong }

/-- Vault bytes as an agent other than a thread finds them byte by byte, after what the engines of its core have written (R282,
R298). Log entry 1. -/
def State.vaultSights (s : State) (who : Agent) (k n : Nat) (view : View) (key : Nat) : List Sight :=
  (List.range n).map (fun i =>
    let loc := locKey 1 ((k + i) / 8)
    (loc, s.seeVaultPlace (k + i) who.reader ((s.stores.get loc Versions.none).engines who) view (key + i)))
def State.readVaultAs (s : State) (who : Agent) (k n : Nat) (view : View) (key : Nat) : List Byte :=
  (s.vaultSights who k n view key).zipIdx.map (fun x => (x.1.2.1[(k + x.2) % 8]?).getD 0)

/-- The registers a vault load returns. Log entries 1 and 3. -/
def State.loadVault (s : State) (e : LaneEnv) (a k n strong : Nat) : List (Word × Bool) :=
  (wordsSeen k 8 n (s.seeSpot e.wg (e.vaultSpot a k n strong) 0)).zip
    ((List.range (n / 4)).map (fun r => s.vaultPoison.get ((k + 4 * r) / 16) false))

/-- A lane's vault load performed, or left to be performed until its result returns; `at_` is the memory it reads.
Log entry 1. -/
def State.observeVault (s at_ : State) (e : LaneEnv) (d a k n strong : Nat) : State :=
  s.observeSpot at_ e.wg (e.vaultSpot a k n strong) (at_.seeSpot e.wg (e.vaultSpot a k n strong) 0)
    (if (at_.loadVault e a k n strong).any (·.2) then none else some (s.nextId, d, 0))

/-- Bytes stored to the vaults by a unit's lanes in ascending lane order at a strength, as address, place and bytes (R369).
Log entry 1. -/
def State.storeVault (s : State) (strong : Nat) (ws : List (LaneEnv × Nat × Nat × List Byte)) : State :=
  let spot (w : LaneEnv × Nat × Nat × List Byte) : Spot := w.1.vaultSpot w.2.1 w.2.2.1 w.2.2.2.length strong
  let s0 := ws.foldl (fun s w => s.readyStore (spot w)) s
  let ps := ws.flatMap (fun w => (spot w).pieces (fun _ => 0) w.2.2.2)
  let late := ps.filterMap (fun q => if s.vaultPoison.get (q.part / 2) false then none else (s0.slotOf ps q).map (fun k => (q, k)))
  let isLate (loc : Nat) : Bool := late.any (fun q => q.1.loc == loc)
  let r := s0.writeVaultCells ((ws.flatMap (fun w => cellsAt w.2.2.1 w.2.2.2)).filter (fun c => ! isLate (locKey 1 (c.1 / 8))))
  let made := ps.filter (fun q => ! r.2.contains (q.part / 2))
  let h := enterStores r.1.stores (fun q => SMap.read s.vault (8 * q.part) 8 0) false (fun e => e.t.carries e.agent strong)
    (made.filter (fun q => ! isLate q.loc)) late
  r.2.foldl (fun s g =>
    match ws.find? (fun w => rangesMeet w.2.2.1 w.2.2.2.length (16 * g) 16) with
    | some w => s.logPoison w.1 (w.2.1 / 16 * 16)
    | none => s) ({ r.1 with stores := h }.ownPieces h made)

end Sys2Proof.Machine
end

