-- ==== Sys2Proof/Machine/Migration.lean ====
section
/-!
DEFINITION. Migration of 16 KiB blocks between the HBM and the tier of a peer-mode stack (R389 to R391). A move changes
no byte and no address: it changes only which medium holds a block, and the two counts of moves.
-/
namespace Sys2Proof.Machine
open Sys2Proof

/-- The stack of a block, by its physical block number, and whether its address lies in the tier. Log entry 25. -/
def blockStack (b : Nat) : Option (Nat × Bool) :=
  match regionOf (b * 2 ^ 14) with
  | .hbm st _ => some (st, false)
  | .tier st _ => some (st, true)
  | .nothing => none

/-- Whether a block is held in HBM: by its address, unless it is swapped. -/
def State.inHbm (s : State) (b : Nat) : Bool :=
  match blockStack b with
  | some (_, tier) => tier == s.swapped.get b false
  | none => false

/-- A block put into HBM, or into the tier. -/
def State.placeBlock (s : State) (b : Nat) (hbm : Bool) : State :=
  match blockStack b with
  | some (_, tier) => { s with swapped := SMap.set s.swapped b (tier == hbm) false }
  | none => s

/-- A word that saturates as it counts. -/
def satInc (x : Word) : Word := if x = 0xFFFFFFFF then x else x + 1

/-- The migration registers of a stack, and changed. -/
def State.migrationOf (s : State) (st : Nat) : Migration := (s.migration[st]?).getD Migration.reset
def State.modMigration (s : State) (st : Nat) (f : Migration → Migration) : State := { s with migration := s.migration.modify st f }

/-- Blocks of a stack in use, ascending: those that have been accessed or written since they were last cleared.
Log entry 25. -/
def State.usedBlocks (s : State) (st : Nat) : List Nat :=
  let ks := s.blocks.map (·.1) ++ s.memTag.map (fun t => t.1 / 512)
  sortBy (fun a b => decide (a ≤ b)) ((ks.filter (fun b => match blockStack b with | some (x, _) => x == st | none => false)).eraseDups)

/-- A block's access counter and hint. -/
def State.block (s : State) (b : Nat) : Block := s.blocks.get b Block.fresh

/-- A demotion (R390). Log entry 25. -/
def State.demote (s : State) (st b : Nat) : State :=
  (s.placeBlock b false).modMigration st (fun m => { m with demoted := satInc m.demoted })

/-- The HBM block among some that a promotion displaces: hint 0, the lowest count below DEMOTE, the lowest address. -/
def State.victim (s : State) (st : Nat) (used : List Nat) : Option Nat :=
  let ok := used.filter (fun b => s.inHbm b && (s.block b).hint == 0 && decide ((s.block b).count.toNat < (s.migrationOf st).demote.toNat))
  ok.foldl (fun o b => match o with
    | none => some b
    | some a => if (s.block b).count.toNat < (s.block a).count.toNat then some b else some a) none

/-- A promotion that displaces no block which `keep` names (R390): a free HBM block, else a displaced one, else nothing
moves. Log entry 25. -/
def State.promoteKeeping (s : State) (keep : Nat → Bool) (st b : Nat) : State :=
  if s.inHbm b then s
  else
    let used := s.usedBlocks st
    let up (s : State) : State := (s.placeBlock b true).modMigration st (fun m => { m with promoted := satInc m.promoted })
    if (used.filter s.inHbm).length < hbmBytes / 2 ^ 14 then up s
    else match s.victim st (used.filter (fun x => ! keep x)) with
      | some v => up (s.demote st v)
      | none => s
/-- A promotion (R390). Log entry 25. -/
def State.promote (s : State) (st b : Nat) : State := s.promoteKeeping (fun _ => false) st b

/-- Whether TIERPF moves a block: one in the tier of a peer-mode stack, outside the common library (R211, R388). -/
def State.prefetches (s : State) (b : Nat) : Bool :=
  match blockStack b with
  | some (st, _) => s.peerMode st && ! s.inLibrary (b * 2 ^ 14) && ! s.inHbm b
  | none => false
/-- A block of a peer-mode stack that has the hint of its latest translated access (R390). -/
def State.hintBlock (s : State) (b : Nat) (hint : BitVec 2) : State :=
  match blockStack b with
  | some (st, _) =>
    if s.peerMode st && ! s.inLibrary (b * 2 ^ 14) then
      { s with blocks := SMap.set s.blocks b { s.block b with hint := hint } Block.fresh }
    else s
  | none => s
/-- A block that a translated access outside R389's count reaches: its hint, and that it was accessed (R390). -/
def State.meetBlock (s : State) (b : Nat) (hint : BitVec 2) : State :=
  match blockStack b with
  | some (st, _) =>
    if s.peerMode st && ! s.inLibrary (b * 2 ^ 14) then
      { s with blocks := SMap.set s.blocks b { s.block b with hint := hint, touched := true } Block.fresh }
    else s
  | none => s
/-- A block that TIERPF names with others: moved into HBM at once, whatever its hint and count (R390). Log entry 25. -/
def State.prefetchBlock (s : State) (named : List Nat) (b : Nat) : State :=
  match blockStack b with
  | some (st, _) => if s.prefetches b then s.promoteKeeping named.contains st b else s
  | none => s

/-- Whether a stack's epoch has expired (R389): EPOCH µs, 0 taken as 1, since the last one ended. -/
def State.epochDue (s : State) (st : Nat) : Bool :=
  s.peerMode st && decide ((s.migrationOf st).since + 1000 * max 1 (s.migrationOf st).epoch.toNat ≤ s.time.toNat)

/-- The end of a stack's epoch (R389, R390): its blocks in ascending address, then every counter halved; the promotion of a
block of hint 1 that found no room waits for a later epoch. Log entry 25. -/
def State.epochEnd (s : State) (st : Nat) : State :=
  if s.epochDue st then
    let m := s.migrationOf st
    let used := s.usedBlocks st
    let s1 := used.foldl (fun s b =>
      let x := s.block b
      if s.inLibrary (b * 2 ^ 14) then s
      else if s.inHbm b then (if x.hint = 2 then s.demote st b else s)
      else match x.hint.toNat with
        | 0 => if m.promote.toNat ≤ x.count.toNat then s.promote st b else s
        | 1 => if x.touched then s.promote st b else s
        | _ => s) s
    { s1 with blocks := used.foldl (fun bs b =>
        let x := SMap.get bs b Block.fresh
        SMap.set bs b { x with count := x.count / 2, touched := x.touched && ! s1.inHbm b } Block.fresh) s1.blocks }.modMigration st
      (fun m => { m with since := s.time.toNat })
  else s

end Sys2Proof.Machine
end

