-- ==== Sys2Proof/Machine/Blocks.lean ====
section
/-!
DEFINITION. Dual-exponent blocks (R57 to R60): decoding an element, and the one encoding procedure of every agent that
produces blocks.
-/
namespace Sys2Proof.Machine
open Sys2Proof

/-- The block format: DX8 or DX4. -/
inductive Dx where
  | dx8 | dx4
  deriving DecidableEq, Repr

/-- mmax, minbits and the fraction bits of q(E) (R59, R60). -/
def Dx.mmax (x : Dx) : Nat := match x with | .dx8 => 63 | .dx4 => 3
def Dx.minbits (x : Dx) : Nat := match x with | .dx8 => 3 | .dx4 => 2
def Dx.frac (x : Dx) : Nat := match x with | .dx8 => 5 | .dx4 => 1
/-- The bits of an element. -/
def Dx.bits (x : Dx) : Nat := match x with | .dx8 => 8 | .dx4 => 4
/-- The exponent of q(E): 2^(E − 127) / 32 or / 2 (R59). -/
def Dx.qexp (x : Dx) (e : Nat) : Int := (e : Int) - 127 - (x.frac : Int)

/-- An element code: selector, sign, magnitude (R57, R58). -/
def Dx.code (x : Dx) (s sign : Bool) (m : Nat) : Nat :=
  natOfBool s * 2 ^ (x.bits - 1) + natOfBool sign * 2 ^ (x.bits - 2) + m

/-- The value of an element code under exponents E0 and E1 (R57 to R59): a NaN block's elements are NaN, zero keeps
its sign. -/
def Dx.value (x : Dx) (e0 e1 c : Nat) : FVal :=
  let sign := c.testBit (x.bits - 2)
  if e0 = 255 ∨ e1 = 255 then .nan sign 1 1
  else .ofScaled sign (c % 2 ^ (x.bits - 2)) (x.qexp (if c.testBit (x.bits - 1) then e1 else e0))

/-- A block: its exponents and 32 element codes. -/
structure Block32 where
  e0 : Nat
  e1 : Nat
  codes : List Nat
  deriving DecidableEq, Repr

/-- The NaN block of R59. -/
def Dx.nanBlock (x : Dx) (vs : List FVal) : Block32 :=
  { e0 := 255, e1 := 255, codes := vs.map (fun v => x.code false v.sign 0) }

/-- Whether num/den ≤ maxmag(E) (R59). -/
def Dx.fits (x : Dx) (num den e : Nat) : Bool :=
  let t := scaled x.mmax (x.qexp e)
  decide (num * t.2 ≤ t.1 * den)

/-- cover(a): the smallest E from 0 to 254 with a ≤ maxmag(E) (R60). -/
def Dx.cover (x : Dx) (num den : Nat) : Nat := ((List.range 255).find? (x.fits num den)).getD 254

/-- The larger of two magnitudes. -/
def maxMagnitude (vs : List (Bool × Nat × Nat)) : Nat × Nat :=
  vs.foldl (fun m v => if m.1 * v.2.2 < v.2.1 * m.2 then v.2 else m) (0, 1)

/-- bitlen (R60). -/
def bitLen (n : Nat) : Nat := if n = 0 then 0 else Nat.log2 n + 1

/-- |c × 2^q − num/den| as a numerator over a denominator that depends on num/den and on `d2` alone. -/
def blockErr (c : Nat) (q : Int) (num den : Nat) : Nat × Nat :=
  let t := scaled c q
  ((((t.1 * den : Nat) : Int) - ((num * t.2 : Nat) : Int)).natAbs, t.2 * den)

/-- The encoding procedure of R60. `draws` gives each element's draw under rsto. Log entry 32. -/
def Dx.encode (x : Dx) (mode : Nat) (sat : Bool) (vs : List FVal) (draws : List Nat) : Block32 :=
  let big := scaled x.mmax (x.qexp 254)
  let clean (v : FVal) : Option (Bool × Nat × Nat) :=
    match v with
    | .nan _ _ _ => none
    | .inf s => if sat then some (s, big.1, big.2) else none
    | .fin s n d => if x.fits n d 254 then some (s, n, d) else if sat then some (s, big.1, big.2) else none
  match vs.mapM clean with
  | none => x.nanBlock vs
  | some ys =>
    let m := maxMagnitude ys
    let e1 := x.cover m.1 m.2
    let small := ys.filter (fun y => decide (y.2.1 ≠ 0 ∧ bitLen (roundAt y.1 y.2.1 y.2.2 (x.qexp e1) 0 0) < x.minbits))
    let e0 := if small.isEmpty then e1 - (match x with | .dx8 => 4 | .dx4 => 2)
      else (fun n : Nat × Nat => x.cover n.1 n.2) (maxMagnitude small)
    let mc := if mode = 5 then 0 else mode
    let one (y : Bool × Nat × Nat) (r : Nat) : Nat :=
      let c1 := roundAt y.1 y.2.1 y.2.2 (x.qexp e1) mc 0
      let c0 := roundAt y.1 y.2.1 y.2.2 (x.qexp e0) mc 0
      let err1 := blockErr c1 (x.qexp e1) y.2.1 y.2.2
      let err0 := blockErr c0 (x.qexp e0) y.2.1 y.2.2
      let s := ! (decide (c0 ≤ x.mmax) && decide (err0.1 * err1.2 < err1.1 * err0.2))
      x.code s y.1 (min x.mmax (roundAt y.1 y.2.1 y.2.2 (x.qexp (if s then e1 else e0)) mode r))
    { e0 := e0, e1 := e1, codes := ys.zipIdx.map (fun y => one y.1 ((draws[y.2]?).getD 0)) }

/-- A block in memory (R57, R58): 34 or 18 bytes. -/
def Dx.bytes (x : Dx) (b : Block32) : List Byte :=
  let c (i : Nat) : Nat := (b.codes[i]?).getD 0
  [BitVec.ofNat 8 b.e0, BitVec.ofNat 8 b.e1] ++
    (match x with
      | .dx8 => (List.range 32).map (fun i => BitVec.ofNat 8 (c i))
      | .dx4 => (List.range 16).map (fun i => BitVec.ofNat 8 (c (2 * i) + 16 * c (2 * i + 1))))

/-- The length of a block in memory. -/
def Dx.len (x : Dx) : Nat := match x with | .dx8 => 34 | .dx4 => 18

/-- Element i of a block in memory. -/
def Dx.read (x : Dx) (bs : List Byte) (i : Nat) : FVal :=
  let b (k : Nat) : Nat := ((bs[k]?).getD 0).toNat
  x.value (b 0) (b 1) (match x with | .dx8 => b (2 + i) | .dx4 => b (2 + i / 2) / 16 ^ (i % 2) % 16)

end Sys2Proof.Machine
end

