-- ==== Sys2Proof/Machine/LaneInteger.lean ====
section
/-!
DEFINITION. Integer arithmetic of the lanes (R119 to R122) and the compares of integers (R126).
-/
namespace Sys2Proof.Machine
open Sys2Proof

/-- The third source of IMAD and FFMA: c when the PFX carries one, d otherwise (R82). -/
def thirdReg (p : Option Pfx) (d : Nat) : Nat := if cvOf p then cOf p else d

/-- An integer operation of R119 on the operands x and y and the third operand z held in register `n`. -/
def intLane (signed : Bool) (f : Int → Int → Int → Int) (u : LRw) (n : Nat) (e : LaneEnv) : LaneOut :=
  let b := widthBits u.w
  let x := readInt signed (e.val u.a.toNat (grp u.w)) b
  let y := readInt signed (e.val u.b.toNat (grp u.w)) b
  let z := readInt signed (e.val n (grp u.w)) b
  .ofRegs (splitWords u.d.toNat (grp u.w) (fitInt b signed e.sat (f x y z)))

/-- The high half of a product (R119). -/
def intHigh (signed : Bool) (u : LRw) (e : LaneEnv) : LaneOut :=
  intLane signed (fun x y _ => x * y / (2 ^ widthBits u.w : Nat)) u u.d.toNat e

/-- IMULW (R119): the exact 64-bit product in a pair. -/
def intWide (signed : Bool) (u : LR0) (e : LaneEnv) : LaneOut :=
  .ofRegs (splitWords u.d.toNat 2
    (wrapN (readInt signed (e.reg u.a.toNat).toNat 32 * readInt signed (e.reg u.b.toNat).toNat 32) 64))

/-- A packed integer operation (R120). -/
def intPacked (signed : Bool) (f : Int → Int → Int) (u : LR0) (e : LaneEnv) : LaneOut :=
  let x := (e.reg u.a.toNat).toNat
  let y := (e.reg u.b.toNat).toNat
  let r (i : Nat) : Nat := fitInt 16 signed e.sat (f (readInt signed (elemAt x 16 i) 16) (readInt signed (elemAt y 16 i) 16))
  .ofRegs [(u.d.toNat, BitVec.ofNat 32 (packElems 16 [r 0, r 1]))]

/-- An integer compare (R126). -/
def intCmp (signed : Bool) (u : LCmpW) (e : LaneEnv) : LaneOut :=
  let b := widthBits u.w
  .ofMask u.k.toNat (intCond u.cond.toNat (readInt signed (e.val u.a.toNat (grp u.w)) b)
    (readInt signed (e.val u.b.toNat (grp u.w)) b))

/-- A packed integer compare (R126): elements 0 and 1 to k_n and k_(n+1). -/
def intCmpPacked (signed : Bool) (u : LCmp0) (e : LaneEnv) : LaneOut :=
  let x := (e.reg u.a.toNat).toNat
  let y := (e.reg u.b.toNat).toNat
  let r (i : Nat) : Bool := intCond u.cond.toNat (readInt signed (elemAt x 16 i) 16) (readInt signed (elemAt y 16 i) 16)
  { regs := [], masks := [(u.k.toNat, r 0), (u.k.toNat + 1, r 1)], draws := 0 }

/-- The immediate of an LI word: sign-extended, or all 32 bits with an XIMM (R77, R83). -/
def immOf (x : Option Ximm) (imm9 : BitVec 9) : Word :=
  match x with
  | some y => y.imm ++ imm9
  | none => imm9.signExtend 32

/-- An integer compare with an immediate (R126). -/
def intCmpImm (signed : Bool) (u : LCmpI) (e : LaneEnv) : LaneOut :=
  .ofMask u.k.toNat (intCond u.cond.toNat (readInt signed (e.reg u.a.toNat).toNat 32)
    (readInt signed (immOf u.x u.imm9).toNat 32))

/-- An LU integer operation (R121) on a value of n bits, given as its pattern. -/
def intUnary (u : LUw) (f : (signed : Bool) → (n x : Nat) → (sat : Bool) → Nat) (e : LaneEnv) : LaneOut :=
  let t := u.t.toNat
  let size := typeGroup u.t
  .ofRegs (splitWords u.d.toNat size (f (t % 2 == 0) (elemBits t) (e.val u.a.toNat size) e.sat))

/-- The bits of an n-bit pattern reversed (R121). -/
def revBits (n x : Nat) : Nat := (List.range n).foldl (fun r i => 2 * r + x / 2 ^ i % 2) 0
/-- The number of one bits. -/
def onesOf (n x : Nat) : Nat := (List.range n).foldl (fun r i => r + x / 2 ^ i % 2) 0
/-- Leading zero bits; n for zero. -/
def leadingZeros (n x : Nat) : Nat := if x = 0 then n else n - 1 - Nat.log2 x


/-- IADD.I (R119). -/
def execIaddI (u : LRw) (s : State) : Out :=
  .next (laneUnit (.iaddI u) (intLane true (fun x y _ => x + y) u u.d.toNat) s)

/-- ISUB.I (R119). -/
def execIsubI (u : LRw) (s : State) : Out :=
  .next (laneUnit (.isubI u) (intLane true (fun x y _ => x - y) u u.d.toNat) s)

/-- IMUL.I (R119). -/
def execImulI (u : LRw) (s : State) : Out :=
  .next (laneUnit (.imulI u) (intLane true (fun x y _ => x * y) u u.d.toNat) s)

/-- IMIN.I (R119). -/
def execIminI (u : LRw) (s : State) : Out :=
  .next (laneUnit (.iminI u) (intLane true (fun x y _ => min x y) u u.d.toNat) s)

/-- IMAX.I (R119). -/
def execImaxI (u : LRw) (s : State) : Out :=
  .next (laneUnit (.imaxI u) (intLane true (fun x y _ => max x y) u u.d.toNat) s)

/-- IMULH.I (R119). -/
def execImulhI (u : LRw) (s : State) : Out :=
  .next (laneUnit (.imulhI u) (intHigh true u) s)

/-- IMULW.I (R119). -/
def execImulwI (u : LR0) (s : State) : Out :=
  .next (laneUnit (.imulwI u) (intWide true u) s)

/-- IMAD.I (R119). -/
def execImadI (u : LRw) (s : State) : Out :=
  .next (laneUnit (.imadI u) (intLane true (fun x y z => x * y + z) u (thirdReg u.p u.d.toNat)) s)

/-- ISAD.I (R119): z is read from d. -/
def execIsadI (u : LRw) (s : State) : Out :=
  .next (laneUnit (.isadI u) (intLane true (fun x y z => ((x - y).natAbs : Int) + z) u u.d.toNat) s)

/-- ICMP.I (R126). -/
def execIcmpI (u : LCmpW) (s : State) : Out :=
  .next (laneUnit (.icmpI u) (intCmp true u) s)

/-- IADD.I16X2 (R120). -/
def execIaddI16x2 (u : LR0) (s : State) : Out :=
  .next (laneUnit (.iaddI16x2 u) (intPacked true (fun x y => x + y) u) s)

/-- ISUB.I16X2 (R120). -/
def execIsubI16x2 (u : LR0) (s : State) : Out :=
  .next (laneUnit (.isubI16x2 u) (intPacked true (fun x y => x - y) u) s)

/-- IMIN.I16X2 (R120). -/
def execIminI16x2 (u : LR0) (s : State) : Out :=
  .next (laneUnit (.iminI16x2 u) (intPacked true (fun x y => min x y) u) s)

/-- IMAX.I16X2 (R120). -/
def execImaxI16x2 (u : LR0) (s : State) : Out :=
  .next (laneUnit (.imaxI16x2 u) (intPacked true (fun x y => max x y) u) s)

/-- ICMP.I16X2 (R126). -/
def execIcmpI16x2 (u : LCmp0) (s : State) : Out :=
  .next (laneUnit (.icmpI16x2 u) (intCmpPacked true u) s)

/-- ICMP.I32 with an immediate (R126). -/
def execIcmpIImm (u : LCmpI) (s : State) : Out :=
  .next (laneUnit (.icmpIImm u) (intCmpImm true u) s)

/-- IADD.N (R119). -/
def execIaddN (u : LRw) (s : State) : Out :=
  .next (laneUnit (.iaddN u) (intLane false (fun x y _ => x + y) u u.d.toNat) s)

/-- ISUB.N (R119). -/
def execIsubN (u : LRw) (s : State) : Out :=
  .next (laneUnit (.isubN u) (intLane false (fun x y _ => x - y) u u.d.toNat) s)

/-- IMUL.N (R119). -/
def execImulN (u : LRw) (s : State) : Out :=
  .next (laneUnit (.imulN u) (intLane false (fun x y _ => x * y) u u.d.toNat) s)

/-- IMIN.N (R119). -/
def execIminN (u : LRw) (s : State) : Out :=
  .next (laneUnit (.iminN u) (intLane false (fun x y _ => min x y) u u.d.toNat) s)

/-- IMAX.N (R119). -/
def execImaxN (u : LRw) (s : State) : Out :=
  .next (laneUnit (.imaxN u) (intLane false (fun x y _ => max x y) u u.d.toNat) s)

/-- IMULH.N (R119). -/
def execImulhN (u : LRw) (s : State) : Out :=
  .next (laneUnit (.imulhN u) (intHigh false u) s)

/-- IMULW.N (R119). -/
def execImulwN (u : LR0) (s : State) : Out :=
  .next (laneUnit (.imulwN u) (intWide false u) s)

/-- IMAD.N (R119). -/
def execImadN (u : LRw) (s : State) : Out :=
  .next (laneUnit (.imadN u) (intLane false (fun x y z => x * y + z) u (thirdReg u.p u.d.toNat)) s)

/-- ISAD.N (R119): z is read from d. -/
def execIsadN (u : LRw) (s : State) : Out :=
  .next (laneUnit (.isadN u) (intLane false (fun x y z => ((x - y).natAbs : Int) + z) u u.d.toNat) s)

/-- ICMP.N (R126). -/
def execIcmpN (u : LCmpW) (s : State) : Out :=
  .next (laneUnit (.icmpN u) (intCmp false u) s)

/-- IADD.N16X2 (R120). -/
def execIaddN16x2 (u : LR0) (s : State) : Out :=
  .next (laneUnit (.iaddN16x2 u) (intPacked false (fun x y => x + y) u) s)

/-- ISUB.N16X2 (R120). -/
def execIsubN16x2 (u : LR0) (s : State) : Out :=
  .next (laneUnit (.isubN16x2 u) (intPacked false (fun x y => x - y) u) s)

/-- IMIN.N16X2 (R120). -/
def execIminN16x2 (u : LR0) (s : State) : Out :=
  .next (laneUnit (.iminN16x2 u) (intPacked false (fun x y => min x y) u) s)

/-- IMAX.N16X2 (R120). -/
def execImaxN16x2 (u : LR0) (s : State) : Out :=
  .next (laneUnit (.imaxN16x2 u) (intPacked false (fun x y => max x y) u) s)

/-- ICMP.N16X2 (R126). -/
def execIcmpN16x2 (u : LCmp0) (s : State) : Out :=
  .next (laneUnit (.icmpN16x2 u) (intCmpPacked false u) s)

/-- ICMP.N32 with an immediate (R126). -/
def execIcmpNImm (u : LCmpI) (s : State) : Out :=
  .next (laneUnit (.icmpNImm u) (intCmpImm false u) s)

/-- IABS (R121). -/
def execIabs (u : LUw) (s : State) : Out :=
  .next (laneUnit (.iabs u) (intUnary u (fun sg n x sat => fitInt n sg sat ((readInt sg x n).natAbs : Int))) s)

/-- INEG (R121). -/
def execIneg (u : LUw) (s : State) : Out :=
  .next (laneUnit (.ineg u) (intUnary u (fun sg n x sat => fitInt n sg sat (- readInt sg x n))) s)

/-- CLZ (R121). -/
def execClz (u : LUw) (s : State) : Out :=
  .next (laneUnit (.clz u) (intUnary u (fun _ n x _ => leadingZeros n x)) s)

/-- POPC (R121). -/
def execPopc (u : LUw) (s : State) : Out :=
  .next (laneUnit (.popc u) (intUnary u (fun _ n x _ => onesOf n x)) s)

/-- BREV (R121). -/
def execBrev (u : LUw) (s : State) : Out :=
  .next (laneUnit (.brev u) (intUnary u (fun _ n x _ => revBits n x)) s)

/-- IADD.I32 with an immediate (R122). -/
def execIaddImm (u : LImm) (s : State) : Out :=
  .next (laneUnit (.iaddImm u) (fun e => .ofRegs [(u.d.toNat, BitVec.ofNat 32
    (fitInt 32 true e.sat ((e.reg u.a.toNat).toInt + (immOf u.x u.imm9).toInt)))]) s)

end Sys2Proof.Machine
end

