-- ==== Sys2Proof/Machine/LaneFloat.lean ====
section
/-!
DEFINITION. Floating-point arithmetic of the lanes (R127 to R131) and its compares (R126).
-/
namespace Sys2Proof.Machine
open Sys2Proof

/-- The LU type code of a width code: .F32 or .F64. -/
def widthType (w : BitVec 2) : Nat := if w = 0 then 0 else 1

/-- A rounded operation on the elements of type t of registers a and b and of the third source z, with the N items
applied to a and b (R127). -/
def floatLane (t : Nat) (f : (mode : Nat) → FVal → FVal → FVal → FVal) (d a b z size : Nat) (e : LaneEnv) : LaneOut :=
  let m := fmtOf t
  let w := elemBits t
  let x := e.val a size
  let y := e.val b size
  let c := e.val z size
  let r (i : Nat) : Nat := m.round e.mode e.sat (e.draw i) (f e.mode
    (m.value (m.negAbs e.negA e.absA (elemAt x w i))) (m.value (m.negAbs e.negB e.absB (elemAt y w i))) (m.value (elemAt c w i)))
  { regs := splitWords d size (packElems w ((List.range (elemsOf t)).map r)), masks := [], draws := e.drawn (elemsOf t) }

/-- FMIN and FMAX (R129): no rounding. -/
def floatPick (t : Nat) (greater : Bool) (d a b size : Nat) (e : LaneEnv) : LaneOut :=
  let m := fmtOf t
  let w := elemBits t
  let x := e.val a size
  let y := e.val b size
  let r (i : Nat) : Nat := m.minMax greater (m.negAbs e.negA e.absA (elemAt x w i)) (m.negAbs e.negB e.absB (elemAt y w i))
  .ofRegs (splitWords d size (packElems w ((List.range (elemsOf t)).map r)))

/-- FCMP (R126): element i to k_(n+i). -/
def floatCmp (t c k a b size : Nat) (e : LaneEnv) : LaneOut :=
  let m := fmtOf t
  let w := elemBits t
  let x := e.val a size
  let y := e.val b size
  { regs := []
    masks := (List.range (elemsOf t)).map (fun i => (k + i, floatCond m c
      (m.negAbs e.negA e.absA (elemAt x w i)) (m.negAbs e.negB e.absB (elemAt y w i))))
    draws := 0 }

/-- FSCALE (R130). Log entry 33. -/
def scaleLane (u : LRw) (e : LaneEnv) : LaneOut :=
  let m := fmtOf (widthType u.w)
  let x := m.value (m.negAbs e.negA e.absA (e.val u.a.toNat (grp u.w)))
  let k := (e.reg u.b.toNat).toInt
  { regs := splitWords u.d.toNat (grp u.w) (m.round e.mode e.sat (e.draw 0) (scaleVal x k)), masks := [], draws := e.drawn 1 }

/-- An LU operation on each element of type t (R131): the pattern with the N items applied, and the element's draw. -/
def floatUnary (u : LUw) (f : Fmt → (mode r x : Nat) → Nat) (rounds : Bool) (e : LaneEnv) : LaneOut :=
  let t := u.t.toNat
  let m := fmtOf t
  let w := elemBits t
  let x := e.val u.a.toNat (typeGroup u.t)
  let r (i : Nat) : Nat := f m e.mode (e.draw i) (m.negAbs e.negA e.absA (elemAt x w i))
  { regs := splitWords u.d.toNat (typeGroup u.t) (packElems w ((List.range (elemsOf t)).map r)), masks := []
    draws := if rounds then e.drawn (elemsOf t) else 0 }


/-- FADD (R127). -/
def execFadd (u : LRw) (s : State) : Out :=
  .next (laneUnit (.fadd u) (floatLane (widthType u.w) (fun m x y _ => fAdd m x y) u.d.toNat u.a.toNat u.b.toNat u.a.toNat (grp u.w)) s)

/-- FSUB (R127). -/
def execFsub (u : LRw) (s : State) : Out :=
  .next (laneUnit (.fsub u) (floatLane (widthType u.w) (fun m x y _ => fSub m x y) u.d.toNat u.a.toNat u.b.toNat u.a.toNat (grp u.w)) s)

/-- FMUL (R127). -/
def execFmul (u : LRw) (s : State) : Out :=
  .next (laneUnit (.fmul u) (floatLane (widthType u.w) (fun m x y _ => fMul m x y) u.d.toNat u.a.toNat u.b.toNat u.a.toNat (grp u.w)) s)

/-- FFMA (R127). -/
def execFfma (u : LRw) (s : State) : Out :=
  .next (laneUnit (.ffma u) (floatLane (widthType u.w) fFma u.d.toNat u.a.toNat u.b.toNat (thirdReg u.p u.d.toNat) (grp u.w)) s)

/-- FDIV (R128), V class. -/
def execFdiv (u : LRw) (s : State) : Out :=
  .next (laneUnitV (.fdiv u) (floatLane (widthType u.w) (fun m x y _ => fDiv m x y) u.d.toNat u.a.toNat u.b.toNat u.a.toNat (grp u.w)) s)

/-- FMIN (R129). -/
def execFmin (u : LRw) (s : State) : Out :=
  .next (laneUnit (.fmin u) (floatPick (widthType u.w) false u.d.toNat u.a.toNat u.b.toNat (grp u.w)) s)

/-- FMAX (R129). -/
def execFmax (u : LRw) (s : State) : Out :=
  .next (laneUnit (.fmax u) (floatPick (widthType u.w) true u.d.toNat u.a.toNat u.b.toNat (grp u.w)) s)

/-- FCMP (R126). -/
def execFcmp (u : LCmpW) (s : State) : Out :=
  .next (laneUnit (.fcmp u) (floatCmp (widthType u.w) u.cond.toNat u.k.toNat u.a.toNat u.b.toNat (grp u.w)) s)

/-- FSCALE (R130). -/
def execFscale (u : LRw) (s : State) : Out :=
  .next (laneUnit (.fscale u) (scaleLane u) s)

/-- FADD.BF16X2 (R127). -/
def execFaddBf16x2 (u : LR0) (s : State) : Out :=
  .next (laneUnit (.faddBf16x2 u) (floatLane 2 (fun m x y _ => fAdd m x y) u.d.toNat u.a.toNat u.b.toNat u.a.toNat 1) s)

/-- FSUB.BF16X2 (R127). -/
def execFsubBf16x2 (u : LR0) (s : State) : Out :=
  .next (laneUnit (.fsubBf16x2 u) (floatLane 2 (fun m x y _ => fSub m x y) u.d.toNat u.a.toNat u.b.toNat u.a.toNat 1) s)

/-- FMUL.BF16X2 (R127). -/
def execFmulBf16x2 (u : LR0) (s : State) : Out :=
  .next (laneUnit (.fmulBf16x2 u) (floatLane 2 (fun m x y _ => fMul m x y) u.d.toNat u.a.toNat u.b.toNat u.a.toNat 1) s)

/-- FFMA.BF16X2 (R127). -/
def execFfmaBf16x2 (u : LR0) (s : State) : Out :=
  .next (laneUnit (.ffmaBf16x2 u) (floatLane 2 fFma u.d.toNat u.a.toNat u.b.toNat (thirdReg u.p u.d.toNat) 1) s)

/-- FMIN.BF16X2 (R129). -/
def execFminBf16x2 (u : LR0) (s : State) : Out :=
  .next (laneUnit (.fminBf16x2 u) (floatPick 2 false u.d.toNat u.a.toNat u.b.toNat 1) s)

/-- FMAX.BF16X2 (R129). -/
def execFmaxBf16x2 (u : LR0) (s : State) : Out :=
  .next (laneUnit (.fmaxBf16x2 u) (floatPick 2 true u.d.toNat u.a.toNat u.b.toNat 1) s)

/-- FCMP.BF16X2 (R126). -/
def execFcmpBf16x2 (u : LCmp0) (s : State) : Out :=
  .next (laneUnit (.fcmpBf16x2 u) (floatCmp 2 u.cond.toNat u.k.toNat u.a.toNat u.b.toNat 1) s)

/-- FADD.FP16X2 (R127). -/
def execFaddFp16x2 (u : LR0) (s : State) : Out :=
  .next (laneUnit (.faddFp16x2 u) (floatLane 3 (fun m x y _ => fAdd m x y) u.d.toNat u.a.toNat u.b.toNat u.a.toNat 1) s)

/-- FSUB.FP16X2 (R127). -/
def execFsubFp16x2 (u : LR0) (s : State) : Out :=
  .next (laneUnit (.fsubFp16x2 u) (floatLane 3 (fun m x y _ => fSub m x y) u.d.toNat u.a.toNat u.b.toNat u.a.toNat 1) s)

/-- FMUL.FP16X2 (R127). -/
def execFmulFp16x2 (u : LR0) (s : State) : Out :=
  .next (laneUnit (.fmulFp16x2 u) (floatLane 3 (fun m x y _ => fMul m x y) u.d.toNat u.a.toNat u.b.toNat u.a.toNat 1) s)

/-- FFMA.FP16X2 (R127). -/
def execFfmaFp16x2 (u : LR0) (s : State) : Out :=
  .next (laneUnit (.ffmaFp16x2 u) (floatLane 3 fFma u.d.toNat u.a.toNat u.b.toNat (thirdReg u.p u.d.toNat) 1) s)

/-- FMIN.FP16X2 (R129). -/
def execFminFp16x2 (u : LR0) (s : State) : Out :=
  .next (laneUnit (.fminFp16x2 u) (floatPick 3 false u.d.toNat u.a.toNat u.b.toNat 1) s)

/-- FMAX.FP16X2 (R129). -/
def execFmaxFp16x2 (u : LR0) (s : State) : Out :=
  .next (laneUnit (.fmaxFp16x2 u) (floatPick 3 true u.d.toNat u.a.toNat u.b.toNat 1) s)

/-- FCMP.FP16X2 (R126). -/
def execFcmpFp16x2 (u : LCmp0) (s : State) : Out :=
  .next (laneUnit (.fcmpFp16x2 u) (floatCmp 3 u.cond.toNat u.k.toNat u.a.toNat u.b.toNat 1) s)

/-- FCLASS (R131). -/
def execFclass (u : LUw) (s : State) : Out :=
  .next (laneUnit (.fclass u) (floatUnary u (fun m _ _ x => m.classMask x) false) s)

/-- FRND (R131). -/
def execFrnd (u : LUw) (s : State) : Out :=
  .next (laneUnit (.frnd u) (floatUnary u (fun m mode r x => m.round 0 false 0 (fRnd mode r (m.value x))) true) s)

/-- FRACT (R131). -/
def execFract (u : LUw) (s : State) : Out :=
  .next (laneUnit (.fract u) (floatUnary u (fun m mode r x => m.round mode false r (fFract (m.value x))) true) s)

end Sys2Proof.Machine
end

