-- ==== Sys2Proof/Machine/LaneConvert.lean ====
section
/-!
DEFINITION. Conversions (R134 to R139), the random instruction (R141) and the tensor index (R143).
-/
namespace Sys2Proof.Machine
open Sys2Proof

/-- The format of a conversion's float code 0 to 5 (R79). -/
def cvtFmt (t : Nat) : Fmt :=
  match t with | 0 => fp64 | 1 => fp32 | 2 => fp16 | 3 => bf16 | 4 => e5m2 | _ => e4m3

/-- One element converted to destination code `fn` from an exact value (R66, R67: codes N, X, F, I). -/
def toDst (fn : Nat) (mode : Nat) (sat : Bool) (r : Nat) (v : FVal) : Nat :=
  if fn < 6 then (cvtFmt fn).round mode sat r v
  else toInteger (intBits (fn - 8)) (fn % 2 == 0) mode r v

/-- Code K (R67): widening extends by the source's signedness, otherwise wrapped or clamped. -/
def intToInt (st dt : Nat) (sat : Bool) (x : Nat) : Nat :=
  let v := readInt (st % 2 == 0) x (intBits st)
  if intBits st < intBits dt then wrapN v (intBits dt) else fitInt (intBits dt) (dt % 2 == 0) sat v

/-- The source elements of one lane of a conversion from a float type, with the N items applied. -/
def floatElems (e : LaneEnv) (t fn a : Nat) (ti : Nat) : List FVal :=
  let f := cvtFmt t
  let x := e.valOf ti a (cvtSrcGroup false t fn)
  (List.range (cvtElems (floatBits t) (dstBits fn))).map (fun i =>
    f.value (f.negAbs e.negA e.absA (elemAt x f.width i)))

/-- A lane's share of a block (R137): the block of its eight lanes encoded, its own four codes and the exponents.
`src` gives the four elements of a lane; a lane that does not take part supplies +0. Log entry 32. -/
def blockLane (x : Dx) (src : Nat → List FVal) (d : Nat) (e : LaneEnv) : LaneOut :=
  let b := e.ti / 8
  let lanes := (List.range 8).map (fun l => 8 * b + l)
  let takes (i : Nat) : Bool := e.parts.contains i
  let vs := lanes.flatMap (fun i => if takes i then src i else List.replicate 4 (FVal.fin false 0 1))
  let rs := lanes.flatMap (fun i => (List.range 4).map (fun k => (e.at i).draw k))
  let blk := x.encode e.mode e.sat vs rs
  let mine := (blk.codes.drop (4 * (e.ti % 8))).take 4
  { regs := [(d, BitVec.ofNat 32 (packElems x.bits mine)), (d + 1, BitVec.ofNat 32 (blk.e0 % 256 + 256 * (blk.e1 % 256)))]
    masks := [], draws := if blk.e0 = 255 then 0 else e.drawn 4 }

/-- CVT from a float type (R135, R138). Log entry 32. -/
def cvtFloatLane (u : LUf) (e : LaneEnv) : LaneOut :=
  let t := u.t.toNat
  let fn := u.fn.toNat
  if fn = 6 ∨ fn = 7 then blockLane (if fn = 6 then .dx8 else .dx4) (floatElems e t fn u.a.toNat) u.d.toNat e
  else
    let n := cvtElems (floatBits t) (dstBits fn)
    let rs := (floatElems e t fn u.a.toNat e.ti).zipIdx.map (fun v => toDst fn e.mode e.sat (e.draw v.2) v.1)
    { regs := splitWords u.d.toNat (cvtDstGroup false t fn) (packElems (dstBits fn) rs), masks := []
      draws := if decide (8 ≤ fn) || cvtRounds (cvtFmt t) (cvtFmt fn) then e.drawn n else 0 }

/-- CVT from an integer type (R135): code I or K. -/
def cvtIntLane (u : LUf) (e : LaneEnv) : LaneOut :=
  let t := u.t.toNat
  let fn := u.fn.toNat
  let n := cvtElems (intBits t) (dstBits fn)
  let x := e.val u.a.toNat (cvtSrcGroup true t fn)
  let one (i : Nat) : Nat :=
    let y := elemAt x (intBits t) i
    if 8 ≤ fn then intToInt t (fn - 8) e.sat y
    else toDst fn e.mode e.sat (e.draw i) (.ofInt (readInt (t % 2 == 0) y (intBits t)))
  { regs := splitWords u.d.toNat (cvtDstGroup true t fn) (packElems (dstBits fn) ((List.range n).map one)), masks := []
    draws := if fn < 8 then e.drawn n else 0 }

/-- CVTS (R136): the exact product with the FP32 scale in c, rounded once. Log entry 32. -/
def cvtsLane (u : LUf) (e : LaneEnv) : LaneOut :=
  let t := u.t.toNat
  let fn := u.fn.toNat
  let src (i : Nat) : List FVal :=
    (floatElems e t fn u.a.toNat i).map (fun v => fMul 0 v (fp32.value (e.regOf i (cOf u.p)).toNat))
  if fn = 6 ∨ fn = 7 then blockLane (if fn = 6 then .dx8 else .dx4) src u.d.toNat e
  else
    let n := cvtElems (floatBits t) (dstBits fn)
    let rs := (src e.ti).zipIdx.map (fun v => toDst fn e.mode e.sat (e.draw v.2) v.1)
    { regs := splitWords u.d.toNat (cvtDstGroup false t fn) (packElems (dstBits fn) rs), masks := [], draws := e.drawn n }

/-- BLKENC (R138). -/
def blkencLane (u : LUf) (e : LaneEnv) : LaneOut :=
  let t := u.t.toNat
  let f := fmtOf t
  let src (i : Nat) : List FVal :=
    (List.range 4).map (fun k => f.value (elemAt (e.valOf i u.a.toNat (blkGroup t)) f.width k))
  blockLane (if u.fn = 0 then .dx8 else .dx4) src u.d.toNat e

/-- BLKDEC (R139): code D on the four elements of one lane form. -/
def blkdecLane (u : LUf) (e : LaneEnv) : LaneOut :=
  let t := u.t.toNat
  let x : Dx := if u.fn = 0 then .dx8 else .dx4
  let lo := (e.reg u.a.toNat).toNat
  let hi := (e.reg (u.a.toNat + 1)).toNat
  let one (i : Nat) : Nat := (fmtOf t).round e.mode e.sat (e.draw i) (x.value (hi % 256) (hi / 256 % 256) (elemAt lo x.bits i))
  { regs := splitWords u.d.toNat (blkGroup t) (packElems (fmtOf t).width ((List.range 4).map one)), masks := []
    draws := e.drawn 4 }

/-- TIDX (R143): the coordinates of x under the first t dimensions of a shape entry, the last one not reduced. -/
def tidxCoords (shapes : SMap Byte) (base rank : Nat) : (t i x : Nat) → List Nat
  | 0, _, x => [x]
  | t + 1, i, x =>
    if i < rank then
      let rd (o n : Nat) : Nat := natOfBytes (SMap.read shapes (base + o + 16 * i) n 0)
      let q := (x * rd 16 8) / 2 ^ (32 + rd 12 1)
      (((x : Int) - ((q * rd 8 4 : Nat) : Int)) % (2 ^ 32 : Nat)).toNat :: tidxCoords shapes base rank t (i + 1) q
    else 0 :: tidxCoords shapes base rank t (i + 1) x

/-- TIDX in a lane. -/
def tidxLane (u : LUf) (e : LaneEnv) : LaneOut :=
  let base := 96 * u.fn.toNat
  let rank := (SMap.get e.g.shapes base 0).toNat
  let cs := tidxCoords e.g.shapes base rank u.t.toNat 0 (e.reg u.a.toNat).toNat
  .ofRegs (cs.zipIdx.map (fun c => (u.d.toNat + c.2, BitVec.ofNat 32 c.1)))

/-- RAND (R141). -/
def randLane (u : LDf) (e : LaneEnv) : LaneOut :=
  let w := e.word 0
  { regs := [(u.d.toNat, BitVec.ofNat 32 (if u.fn.toNat = 1 then fp32.round 0 false 0 (.fin false (w / 2 ^ 8) (2 ^ 24)) else w))]
    masks := [], draws := 1 }

/-- What a conversion reads: its own lane's source `a` of `size` registers and its `c`, where it has one; where it makes a block, those of
every participant among the block's eight lanes, and the masks that say who they are (R86, R87, R137). -/
def convertReads (block : Bool) (a size : Nat) (c : Option Nat) : CrossReads := fun e =>
  let lanes := if block then (e.parts.filter (fun i => i / 8 == e.ti / 8)) else [e.ti]
  lanes.map (fun i => (i, a, size)) ++ (match c with | some n => lanes.map (fun i => (i, n, 1)) | none => [])
    ++ (if block then e.maskReads (e.issued.filter (fun i => i / 8 == e.ti / 8)) else [])
/-- Whether a conversion's destination code makes blocks (R137). -/
def blockCode (u : LUf) : Bool := decide (u.fn.toNat = 6 ∨ u.fn.toNat = 7)
/-- What CVT, CVTS and BLKENC read. -/
def cvtReads (u : LUf) : CrossReads := convertReads (blockCode u) u.a.toNat (cvtSrcGroup false u.t.toNat u.fn.toNat) none
def cvtsReads (u : LUf) : CrossReads := convertReads (blockCode u) u.a.toNat (cvtSrcGroup false u.t.toNat u.fn.toNat) (some (cOf u.p))
def blkencReads (u : LUf) : CrossReads := convertReads true u.a.toNat (blkGroup u.t.toNat) none

/-- CVT from a float source (R135). -/
def execCvtFloatSource (u : LUf) (s : State) : Out :=
  .next (crossUnit (.cvtFloatSource u) false (cvtReads u) (cvtFloatLane u) s)
/-- CVT from an integer source (R135). -/
def execCvtIntegerSource (u : LUf) (s : State) : Out := .next (laneUnit (.cvtIntegerSource u) (cvtIntLane u) s)
/-- CVTS (R136). -/
def execCvts (u : LUf) (s : State) : Out := .next (crossUnit (.cvts u) false (cvtsReads u) (cvtsLane u) s)
/-- BLKENC (R138), V class. -/
def execBlkenc (u : LUf) (s : State) : Out := .next (crossUnit (.blkenc u) true (blkencReads u) (blkencLane u) s)
/-- BLKDEC (R139), V class. -/
def execBlkdec (u : LUf) (s : State) : Out := .next (laneUnitV (.blkdec u) (blkdecLane u) s)
/-- RAND (R141). -/
def execRand (u : LDf) (s : State) : Out := .next (laneUnit (.rand u) (randLane u) s)
/-- What TIDX writes, and zeroes in a lane that does not participate: the registers of its coordinates and no other of the
covering group (R143). -/
def tidxShape (u : LUf) : Shape := { shapeOf (.tidx u) with touches := [wr u.d (u.t.toNat + 1)] }

/-- TIDX (R143); the issue stage holds it while a copy to its shape entry is in flight (R158). -/
def execTidx (u : LUf) (s : State) : Out :=
  .next (runUnit (.tidx u) false none noExtra (writeLanes (tidxShape u) false (tidxLane u)) s)

end Sys2Proof.Machine
end

