-- ==== Sys2Proof/Machine/LaneCross.lean ====
section
/-!
DEFINITION. The cross-lane instructions (R144 to R152): each lane computes its result from the group's threads as they
stand when the instruction issues (R116).
-/
namespace Sys2Proof.Machine
open Sys2Proof

/-- The source lane of SHFL (R144): the low bits of b. -/
def shflSource (u : LRw) (e : LaneEnv) : Nat := (e.reg u.b.toNat).toNat % 64 % e.g.width

/-- A read of `size` registers from `a` of thread `i`, written to d. -/
def takeFrom (d a size i : Nat) (e : LaneEnv) : LaneOut :=
  .ofRegs ((List.range size).map (fun k => (d + k, e.regOf i (a + k))))

/-- The source lanes of the fixed shuffles (R144). -/
def upSource (u : LShf) (e : LaneEnv) : Nat := if e.ti < u.delta.toNat then e.ti else e.ti - u.delta.toNat
def dnSource (u : LShf) (e : LaneEnv) : Nat := if e.g.width ≤ e.ti + u.delta.toNat then e.ti else e.ti + u.delta.toNat
def xorSource (u : LShf) (e : LaneEnv) : Nat := e.ti ^^^ (u.delta.toNat % e.g.width)

/-- A fixed shuffle. -/
def shflFixed (u : LShf) (src : LaneEnv → Nat) (e : LaneEnv) : LaneOut := takeFrom u.d.toNat u.a.toNat 1 (src e) e
def shflReads (u : LShf) (src : LaneEnv → Nat) : CrossReads := fun e => [(src e, u.a.toNat, 1)]

/-- The pattern-table byte that steers byte b of the lane (R145). -/
def xpermByte (table b : Nat) (e : LaneEnv) : Nat := (SMap.get e.wg.patterns (256 * table + 4 * e.ti + b) 0).toNat

/-- XPERM (R145). -/
def xpermLane (u : LAfw) (e : LaneEnv) : LaneOut :=
  let one (r b : Nat) : Nat :=
    let c := xpermByte u.fn.toNat b e
    (e.regOf (c / 4 % e.g.width) (u.a.toNat + r)).toNat / 256 ^ (c % 4) % 256
  .ofRegs ((List.range (grp u.w)).map (fun r => (u.d.toNat + r, BitVec.ofNat 32 (packElems 8 ((List.range 4).map (one r))))))

/-- What XPERM reads. -/
def xpermReads (u : LAfw) : CrossReads := fun e =>
  (List.range 4).map (fun b => (xpermByte u.fn.toNat b e / 4 % e.g.width, u.a.toNat, grp u.w))

/-- VOTE (R146). -/
def voteLane (u : LAf) (e : LaneEnv) : LaneOut :=
  let k := kIdx u.a
  let bits := e.parts.map (fun i => e.maskOf i k)
  match u.fn.toNat with
  | 0 => .ofMask (kIdx u.d) (bits.all id)
  | 1 => .ofMask (kIdx u.d) (bits.any id)
  | 2 => .ofMask (kIdx u.d) (bits.all id || ! bits.any id)
  | _ => .ofRegs (splitWords u.d.toNat 2 (e.parts.foldl (fun n i => n + natOfBool (e.maskOf i k) * 2 ^ i) 0))

/-- One step's operation of REDUCE and SCAN on patterns of type t (R147), rounding under rne. -/
def combine (t fn x y : Nat) : Nat :=
  let n := elemBits t
  if t < 4 then
    let f := fmtOf t
    match fn with
    | 0 => f.round 0 false 0 (fAdd 0 (f.value x) (f.value y))
    | 1 => f.minMax false x y
    | _ => f.minMax true x y
  else
    let sg := t % 2 == 0
    let a := readInt sg x n
    let b := readInt sg y n
    match fn with
    | 0 => wrapN (a + b) n
    | 1 => wrapN (min a b) n
    | 2 => wrapN (max a b) n
    | 3 => x &&& y
    | 4 => x ||| y
    | _ => x ^^^ y

/-- The identity that a non-participant contributes (R147). -/
def identityOf (t fn : Nat) : Nat :=
  let n := elemBits t
  if t < 4 then
    let f := fmtOf t
    match fn with | 0 => f.signBit | 1 => f.infMag | _ => f.signed true f.infMag
  else
    match fn with
    | 1 => if t % 2 = 0 then 2 ^ (n - 1) - 1 else 2 ^ n - 1
    | 2 => if t % 2 = 0 then 2 ^ (n - 1) else 0
    | 3 => 2 ^ n - 1
    | _ => 0

/-- The tree of REDUCE: steps s = 1, 2, 4, … below W (R147). -/
def reduceSteps (op : Nat → Nat → Nat) (w : Nat) : (fuel s : Nat) → List Nat → List Nat
  | 0, _, xs => xs
  | k + 1, s, xs =>
    if w ≤ s then xs
    else reduceSteps op w k (2 * s) (xs.zipIdx.map (fun x =>
      if x.2 % (2 * s) = 0 then op x.1 ((xs[x.2 + s]?).getD 0) else x.1))
/-- The steps of SCAN (R147). -/
def scanSteps (op : Nat → Nat → Nat) (w : Nat) : (fuel s : Nat) → List Nat → List Nat
  | 0, _, xs => xs
  | k + 1, s, xs =>
    if w ≤ s then xs
    else scanSteps op w k (2 * s) (xs.zipIdx.map (fun x =>
      if s ≤ x.2 then op ((xs[x.2 - s]?).getD 0) x.1 else x.1))

/-- A value that passes through a floating-point instruction: a signalling NaN is quietened (R48), as thread 0's element of a
SCAN is, which no step combines. -/
def quietened (t x : Nat) : Nat := if t < 4 then cvtFloat (fmtOf t) (fmtOf t) 0 false 0 x else x

/-- REDUCE and SCAN in a lane: packed types combine each element apart. -/
def combineLane (scan : Bool) (u : LUtfw) (e : LaneEnv) : LaneOut :=
  let t := u.t.toNat
  let fn := u.fn.toNat
  let size := typeGroup u.t
  let n := elemBits t
  let el (k : Nat) : Nat :=
    let xs := (List.range e.g.width).map (fun i =>
      if e.parts.contains i then elemAt (e.valOf i u.a.toNat size) n k else identityOf t fn)
    if scan then quietened t (((scanSteps (combine t fn) e.g.width 7 1 xs)[e.ti]?).getD 0)
    else ((reduceSteps (combine t fn) e.g.width 7 1 xs)[0]?).getD 0
  .ofRegs (splitWords u.d.toNat size (packElems n ((List.range (elemsOf t)).map el)))

/-- The reads of an instruction that combines every participant: each one's source, and the mask of every issued lane (R87). -/
def allReads (a size : Nat) : CrossReads := fun e => e.parts.map (fun i => (i, a, size)) ++ e.maskReads e.issued

/-- MATCH (R149). -/
def matchLane (u : LUw) (e : LaneEnv) : LaneOut :=
  let size := typeGroup u.t
  let mine := e.val u.a.toNat size
  .ofRegs (splitWords u.d.toNat size ((e.parts.find? (fun i => e.valOf i u.a.toNat size == mine)).getD e.ti))

/-- ELECT (R150): the participant with the smallest relative index. -/
def electLane (u : LDf) (e : LaneEnv) : LaneOut :=
  let first := (e.parts.head?).getD e.ti
  if u.fn.toNat = 0 then .ofMask (kIdx u.d) (first == e.ti) else .ofRegs [(u.d.toNat, BitVec.ofNat 32 first)]

/-- The index that RDLANE reads: its own value for a g register, the lowest thread's for a v register (R151). -/
def rdlaneIndex (u : LRw) (e : LaneEnv) : Nat :=
  let b := if isG u.b then e.reg u.b.toNat else e.regOf ((e.issued.head?).getD e.ti) u.b.toNat
  b.toNat % e.g.width
/-- What RDLANE reads. -/
def rdlaneReads (u : LRw) : CrossReads := fun e =>
  (rdlaneIndex u e, u.a.toNat, grp u.w) ::
    (if isG u.b then e.issued.map (fun i => (i, u.b.toNat, 1)) else [((e.issued.head?).getD e.ti, u.b.toNat, 1)])

/-- KPOP (R152): with a v destination every issuing thread of the group receives the count, whatever its own bit.
Log entry 86. -/
def kpopLane (u : LA0) (e : LaneEnv) : LaneOut :=
  .ofRegs [(u.d.toNat, BitVec.ofNat 32 (e.issued.filter (fun i => e.maskOf i (kIdx u.a))).length)]

/-- SHFL by a lane index (R144). -/
def execShfl (u : LRw) (s : State) : Out :=
  .next (crossUnit (.shfl u) false (fun e => [(shflSource u e, u.a.toNat, grp u.w), (e.ti, u.b.toNat, grp u.w)])
    (fun e => takeFrom u.d.toNat u.a.toNat (grp u.w) (shflSource u e) e) s)
/-- SHFL.UP (R144). -/
def execShflUp (u : LShf) (s : State) : Out :=
  .next (crossUnit (.shflUp u) false (shflReads u (upSource u)) (shflFixed u (upSource u)) s)
/-- SHFL.DN (R144). -/
def execShflDn (u : LShf) (s : State) : Out :=
  .next (crossUnit (.shflDn u) false (shflReads u (dnSource u)) (shflFixed u (dnSource u)) s)
/-- SHFL.XOR (R144). -/
def execShflXor (u : LShf) (s : State) : Out :=
  .next (crossUnit (.shflXor u) false (shflReads u (xorSource u)) (shflFixed u (xorSource u)) s)
/-- XPERM (R145); the issue stage holds it while a copy that its group has started to its table is in flight (R158,
R159). -/
def execXperm (u : LAfw) (s : State) : Out := .next (crossUnit (.xperm u) false (xpermReads u) (xpermLane u) s)
/-- VOTE (R146). -/
def execVote (u : LAf) (s : State) : Out :=
  .next (crossUnit (.vote u) false (allReads (128 + kIdx u.a) 1) (voteLane u) s)
/-- REDUCE (R147), V class. -/
def execReduce (u : LUtfw) (s : State) : Out :=
  .next (crossUnit (.reduce u) true (allReads u.a.toNat (typeGroup u.t)) (combineLane false u) s)
/-- SCAN (R147), V class. -/
def execScan (u : LUtfw) (s : State) : Out :=
  .next (crossUnit (.scan u) true (allReads u.a.toNat (typeGroup u.t)) (combineLane true u) s)
/-- MATCH (R149), V class. -/
def execMatchLanes (u : LUw) (s : State) : Out :=
  .next (crossUnit (.matchLanes u) true (allReads u.a.toNat (typeGroup u.t)) (matchLane u) s)
/-- ELECT (R150). -/
def execElect (u : LDf) (s : State) : Out := .next (laneUnit (.elect u) (electLane u) s)
/-- RDLANE (R151). -/
def execRdlane (u : LRw) (s : State) : Out :=
  .next (crossUnit (.rdlane u) false (rdlaneReads u)
    (fun e => takeFrom u.d.toNat u.a.toNat (grp u.w) (rdlaneIndex u e) e) s)
/-- KPOP (R152). -/
def execKpop (u : LA0) (s : State) : Out :=
  .next (crossUnit (.kpop u) false (fun e => e.issued.map (fun i => (i, 128 + kIdx u.a, 1))) (kpopLane u) s)

end Sys2Proof.Machine
end

