-- ==== Sys2Proof/Machine/LaneLogic.lean ====
section
/-!
DEFINITION. Logic, shifts, bit fields, selection and moves of the lanes (R122 to R126, R152).
-/
namespace Sys2Proof.Machine
open Sys2Proof

/-- A bitwise operation over a width group (R123). -/
def bitLane (f : Word → Word → Word) (u : LRw) (e : LaneEnv) : LaneOut :=
  .ofRegs ((List.range (grp u.w)).map (fun i => (u.d.toNat + i, f (e.reg (u.a.toNat + i)) (e.reg (u.b.toNat + i)))))

/-- A bitwise operation with an immediate (R122). -/
def bitImm (f : Word → Word → Word) (u : LImm) (e : LaneEnv) : LaneOut :=
  .ofRegs [(u.d.toNat, f (e.reg u.a.toNat) (immOf u.x u.imm9))]

/-- The shifts of R124 on n bits. -/
def shiftLeft (n x c : Nat) : Nat := if c < n then x * 2 ^ c % 2 ^ n else 0
def shiftRight (n x c : Nat) : Nat := if c < n then x / 2 ^ c else 0
def shiftArith (n x c : Nat) : Nat := wrapN (sext x n / (2 ^ min c n : Nat)) n
def rotateLeft (n x c : Nat) : Nat := (x * 2 ^ (c % n) % 2 ^ n) + x / 2 ^ (n - c % n)

/-- A shift by a register (R124): the count is in the low 8 bits of b's low register. -/
def shiftLane (f : Nat → Nat → Nat → Nat) (u : LRw) (e : LaneEnv) : LaneOut :=
  .ofRegs (splitWords u.d.toNat (grp u.w)
    (f (widthBits u.w) (e.val u.a.toNat (grp u.w)) ((e.reg u.b.toNat).toNat % 256)))

/-- A shift by an immediate count (R124). -/
def shiftImm (f : Nat → Nat → Nat → Nat) (u : LSh) (e : LaneEnv) : LaneOut :=
  .ofRegs [(u.d.toNat, BitVec.ofNat 32 (f 32 (e.reg u.a.toNat).toNat u.count.toNat))]

/-- The clipped length of a bit field (R125): 0 when the position lies beyond n. -/
def clipLen (n p l : Nat) : Nat := if p < n then min l (n - p) else 0

/-- BFX (R125). -/
def bfxLane (signed : Bool) (u : LRw) (e : LaneEnv) : LaneOut :=
  let n := widthBits u.w
  let b := (e.reg u.b.toNat).toNat
  let p := b % 256
  let l := clipLen n p (b / 256 % 256)
  let fld := e.val u.a.toNat (grp u.w) / 2 ^ p % 2 ^ l
  .ofRegs (splitWords u.d.toNat (grp u.w) (if signed then wrapN (sext fld l) n else fld))

/-- BFI (R125). -/
def bfiLane (u : LRw) (e : LaneEnv) : LaneOut :=
  let n := widthBits u.w
  let b := (e.reg u.b.toNat).toNat
  let p := b % 256
  let l := clipLen n p (b / 256 % 256)
  let x := e.val u.d.toNat (grp u.w)
  let a := e.val u.a.toNat (grp u.w)
  .ofRegs (splitWords u.d.toNat (grp u.w)
    (if l = 0 then x else x - (x / 2 ^ p % 2 ^ l) * 2 ^ p + (a % 2 ^ l) * 2 ^ p))

/-- SEL (R126): a where the k bit is 1, b elsewhere. -/
def selLane (u : LRw) (e : LaneEnv) : LaneOut :=
  let k := match u.p with | some p => p.k.toNat | none => 0
  let b := e.mask k
  .ofRegs ((List.range (grp u.w)).map (fun i =>
    (u.d.toNat + i, if b then e.reg (u.a.toNat + i) else e.reg (u.b.toNat + i))))


/-- AND (R123). -/
def execAnd (u : LRw) (s : State) : Out :=
  .next (laneUnit (.and u) (bitLane (fun x y => x &&& y) u) s)

/-- OR (R123). -/
def execOr (u : LRw) (s : State) : Out :=
  .next (laneUnit (.or u) (bitLane (fun x y => x ||| y) u) s)

/-- XOR (R123). -/
def execXor (u : LRw) (s : State) : Out :=
  .next (laneUnit (.xor u) (bitLane (fun x y => x ^^^ y) u) s)

/-- ANDN (R123). -/
def execAndn (u : LRw) (s : State) : Out :=
  .next (laneUnit (.andn u) (bitLane (fun x y => x &&& ~~~ y) u) s)

/-- SHL (R124). -/
def execShl (u : LRw) (s : State) : Out :=
  .next (laneUnit (.shl u) (shiftLane shiftLeft u) s)

/-- SHR (R124). -/
def execShr (u : LRw) (s : State) : Out :=
  .next (laneUnit (.shr u) (shiftLane shiftRight u) s)

/-- SAR (R124). -/
def execSar (u : LRw) (s : State) : Out :=
  .next (laneUnit (.sar u) (shiftLane shiftArith u) s)

/-- ROTL (R124). -/
def execRotl (u : LRw) (s : State) : Out :=
  .next (laneUnit (.rotl u) (shiftLane rotateLeft u) s)

/-- BFX.I (R125). -/
def execBfxI (u : LRw) (s : State) : Out :=
  .next (laneUnit (.bfxI u) (bfxLane true u) s)

/-- BFX.N (R125). -/
def execBfxN (u : LRw) (s : State) : Out :=
  .next (laneUnit (.bfxN u) (bfxLane false u) s)

/-- BFI (R125). -/
def execBfi (u : LRw) (s : State) : Out :=
  .next (laneUnit (.bfi u) (bfiLane u) s)

/-- SEL (R126). -/
def execSel (u : LRw) (s : State) : Out :=
  .next (laneUnit (.sel u) (selLane u) s)

/-- AND with an immediate (R122). -/
def execAndImm (u : LImm) (s : State) : Out :=
  .next (laneUnit (.andImm u) (bitImm (fun x y => x &&& y) u) s)

/-- OR with an immediate (R122). -/
def execOrImm (u : LImm) (s : State) : Out :=
  .next (laneUnit (.orImm u) (bitImm (fun x y => x ||| y) u) s)

/-- XOR with an immediate (R122). -/
def execXorImm (u : LImm) (s : State) : Out :=
  .next (laneUnit (.xorImm u) (bitImm (fun x y => x ^^^ y) u) s)

/-- SHL by an immediate (R124). -/
def execShlImm (u : LSh) (s : State) : Out :=
  .next (laneUnit (.shlImm u) (shiftImm shiftLeft u) s)

/-- SHR by an immediate (R124). -/
def execShrImm (u : LSh) (s : State) : Out :=
  .next (laneUnit (.shrImm u) (shiftImm shiftRight u) s)

/-- SAR by an immediate (R124). -/
def execSarImm (u : LSh) (s : State) : Out :=
  .next (laneUnit (.sarImm u) (shiftImm shiftArith u) s)

/-- ROTL by an immediate (R124). -/
def execRotlImm (u : LSh) (s : State) : Out :=
  .next (laneUnit (.rotlImm u) (shiftImm rotateLeft u) s)

/-- MOVI (R122). -/
def execMovi (u : LMovi) (s : State) : Out :=
  .next (laneUnit (.movi u) (fun _ => .ofRegs [(u.d.toNat, immOf u.x u.imm9)]) s)

/-- MOV (R152). -/
def execMov (u : LAw) (s : State) : Out :=
  .next (laneUnit (.mov u) (fun e => .ofRegs ((List.range (grp u.w)).map (fun i => (u.d.toNat + i, e.reg (u.a.toNat + i))))) s)

/-- KMOV (R152). -/
def execKmov (u : LAf) (s : State) : Out :=
  .next (laneUnit (.kmov u) (fun e => match u.fn.toNat with
    | 0 => .ofMask (kIdx u.d) (e.mask (kIdx u.a))
    | 1 => .ofMask (kIdx u.d) ((e.reg u.a.toNat).getLsbD 0)
    | _ => .ofRegs [(u.d.toNat, if e.mask (kIdx u.a) then 1 else 0)]) s)

end Sys2Proof.Machine
end

