-- ==== Sys2Proof/Machine/Distributor.lean ====
section
/-!
DEFINITION. What the distributor keeps of launches and writes about them (R307, R309, R311, R313 to R315, R375):
records and their fields, completion records, the failure and completion of a launch, and a workgroup's bit.
-/
namespace Sys2Proof.Machine
open Sys2Proof

/-- The core number of the hub die in records (R372, R385); also the agent in whose name the distributor translates.
Log entries 12 and 24. -/
def hubCore : Nat := 0xFF

/-- A field of a launch record: n bytes at an offset (R309). -/
def recNat (r : List Byte) (off n : Nat) : Nat := natOfBytes ((r.drop off).take n)
def Launch.nat (l : Launch) (off n : Nat) : Nat := recNat l.record off n
def Launch.crec (l : Launch) : Nat := l.nat 48 8
def Launch.prio (l : Launch) : Nat := l.nat 46 1 % 4
def Launch.feed (l : Launch) : Bool := (l.nat 47 1).testBit 0
def Launch.hold (l : Launch) : Bool := (l.nat 47 1).testBit 1
def Launch.irq (l : Launch) : Bool := (l.nat 47 1).testBit 2
def Launch.nlev (l : Launch) : Nat := l.nat 44 1
/-- Workgroups of a launch (R309). -/
def recTotal (r : List Byte) : Nat := recNat r 24 4 * recNat r 28 4 * recNat r 32 4
def Launch.total (l : Launch) : Nat := recTotal l.record
/-- The groups of a record: width, role, budget (R309). -/
def recGroups (r : List Byte) : List (Nat × Nat × Nat) :=
  ((List.range 16).map (fun g => (recNat r (64 + 4 * g) 1, recNat r (65 + 4 * g) 1, recNat r (66 + 4 * g) 1))).filter (fun g => g.1 ≠ 0)
/-- The product P_i of level extents (R311). -/
def recLevel (r : List Byte) (i : Nat) : Nat := (List.range (i + 1)).foldl (fun p k => p * recNat r (128 + 8 * k) 4) 1
/-- Whether a level is co-resident (R309). -/
def recCo (r : List Byte) (i : Nat) : Bool := decide (i < recNat r 44 1) && (recNat r (134 + 8 * i) 1).testBit 0
/-- The handle of a launch (R307). -/
def Launch.handle (l : Launch) : Nat := l.queue * 2 ^ 24 + l.count % 2 ^ 24

/-- The launch of a context with a queue and a count. -/
def State.launch? (s : State) (p c q k : Nat) : Option Launch :=
  (s.context p c).launches.find? (fun l => l.queue == q && l.count == k)
/-- The state with one launch changed. -/
def State.modLaunch (s : State) (p c q k : Nat) (f : Launch → Launch) : State :=
  s.modContext p c (fun x => { x with launches := x.launches.map (fun l => if l.queue = q ∧ l.count = k then f l else l) })

/-- The code of a launch state (R313). -/
def LaunchState.code (x : LaunchState) : Nat :=
  match x with | .queued => 0 | .admitted => 1 | .complete => 2 | .failed => 3 | .cancelled => 4

/-- A status word (R197). -/
def statusWord (code agent detail : Nat) : Nat := code * 2 ^ 24 + agent * 2 ^ 20 + detail % 2 ^ 20
/-- Its code. -/
def statusCode (x : Nat) : Nat := x / 2 ^ 24

/-- The completion record's header (R313). -/
def Launch.header (l : Launch) : List Byte :=
  bytesOf l.status.toNat 4 ++ bytesOf l.state.code 4 ++ bytesOf l.done.length 8 ++ bytesOf l.tstart.toNat 8 ++ bytesOf l.tend.toNat 8

/-- Bytes of a completion record written; a write that fails is dropped and logged (R313). -/
def State.writeCrec (s : State) (p c : Nat) (l : Launch) (off : Nat) (bs : List Byte) : State :=
  if l.crec = 0 ∨ l.crec % 32 ≠ 0 then s
  else
    match s.writeVirt p c hubCore (l.crec + off) bs with
    | (s1, none) => s1
    | (s1, some (cause, addr)) => s1.logRecord p c addr cause 4 hubCore 0 0

/-- The completion scope of a launch (R309). -/
def Launch.cscope (l : Launch) : Nat := if l.nat 46 1 / 4 % 8 = 6 then 6 else 5
/-- What its completion orders: the settings of its workgroups' bits (R314, R315). -/
def Launch.gives (l : Launch) : View := l.gave.foldl (fun (v : View) x => v.join x.2) []

/-- Stores of the distributor that are a release, at a scope, of what it has been told (R289, R297, R314, R315). -/
def State.releasing (s : State) (v : View) (scope : Nat) (f : State → State) : State :=
  let s1 := { s.withLedger (s.ledger.certain v true) with sysView := if scope = 6 then s.sysView.join v else s.sysView }
  let s2 := f s1
  { s2 with stores := markSince s1.stores s2.stores { agent := Agent.hub, strong := scope, rel := List.replicate (scope + 1) v, stamp := [] } }

/-- The header of a launch written as it stands. -/
def State.writeHeader (s : State) (p c q k : Nat) : State :=
  match s.launch? p c q k with
  | none => s
  | some l => s.writeCrec p c l 0 l.header

/-- The byte of the bitmap that holds workgroup w's bit. -/
def Launch.bitmapByte (l : Launch) (w : Nat) : Byte :=
  BitVec.ofNat 8 ((List.range 8).foldl (fun n i => n + natOfBool (l.done.contains (w / 8 * 8 + i)) * 2 ^ i) 0)

/-- A launch made COMPLETE, FAILED or CANCELLED (R314): its first status kept, its record written as a release at its completion
scope, its MSI-X sent on completion. A launch already finished stays as it is. -/
def State.endLaunch (s : State) (p c q k : Nat) (st : LaunchState) (status : Nat) : State :=
  match s.launch? p c q k with
  | none => s
  | some l =>
    if l.state = .queued ∨ l.state = .admitted then
      let s1 := { s with nextId := s.nextId + 1 }.modLaunch p c q k (fun l =>
        { l with
          state := st, tend := s.time, finished := s.nextId
          status := if l.status = 0 then BitVec.ofNat 32 status else l.status })
      let s2 := s1.releasing l.gives l.cscope (fun s => s.writeHeader p c q k)
      if st = .complete ∧ l.irq = true then s2.message (s.fnOf p) (l.nat 56 2) else s2
    else s

/-- What the setting of a workgroup's bit orders, more of it as its work in the engines completes (R315). -/
def State.gaveBit (s : State) (p c q k w : Nat) (v : View) : State :=
  s.modLaunch p c q k (fun l => { l with gave := SMap.insert l.gave w ((SMap.get l.gave w []).join v) })

/-- A workgroup's bit set (R314, R315): the bitmap and the count of an ADMITTED launch, as a release at a scope of what `v`
asks for. -/
def State.markDone (s : State) (p c q k w : Nat) (scope : Nat) (v : View) : State :=
  match s.launch? p c q k with
  | none => s
  | some l =>
    if l.state = .admitted ∧ l.done.contains w = false then
      let s1 := (s.gaveBit p c q k w v).modLaunch p c q k (fun l => { l with done := l.done ++ [w] })
      match s1.launch? p c q k with
      | none => s1
      | some l1 => s1.releasing v scope (fun s =>
          (s.writeCrec p c l1 (32 + w / 8) [l1.bitmapByte w]).writeCrec p c l1 8 (bytesOf l1.done.length 8))
    else s

/-- A failure that the distributor takes up for a workgroup's launch (R375): the launch FAILED with the status, and an
ASYNC_FAILED record. Log entry 62. -/
def State.asyncFailed (s : State) (w : Workgroup) (status pc : Nat) : State :=
  (s.endLaunch w.part w.ctx w.queue w.count .failed status).logRecord w.part w.ctx
    (status + 2 ^ 32 * w.handle) 0x11 5 w.core pc 0

/-- The record whose first failing byte R310 names, apart from what depends on the machine: the least offset of a field
that breaks R309 or R310. -/
def recordFault (r : List Byte) : Option Nat :=
  let n (o k : Nat) : Nat := recNat r o k
  let zero (o k : Nat) : List Nat := ((List.range k).filter (fun i => n (o + i) 1 ≠ 0)).map (o + ·)
  let bad (b : Bool) (o : Nat) : List Nat := if b then [o] else []
  let nlev := n 44 1
  let gs := (List.range 16).map (fun g => (g, n (64 + 4 * g) 1, n (65 + 4 * g) 1, n (66 + 4 * g) 1))
  let widths := gs.foldl (fun t g => t + g.2.1) 0
  let groupBad := gs.flatMap (fun g =>
    let o := 64 + 4 * g.1
    if g.2.1 = 0 then bad (g.1 == 0) o ++ zero (o + 3) 1
    else
      bad (! [8, 16, 32, 64].contains g.2.1 || (decide (0 < g.1) && n (64 + 4 * (g.1 - 1)) 1 == 0)) o
        ++ bad (decide (3 < g.2.2.1)) (o + 1)
        ++ bad (decide (g.2.2.2 < 8 ∨ 96 < g.2.2.2 ∨ g.2.2.2 % 8 ≠ 0)) (o + 2) ++ zero (o + 3) 1)
  let overWide : List Nat :=
    if 64 < widths then
      match (List.range 16).find? (fun g => decide (64 < (gs.take (g + 1)).foldl (fun t x => t + x.2.1) 0)) with
      | some g => [64 + 4 * g]
      | none => []
    else []
  let producers := gs.filter (fun g => decide (g.2.1 ≠ 0 ∧ g.2.2.1 = 1))
  let twoProducers := match producers with | _ :: x :: _ => [65 + 4 * x.1] | _ => []
  let levels := (List.range 5).flatMap (fun i =>
    let o := 128 + 8 * i
    if nlev ≤ i then zero o 8
    else
      let dom := n (o + 4) 1
      let sc := n (o + 5) 1
      bad (n o 4 == 0) o
        ++ bad (decide (2 < dom ∨ (0 < i ∧ dom < n (o - 4) 1))) (o + 4)
        ++ bad (decide (6 < sc ∨ sc < 3 + min dom 2)) (o + 5)
        ++ bad (decide (1 < n (o + 6) 1)) (o + 6) ++ zero (o + 7) 1)
  let deps := [168, 208].flatMap (fun o =>
    let kind := n (o + 4) 1
    bad (decide (3 < kind)) (o + 4) ++ zero (o + 5) 3 ++ zero (o + 20) 4
      ++ bad (decide (kind = 2 ∧ n (o + 24) 8 % 8 ≠ 0)) (o + 24) ++ zero (o + 32) 8)
  let all := bad (decide (n 0 3 % 4 ≠ 0)) 0 ++ bad (decide (n 8 8 % 2 ^ 14 ≠ 0 ∨ n 8 8 = 0)) 8 ++ bad (decide (n 16 8 % 256 ≠ 0)) 16
    ++ bad (decide (2 ^ 32 < recTotal r)) 24
    ++ bad (decide (n 36 4 % 1024 ≠ 0 ∨ 524288 < n 36 4)) 36 ++ bad (decide (n 40 4 % 4096 ≠ 0 ∨ 4194304 < n 40 4)) 40
    ++ bad (decide (5 < nlev)) 44
    ++ bad (decide ((n 45 1 ≠ 0 ∧ n 45 1 ≠ 3) ∨ (n 45 1 = 3 ∧ (nlev < 1 ∨ n 134 1 % 2 = 0 ∨ 511 < n 128 4)))) 45
    ++ bad (decide (32 ≤ n 46 1 ∨ ¬ (n 46 1 / 4 % 8 = 0 ∨ n 46 1 / 4 % 8 = 5 ∨ n 46 1 / 4 % 8 = 6))) 46
    ++ bad (decide (8 ≤ n 47 1 ∨ n 47 1 / 2 % 2 = 1 ∧ n 47 1 % 2 = 0)) 47
    ++ bad (decide (n 48 8 % 32 ≠ 0)) 48 ++ bad (decide (n 47 1 / 4 % 2 = 1 ∧ 64 ≤ n 56 2)) 56 ++ zero 58 6 ++ groupBad ++ overWide ++ twoProducers ++ levels ++ deps ++ zero 248 8
  all.foldl (fun o x => match o with | none => some x | some y => some (min x y)) none

/-- The footprint of a record's workgroups in lanes (R262). -/
def footprintOf (r : List Byte) : Nat :=
  let t := (recGroups r).foldl (fun n g => n + g.1) 0
  if t ≤ 8 then 8 else if t ≤ 16 then 16 else if t ≤ 32 then 32 else 64
/-- Whether a record declares a matrix or epilogue group (R27). -/
def recMatrix (r : List Byte) : Bool := (recGroups r).any (fun g => decide (2 ≤ g.2.1))
/-- Workgroups of a record that one core of a partition can hold at once. The root core has no matrix array (R17). -/
def perCore (root : Bool) (vaultq : Nat) (r : List Byte) : Nat :=
  let lanes := 16 * (64 / footprintOf r)
  let scratch := if recNat r 36 4 = 0 then lanes else 524288 / recNat r 36 4
  let vault := if recNat r 40 4 = 0 then lanes else (min vaultq 4194304) / recNat r 40 4
  let m := if recMatrix r then natOfBool (! root) else lanes
  min (min lanes scratch) (min vault m)

/-- Whether the entry quire of a record can have its frames on a core (R320): an entry that cannot be read, or is not valid,
asks for none. Log entry 61. -/
def State.entryRoom (s : State) (p c : Nat) (r : List Byte) : Bool :=
  match (s.quireEntryIn p c hubCore (recNat r 8 8) (recNat r 3 1) []).2.1 with
  | some e => decide (e.length / 4096 ≤ s.frameQuota p c)
  | none => true

/-- Whether n workgroups, cut into blocks of b with a short last one, can stand in `slots` places for whole blocks beside
`rest` for a short one. -/
def blocksFit (n b slots rest : Nat) : Bool :=
  decide (n / b < slots ∨ (n / b = slots ∧ (n % b = 0 ∨ n % b ≤ rest)))

/-- The workgroups that share an instance of a domain within a member of level i: the product of the outermost level up to i
with that domain, 1 where there is none (R309, R311). -/
def recBlock (r : List Byte) (i dom : Nat) : Nat :=
  match (List.range (i + 1)).reverse.find? (fun j => recNat r (132 + 8 * j) 1 == dom) with
  | some j => recLevel r j
  | none => 1

/-- Whether a partition whose cores were all free could hold n workgroups of a member of level i at once (R310, R320): its
clusters are all of one size, and a die holds whole die blocks of whole cluster blocks. Log entry 61. -/
def State.memberFits (s : State) (p : Nat) (r : List Byte) (each i n : Nat) : Bool :=
  let cs := s.coresOf p
  let inCluster := ((List.range 25).map (fun k => (cs.filter (fun c => clusterOf c == k)).length * each)).foldl max 0
  let b := recBlock r i 0
  let clusters (d : Nat) : Nat := ((cs.filter (fun c => dieOf c == d)).map clusterOf).eraseDups.length
  let db := max b (recBlock r i 1)
  let dies := (((List.range 5).map clusters).filter (· ≠ 0)).map (· * (inCluster / b))
  let whole := (dies.map (fun m => m / (db / b))).foldl (· + ·) 0
  decide (n / db < whole) || (decide (n / db = whole) &&
    (n % db == 0 || dies.any (fun m => blocksFit (n % db) b (m % (db / b)) (inCluster % b))))

/-- The first failing byte of a record for a context (R310). -/
def State.recordBad (s : State) (p c : Nat) (r : List Byte) : Option Nat :=
  let x := s.context p c
  let each := if s.entryRoom p c r then perCore (p == rootPart) (if p = rootPart then 4194304 else (s.part p).vaultq.toNat) r else 0
  let levels := (List.range 5).filterMap (fun i =>
    if recCo r i ∧ s.memberFits p r each i (min (recLevel r i) (recTotal r)) = false then some (128 + 8 * i) else none)
  let deps := [168, 208].filterMap (fun o =>
    if recNat r (o + 4) 1 ≠ 0 ∧ (x.queues.get (recNat r (o + 3) 1) Queue.reset).qsize = 0 then some o else none)
  let table := match x.qtable with | some t => if t = recNat r 8 8 then [] else [8] | none => []
  ((recordFault r).toList ++ levels ++ deps ++ table).foldl (fun o x => match o with
    | none => some x
    | some y => some (min x y)) none

end Sys2Proof.Machine
end

