-- ==== Sys2Proof/Machine/Sync.lean ====
section
/-!
DEFINITION. Synchronisation objects and asynchronous work: phase barriers (R198, R199), chunk maps (R202, R203), the
wakes they cause (R267), jobs and the order their footprints give them (R210), and how a job reports (R197, R374,
R375).
-/
namespace Sys2Proof.Machine
open Sys2Proof

/-! ### Waking threads parked by a unit (R266, R267) -/

/-- The quire that a park is on (R166). -/
def ParkKind.quire? (k : ParkKind) : Option Nat := match k with | .quire q => some q | _ => none

/-- A thread whose park's condition has been met, which learns what its wake acquires (R267, R279): it waits for the rest of its
set, unless its park ends thread by thread. -/
def Thread.meet (t : Thread) (past : Bool) (learn : ParkKind → View) (hit : ParkKind → Option Bool) : Thread :=
  match t.run with
  | .parked k set => (match hit k with
    | some h =>
      if k.together then { t.learn (learn k) with run := .parked (.met past h k.quire?) set }
      else (if past then (t.learn (learn k)).past else t.learn (learn k)).wake
    | none => t)
  | _ => t

/-- The threads of a workgroup whose park satisfies `hit` have their condition met: past their unit when `past`, at it
otherwise. Each set whose conditions all hold wakes (R267). -/
def State.endParksWith (s : State) (wid : Nat) (past : Bool) (learn : ParkKind → View) (hit : ParkKind → Option Bool) : State :=
  (s.modWg wid (·.mapThreads (·.meet past learn hit))).wakeWaits wid
/-- Parks ended by something that is no acquire. -/
def State.endParks (s : State) (wid : Nat) (past : Bool) (hit : ParkKind → Option Bool) : State :=
  s.endParksWith wid past (fun _ => []) hit

/-! ### Phase barriers (R198, R199) -/

/-- The words of a barrier: phase and pending, expected, status, errors. -/
def barrierBytes (phase : Bool) (pending expected status errors : Nat) : List Byte :=
  bytesOf (natOfBool phase * 2 ^ 31 + pending % 2 ^ 16) 4 ++ bytesOf (expected % 2 ^ 16) 4 ++ bytesOf status 4
    ++ bytesOf (errors % 2 ^ 16) 4

/-- An object's entry changed. -/
def Workgroup.setObj (w : Workgroup) (a : Nat) (o : Option Obj) : Workgroup :=
  { w with
    objects := match o with
      | none => w.objects.filter (fun x => x.1 ≠ a)
      | some y => w.objects.filter (fun x => x.1 ≠ a) ++ [(a, y)] }

/-- The phase bit, pending and expected counts, status and errors of a barrier. -/
def Workgroup.phaseBit (w : Workgroup) (a : Nat) : Bool := (w.scratchWord a).testBit 31
def Workgroup.pendingOf (w : Workgroup) (a : Nat) : Nat := w.scratchWord a % 2 ^ 16
def Workgroup.expectedOf (w : Workgroup) (a : Nat) : Nat := w.scratchWord (a + 4) % 2 ^ 16

/-- OVERARRIVE of the barrier unit (R199). -/
def overArrive : Nat := statusWord 0x05 0x3 0

/-- An arrival of `n` with a status word (R199): counted, and the phase flips when nothing is left. Whether it flipped. -/
def Workgroup.arrive (w : Workgroup) (a n status : Nat) : Workgroup × Bool :=
  match w.obj? a with
  | some (.barrier code errors waiters) =>
    if n = 0 then (w, false)
    else
      let c1 : Nat := if code = 0 ∧ statusCode status ≠ 0 then status else code.toNat
      let e1 := errors + natOfBool (statusCode status != 0)
      let p := w.pendingOf a
      let x := w.expectedOf a
      if p ≤ n then
        let c2 := if p < n ∧ c1 = 0 then overArrive else c1
        ((w.putObject a (barrierBytes (! w.phaseBit a) x x c2 e1)).setObj a (some (.barrier 0 0 0)), true)
      else
        ((w.putObject a (barrierBytes (w.phaseBit a) (p - n) x (w.scratchWord (a + 8)) (w.scratchWord (a + 12)))).setObj a
          (some (.barrier (BitVec.ofNat 32 c1) e1 waiters)), false)
  | _ => (w, false)

/-- An arrival applied, with the wake of every thread parked on the object when the phase flips: it acquires what the
arrivals of the phase have released (R199, R279). -/
def State.arrive (s : State) (wid a n status : Nat) : State :=
  match s.wg? wid with
  | none => s
  | some w =>
    let r := w.arrive a n status
    if r.2 then
      (s.modWg wid (fun _ => r.1.flipSync a)).endParksWith wid true (fun _ => (r.1.flipSync a).sync.get (syncKey a 1) [])
        (fun k => match k with | .phase o _ h => if o = a then some h else none | _ => none)
    else s.modWg wid (fun _ => r.1)

/-! ### Chunk maps (R202, R203) -/

/-- The bitmap, status and delivered count of a chunk map. -/
def Workgroup.bitmapOf (w : Workgroup) (a : Nat) : Nat := natOfBytes (w.readScratch a 8).1
def Workgroup.mapStatus (w : Workgroup) (a : Nat) : Nat := w.scratchWord (a + 8)
def Workgroup.delivered (w : Workgroup) (a : Nat) : Nat := w.scratchWord (a + 12)
/-- Whether a wait on a mask is over: every mask bit set, or a nonzero status code. -/
def Workgroup.mapDone (w : Workgroup) (a mask : Nat) : Bool :=
  decide (w.bitmapOf a &&& mask = mask) || decide (statusCode (w.mapStatus a) ≠ 0)

/-- Threads parked on a map whose wait is over, woken together (R203, R267). -/
def State.wakeMap (s : State) (wid a : Nat) : State :=
  match s.wg? wid with
  | none => s
  | some w => s.endParksWith wid true (fun k => match k with | .chunk _ m _ => w.mapSync a m | _ => []) (fun k => match k with
      | .chunk o m h => if o = a ∧ w.mapDone a m = true then some h else none
      | _ => none)

/-- Chunk i written: its bit set, then the delivered count (R208). -/
def State.setChunk (s : State) (wid a i : Nat) : State :=
  (s.modWg wid (fun w =>
    if w.isChunkMap a then
      w.putObject a (bytesOf (w.bitmapOf a ||| 2 ^ i) 8 ++ bytesOf (w.mapStatus a) 4 ++ bytesOf (w.delivered a + 1) 4)
    else w)).wakeMap wid a

/-- The first nonzero status word of a map (R202). -/
def State.setMapStatus (s : State) (wid a status : Nat) : State :=
  (s.modWg wid (fun w =>
    if w.isChunkMap a && decide (w.mapStatus a = 0) then
      w.putObject a (bytesOf (w.bitmapOf a) 8 ++ bytesOf status 4 ++ bytesOf (w.delivered a) 4)
    else w)).wakeMap wid a

/-! ### Jobs (R84, R204 to R211, R213, R229) -/

/-- The field of a command block. -/
def cmdNat (c : List Byte) (off n : Nat) : Nat := natOfBytes ((c.drop off).take n)
/-- The destination of a streamer command, and whether it is a vault address (R206). -/
def smDst (c : List Byte) : Nat := cmdNat c 8 4
def smVaultDst (c : List Byte) : Bool := (cmdNat c 57 1).testBit 5

/-- The scope at which the issue of work is a release (R205, R215, R231, R240, R297), the member scope of the vault-bound level
when a streamer job writes through a handle of that level; none where the issue is no release. -/
def State.issueScope (s : State) (w : Workgroup) (k : JobKind) : Option Nat :=
  match k with
  | .stream cmd _ _ _ =>
    if smVaultDst cmd && decide (2 ^ 23 ≤ smDst cmd) then
      some (((s.launch? w.part w.ctx w.queue w.count).map (fun l => l.nat 133 1)).getD 2)
    else some 2
  | .mlatb _ _ _ _ => some 2
  | .mma _ _ _ _ _ _ => some 2
  | .mstore _ _ _ _ _ => some 2
  | .gather _ _ _ _ => some 2
  | .forme _ _ _ _ => some 5
  | .launch _ _ _ => some 5
  | _ => none

/-- What the release of a group's issuing threads at a scope orders. -/
def LaneEnv.releases (e : LaneEnv) (m : Nat) : View :=
  e.issued.foldl (fun v i => match e.g.threads[i]? with
    | some t => v.join (t.released m)
    | none => v) []
/-- Those threads once they have released. -/
def State.releaseLanes (s : State) (e : LaneEnv) (m : Nat) : State :=
  e.issued.foldl (fun s i => s.modThread e.wg.wid e.gi i (·.release m)) s

/-- A piece of asynchronous work issued by a lane's thread: its number is the next one, and its issue releases what the
issuing threads had to see and have done, where it is a release (R205, R297). -/
def State.addJob (s : State) (e : LaneEnv) (k : JobKind) : State × Nat :=
  let m := s.issueScope e.wg k
  let s1 := match m with | some x => s.releaseLanes e x | none => s
  ({ s1 with
      nextId := s.nextId + 1
      jobs := s1.jobs ++ [{ id := s.nextId, part := e.wg.part, ctx := e.wg.ctx, core := e.wg.core, wid := e.wg.wid, gi := e.gi,
                            tis := e.issued, pc := s.issue.pc, kind := k,
                            view := match m with | some x => e.releases x | none => [], wrote := [], waited := false }] }, s.nextId)

/-- A job by its number. -/
def State.job? (s : State) (id : Nat) : Option Job := s.jobs.find? (fun j => j.id == id)
/-- A job changed. -/
def State.modJob (s : State) (id : Nat) (f : JobKind → JobKind) : State :=
  { s with jobs := s.jobs.map (fun j => if j.id = id then { j with kind := f j.kind } else j) }

/-- The completion object a job names: a scratch offset, and whether it is a chunk map. -/
def JobKind.object (k : JobKind) : Option (Nat × Bool) :=
  match k with
  | .stream cmd _ _ _ => some (cmdNat cmd 12 4, true)
  | .tierpf _ _ bar => bar.map (fun b => (b, false))
  | .mlatb _ bar _ _ => some (bar, false)
  | .mma _ _ _ _ bar _ => some (bar, false)
  | .mstore _ _ _ c0 _ => some (16 * bitsOf c0.toNat 18 4, false)
  | .forme _ _ _ bar => bar.map (fun b => (b, false))
  | .gather ctl _ _ _ => some (cmdNat ctl 12 4, true)
  | _ => none

/-- Whether a job in flight of a workgroup names an object (R201, R203). -/
def State.inFlight (s : State) (wid a : Nat) : Bool :=
  s.jobs.any (fun j => j.wid == wid && (match j.kind.object with | some o => o.1 == a | none => false))

/-- Jobs of the streamer, and of the matrix engine, on a core for a context (R205, R214). -/
def JobKind.isStream (k : JobKind) : Bool := match k with | .stream _ _ _ _ => true | _ => false
def JobKind.isMatrix (k : JobKind) : Bool :=
  match k with
  | .mlatb _ _ _ _ => true
  | .mma _ _ _ _ _ _ => true
  | .mzero _ _ => true
  | .mread _ _ _ _ _ _ => true
  | .mstore _ _ _ _ _ => true
  | .mstat _ => true
  | _ => false
def State.jobsOn (s : State) (core : Nat) (f : JobKind → Bool) : Nat :=
  (s.jobs.filter (fun j => j.core == core && f j.kind)).length

/-- Threads that wait for places in the streamer port or the matrix engine, or for arrivals in flight, offered again
when their condition holds (R201, R205, R214, R267). Log entry 27. -/
def State.wakePorts (s : State) (core : Nat) : State :=
  (s.wgs.filter (fun w => w.core == core)).foldl (fun s w =>
    s.endParks w.wid false (fun k => match k with
      | .port st need => if s.jobsOn core (if st then JobKind.isStream else JobKind.isMatrix) + need ≤ 16 then some false else none
      | .inFlight o => if s.inFlight w.wid o then none else some false
      | _ => none)) s

/-- A workgroup that has retired leaves when no work of its own is left (R210). Log entry 36. -/
def State.dropRetired (s : State) (wid : Nat) : State :=
  { s with wgs := s.wgs.filter (fun w => ! (w.wid == wid && w.retired && ! s.jobs.any (fun j => j.wid == wid))) }


/-- What the completion of a job orders (R297): what its issue followed, and what it has itself written. A tier prefetch's
arrival is no release (R211). -/
def Job.completes (j : Job) : View :=
  match j.kind with
  | .tierpf _ _ _ => []
  | _ => j.view.join j.wrote
/-- What has become of a job. -/
def State.jobNow (s : State) (j : Job) : Job := (s.job? j.id).getD j
/-- What the completion of a job orders is part of what its workgroup's bit gives, set already or not (R315). -/
def State.gaveWork (s : State) (j : Job) : State :=
  let v := (s.jobNow j).completes
  if v.isEmpty then s
  else match s.wg? j.wid with
    | some w =>
      let s1 := s.modWg j.wid (fun w => { w with work := w.work.join v })
      if w.retired then s1.gaveBit w.part w.ctx w.queue w.count w.wglin v else s1
    | none => s

/-- A job removed, with the wakes that follow. Log entry 27. -/
def State.endJob (s : State) (j : Job) : State :=
  let s1 := s.gaveWork j
  (({ s1 with jobs := s1.jobs.filter (fun x => x.id ≠ j.id) }.wakePorts j.core)).dropRetired j.wid

/-- What the distributor takes up of a report (R375): a nonzero status of a job whose workgroup has retired, or that
names no completion object. -/
def State.takeUp (s : State) (j : Job) (named : Bool) (status : Nat) : State :=
  match s.wg? j.wid with
  | none => s
  | some w => if statusCode status ≠ 0 ∧ (w.retired ∨ named = false) then s.asyncFailed w status j.pc.toNat else s

/-- The trace record of an engine's DONE (R385). -/
def State.traceDone (s : State) (j : Job) (agent status : Nat) : State :=
  match s.wg? j.wid with
  | none => s
  | some w => s.trace j.part j.ctx agent 0x02 j.core status w.handle w.wglin j.pc.toNat
/-- The trace record of an engine's ISSUE. -/
def State.traceIssue (s : State) (e : LaneEnv) (agent : Nat) : State :=
  s.trace e.wg.part e.wg.ctx agent 0x01 e.wg.core 0 e.wg.handle e.wg.wglin s.issue.pc.toNat

/-- What a job's completion orders is what a wake on part k of the object acquires. -/
def State.releaseJob (s : State) (j : Job) (a k : Nat) : State :=
  let v := (s.jobNow j).completes
  if v.isEmpty then s else s.modWg j.wid (·.joinSync a k v)

/-- What the issue of an engine's work has ordered is made certain before the engine's own stores (R289, R293). -/
def State.settleJob (s : State) (j : Job) : State :=
  match (s.wg? j.wid).bind (fun w => s.issueScope w j.kind) with
  | some m => if 5 ≤ m then s.withLedger (s.ledger.certain j.view true) else if m = 4 then s.withLedger (s.ledger.certain j.view false) else s
  | none => s
/-- What an engine has written of a workgroup's scratch and of the module's memories between two states. -/
def State.wroteFor (old s : State) (wid : Nat) : View :=
  match old.wg? wid, s.wg? wid with
  | some a, some b => (wroteSince old.stores s.stores).join ((wroteSince a.stores b.stores).map (fun x => (scratchKey wid x.1, x.2)))
  | _, _ => wroteSince old.stores s.stores
/-- The stores to the module's memories since a state are an agent's, and carry nothing of themselves (R297, R299). -/
def State.markBy (old s : State) (who : Agent) : State := { s with stores := markSince old.stores s.stores (Stored.by who) }
/-- A job's own record changed: it has to do with more stores. -/
def State.jobWrote (s : State) (j : Job) (v : View) : State :=
  { s with jobs := s.jobs.map (fun x => if x.id = j.id then { x with wrote := x.wrote.join v } else x) }
/-- What a job has written since a state is its engine's (R297, R299). -/
def State.wroteBy (old s : State) (j : Job) (who : Agent) : State := (old.markBy s who).jobWrote j (old.wroteFor s j.wid)
/-- A write of a job made, after what its issue has ordered. -/
def State.jobWrites (s : State) (j : Job) (who : Agent) (f : State → State) : State :=
  (s.settleJob j).wroteBy (f (s.settleJob j)) j who
/-- The agent that a job's engine is. -/
def Job.engine (j : Job) : Agent := Agent.engine j.core j.wid j.part j.ctx
/-- What a job has read: its die has applied what came from the others (R293), and its completion orders the stores that it read of
agents within the scope of its issue (R280). -/
def State.jobRead (s : State) (j : Job) (scope : Nat) (xs : List Sight) : State :=
  let s1 := s.reached j.engine.reader xs
  s1.jobWrote j ((xs.filter (fun x => decide (x.2.2.2.agent.shared j.engine ≤ scope))).foldl (fun v x => v.raise x.1 x.2.2.1)
    (s1.crossing j.engine.reader xs))

/-- A job that ends by one arrival on its barrier, or with no completion object (R197, R374, R375). -/
def State.finishJob (s0 : State) (j : Job) (agent : Nat) (status : Nat) : State :=
  let s := match j.kind.object with
    | some (a, isMap) => s0.releaseJob j a (natOfBool isMap)
    | none => s0
  let s1 := (s.traceDone j agent status).takeUp j j.kind.object.isSome status
  let s2 := match j.kind.object with
    | some (a, false) => s1.arrive j.wid a 1 status
    | _ => s1
  s2.endJob j

/-- A kind-4 record of an engine's failing address (R197, R362). -/
def State.logEngine (s : State) (j : Job) (addr cause : Nat) : State :=
  s.logRecord j.part j.ctx (addr % 2 ^ 64) cause 4 j.core 0 0

/-! ### Footprints (R210) -/

/-- Where a footprint lies: 0 global memory of a context, 1 the vaults, 2 + workgroup its scratch; and its interval. -/
structure Span where
  space : Nat
  lo : Nat
  len : Nat
  deriving DecidableEq, Repr

/-- Whether two spans meet. -/
def Span.meets (a b : Span) : Bool := a.space == b.space && rangesMeet a.lo a.len b.lo b.len
def spansMeet (as bs : List Span) : Bool := as.any (fun a => bs.any a.meets)

end Sys2Proof.Machine
end

