-- ==== Sys2Proof/Machine/Uniform.lean ====
section
/-!
DEFINITION. The uniform instructions: arithmetic on g registers (R153 to R155), constants (R156), system registers
(R39 to R44, R157), and the copies to shape entries and pattern tables (R158).
-/
namespace Sys2Proof.Machine
open Sys2Proof

/-! ### Acting once for a group (R153, R154) -/

/-- A word that computes g registers once for each group. -/
def uniformBody (f : State → LaneEnv → List (Nat × Word)) : Body := fun s es =>
  ((groupLanes es).foldl (fun t e => t.modGroup e.wg.wid e.gi (fun g => (f s e).foldl (fun g w => g.writeG w.1 w.2) g)) s, [])
/-- A uniform instruction of fixed latency. -/
def uniformUnit (i : Instr) (f : State → LaneEnv → List (Nat × Word)) (s : State) : State :=
  runUnit i false none noExtra (uniformBody f) s

/-- A body that acts for each group in ascending order, one state after another. -/
def groupBody (f : State → LaneEnv → List LaneEnv → State × List Fate) : Body := fun s es =>
  (groupLanes es).foldl (fun acc e =>
    let r := f acc.1 e (es.filter (fun x => x.gi == e.gi))
    (r.1, acc.2 ++ r.2)) (s, [])

/-- Every lane of a group given one verdict. -/
def allFate (ls : List LaneEnv) (v : Verdict) : List Fate := ls.map (fun e => { gi := e.gi, ti := e.ti, v := v })

/-- A g register of the group, and an aligned pair as a number. -/
def LaneEnv.greg (e : LaneEnv) (n : BitVec 5) : Word := e.reg (96 + n.toNat)
def LaneEnv.gpair (e : LaneEnv) (n : BitVec 5) : Nat := e.val (96 + n.toNat) 2

/-! ### Arithmetic (R155) -/

/-- A two-operand result, on words. -/
def uni3 (f : Word → Word → Word) (u : GR3) : State → LaneEnv → List (Nat × Word) := fun _ e =>
  [(u.d.toNat, f (e.greg u.a) (e.greg u.b))]
/-- A result of g[a] and the immediate. -/
def uniImm (f : Word → Word → Word) (u : GImm) : State → LaneEnv → List (Nat × Word) := fun _ e =>
  [(u.d.toNat, f (e.greg u.a) (u.imm13.signExtend 32))]
/-- A shift of g[a] by a count. -/
def uniShift (f : Nat → Nat → Nat → Nat) (a : Word) (c : Nat) : Word := BitVec.ofNat 32 (f 32 a.toNat c)
def uniSh (f : Nat → Nat → Nat → Nat) (u : GR3) : State → LaneEnv → List (Nat × Word) :=
  uni3 (fun a b => uniShift f a (b.toNat % 256)) u
def uniShImm (f : Nat → Nat → Nat → Nat) (u : GSh) : State → LaneEnv → List (Nat × Word) := fun _ e =>
  [(u.d.toNat, uniShift f (e.greg u.a) u.count.toNat)]
/-- floor(x × y / 2^32). -/
def mulHigh (sg : Bool) (x y : Word) : Word :=
  if sg then BitVec.ofInt 32 (x.toInt * y.toInt / 2 ^ 32) else BitVec.ofNat 32 (x.toNat * y.toNat / 2 ^ 32)
/-- min and max of words. -/
def minWord (sg : Bool) (x y : Word) : Word := if (if sg then decide (x.toInt ≤ y.toInt) else decide (x.toNat ≤ y.toNat)) then x else y
def maxWord (sg : Bool) (x y : Word) : Word := if (if sg then decide (x.toInt ≤ y.toInt) else decide (x.toNat ≤ y.toNat)) then y else x
/-- A uniform compare. -/
def uniCmp (sg : Bool) (u : GCmp) : State → LaneEnv → List (Nat × Word) := fun _ e =>
  let x := e.greg u.a
  let y := e.greg u.b
  let c := if sg then intCond u.cond.toNat x.toInt y.toInt else intCond u.cond.toNat x.toNat y.toNat
  [(u.d.toNat, if c then 1 else 0)]

/-- UADD. -/
def execUadd (u : GR3) (s : State) : Out := .next (uniformUnit (.uadd u) (uni3 (· + ·) u) s)
/-- USUB. -/
def execUsub (u : GR3) (s : State) : Out := .next (uniformUnit (.usub u) (uni3 (· - ·) u) s)
/-- UMUL. -/
def execUmul (u : GR3) (s : State) : Out := .next (uniformUnit (.umul u) (uni3 (· * ·) u) s)
/-- UMULH.I. -/
def execUmulhI (u : GR3) (s : State) : Out := .next (uniformUnit (.umulhI u) (uni3 (mulHigh true) u) s)
/-- UMULH.N. -/
def execUmulhN (u : GR3) (s : State) : Out := .next (uniformUnit (.umulhN u) (uni3 (mulHigh false) u) s)
/-- UAND. -/
def execUand (u : GR3) (s : State) : Out := .next (uniformUnit (.uand u) (uni3 (· &&& ·) u) s)
/-- UOR. -/
def execUor (u : GR3) (s : State) : Out := .next (uniformUnit (.uor u) (uni3 (· ||| ·) u) s)
/-- UXOR. -/
def execUxor (u : GR3) (s : State) : Out := .next (uniformUnit (.uxor u) (uni3 (· ^^^ ·) u) s)
/-- USHL. -/
def execUshl (u : GR3) (s : State) : Out := .next (uniformUnit (.ushl u) (uniSh shiftLeft u) s)
/-- USHR. -/
def execUshr (u : GR3) (s : State) : Out := .next (uniformUnit (.ushr u) (uniSh shiftRight u) s)
/-- USAR. -/
def execUsar (u : GR3) (s : State) : Out := .next (uniformUnit (.usar u) (uniSh shiftArith u) s)
/-- UMIN.I. -/
def execUminI (u : GR3) (s : State) : Out := .next (uniformUnit (.uminI u) (uni3 (minWord true) u) s)
/-- UMIN.N. -/
def execUminN (u : GR3) (s : State) : Out := .next (uniformUnit (.uminN u) (uni3 (minWord false) u) s)
/-- UMAX.I. -/
def execUmaxI (u : GR3) (s : State) : Out := .next (uniformUnit (.umaxI u) (uni3 (maxWord true) u) s)
/-- UMAX.N. -/
def execUmaxN (u : GR3) (s : State) : Out := .next (uniformUnit (.umaxN u) (uni3 (maxWord false) u) s)
/-- UMOV. -/
def execUmov (u : GR2) (s : State) : Out := .next (uniformUnit (.umov u) (fun _ e => [(u.d.toNat, e.greg u.a)]) s)
/-- USEL: a when g[d] ≠ 0, else b. -/
def execUsel (u : GR3) (s : State) : Out :=
  .next (uniformUnit (.usel u) (fun _ e => [(u.d.toNat, if e.greg u.d ≠ 0 then e.greg u.a else e.greg u.b)]) s)
/-- UCMP, signed. -/
def execUcmpI (u : GCmp) (s : State) : Out := .next (uniformUnit (.ucmpI u) (uniCmp true u) s)
/-- UCMP, unsigned. -/
def execUcmpN (u : GCmp) (s : State) : Out := .next (uniformUnit (.ucmpN u) (uniCmp false u) s)
/-- UADD of an immediate. -/
def execUaddImm (u : GImm) (s : State) : Out := .next (uniformUnit (.uaddImm u) (uniImm (· + ·) u) s)
/-- UAND with an immediate. -/
def execUandImm (u : GImm) (s : State) : Out := .next (uniformUnit (.uandImm u) (uniImm (· &&& ·) u) s)
/-- UOR with an immediate. -/
def execUorImm (u : GImm) (s : State) : Out := .next (uniformUnit (.uorImm u) (uniImm (· ||| ·) u) s)
/-- UXOR with an immediate. -/
def execUxorImm (u : GImm) (s : State) : Out := .next (uniformUnit (.uxorImm u) (uniImm (· ^^^ ·) u) s)
/-- USHL by an immediate. -/
def execUshlImm (u : GSh) (s : State) : Out := .next (uniformUnit (.ushlImm u) (uniShImm shiftLeft u) s)
/-- USHR by an immediate. -/
def execUshrImm (u : GSh) (s : State) : Out := .next (uniformUnit (.ushrImm u) (uniShImm shiftRight u) s)
/-- USAR by an immediate. -/
def execUsarImm (u : GSh) (s : State) : Out := .next (uniformUnit (.usarImm u) (uniShImm shiftArith u) s)
/-- UMOVI. -/
def execUmovi (u : GMovi) (s : State) : Out := .next (uniformUnit (.umovi u) (fun _ _ => [(u.d.toNat, u.imm13.signExtend 32)]) s)

/-! ### Constants (R156) -/

/-- Recoverable faults of a group's own read of n bytes: every failing page has its record, kind 3, and the group's issuing
threads park (R158, R362). -/
def State.groupFault (s : State) (e : LaneEnv) (ls : List LaneEnv) (addr n : Nat) : State × List Fate :=
  (s, allFate ls (.miss 3 (s.failing e.wg.part e.wg.ctx e.wg.core 0 (pageRuns addr n (n / 2 ^ 14 + 2)))))

/-- ULDC of one group: of a word modified during the launch the newest value. Log entry 90. -/
def uldcGroup (u : GImm) (s : State) (e : LaneEnv) (ls : List LaneEnv) : State × List Fate :=
  let o := 4 * u.imm13.toNat + (e.greg u.a).toNat
  let va := e.wg.consts + o
  if o % 4 ≠ 0 then (s, allFate ls (.trap (alignTrap 0x5 (va % 2 ^ 64))))
  else
    match s.translate e.wg.part e.wg.ctx e.wg.core va 0 with
    | (s1, .fault _) => s1.groupFault e ls va 4
    | (s1, .page g) =>
      let r := s1.readPage g va 4
      ((s1.touchPage g va).addGPending e.wg.wid e.gi
        [Pending.now s.nextId (96 + u.d.toNat) (BitVec.ofNat 32 (natOfBytes r.1)) r.2 s.issue.pc (va % 2 ^ 64)], [])

/-- ULDC (R156), V class. -/
def execUldc (u : GImm) (s : State) : Out := .next (runUnit (.uldc u) false none noExtra (groupBody (uldcGroup u)) s)

/-! ### System registers (R39 to R44, R157) -/

/-- The value of a system register for a group, as its workgroup has it (R41, R42). -/
def sysValue (s : State) (e : LaneEnv) (idx : Nat) : Nat :=
  let w := e.wg
  match idx with
  | 0x00 => e.g.lanebase % 64
  | 0x01 => e.g.width % 128
  | 0x02 => e.gi % 16
  | 0x03 => e.g.role % 4
  | 0x04 => e.g.budget % 128
  | 0x05 => e.g.tbase % 1024
  | 0x06 => w.slot % 16
  | 0x08 => w.wglin % 2 ^ 32
  | 0x09 => w.wgx % 2 ^ 32
  | 0x0A => w.wgy % 2 ^ 32
  | 0x0B => w.wgz % 2 ^ 32
  | 0x0C => w.levels % 16
  | 0x10 => ((w.lvl[0]?).getD 0) % 2 ^ 32
  | 0x11 => ((w.lvl[1]?).getD 0) % 2 ^ 32
  | 0x12 => ((w.lvl[2]?).getD 0) % 2 ^ 32
  | 0x13 => ((w.lvl[3]?).getD 0) % 2 ^ 32
  | 0x14 => ((w.lvl[4]?).getD 0) % 2 ^ 32
  | 0x20 => w.core % 256
  | 0x21 => clusterOf w.core % 32
  | 0x22 => dieOf w.core % 4
  | 0x23 => w.ctx % 2 ^ 16
  | 0x24 => w.part % 8
  | 0x25 => natOfBool (s.context w.part w.ctx).strict
  | 0x28 => pcQuire s.issue.pc
  | 0x30 => e.g.trapvec.toNat
  | 0x31 => e.g.trapcause.toNat
  | 0x32 => e.g.trappc.toNat
  | 0x33 => e.g.traplane.toNat
  | 0x34 => e.g.trapaddr.toNat
  | 0x36 => e.g.trapinfo.toNat
  | 0x38 => e.g.spill.toNat
  | 0x3A => e.g.seed.toNat
  | _ => 0

/-- The value of a system register for a group: what a saved image has given it, where it has (R42). -/
def sysRead (s : State) (e : LaneEnv) (idx : Nat) : Nat :=
  match (e.g.sys.find? (fun x => x.1 == idx)).map (·.2) with
  | some v => v.toNat
  | none => sysValue s e idx

/-- RDSYS: the register's value as it stands at issue, in g[d] or the pair. -/
def execRdsys (u : GRd) (s : State) : Out :=
  .next (uniformUnit (.rdsys u) (fun t e => splitWords u.d.toNat (sysGroup u.idx.toNat) (sysRead t e u.idx.toNat)) s)

/-- The first byte of a spill area that R40 refuses. -/
def spillBad (w : Workgroup) (gi width value : Nat) : Option Nat :=
  let len := 256 * width
  let past := if w.scratchSize < value + len then [max value w.scratchSize] else []
  let objs := w.objects.filterMap (fun o => if rangesMeet value len o.1 16 then some (max value o.1) else none)
  let areas := w.groups.zipIdx.filterMap (fun g =>
    if g.2 = gi then none
    else match g.1.spillArea with
      | some r => if rangesMeet value len r.1 r.2 then some (max value r.1) else none
      | none => none)
  (past ++ objs ++ areas).foldl (fun o x => match o with | none => some x | some y => some (min x y)) none

/-- Whether a thread of the group has a spilled return entry (R36). -/
def Group.spilled (g : Group) : Bool := g.threads.any (fun t => t.run ≠ .exited && decide (t.stack.length < t.depth))

/-- WRSYS of one group: only sys.trapvec, sys.spill and sys.seed are written; R40 stands before R39 (R40). The groups of a packed
set reserve their areas one after another. Log entry 82. -/
def wrsysGroup (u : GWr) (s : State) (e : LaneEnv) (ls : List LaneEnv) : State × List Fate :=
  let x := e.greg u.a
  match u.idx.toNat with
  | 0x30 => (s.modGroup e.wg.wid e.gi (fun g => { g with trapvec := x }), [])
  | 0x38 =>
    let value := bitsOf x.toNat 18 8 * 256
    match (if value = 0 then none else spillBad ((s.wg? e.wg.wid).getD e.wg) e.gi e.g.width value) with
    | some b => (s, allFate ls (.trap (alignTrap 0xE b)))
    | none =>
      if e.g.spilled then (s, allFate ls (.trap { cause := 0x04, info := 0x2, addr := 0 }))
      else (s.modGroup e.wg.wid e.gi (fun g => { g with spill := BitVec.ofNat 32 value }), [])
  | 0x3A =>
    (s.modGroup e.wg.wid e.gi (fun g =>
      { g with seed := BitVec.ofNat 64 (e.gpair u.a), threads := g.threads.map (fun t => { t with stream := 0 }) }), [])
  | _ => (s, [])

/-- WRSYS (R157). -/
def execWrsys (u : GWr) (s : State) : Out := .next (runUnit (.wrsys u) false none noExtra (groupBody (wrsysGroup u)) s)

/-! ### Shape entries and pattern tables (R158, R159) -/

/-- A copy of `n` bytes of the constant block started by one group: `what` 0 a shape entry, 1 a pattern table.
Log entry 72. -/
def copyGroup (what index n : Nat) (a : BitVec 5) (s : State) (e : LaneEnv) (ls : List LaneEnv) : State × List Fate :=
  let o := (e.greg a).toNat
  let va := e.wg.consts + o
  if o % 8 ≠ 0 then (s, allFate ls (.trap (alignTrap 0x5 0)))
  else
    match s.readVirt e.wg.part e.wg.ctx e.wg.core va n with
    | (s1, .fault _ _) => s1.groupFault e ls va n
    | (s1, .bytes _ (some x)) => (s1, allFate ls (.trap { cause := 0x0A, info := s.issue.pc.toNat, addr := x % 2 ^ 64 }))
    | (s1, .bytes bs none) => ((s1.addJob e (.copy what index bs)).1, [])

/-- TSHAPE. -/
def execTshape (u : GShape) (s : State) : Out :=
  .next (runUnit (.tshape u) false none noExtra (groupBody (copyGroup 0 u.entry.toNat 96 u.a)) s)
/-- XPLD. -/
def execXpld (u : GXpld) (s : State) : Out :=
  .next (runUnit (.xpld u) false none noExtra (groupBody (copyGroup 1 u.table.toNat 256 u.a)) s)

end Sys2Proof.Machine
end

