-- ==== Sys2Proof/Machine/SyncUnits.lean ====
section
/-!
DEFINITION. Fences (R196), phase barriers (R198 to R201), chunk maps (R202, R203, R302), and tier prefetch (R211).
-/
namespace Sys2Proof.Machine
open Sys2Proof

/-- The workgroup of a lane as it stands now. -/
def State.wgOf (s : State) (e : LaneEnv) : Workgroup := (s.wg? e.wg.wid).getD e.wg
/-- A g register written for a lane's group. -/
def State.setG (s : State) (e : LaneEnv) (d : BitVec 5) (x : Nat) : State :=
  s.modGroup e.wg.wid e.gi (·.writeG d.toNat (BitVec.ofNat 32 x))
/-- A V-class result of a lane's group. -/
def State.laterG (s : State) (e : LaneEnv) (d : BitVec 5) (x : Nat) : State :=
  s.addGPending e.wg.wid e.gi [Pending.now s.nextId (96 + d.toNat) (BitVec.ofNat 32 x) false s.issue.pc 0]

/-- What a fence does to one thread (R91, R196, R279, R284): kind 1 .ACQ, 2 .REL, 3 .AR; a .THR fence adds nothing. -/
def Thread.fence (t : Thread) (kind scope : Nat) : Thread :=
  if scope = 0 then t
  else
    let t1 := if kind = 2 then t else t.acquire scope
    let t2 := if kind = 1 then t1 else t1.release scope
    if kind = 3 ∧ 3 ≤ scope then t2.align else t2

/-- The fence of each thread of the issue set (R196). -/
def fenceBody (kind scope : Nat) : Body := fun s es => (es.foldl (fun s e => s.modLane e (·.fence kind scope)) s, [])

/-- FENCE (R196). Log entry 1. -/
def execFence (u : GFence) (s : State) : Out := .next (runUnit (.fence u) false none noExtra (fenceBody u.kind.toNat u.scope.toNat) s)

/-! ### Registering (R199, R201, R203) -/

/-- The slots of a context on a core that registered objects take (R198). -/
def State.slotsTaken (s : State) (w : Workgroup) : Nat :=
  (s.wgs.filter (fun x => x.part == w.part && x.ctx == w.ctx && x.core == w.core && ! x.retired)).foldl
    (fun n x => n + x.objects.length) 0

/-- Threads parked on an object stand at their unit again (R201). -/
def State.unpark (s : State) (wid a : Nat) : State :=
  s.endParks wid false (fun k => match k with
    | .phase o _ _ => if o = a then some false else none
    | .chunk o _ _ => if o = a then some false else none
    | _ => none)

/-- A name that ends beyond scratch or is misaligned (R200). Log entry 40. -/
def Workgroup.badObject (w : Workgroup) (a : Nat) : Bool := a % 16 ≠ 0 || decide (w.scratchSize < a + 16)

/-- BARINIT (`isMap` false) and CMINIT of one group. Log entry 72. -/
def initGroup (isMap : Bool) (u : GR3) (s : State) (e : LaneEnv) (ls : List LaneEnv) : State × List Fate :=
  let w := s.wgOf e
  let a := (e.greg u.a).toNat
  let n := (e.greg u.b).toNat
  let other := if isMap then w.isBarrier a else w.isChunkMap a
  if w.badObject a || other || decide ((if isMap then 1 else 65535) < n) then (s, allFate ls (.trap (alignTrap 0x9 a)))
  else if w.inSpill a 16 then
    (s, allFate ls (.trap (alignTrap 0x1 a)))
  else if s.inFlight w.wid a then (s, allFate ls (.park (.inFlight a)))
  else
    let known := (w.obj? a).isSome
    if n = 0 then
      if known then (((s.modWg w.wid (·.setObj a none)).unpark w.wid a).setG e u.d 2, []) else (s.setG e u.d 3, [])
    else if ! known && decide (64 ≤ s.slotsTaken w) then (s.setG e u.d 1, [])
    else
      let bs := if isMap then List.replicate 16 0 else barrierBytes false n n 0 0
      (((s.modWg w.wid (fun w =>
        ((w.putObject a bs).clearSync a).setObj a (some (if isMap then .chunkMap else .barrier 0 0 0)))).unpark w.wid a).setG e u.d 0, [])

/-- BARINIT (R199). -/
def execBarinit (u : GR3) (s : State) : Out := .next (runUnit (.barinit u) false none noExtra (groupBody (initGroup false u)) s)
/-- CMINIT (R203). -/
def execCminit (u : GR3) (s : State) : Out := .next (runUnit (.cminit u) false none noExtra (groupBody (initGroup true u)) s)

/-! ### Using an object (R199, R200, R203, R302) -/

/-- A body of one group that needs a registered object of one kind at the offset in g[a]. -/
def withObject (isMap : Bool) (a : BitVec 5) (f : Nat → State → LaneEnv → List LaneEnv → State × List Fate)
    (s : State) (e : LaneEnv) (ls : List LaneEnv) : State × List Fate :=
  let o := (e.greg a).toNat
  let w := s.wgOf e
  if w.badObject o || ! (if isMap then w.isChunkMap o else w.isBarrier o) then (s, allFate ls (.trap (alignTrap 0x9 o)))
  else f o s e ls

/-- ARRIVE: the phase bit before the arrival goes to g[d]; the arrival releases at .wg what its threads have done (R199,
R287). A count of 0 changes nothing, so no wake acquires it (log entry 1). -/
def arriveGroup (u : GR3) (o : Nat) (s : State) (e : LaneEnv) (ls : List LaneEnv) : State × List Fate :=
  let before := natOfBool ((s.wgOf e).phaseBit o)
  let n := (e.greg u.b).toNat
  let v := ls.foldl (fun (v : View) x => v.join (x.t.released 2)) []
  ((((ls.foldl (fun s x => s.modLane x (·.release 2)) s).modWg e.wg.wid (fun w => if n = 0 then w else w.joinSync o 0 v)).arrive
    e.wg.wid o n 0).setG e u.d before, [])

/-- The threads of a unit learn what a wait that is over acquires (R199, R203, R279). -/
def State.learnAll (s : State) (v : View) (ls : List LaneEnv) : State := ls.foldl (fun s x => s.modLane x (·.learn v)) s

/-- WAITPH: parks, with the group's waiter bit set, while the phase bit equals the observed parity. -/
def waitphGroup (u : GAB) (o : Nat) (s : State) (e : LaneEnv) (ls : List LaneEnv) : State × List Fate :=
  let w := s.wgOf e
  if w.phaseBit o ≠ (e.greg u.b).getLsbD 0 then (s.learnAll (w.sync.get (syncKey o 1) []) ls, [])
  else
    let s1 := s.modWg w.wid (fun w => match w.obj? o with
      | some (.barrier c n ws) => w.setObj o (some (.barrier c n (ws ||| BitVec.ofNat 16 (2 ^ e.gi))))
      | _ => w)
    (s1, allFate ls (.park (.phase o (w.phaseBit o) u.h)))

/-- TESTPH. -/
def testphGroup (u : GR2) (o : Nat) (s : State) (e : LaneEnv) (_ : List LaneEnv) : State × List Fate :=
  (s.laterG e u.d ((s.wgOf e).scratchWord o), [])

/-- CMWAIT: parks until every mask bit is set or the status code is nonzero; a zero mask never parks. -/
def cmwaitGroup (u : GAB) (o : Nat) (s : State) (e : LaneEnv) (ls : List LaneEnv) : State × List Fate :=
  let mask := e.gpair u.b
  if (s.wgOf e).mapDone o mask then (s.learnAll ((s.wgOf e).mapSync o mask) ls, []) else (s, allFate ls (.park (.chunk o mask u.h)))

/-- CMTEST: 2 for a nonzero code, 1 when every mask bit is set, else 0. -/
def cmtestGroup (u : GR3) (o : Nat) (s : State) (e : LaneEnv) (_ : List LaneEnv) : State × List Fate :=
  let w := s.wgOf e
  let mask := e.gpair u.b
  (s.laterG e u.d (if statusCode (w.mapStatus o) ≠ 0 then 2 else if w.bitmapOf o &&& mask = mask then 1 else 0), [])

/-- ARRIVE (R199). -/
def execArrive (u : GR3) (s : State) : Out :=
  .next (runUnit (.arrive u) false none noExtra (groupBody (withObject false u.a (arriveGroup u))) s)
/-- WAITPH (R199). -/
def execWaitph (u : GAB) (s : State) : Out :=
  .next (runUnit (.waitph u) false none noExtra (groupBody (withObject false u.a (waitphGroup u))) s)
/-- TESTPH (R199), V class. -/
def execTestph (u : GR2) (s : State) : Out :=
  .next (runUnit (.testph u) false none noExtra (groupBody (withObject false u.a (testphGroup u))) s)
/-- CMWAIT (R203). -/
def execCmwait (u : GAB) (s : State) : Out :=
  .next (runUnit (.cmwait u) false none noExtra (groupBody (withObject true u.a (cmwaitGroup u))) s)
/-- CMTEST (R203), V class. -/
def execCmtest (u : GR3) (s : State) : Out :=
  .next (runUnit (.cmtest u) false none noExtra (groupBody (withObject true u.a (cmtestGroup u))) s)

/-! ### Tier prefetch (R211) -/

/-- TIERPF of one group: a barrier named by g[d], or none for g0. Log entry 71. -/
def tierpfGroup (u : GR3) (s : State) (e : LaneEnv) (ls : List LaneEnv) : State × List Fate :=
  let bar := (e.greg u.d).toNat
  let w := s.wgOf e
  if u.d ≠ 0 ∧ (w.badObject bar || ! w.isBarrier bar) = true then (s, allFate ls (.trap (alignTrap 0x9 bar)))
  else ((s.traceIssue e 2).addJob e (.tierpf (e.gpair u.a) (e.greg u.b).toNat (if u.d = 0 then none else some bar)) |>.1, [])

/-- TIERPF. -/
def execTierpf (u : GR3) (s : State) : Out := .next (runUnit (.tierpf u) false none noExtra (groupBody (tierpfGroup u)) s)

/-- A TIERPF job of its page range at its end (R211, R390): every page translated first, or NOTMAPPED with the address
logged; the blocks of peer-mode stacks that the pages hold in the tier move into HBM. It arrives when every page is in
place: a block that finds no room waits (R390). Log entry 25. -/
def State.tierpfEnd (s : State) (j : Job) (base len : Nat) : State :=
  if len = 0 then s.finishJob j 2 0
  else
    let runs := pageRuns base len (len / 2 ^ 14 + 2)
    let t := if 2 ^ 58 < base + len then (s, [], some (1, base)) else s.translateRuns j.part j.ctx j.core 0 runs
    match t.2.2 with
    | some (k, x) => (t.1.logEngine j x k).finishJob j 2 (statusWord 0x01 0x2 0)
    | none =>
      let named := t.2.1.filterMap (fun q => if q.2.2.host then none else some (q.2.2.phys q.1 / 2 ^ 14))
      let hints := t.2.1.foldl (fun s q => if q.2.2.host then s else s.hintBlock (q.2.2.phys q.1 / 2 ^ 14) q.2.2.hint) t.1
      let s1 := named.foldl (fun s b => s.prefetchBlock named b) hints
      if named.any s1.prefetches then s1 else s1.finishJob j 2 0

end Sys2Proof.Machine
end

