-- ==== Sys2Proof/Machine/Streamer.lean ====
section
/-!
DEFINITION. The tile streamer (R204 to R210, R303, R376): the command, its checks, the elements a job reads, converts
and writes, and the two events of a job.
-/
namespace Sys2Proof.Machine
open Sys2Proof

/-! ### The command (R206) -/

/-- The fields of a command block (R206); a vault source is bits [31:0] of src. -/
def smMap (c : List Byte) : Nat := cmdNat c 12 4
def smOrg (c : List Byte) (i : Nat) : Int := sext (cmdNat c (16 + 4 * i) 4) 32
def smStride (c : List Byte) (i : Nat) : Nat := if i = 0 then 1 else cmdNat c (32 + 4 * i) 4
def smBox (c : List Byte) (i : Nat) : Nat := cmdNat c (52 + i) 1 + 1
def smVaultSrc (c : List Byte) : Bool := (cmdNat c 57 1).testBit 4
def smFrom (c : List Byte) : Nat := cmdNat c 58 1 % 16
def smTo (c : List Byte) : Nat := cmdNat c 58 1 / 16
def smXpose (c : List Byte) : Bool := (cmdNat c 59 1).testBit 0
def smSat (c : List Byte) : Bool := (cmdNat c 59 1).testBit 1
def smRound (c : List Byte) : Nat := cmdNat c 59 1 / 4 % 8
def smSrc (c : List Byte) : Nat := cmdNat c 0 (if smVaultSrc c then 4 else 8)
def smScale (c : List Byte) : Nat := cmdNat c 60 4

/-- Whether a source format is one of the streamer's. -/
def smFromOk (c : List Byte) : Bool := decide (smFrom c < 6 ∨ (8 ≤ smFrom c ∧ smFrom c < 14))
/-- The source element size in bytes; 1 for a format outside the set, where R209 gives none. Log entry 89. -/
def smZs (c : List Byte) : Nat := if smFromOk c then dstBits (smFrom c) / 8 else 1
/-- The block format of a DX destination. -/
def smDx (c : List Byte) : Option Dx := if smTo c = 6 then some .dx8 else if smTo c = 7 then some .dx4 else none
/-- Elements and bytes of one unit of the destination: an element, or a block of 32. -/
def smUnit (c : List Byte) : Nat × Nat :=
  match smDx c with | some x => (32, x.len) | none => (1, dstBits (smTo c) / 8)
/-- The elements of the box, and the destination's length L in whole bytes (R207). -/
def smCount (c : List Byte) : Nat := (List.range 5).foldl (fun n i => n * smBox c i) 1
def smLen (c : List Byte) : Nat := (smCount c * (smUnit c).2 + ((smUnit c).1 - 1)) / (smUnit c).1
/-- The number of chunks (R208). -/
def smChunks (c : List Byte) : Nat := (smLen c + 511) / 512

/-- The extent of dimension i in a shape entry (R142). -/
def extentOf (shape : List Byte) (i : Nat) : Nat := cmdNat shape (8 + 16 * i) 4

/-- The coordinates of element lin of the destination (R207). -/
def smCoords (c : List Byte) (lin : Nat) : List Int :=
  let b := smBox c
  let inner := lin % (b 0 * b 1)
  let rest := lin / (b 0 * b 1)
  let j0 := if smXpose c then inner / b 1 else inner % b 0
  let j1 := if smXpose c then inner % b 1 else inner / b 0
  [smOrg c 0 + j0, smOrg c 1 + j1, smOrg c 2 + (rest % b 2 : Nat), smOrg c 3 + (rest / b 2 % b 3 : Nat),
    smOrg c 4 + (rest / (b 2 * b 3) : Nat)]

/-- Whether coordinates lie in the tensor (R207). -/
def smInside (shape : List Byte) (cs : List Int) : Bool :=
  cs.zipIdx.all (fun x => decide (0 ≤ x.1 ∧ x.1 < (extentOf shape x.2 : Int)))
/-- The place of an element in its source, from src (R207). -/
def smOffset (c : List Byte) (cs : List Int) : Nat :=
  smZs c * (cs.zipIdx.foldl (fun n x => n + smStride c x.2 * x.1.toNat) 0)

/-- The lowest and highest in-range coordinates; none when no element is in range. Log entry 71. -/
def smRange (c shape : List Byte) : Option (List Int × List Int) :=
  let lo := (List.range 5).map (fun i => max 0 (smOrg c i))
  let hi := (List.range 5).map (fun i => min (extentOf shape i : Int) (smOrg c i + (smBox c i : Int)) - 1)
  if (List.zip lo hi).all (fun x => decide (x.1 ≤ x.2)) then some (lo, hi) else none

/-- The read footprint of R210 as an address and a length; none when nothing is read. -/
def smFootprint (c shape : List Byte) : Option (Nat × Nat) :=
  (smRange c shape).map (fun r => (smSrc c + smOffset c r.1, smOffset c r.2 + smZs c - smOffset c r.1))

/-! ### The checks (R209) -/

/-- Whether R183 refuses n bytes at a vault address of a workgroup, alignment apart. Log entry 41. -/
def Workgroup.vaultRefuses (w : Workgroup) (a n : Nat) : Bool :=
  (w.vaultHome (a / 2 ^ 23)).isNone || decide (w.vaultSize < a % 2 ^ 23 + n)

/-- The offsets of the fields that fail check 1. Log entry 41. -/
def smDecode (w : Workgroup) (c shape : List Byte) : List Nat :=
  let bad (b : Bool) (o : Nat) : List Nat := if b then [o] else []
  let b0 := smBox c 0
  let high := if smVaultSrc c then ((List.range 4).filter (fun i => cmdNat c (4 + i) 1 ≠ 0)).map (4 + ·) else []
  let foot := (smFootprint c shape).getD (smSrc c, 1)
  high ++ bad (decide (cmdNat c 57 1 / 64 ≠ 0)) 57 ++ bad (decide (cmdNat c 59 1 / 32 ≠ 0)) 59
    ++ bad (! smVaultSrc c && decide (2 ^ 58 ≤ smSrc c)) 0 ++ bad (smSrc c % smZs c ≠ 0) 0
    ++ bad (smVaultSrc c && (w.vaultRefuses (smSrc c) 1 || (foot.1 / 2 ^ 23 != smSrc c / 2 ^ 23) || w.vaultRefuses foot.1 foot.2)) 0
    ++ bad (smDst c % 16 ≠ 0) 8
    ++ bad (if smVaultDst c then w.vaultRefuses (smDst c) (smLen c) else decide (w.scratchSize < smDst c + smLen c)) 8
    ++ (match smDx c with
        | some _ => if smXpose c then bad (smBox c 1 % 32 ≠ 0) 53 else bad (b0 % 32 ≠ 0) 52
        | none => [])
    ++ bad (decide (32768 < smLen c)) 52 ++ bad (cmdNat shape 0 1 = 0) 57
    ++ bad (! smFromOk c) 58 ++ bad (decide (8 ≤ smFrom c ∧ (smTo c = 6 ∨ smTo c = 7))) 58 ++ bad (decide (4 < smRound c)) 59

/-- The lowest of a list of offsets. -/
def lowest (xs : List Nat) : Option Nat :=
  xs.foldl (fun o x => match o with | none => some x | some y => some (min x y)) none

/-! ### Conversion (R207) -/

/-- The exact value that a source element enters a product or a block with. -/
def smValue (f x : Nat) : FVal :=
  if f < 6 then (cvtFmt f).value x else .ofInt (readInt (f % 2 == 0) x (intBits (f - 8)))

/-- A source element, scaled, as a real number; +0 outside the tensor. -/
def smReal (c : List Byte) (x : Option Nat) : FVal :=
  match x with
  | none => .fin false 0 1
  | some y =>
    let v := smValue (smFrom c) y
    if smScale c = 0x3F800000 then v else fMul 0 v (fp32.value (smScale c))

/-- A source element as a destination element that is no block's (R66). -/
def smConvert (c : List Byte) (x : Option Nat) : Nat :=
  match x with
  | some y =>
    if smScale c = 0x3F800000 ∧ 8 ≤ smFrom c ∧ 8 ≤ smTo c then intToInt (smFrom c - 8) (smTo c - 8) (smSat c) y
    else toDst (smTo c) (smRound c) (smSat c) 0 (smReal c x)
  | none => toDst (smTo c) (smRound c) (smSat c) 0 (smReal c x)

/-! ### Reading and writing -/

/-- A source element's bytes as a job finds them that must see what its issue followed, with the address of a poisoned one:
from the vaults, or from the pages translated (R205, R297), in either after what the engines of its core have written for its
context (R210, R298). Log entry 1. -/
def State.smRead (s : State) (w : Workgroup) (view : View) (c : List Byte) (pages : List (Nat × Nat × Page)) (off : Nat) : Nat × Option Nat :=
  let a := smSrc c + off
  let n := smZs c
  if smVaultSrc c then
    match w.vaultHome (a / 2 ^ 23) with
    | none => (0, none)
    | some h =>
      let k := vaultKey h.1 (h.2 + a % 2 ^ 23)
      (natOfBytes (s.readVaultAs (Agent.engine w.core w.wid w.part w.ctx) k n view (400000 + off)),
        if (List.range n).any (fun i => s.vaultPoison.get ((k + i) / 16) false) then some a else none)
  else
    match pages.find? (fun q => decide (q.1 ≤ a ∧ a < q.1 + q.2.1)) with
    | none => (0, none)
    | some q =>
      let r := s.readPageAs (Agent.engine w.core w.wid w.part w.ctx) q.2.2 a n view (400000 + off)
      (natOfBytes r.1, if r.2 then some a else none)

/-- One unit of the destination: its bytes, and the address of a poisoned source. -/
def State.smUnitBytes (s : State) (w : Workgroup) (view : View) (c shape : List Byte) (pages : List (Nat × Nat × Page)) (u : Nat) :
    List Byte × Option Nat :=
  let one (lin : Nat) : Option Nat × Option Nat :=
    let cs := smCoords c lin
    if smInside shape cs then
      let r := s.smRead w view c pages (smOffset c cs)
      (some r.1, r.2)
    else (none, none)
  match smDx c with
  | some x =>
    let es := (List.range 32).map (fun i => one (32 * u + i))
    (x.bytes (x.encode (smRound c) (smSat c) (es.map (fun e => smReal c e.1)) []), es.findSome? (·.2))
  | none =>
    let e := one u
    (bytesOf (smConvert c e.1) (smUnit c).2, e.2)

/-- Chunk i of a job: the bytes [512i, 512i + 511] of the destination clipped to L, and the address of a poisoned
source (R208). -/
def State.smChunk (s : State) (w : Workgroup) (view : View) (c shape : List Byte) (pages : List (Nat × Nat × Page)) (i : Nat) :
    List Byte × Option Nat :=
  let ub := (smUnit c).2
  let lo := 512 * i
  let hi := min (512 * i + 512) (smLen c)
  let us := (List.range ((hi - 1) / ub + 1 - lo / ub)).map (fun k => s.smUnitBytes w view c shape pages (lo / ub + k))
  (((us.flatMap (·.1)).drop (lo - lo / ub * ub)).take (hi - lo), us.findSome? (·.2))

/-- A STORE_POISONED record of an engine's partial write (R369, R372). -/
def State.logEnginePoison (s : State) (w : Workgroup) (pc : Word) (a : Nat) : State :=
  s.logRecord w.part w.ctx a 0x10 5 w.core pc.toNat (256 * w.slot)

/-- Bytes that an engine writes to a workgroup's scratch: each granule becomes full in the same event (R189). -/
def State.engineScratch (s : State) (wid : Nat) (pc : Word) (a : Nat) (bs : List Byte) (view : View) : State :=
  match s.wg? wid with
  | none => s
  | some w =>
    let r := w.engineWrite (cellsAt a bs) view
    (r.2.foldl (fun s g => s.logEnginePoison w pc (16 * g)) (s.modWg wid (fun _ => r.1))).wakeFull wid

/-- Bytes that an engine writes to a vault. -/
def State.engineVault (s : State) (w : Workgroup) (pc : Word) (a : Nat) (bs : List Byte) : State :=
  match w.vaultHome (a / 2 ^ 23) with
  | none => s
  | some h =>
    let r := s.writeVaultCells (cellsAt (vaultKey h.1 (h.2 + a % 2 ^ 23)) bs)
    r.2.foldl (fun s g => s.logEnginePoison w pc (a + (16 * g - vaultKey h.1 (h.2 + a % 2 ^ 23)))) r.1

/-- A streamer job ends (R209, R374 to R376): a nonzero status goes to its map. -/
def State.endStream (s : State) (j : Job) (cmd : List Byte) (status : Nat) : State :=
  (((s.releaseJob j (smMap cmd) 1).traceDone j 1 status).takeUp j true status |>.setMapStatus j.wid (smMap cmd) status).endJob j

/-! ### Issue (R204, R205, R303) -/

/-- The offset of the object at fault among n command blocks from `base` on (R183, R205). -/
def smBadBlock (w : Workgroup) (base : Nat) : (n : Nat) → Option Nat
  | 0 => none
  | n + 1 =>
    let at_ := cmdNat ((w.readScratch base 64).1) 12 4
    if base % 64 ≠ 0 ∨ w.scratchSize < base + 64 then some base
    else if ! w.isChunkMap at_ then some at_ else smBadBlock w (base + 64) n

/-- STRM and STRMQ of one group: n jobs; poison in a command block counts for nothing. Log entries 72 and 89. -/
def strmGroup (base n : Nat) (s : State) (e : LaneEnv) (ls : List LaneEnv) : State × List Fate :=
  let w := s.wgOf e
  if 16 < n then (s, allFate ls (.trap (alignTrap 0x9 0)))
  else
    match smBadBlock w base n with
    | some o => (s, allFate ls (.trap (alignTrap 0x9 o)))
    | none =>
      if 16 < s.jobsOn w.core JobKind.isStream + n then (s, allFate ls (.park (.port true n)))
      else
        ((List.range n).foldl (fun s k =>
          let cmd := (w.readScratch (base + 64 * k) 64).1
          let shape := SMap.read e.g.shapes (96 * (cmdNat cmd 57 1 % 16)) 96 0
          ((s.traceIssue e 1).addJob e (.stream cmd shape none [])).1) s, [])

/-- STRM. -/
def execStrm (u : GA) (s : State) : Out :=
  .next (runUnit (.strm u) false none noExtra (groupBody (fun s e ls => strmGroup (e.greg u.a).toNat 1 s e ls)) s)
/-- STRMQ. Log entry 72. -/
def execStrmq (u : GAB) (s : State) : Out :=
  .next (runUnit (.strmq u) false none noExtra
    (groupBody (fun s e ls => strmGroup (e.greg u.a).toNat (e.greg u.b).toNat s e ls)) s)

/-! ### The events of a job -/

/-- The block and hint of every 128-byte segment that reading n bytes at an address of the translated pages meets, each counted
as one request (R187, R389). -/
def State.touchSegments (s : State) (pages : List (Nat × Nat × Page)) (offs : List Nat) : State :=
  ((offs.map (· / 128)).eraseDups).foldl (fun s g =>
    match offs.find? (fun a => a / 128 == g) with
    | none => s
    | some a => match pages.find? (fun q => decide (q.1 ≤ a ∧ a < q.1 + q.2.1)) with
      | some q => s.touchPage q.2.2 a
      | none => s) s

/-- The addresses of the source elements that chunk i reads. -/
def smAddrs (c shape : List Byte) (i : Nat) : List Nat :=
  let u := smUnit c
  let hi := min (512 * i + 512) (smLen c)
  let first := 512 * i / u.2 * u.1
  let last := ((hi - 1) / u.2 + 1) * u.1
  ((List.range (last - first)).map (fun k => smCoords c (first + k))).filterMap (fun cs =>
    if smInside shape cs then some (smSrc c + smOffset c cs) else none)

/-- What chunk i of a job reads, byte by byte (R297). -/
def State.smSights (s : State) (w : Workgroup) (view : View) (c shape : List Byte) (pages : List (Nat × Nat × Page)) (i : Nat) : List Sight :=
  (smAddrs c shape i).flatMap (fun a =>
    let who := Agent.engine w.core w.wid w.part w.ctx
    if smVaultSrc c then
      match w.vaultHome (a / 2 ^ 23) with
      | none => []
      | some h => s.vaultSights who (vaultKey h.1 (h.2 + a % 2 ^ 23)) (smZs c) view (400000 + (a - smSrc c))
    else
      match pages.find? (fun q => decide (q.1 ≤ a ∧ a < q.1 + q.2.1)) with
      | some q => if q.2.2.host then [] else s.sights who q.2.2 a (smZs c) view (400000 + (a - smSrc c))
      | none => [])

/-- The checks of a job (R209): at the first that fails it ends with nothing written. Log entry 71. -/
def State.streamCheck (s : State) (j : Job) (cmd shape : List Byte) : State :=
  match s.wg? j.wid with
  | none => s.endJob j
  | some w =>
    match lowest (smDecode w cmd shape) with
    | some o => s.endStream j cmd (statusWord 0x02 0x1 o)
    | none =>
      let foot := if smVaultSrc cmd then none else smFootprint cmd shape
      let t : State × List (Nat × Nat × Page) × Option (Nat × Nat) := match foot with
        | none => (s, [], none)
        | some f =>
          if 2 ^ 58 < f.1 + f.2 then (s, [], some (1, 2 ^ 58 - 1))
          else s.translateRuns j.part j.ctx j.core 0 (pageRuns f.1 f.2 (f.2 / 2 ^ 14 + 2))
      match t.2.2 with
      | some (k, a) => (t.1.logEngine j a k).endStream j cmd (statusWord 0x01 0x1 0)
      | none =>
        if ! smVaultDst cmd && (w.protectedCode (smDst cmd) (smLen cmd)).isSome then t.1.endStream j cmd (statusWord 0x03 0x1 0)
        else t.1.modJob j.id (fun _ => .stream cmd shape (some t.2.1) [])

/-- One chunk written (R208), its bytes, its bit and the delivered count in one step, or the job's early end at a source that
reads poisoned (R376). Log entry 89. -/
def State.streamChunk (s : State) (j : Job) (cmd shape : List Byte) (pages : List (Nat × Nat × Page)) (done : List Nat) (i : Nat) : State :=
  match s.wg? j.wid with
  | none => s.endJob j
  | some w =>
    match s.smChunk w j.view cmd shape pages i with
    | (_, some a) => (s.logEngine j a 6).endStream j cmd (statusWord 0x04 0x1 i)
    | (bs, none) =>
      let s0 := if smVaultSrc cmd then s else s.touchSegments pages (smAddrs cmd shape i)
      let s1 := (s0.jobRead j ((s.issueScope w j.kind).getD 2) (s.smSights w j.view cmd shape pages i)).jobWrites j j.engine (fun s =>
        if smVaultDst cmd then s.engineVault w j.pc (smDst cmd + 512 * i) bs else s.engineScratch j.wid j.pc (smDst cmd + 512 * i) bs j.view)
      let s2 := (s1.releaseJob j (smMap cmd) (2 + i)).setChunk j.wid (smMap cmd) i
      if smChunks cmd ≤ done.length + 1 then s2.endStream j cmd 0
      else s2.modJob j.id (fun _ => .stream cmd shape (some pages) (done ++ [i]))

end Sys2Proof.Machine
end

