-- ==== Sys2Proof/Machine/Matrix.lean ====
section
/-!
DEFINITION. The matrix engine (R212 to R228): its six instructions, the order of operations on tiles and planes, and
what each operation does when it acts (R54, R56, R69, R70).
-/
namespace Sys2Proof.Machine
open Sys2Proof

/-! ### Operand rows (R216, R217) -/

/-- Element width, integer or float, elements and bytes of a row. -/
def mmWidth (f : Nat) : Nat := match f with | 4 => 4 | 5 => 4 | 6 => 16 | 7 => 16 | _ => 8
def mmInteger (f : Nat) : Bool := f == 3 || f == 5
def mmCount (f : Nat) : Nat := match f with | 4 => 768 | 5 => 768 | 6 => 192 | 7 => 192 | _ => 384
def mmRow (f : Nat) : Nat := match f with | 2 => 408 | 4 => 432 | _ => 384

/-- The elements of a row as exact values (R216). -/
def mmValues (f : Nat) (bs : List Byte) : List FVal :=
  let byte (i : Nat) : Nat := ((bs[i]?).getD 0).toNat
  (List.range (mmCount f)).map (fun k =>
    match f with
    | 0 => e4m3.value (byte k)
    | 1 => e5m2.value (byte k)
    | 2 => Dx.dx8.read (bs.drop (34 * (k / 32))) (k % 32)
    | 4 => Dx.dx4.read (bs.drop (18 * (k / 32))) (k % 32)
    | 6 => bf16.value (byte (2 * k) + 256 * byte (2 * k + 1))
    | _ => fp16.value (byte (2 * k) + 256 * byte (2 * k + 1)))
/-- The elements of an integer row (R52). -/
def mmInts (f : Nat) (bs : List Byte) : List Int :=
  let byte (i : Nat) : Nat := ((bs[i]?).getD 0).toNat
  (List.range (mmCount f)).map (fun k => if f = 5 then sext (byte (k / 2) / 16 ^ (k % 2)) 4 else sext (byte k) 8)

/-! ### One step (R69, R70) -/

/-- The scale on which every A96F value and every product is an integer. -/
def mmScale : Nat := 2 ^ 16600
/-- A finite value on that scale. -/
def FVal.onScale (v : FVal) : Int :=
  match v with | .fin s n d => (if s then -1 else 1) * ((n * (mmScale / d) : Nat) : Int) | _ => 0
/-- A number on that scale as an A96F pattern; a zero is +0 (R69). -/
def mmPattern (x : Int) : Nat :=
  let p := a96f.round 0 false 0 (.fin (decide (x < 0)) x.natAbs mmScale)
  if p % 2 ^ 95 = 0 then 0 else p

/-- A float step (R69): the special cases, then a value of the device's choice within the bound. Log entry 8. -/
def mmFloatStep (draw key : Nat) (c : BitVec 96) (ts : List FVal) : BitVec 96 :=
  let cv := a96f.value c.toNat
  let all := cv :: ts
  let infs := (all.filter FVal.isInf).map FVal.sign
  BitVec.ofNat 96 (
    if all.any FVal.isNan || (infs.any id && infs.any not) then a96f.round 0 false 0 .canonNan
    else match infs with
      | s :: _ => a96f.infinite s false
      | [] =>
        let exact := all.foldl (fun n v => n + v.onScale) 0
        let total := all.foldl (fun n v => n + v.onScale.natAbs) 0
        let cand := Config.mmaSum draw key
        let p := mmPattern cand
        let got := (a96f.value p)
        let near (x : Int) : Bool := decide ((x - exact).natAbs * 2 ^ 79 ≤ total)
        if (got.isInf && near cand) || (! got.isInf && near got.onScale) then p else mmPattern exact)

/-- An integer step (R56, R70): exact, modulo 2^96. -/
def mmIntStep (c : BitVec 96) (xs ys : List Int) : BitVec 96 :=
  c + BitVec.ofInt 96 ((List.zipWith (· * ·) xs ys).foldl (· + ·) 0)

/-! ### Order and places (R213, R214) -/

/-- The tile an operation names; the plane it reads, and the plane it writes. -/
def JobKind.tile (k : JobKind) : Option Nat :=
  match k with
  | .mma _ t _ _ _ _ => some t
  | .mzero t _ => some t
  | .mread _ t _ _ _ _ => some t
  | .mstore t _ _ _ _ => some t
  | .mstat t => some t
  | _ => none
def JobKind.planeRead (k : JobKind) : Option Nat := match k with | .mma _ _ p _ _ _ => some p | _ => none
def JobKind.planeWrite (k : JobKind) : Option Nat := match k with | .mlatb _ _ _ p => some p | _ => none

/-- Whether two options name the same thing. -/
def sameName (a b : Option Nat) : Bool := a.isSome && a == b
/-- Whether a later operation waits for an earlier one on a tile or plane (R213). -/
def JobKind.after (later earlier : JobKind) : Bool :=
  sameName later.tile earlier.tile || sameName later.planeRead earlier.planeWrite
    || sameName later.planeWrite earlier.planeRead || sameName later.planeWrite earlier.planeWrite

/-- The jobs of the same context and core issued before one. -/
def State.before (s : State) (j : Job) : List Job :=
  s.jobs.filter (fun k => decide (k.id < j.id) && k.part == j.part && k.ctx == j.ctx && k.core == j.core)

/-- A tile cleared (R218). -/
def State.clearTile (s : State) (p c core t : Nat) (integer : Bool) : State :=
  s.modResident p c core (fun r => { r with tiles := r.tiles.modify t (fun _ => { Tile.reset with integer := integer }) })

/-- Every MZERO whose earlier operations on the tile have acted is applied (R213). -/
def State.settleZeros (s : State) : (fuel : Nat) → State
  | 0 => s
  | n + 1 =>
    match s.jobs.find? (fun j => match j.kind with
      | .mzero _ _ => ! (s.before j).any (fun k => j.kind.after k.kind)
      | _ => false) with
    | none => s
    | some j =>
      match j.kind with
      | .mzero t i => State.settleZeros ((s.clearTile j.part j.ctx j.core t i).endJob j) n
      | _ => s

/-- An operation of the matrix engine ends by its arrival (R215). -/
def State.endMatrix (s : State) (j : Job) (status : Nat) : State :=
  let s1 := s.finishJob j 4 status
  s1.settleZeros (s1.jobs.length + 1)

/-- A body that needs one place of the engine (R214). Log entry 43. -/
def needPlace (f : State → LaneEnv → List LaneEnv → State × List Fate) (s : State) (e : LaneEnv) (ls : List LaneEnv) :
    State × List Fate :=
  if 16 < s.jobsOn e.wg.core JobKind.isMatrix + 1 then (s, allFate ls (.park (.port false 1))) else f s e ls

/-- A tile and a plane as they stand. -/
def State.tile (s : State) (p c core t : Nat) : Tile := ((s.resident p c core).tiles[t]?).getD Tile.reset
def State.plane (s : State) (p c core t : Nat) : Plane := ((s.resident p c core).planes[t]?).getD Plane.reset

/-- The mode a tile has once every operation issued so far has acted. -/
def State.tileMode (s : State) (e : LaneEnv) (t : Nat) : Bool :=
  match ((s.jobs.filter (fun j => j.part == e.wg.part && j.ctx == e.wg.ctx && j.core == e.wg.core)).filterMap (fun j =>
    match j.kind with | .mzero u i => if u = t then some i else none | _ => none)).getLast? with
  | some i => i
  | none => (s.tile e.wg.part e.wg.ctx e.wg.core t).integer

/-! ### MZERO, MLATB, MMA (R218 to R221) -/

/-- MZERO of one group. -/
def mzeroGroup (u : GMzero) (s : State) (e : LaneEnv) (_ : List LaneEnv) : State × List Fate :=
  let s1 := (s.addJob e (.mzero u.tile.toNat (u.mode == 1))).1
  (s1.settleZeros (s1.jobs.length + 1), [])
/-- MZERO. -/
def execMzero (u : GMzero) (s : State) : Out := .next (runUnit (.mzero u) false none noExtra (groupBody (needPlace (mzeroGroup u))) s)

/-- The ALIGNMENT of an engine's scratch range at issue (R219, R221, R225); it stands before that of the barrier. Log entry 89. -/
def engineBad (w : Workgroup) (a n : Nat) : Option Trap :=
  if a % 16 ≠ 0 then some (alignTrap 0x6 a) else if w.scratchSize < a + n then some (alignTrap 0x7 a) else none

/-- MLATB of one group: a bad image offset before the barrier (R219). Log entry 89. -/
def mlatbGroup (u : GMlatb) (s : State) (e : LaneEnv) (ls : List LaneEnv) : State × List Fate :=
  let w := s.wgOf e
  let a := (e.greg u.a).toNat
  let bar := (e.greg u.b).toNat
  match engineBad w a (64 * mmRow u.fmt.toNat) with
  | some t => (s, allFate ls (.trap t))
  | none =>
    if ! w.isBarrier bar then (s, allFate ls (.trap (alignTrap 0x9 bar)))
    else needPlace (fun s e _ => (((s.traceIssue e 4).addJob e (.mlatb a bar u.fmt.toNat u.plane.toNat)).1, [])) s e ls
/-- MLATB. -/
def execMlatb (u : GMlatb) (s : State) : Out := .next (runUnit (.mlatb u) false none noExtra (groupBody (mlatbGroup u)) s)

/-- The detail of an operation (R227): the lowest row that an error reached, if any, and the errors corrected. -/
def mmDetail (row : Option Nat) (corrected : Nat) : Nat :=
  (match row with | some r => r * 2 ^ 14 + 2 ^ 13 | none => 0) + min corrected 8191

/-- MLATB acts (R219): the image becomes the plane, or marks it bad when it reads poisoned. Log entry 10. -/
def State.mlatbAct (s : State) (j : Job) (image fmt plane : Nat) : State :=
  match s.wg? j.wid with
  | none => s.endJob j
  | some w =>
    let r := w.readScratch image (64 * mmRow fmt)
    let set (f : Plane → Plane) : State := s.modResident j.part j.ctx j.core (fun x => { x with planes := x.planes.modify plane f })
    if r.2 then
      ((set (fun p => { p with bad := true })).logEngine j ((w.firstPoison image (64 * mmRow fmt)).getD 0) 6).endMatrix j (statusWord 0x04 0x4 0)
    else (set (fun _ => { fmt := fmt, bytes := SMap.write [] 0 r.1 0, bad := false })).endMatrix j
      (statusWord 0 0x4 (mmDetail none (Config.corrected s.draws j.id)))

/-- MMA of one group: every thread's row is checked, then the barrier (R221). Log entry 89. -/
def mmaGroup (u : LMma) (s : State) (e : LaneEnv) (ls : List LaneEnv) : State × List Fate :=
  let w := s.wgOf e
  let f := u.t.toNat
  let rows := (byLane ls).map (fun x => (x.ti, (x.reg u.a.toNat).toNat))
  let ctl := (e.reg u.d.toNat).toNat
  let bar := 16 * bitsOf ctl 18 4
  match rows.findSome? (fun r => engineBad w r.2 (mmRow f)) with
  | some t => (s, allFate ls (.trap t))
  | none =>
    if ! w.isBarrier bar then (s, allFate ls (.trap (alignTrap 0x9 bar)))
    else needPlace (fun s e _ =>
      (((s.traceIssue e 4).addJob e (.mma f u.tile.toNat u.plane.toNat (ctl % 8) bar rows)).1, [])) s e ls
/-- MMA. -/
def execMma (u : LMma) (s : State) : Out := .next (runUnit (.mma u) false none noExtra (groupBody (mmaGroup u)) s)

/-- The tile row of a thread (R221). -/
def mmTileRow (rb i : Nat) : Nat := 8 * ((rb + i / 8) % 8) + i % 8

/-- One row's step on all 64 columns of a tile. Log entry 8. -/
def Tile.step (t : Tile) (draw key row fmt : Nat) (bs : List Byte) (p : Plane) : Tile :=
  let col (n : Nat) : List Byte := SMap.read p.bytes (n * mmRow p.fmt) (mmRow p.fmt) 0
  let av := if t.integer then [] else mmValues fmt bs
  let ai := if t.integer then mmInts fmt bs else []
  { t with
    elems := (List.range 64).foldl (fun m n =>
      let c := SMap.get m (64 * row + n) 0
      let x := if t.integer then mmIntStep c ai (mmInts p.fmt (col n))
        else mmFloatStep draw (64 * key + n) c (List.zipWith mulVal av (mmValues p.fmt (col n)))
      SMap.set m (64 * row + n) x 0) t.elems }

/-- Corrections added to a tile's record (R226, R227). -/
def Tile.correct (t : Tile) (n : Nat) : Tile := { t with corrected := min (t.corrected + min n 8191) 65535 }

/-- MMA acts (R217, R221, R227, R228): the rows that an error reaches keep their elements. UNCORRECTABLE stands before POISONED.
Log entries 10, 42 and 89. -/
def State.mmaAct (s : State) (j : Job) (fmt tile plane rb : Nat) (rows : List (Nat × Nat)) : State :=
  match s.wg? j.wid with
  | none => s.endJob j
  | some w =>
    let t := s.tile j.part j.ctx j.core tile
    let p := s.plane j.part j.ctx j.core plane
    let low (xs : List (Nat × Nat)) : Nat := ((lowest (xs.map (fun r => mmTileRow rb r.1))).getD 0)
    if mmWidth fmt ≠ mmWidth p.fmt ∨ mmInteger fmt ≠ mmInteger p.fmt then s.endMatrix j (statusWord 0x11 0x4 0)
    else if mmInteger fmt ≠ t.integer then s.endMatrix j (statusWord 0x10 0x4 0)
    else
      let lost (r : Nat × Nat) : Bool := p.bad || Config.parity s.draws (mmTileRow rb r.1)
      let bad := rows.filter (fun r => lost r || (w.readScratch r.2 (mmRow fmt)).2)
      let n := Config.corrected s.draws j.id
      let t1 := (rows.filter (fun r => ! (lost r || (w.readScratch r.2 (mmRow fmt)).2))).foldl (fun t r =>
        t.step s.draws (64 * j.id + r.1) (mmTileRow rb r.1) fmt (w.readScratch r.2 (mmRow fmt)).1 p) t
      let s1 := s.modResident j.part j.ctx j.core (fun x => { x with tiles := x.tiles.modify tile (fun _ => t1.correct n) })
      (match rows.findSome? (fun (r : Nat × Nat) => w.firstPoison r.2 (mmRow fmt)) with | some a => s1.logEngine j a 6 | none => s1).endMatrix j
        (if bad.isEmpty then statusWord 0 0x4 (mmDetail none n)
          else statusWord (if rows.any lost then 0x12 else 0x04) 0x4 (mmDetail (some (low bad)) n))

/-! ### MREAD, MSTORE, MSTAT (R223 to R226) -/

/-- Elements, bits and float format of an MREAD type (R79, R223). -/
def mrCount (ty : Nat) : Nat := match ty with | 1 => 2 | 2 => 2 | 3 => 4 | 4 => 4 | 6 => 4 | _ => 1
def mrBits (ty : Nat) : Nat := match ty with | 1 => 16 | 2 => 16 | 3 => 8 | 4 => 8 | 6 => 8 | 7 => 64 | _ => 32
def mrInteger (ty : Nat) : Bool := ty == 5 || ty == 6
def mrFmt (ty : Nat) : Fmt := match ty with | 1 => bf16 | 2 => fp16 | 3 => e4m3 | 4 => e5m2 | 7 => fp64 | _ => fp32

/-- One element converted under a scale exponent (R223). -/
def mrConvert (integer : Bool) (x : BitVec 96) (ty : Nat) (k : Int) (mode : Nat) (sat : Bool) (r : Nat) : Nat :=
  if integer && mrInteger ty && decide (k = 0) then fitInt (mrBits ty) true sat x.toInt
  else
    let v := scaleVal (if integer then .ofInt x.toInt else a96f.value x.toNat) k
    if mrInteger ty then toInteger (mrBits ty) true mode r v else (mrFmt ty).round mode sat r v

/-- What MREAD gives a participant: the number for d and whether an element is poisoned. -/
def Tile.read (t : Tile) (ty mode : Nat) (sat : Bool) (sel : Word) (draws : List Nat) : Nat × Bool :=
  let row := bitsOf sel.toNat 13 8
  let n := mrCount ty
  let c0 := bitsOf sel.toNat 5 0 / n * n
  let k := sext (bitsOf sel.toNat 23 16) 8
  let one (i : Nat) : Nat := mrConvert t.integer (SMap.get t.elems (64 * row + c0 + i) 0) ty k mode sat ((draws[i]?).getD 0)
  (packElems (mrBits ty) ((List.range n).map one),
    (List.range n).any (fun i => SMap.get t.poison (64 * row + c0 + i) false))

/-- The draws that MREAD takes in a lane: one for each element that a rounding code converts (R223). -/
def mreadDraws (s : State) (u : LMread) (x : LaneEnv) : Nat :=
  if s.tileMode x u.tile.toNat && mrInteger u.t.toNat && decide (bitsOf (x.reg u.a.toNat).toNat 23 16 = 0) then 0
  else x.drawn (mrCount u.t.toNat)

/-- MREAD of one group: an operation of the engine whose results are outstanding. A g destination takes nothing (R33). -/
def mreadGroup (u : LMread) (z : Bool) (s : State) (e : LaneEnv) (ls : List LaneEnv) : State × List Fate :=
  let ty := u.t.toNat
  let size := if ty = 7 then 2 else 1
  let ps := ls.filter LaneEnv.takes
  if ps.isEmpty then (zeroRest z u.d.toNat size s ls, [])
  else
    needPlace (fun s e ls =>
      let id := s.nextId
      let rows := ps.map (fun x => (x.ti, x.reg u.a.toNat, (List.range (mreadDraws s u x)).map x.draw))
      let s1 := if 96 ≤ u.d.toNat then s else (s.addJob e (.mread u.d.toNat u.tile.toNat ty e.mode e.sat rows)).1
      let s2 := ps.foldl (fun t x =>
        (t.addPending x.wg.wid x.gi x.ti (((List.range size).map (fun i =>
          Pending.later id (u.d.toNat + i) t.issue.pc id)).filter (fun p => p.reg < 96))).modThread x.wg.wid x.gi x.ti
            (fun h => { h with stream := (h.stream + mreadDraws s u x) % 2 ^ 64 })) s1
      (zeroRest z u.d.toNat size s2 ls, [])) s e ls
/-- MREAD. Log entry 43. -/
def execMread (u : LMread) (s : State) : Out :=
  .next (runUnit (.mread u) false none noExtra (groupBody (mreadGroup u (shapeOf (.mread u)).zero)) s)

/-- Results of a job made known: a thread's, and a group's, the latter with the address of a poisoned read (R370). -/
def State.supply (s : State) (j : Job) (ti reg : Nat) (x : Word) (poison : Bool) : State :=
  s.modThread j.wid j.gi ti (fun t =>
    { t with pending := t.pending.map (fun p =>
        if p.job = j.id ∧ p.reg = reg then { p with known := true, value := x, poison := poison } else p) })
def State.supplyG (s : State) (j : Job) (reg : Nat) (x : Word) (poison : Option Nat) : State :=
  s.modGroup j.wid j.gi (fun g =>
    { g with gPending := g.gPending.map (fun p =>
        if p.job = j.id ∧ p.reg = reg then { p with known := true, value := x, poison := poison.isSome, addr := poison.getD 0 } else p) })

/-- MREAD acts. -/
def State.mreadAct (s : State) (j : Job) (d tile ty mode : Nat) (sat : Bool) (rows : List (Nat × Word × List Nat)) : State :=
  let t := s.tile j.part j.ctx j.core tile
  let s1 := rows.foldl (fun s r =>
    let x := t.read ty mode sat r.2.1 r.2.2
    (splitWords d (if ty = 7 then 2 else 1) x.1).foldl (fun s w => s.supply j r.1 w.1 w.2 x.2) s) s
  let s2 := s1.endJob j
  s2.settleZeros (s2.jobs.length + 1)

/-- The length of a row that MSTORE writes (R225); for blk = 3, where the spec gives none, the type's row. Log entry 89. -/
def msRow (ty : Nat) (c1 : Word) : Nat :=
  match bitsOf c1.toNat 25 24 with | 1 => 68 | 2 => 36 | _ => 8 * mrBits ty
/-- L (R225). -/
def msLen (ty : Nat) (c1 : Word) : Nat := (bitsOf c1.toNat 13 8 + 1) * msRow ty c1

/-- MSTORE of one group: a bad destination before the barrier (R225). Log entry 89. -/
def mstoreGroup (u : GMstore) (s : State) (e : LaneEnv) (ls : List LaneEnv) : State × List Fate :=
  let w := s.wgOf e
  let a := (e.greg u.a).toNat
  let c := e.gpair u.b
  let c0 : Word := BitVec.ofNat 32 c
  let c1 : Word := BitVec.ofNat 32 (c / 2 ^ 32)
  let bar := 16 * bitsOf c0.toNat 18 4
  match engineBad w a (msLen u.ty.toNat c1) with
  | some t => (s, allFate ls (.trap t))
  | none =>
    if ! w.isBarrier bar then (s, allFate ls (.trap (alignTrap 0x9 bar)))
    else needPlace (fun s e _ => (((s.traceIssue e 4).addJob e (.mstore u.tile.toNat u.ty.toNat a c0 c1)).1, [])) s e ls
/-- MSTORE. -/
def execMstore (u : GMstore) (s : State) : Out := .next (runUnit (.mstore u) false none noExtra (groupBody (mstoreGroup u)) s)

/-- One tile row as MSTORE writes it. -/
def Tile.storeRow (t : Tile) (row ty : Nat) (c0 c1 : Word) : List Byte :=
  let mode := bitsOf c0.toNat 2 0
  let sat := c0.getLsbD 3
  let k := sext (bitsOf c1.toNat 23 16) 8
  let one (n : Nat) : Nat := mrConvert t.integer (SMap.get t.elems (64 * row + n) 0) ty k mode sat 0
  match bitsOf c1.toNat 25 24 with
  | 0 => (List.range 64).flatMap (fun n => bytesOf (one n) (mrBits ty / 8))
  | b =>
    let x : Dx := if b = 1 then .dx8 else .dx4
    [0, 32].flatMap (fun o => x.bytes (x.encode mode sat ((List.range 32).map (fun n => fp32.value (one (o + n)))) []))

/-- MSTORE acts (R225): rows in ascending order up to the first that holds a poisoned element. Log entry 42. -/
def State.mstoreAct (s : State) (j : Job) (tile ty dst : Nat) (c0 c1 : Word) : State :=
  match s.wg? j.wid with
  | none => s.endJob j
  | some w =>
    let t := s.tile j.part j.ctx j.core tile
    let first := bitsOf c1.toNat 5 0
    let cnt := bitsOf c1.toNat 13 8
    let blk := bitsOf c1.toNat 25 24
    if 4 < bitsOf c0.toNat 2 0 ∨ 63 < first + cnt ∨ blk = 3 ∨ (blk ≠ 0 ∧ ty ≠ 0) then s.endMatrix j (statusWord 0x02 0x4 0)
    else if (w.protectedCode dst (msLen ty c1)).isSome then s.endMatrix j (statusWord 0x03 0x4 0)
    else
      let rows := (List.range (cnt + 1)).map (first + ·)
      let good := rows.takeWhile (fun r => (List.range 64).all (fun n => ! SMap.get t.poison (64 * r + n) false))
      let s1 := if good.isEmpty then s
        else s.jobWrites j j.engine (fun s => s.engineScratch j.wid j.pc dst (good.flatMap (fun r => t.storeRow r ty c0 c1)) j.view)
      let n := Config.corrected s.draws j.id
      (s1.modResident j.part j.ctx j.core (fun x => { x with tiles := x.tiles.modify tile (·.correct n) })).endMatrix j
        (if good.length = rows.length then statusWord 0 0x4 (mmDetail none n)
          else statusWord 0x04 0x4 (mmDetail (some (first + good.length)) n))

/-- MSTAT of one group; with d = g0 nothing is returned. -/
def mstatGroup (u : GMstat) (s : State) (e : LaneEnv) (_ : List LaneEnv) : State × List Fate :=
  let id := s.nextId
  if u.d = 0 then (s, []) else
  let s1 := (s.addJob e (.mstat u.tile.toNat)).1
  (s1.addGPending e.wg.wid e.gi [Pending.later id (96 + u.d.toNat) s.issue.pc id], [])
/-- MSTAT. Log entry 43. -/
def execMstat (u : GMstat) (s : State) : Out := .next (runUnit (.mstat u) false none noExtra (groupBody (needPlace (mstatGroup u))) s)

/-- The record of a tile (R226). -/
def Tile.stat (t : Tile) : Nat :=
  natOfBool t.integer * 2 ^ 31 + (match t.poison with | [] => 0 | p :: _ => 2 ^ 30 + p.1 / 64 % 64 * 2 ^ 24)
    + min t.corrected 65535

/-- The g registers that results of a job go to. -/
def State.jobRegs (s : State) (j : Job) : List Nat :=
  match s.group? j.wid j.gi with
  | some g => (g.gPending.filter (fun (p : Pending) => p.job == j.id)).map Pending.reg
  | none => []

/-- MSTAT acts. -/
def State.mstatAct (s : State) (j : Job) (tile : Nat) : State :=
  let x : Word := BitVec.ofNat 32 (s.tile j.part j.ctx j.core tile).stat
  let s2 := ((s.jobRegs j).foldl (fun (s : State) r => s.supplyG j r x none) s).endJob j
  s2.settleZeros (s2.jobs.length + 1)

end Sys2Proof.Machine
end

