-- ==== Sys2Proof/Machine/Forme.lean ====
section
/-!
DEFINITION. Formes and the operations of the forme unit (R229 to R239, R244, R325 to R343, R363, R364, R395): the
forme record, the proof ring and the proof items, and what each asynchronous operation does at its single point of
R230.
-/
namespace Sys2Proof.Machine
open Sys2Proof

/-! ### Operations that read and write memory, and may end early (R209, R232) -/

/-- Why an operation ends before its effect: a status code with its detail, a byte that does not translate, a byte
that reads poisoned; or that it must wait (R334). -/
inductive FErr where
  | status (code detail : Nat)
  | unmapped (cause addr : Nat)
  | poisoned (addr : Nat)
  | wait
  deriving DecidableEq, Repr

/-- An operation of the forme unit: it threads the state and may end early. -/
abbrev FM := ExceptT FErr (StateM State)

/-- Translated runs of virtual memory: address, length, page. -/
abbrev Runs := List (Nat × Nat × Page)

/-- A range translated for a read (kind 0) or a write (kind 1); `host` is what the operation ends with when part of
it lies in a host page. -/
def fmReach (j : Job) (host : Option (Nat × Nat)) (kind a n : Nat) : FM Runs := do
  if n = 0 then return []
  if 2 ^ 58 < a + n then throw (.unmapped 1 (a % 2 ^ 64))
  let s ← get
  let t := s.translateRuns j.part j.ctx j.core kind (pageRuns a n (n / 2 ^ 14 + 2))
  set t.1
  match t.2.2, host with
  | some (k, x), _ => throw (.unmapped k x)
  | none, some (c, d) => if t.2.1.any (fun q => q.2.2.host) then throw (.status c d) else return t.2.1
  | none, none => return t.2.1

/-- The bytes of translated runs, and the address of the first poisoned one. -/
def State.readRuns (s : State) (rs : Runs) : List Byte × Option Nat :=
  (rs.flatMap (fun q => (s.readPage q.2.2 q.1 q.2.1).1),
    rs.findSome? (fun q => if q.2.2.host then none
      else (List.range q.2.1).findSome? (fun i =>
        if s.memPoison.get ((q.2.2.phys q.1 + i) / 32) false then some (q.1 + i) else none)))

/-- A range read, each page counted as one access (R389); a poisoned byte ends the operation. -/
def fmRead (j : Job) (host : Option (Nat × Nat)) (a n : Nat) : FM (List Byte) := do
  let rs ← fmReach j host 0 a n
  modify (fun s => s.touchRuns rs)
  let r := (← get).readRuns rs
  match r.2 with
  | some x => throw (.poisoned x)
  | none => return r.1

/-- The runs that some cells fall in, counted as accesses (R389). -/
def State.touchCells (s : State) (rs : Runs) (cells : List (Nat × Byte)) : State :=
  s.touchRuns (rs.filter (fun q => cells.any (fun c => decide (q.1 ≤ c.1 ∧ c.1 < q.1 + q.2.1))))
/-- Cells of virtual memory written through runs already translated; a poisoned granule that takes only part of its
bytes keeps its old ones and is logged (R369). -/
def State.putRuns (s0 : State) (j : Job) (rs : Runs) (cells : List (Nat × Byte)) : State :=
  let s := s0.touchCells rs cells
  let at_ := cells.filterMap (fun c =>
    (rs.find? (fun q => decide (q.1 ≤ c.1 ∧ c.1 < q.1 + q.2.1) && ! q.2.2.host)).map (fun q =>
      (c.1, q.2.2.phys c.1, q.2.2.ver.toNat, c.2)))
  ((at_.map (fun c => c.2.2.1)).eraseDups).foldl (fun s v =>
    let mine := at_.filter (fun c => c.2.2.1 == v)
    let r := s.writeCells (mine.map (fun c => (c.2.1, c.2.2.2))) v
    r.2.foldl (fun s g => match mine.find? (fun c => c.2.1 / 32 == g) with
      | some c => s.logRecord j.part j.ctx (c.1 / 32 * 32) 0x10 5 j.core j.pc.toNat 0
      | none => s) r.1) s
def fmPut (j : Job) (rs : Runs) (cells : List (Nat × Byte)) : FM Unit := modify (fun s => s.putRuns j rs cells)

/-- The cells in which new bytes differ from old ones. -/
def changedCells (a : Nat) (old new : List Byte) : List (Nat × Byte) :=
  (cellsAt a new).zip old |>.filterMap (fun p => if p.1.2 = p.2 then none else some p.1)

/-- The end of the check of fields that stand in the command block: DECODE at the lowest offset (R232). -/
def fmDecode (bad : List Nat) : FM Unit := match lowest bad with | some o => throw (.status 0x02 o) | none => pure ()
/-- An offset, when its field is bad. -/
def badAt (b : Bool) (o : Nat) : List Nat := if b then [o] else []
/-- The offsets of nonzero bytes among n from o on. -/
def nonzeroAt (c : List Byte) (o n : Nat) : List Nat := ((List.range n).map (o + ·)).filter (fun i => cmdNat c i 1 ≠ 0)

/-! ### The record (R325 to R328) -/

/-- The row length of a format and head dimension (R233). -/
def rowLen (fmt hdim : Nat) : Nat := match fmt with | 0 => 2 * hdim | 1 => hdim | _ => hdim * 34 / 32

/-- A forme's header as an operation reads it (R326). -/
structure Forme where
  va : Nat
  key : Nat
  layers : Nat
  heads : Nat
  hdim : Nat
  fmt : Nat
  lead : Nat
  theta : Nat
  budget : Nat
  rot : Nat
  corr : Nat
  bits : Nat
  tail : Nat
  ovr : Nat
  tailbase : Nat
  win : Bool
  cap : Nat
  count : Nat
  qhead : Nat
  qtail : Nat
  qcount : Nat
  deriving DecidableEq, Repr

def Forme.decode (va key : Nat) (h : List Byte) : Forme :=
  let n (o k : Nat) : Nat := cmdNat h o k
  { va := va, key := key, layers := n 0 2, heads := n 2 1 + 1, hdim := (n 3 1 + 1) * 8, fmt := n 4 1 % 4, lead := n 5 1,
    theta := n 6 1, budget := n 7 1 + 1, rot := n 8 8, corr := n 16 8, bits := n 24 8, tail := n 32 8, ovr := n 40 8,
    tailbase := n 48 3, win := n 51 1 % 2 == 1, cap := n 52 3, count := n 56 3, qhead := n 60 1, qtail := n 61 1,
    qcount := n 62 2 % 512 }

/-- The header bytes that operations change, 48 to 63. -/
def Forme.dynamic (f : Forme) : List Byte :=
  bytesOf f.tailbase 3 ++ bytesOf (natOfBool f.win) 1 ++ bytesOf f.cap 3 ++ bytesOf 0 1 ++ bytesOf f.count 3 ++ bytesOf 0 1
    ++ bytesOf f.qhead 1 ++ bytesOf f.qtail 1 ++ bytesOf f.qcount 2

/-- Whether a header is BADFORME (R327). -/
def headerBad (va : Nat) (h : List Byte) : Bool :=
  let f := Forme.decode va 0 h
  decide (va % 256 ≠ 0 ∨ f.layers < 1 ∨ 1024 < f.layers ∨ 256 < f.hdim ∨ 2 < f.fmt ∨ 64 < f.lead ∨ f.cap = 0)
    || decide (f.fmt = 2 ∧ f.hdim % 32 ≠ 0) || decide (3 < cmdNat h 4 1 ∨ 1 < cmdNat h 51 1 ∨ 256 < cmdNat h 62 2)
    || decide (f.rot % 64 ≠ 0 ∨ f.corr % 4096 ≠ 0 ∨ f.bits % 64 ≠ 0 ∨ f.tail % 64 ≠ 0 ∨ f.ovr % 64 ≠ 0)
    || ! (nonzeroAt h 55 1 ++ nonzeroAt h 59 1 ++ nonzeroAt h 64 64).isEmpty
    || decide (f.win = false ∧ 2 ^ 24 < f.tailbase + f.cap)

/-- The row length of a forme; its correction stride Z and overrun stride Y (R329, R330). -/
def Forme.row (f : Forme) : Nat := rowLen f.fmt f.hdim
def Forme.strideZ (f : Forme) : Nat := roundUp (f.layers * f.budget * f.heads * (2 * f.row)) 4096
def Forme.strideY (f : Forme) : Nat := roundUp (128 + f.layers * f.heads * (2 * f.row)) 64
/-- The address of the K row of a slot of an entry at a layer and head (R329). -/
def Forme.corrRow (f : Forme) (e l sl h : Nat) : Nat :=
  f.corr + 262144 + f.strideZ * e + 2 * f.row * ((l * f.budget + sl) * f.heads + h)
/-- The addresses of an entry's bitmap at a layer, and of its proof-set table (R329). -/
def Forme.bitmap (f : Forme) (e l : Nat) : Nat := f.bits + 32 * (e * f.layers + l)
def Forme.table (f : Forme) (e : Nat) : Nat := f.corr + 1024 * e
/-- The tail index of a position, and its K row (R330). -/
def Forme.tailIndex (f : Forme) (p : Nat) : Nat := if f.win then (p - f.tailbase) % f.cap else p - f.tailbase
def Forme.tailRow (f : Forme) (p l h : Nat) : Nat := f.tail + f.row * ((l * f.heads + h) * (2 * f.cap) + f.tailIndex p)
/-- The fill map of an overrun slot, and the K row of its layer and head (R330). -/
def Forme.fillMap (f : Forme) (sl : Nat) : Nat := f.ovr + f.strideY * sl
def Forme.ovrRow (f : Forme) (sl l h : Nat) : Nat := f.fillMap sl + 128 + 2 * f.row * (l * f.heads + h)

/-- An entry (R328). -/
structure FEntry where
  galley : Nat
  base : Nat
  noproof : Bool
  keep : Bool
  len : Nat
  gen : Nat
  state : Nat
  flight : Bool
  rel : Bool
  done : Nat
  drain : Nat
  psize : Nat
  deriving DecidableEq, Repr

def FEntry.decode (b : List Byte) : FEntry :=
  let n (o k : Nat) : Nat := cmdNat b o k
  { galley := n 0 8, base := n 8 3, noproof := (n 11 1).testBit 0, keep := (n 11 1).testBit 1, len := n 12 3, gen := n 16 2,
    state := n 18 1 % 8, flight := (n 18 1).testBit 3, rel := (n 18 1).testBit 4, done := n 20 2 % 2048, drain := n 22 2,
    psize := n 24 2 % 512 }

def FEntry.encode (x : FEntry) : List Byte :=
  bytesOf x.galley 8 ++ bytesOf x.base 3 ++ bytesOf (natOfBool x.noproof + 2 * natOfBool x.keep) 1 ++ bytesOf x.len 3 ++ bytesOf 0 1
    ++ bytesOf x.gen 2 ++ bytesOf (x.state + 8 * natOfBool x.flight + 16 * natOfBool x.rel) 1 ++ bytesOf 0 1 ++ bytesOf x.done 2
    ++ bytesOf x.drain 2 ++ bytesOf x.psize 2 ++ List.replicate 6 0

/-- Whether the bytes of an entry are BADFORME (R327). -/
def entryBad (b : List Byte) : Bool :=
  decide (3 < cmdNat b 11 1 ∨ 31 < cmdNat b 18 1 ∨ 4 < cmdNat b 18 1 % 8 ∨ 1024 < cmdNat b 20 2 ∨ 256 < cmdNat b 24 2)
    || ! (nonzeroAt b 15 1 ++ nonzeroAt b 19 1 ++ nonzeroAt b 26 6).isEmpty

/-- Whether an entry can be read by a gather, and whether it holds its positions (R335). -/
def FEntry.live (x : FEntry) : Bool := x.state == 1 || x.state == 2
def FEntry.holds (x : FEntry) : Bool := x.live || (decide (x.state = 3 ∨ x.state = 4) && x.keep)

/-- A forme as an operation works on it: its header, the entries read so far, and the 256 ring bytes. -/
structure FWork where
  f : Forme
  es : List (Nat × FEntry)
  ring : List Byte
  deriving DecidableEq, Repr

/-- The address of an entry, and of the ring. -/
def Forme.entryAt (f : Forme) (e : Nat) : Nat := f.va + 128 + 32 * e
def Forme.ringAt (f : Forme) : Nat := f.va + 8320

/-- An entry read, and one changed. -/
def FWork.entry (w : FWork) (e : Nat) : FEntry :=
  match w.es.find? (fun x => x.1 == e) with | some x => x.2 | none => FEntry.decode []
def FWork.setEntry (w : FWork) (e : Nat) (x : FEntry) : FWork :=
  { w with es := w.es.map (fun y => if y.1 = e then (e, x) else y) }

/-! ### The ring (R332, R333) -/

/-- The ring bytes in use, from qhead on. -/
def FWork.queue (w : FWork) : List Nat :=
  (List.range w.f.qcount).map (fun i => ((w.ring[(w.f.qhead + i) % 256]?).getD 0).toNat)
/-- The item of an entry's layer `done` released: its byte at qtail, rel set. -/
def FWork.release (w : FWork) (e : Nat) : FWork :=
  { w with
    f := { w.f with qtail := (w.f.qtail + 1) % 256, qcount := w.f.qcount + 1 }
    ring := w.ring.set (w.f.qtail % 256) (BitVec.ofNat 8 e) }.setEntry e { w.entry e with rel := true }
/-- The byte of a released item removed: the bytes after it move one place toward qhead (R333). -/
def FWork.unring (w : FWork) (e : Nat) : FWork :=
  let q := w.queue
  let r := q.erase e
  if r.length = q.length then w
  else
    { w with
      f := { w.f with qtail := (w.f.qhead + r.length) % 256, qcount := r.length }
      ring := r.zipIdx.foldl (fun b x => b.set ((w.f.qhead + x.2) % 256) (BitVec.ofNat 8 x.1)) w.ring }

/-! ### Reading and writing a record -/

/-- What identifies a forme across contexts: the physical address of its record, or its virtual address when that does
not name the module's memory. -/
def State.formeKey (s : State) (p c core va : Nat) : Nat :=
  match (s.translate p c core va 0).2 with
  | .page g => if g.host then 2 ^ 62 + va else g.phys va
  | .fault _ => 2 ^ 62 + va

/-- Whether the first byte of an area lies in a host page. Log entry 67. -/
def State.inHost (s : State) (j : Job) (a : Nat) : Bool :=
  match (s.translate j.part j.ctx j.core a 0).2 with | .page g => g.host | .fault _ => false

/-- BADFORME with the detail of an operation. Log entry 67. -/
def badForme (det : Nat) : Nat × Nat := (0x20, det)

/-- The header read and checked, with the named entry (R327). Log entry 67. -/
def fmLoad (j : Job) (va : Nat) (e : Option Nat) (det : Nat) : FM FWork := do
  let h ← fmRead j (some (badForme det)) va 128
  let s ← get
  let f := Forme.decode va (s.formeKey j.part j.ctx j.core va) h
  if headerBad va h || [f.corr, f.bits, f.tail, f.ovr].any (s.inHost j) then throw (.status 0x20 det)
  match e with
  | none => return { f := f, es := [], ring := [] }
  | some e =>
    let b ← fmRead j (some (badForme det)) (f.entryAt e) 32
    if entryBad b then throw (.status 0x20 det)
    return { f := f, es := [(e, FEntry.decode b)], ring := [] }

/-- Entries laid one after another, with their numbers from `e` on. -/
def entriesFrom (e : Nat) (b : List Byte) : (n : Nat) → List (Nat × FEntry)
  | 0 => []
  | n + 1 => (e, FEntry.decode (b.take 32)) :: entriesFrom (e + 1) (b.drop 32) n

/-- Every entry read. -/
def fmAll (j : Job) (w : FWork) (det : Nat) : FM FWork := do
  let b ← fmRead j (some (badForme det)) (w.f.entryAt 0) 8192
  return { w with es := entriesFrom 0 b 256 }
/-- The ring read. Log entry 67. -/
def fmRing (j : Job) (w : FWork) (det : Nat) : FM FWork := do
  return { w with ring := (← fmRead j (some (badForme det)) w.f.ringAt 256) }

/-- The parts of a record that an operation writes, translated for it: the header's second half, entries, the ring.
Log entry 67. -/
def fmRecord (j : Job) (w : FWork) (es : List Nat) (ring : Bool) (det : Nat) : FM Runs := do
  let a ← fmReach j (some (badForme det)) 1 (w.f.va + 48) 16
  let b ← es.mapM (fun e => fmReach j (some (badForme det)) 1 (w.f.entryAt e) 32)
  let c ← if ring then fmReach j (some (badForme det)) 1 w.f.ringAt 256 else pure []
  return a ++ b.flatten ++ c

/-- The bytes of a record that an operation changed: of its header, its entries and its ring. -/
def FWork.changes (old new : FWork) : List (Nat × Byte) :=
  changedCells (old.f.va + 48) old.f.dynamic new.f.dynamic
    ++ new.es.flatMap (fun x => changedCells (old.f.entryAt x.1) (old.entry x.1).encode x.2.encode)
    ++ changedCells old.f.ringAt old.ring new.ring
/-- What an operation changed of a record, written. -/
def fmSave (j : Job) (rs : Runs) (old new : FWork) : FM Unit := fmPut j rs (old.changes new)

/-! ### Proof items and references (R332, R334, R335, R395) -/

/-- The in-flight item of an entry in its current generation, and its draining items. -/
def State.item? (s : State) (key e : Nat) : Option ProofItem :=
  s.items.find? (fun i => i.forme == key && i.entry == e && ! i.draining)
def State.drains (s : State) (key e : Nat) : List ProofItem :=
  s.items.filter (fun i => i.forme == key && i.entry == e && i.draining)

/-- Whether advancing an entry's generation would reach that of one of its draining items (R334). -/
def State.genClash (s : State) (w : FWork) (e : Nat) : Bool :=
  (s.drains w.f.key e).any (fun i => i.gen == ((w.entry e).gen + 1) % 2 ^ 16)

/-- The item of an entry cancelled (R332): gone from the ring, or draining. -/
def fmCancel (w : FWork) (e : Nat) : FM FWork := do
  let x := w.entry e
  if x.rel then
    return (w.unring e).setEntry e { x with rel := false }
  else if x.flight then
    modify (fun s => { s with items := s.items.map (fun i =>
      if i.forme = w.f.key ∧ i.entry = e then { i with draining := true } else i) })
    return w.setEntry e { x with flight := false, drain := x.drain + 1 }
  else return w

/-- The generation of an entry advanced. -/
def FEntry.bump (x : FEntry) : FEntry := { x with gen := (x.gen + 1) % 2 ^ 16 }

/-- A galley's refs count translated for its read-modify-write and found whole, before anything is written (R232). -/
def fmRefsReach (j : Job) (host : Option (Nat × Nat)) (galley : Nat) : FM Runs := do
  let rs ← fmReach j host 1 (galley + 24) 4
  match ((← get).readRuns rs).2 with
  | some x => throw (.poisoned x)
  | none => return rs
/-- The refs count of a galley one more or one less, in its four bytes, by one read-modify-write (R395). -/
def State.putRefs (s : State) (j : Job) (rs : Runs) (galley : Nat) (up : Bool) : State :=
  s.putRuns j rs (cellsAt (galley + 24)
    (bytesOf ((natOfBytes (s.readRuns rs).1 + (if up then 1 else 2 ^ 32 - 1)) % 2 ^ 32) 4))
def fmRefs (j : Job) (rs : Runs) (galley : Nat) (up : Bool) : FM Unit := modify (fun s => s.putRefs j rs galley up)

/-! ### Proof sets (R234) -/

/-- P for an entry (R234); `kern` holds the kern bytes of tokens L and above. -/
def proofSet (lead theta budget len : Nat) (kern : List Byte) : List Nat :=
  let leads := (List.range (min lead len)).take budget
  let cand := if theta < 255 then
      sortBy (fun a b => decide (b.1 ≤ a.1)) (((kern.zipIdx.map (fun k => (k.1.toNat, lead + k.2))).filter (fun c => decide (theta ≤ c.1))))
    else []
  leads ++ (cand.map (·.2)).take (budget - leads.length)

/-- P of an entry as imposed or moved, its kern bytes read. -/
def fmProof (j : Job) (f : Forme) (galley base len : Nat) (noproof : Bool) : FM (List Nat) := do
  if base = 0 || noproof then return []
  if f.theta < 255 ∧ f.lead < len then
    let g ← fmRead j none galley 64
    let kern ← fmRead j none (cmdNat g 8 8 + f.lead) (len - f.lead)
    return proofSet f.lead f.theta f.budget len kern
  else return proofSet f.lead f.theta f.budget len []

/-- The places an entry's bitmaps and proof-set table are written to, translated. -/
def fmArmReach (j : Job) (f : Forme) (e : Nat) (p : List Nat) (det : Nat) : FM Runs := do
  let a ← fmReach j (some (badForme det)) 1 (f.bitmap e 0) (32 * f.layers)
  let b ← fmReach j (some (badForme det)) 1 (f.table e) (4 * p.length)
  return a ++ b

/-- The bytes with which an entry begins a generation: its bitmaps cleared, and the words of its proof set (R335, R363). -/
def Forme.armCells (f : Forme) (e : Nat) (p : List Nat) : List (Nat × Byte) :=
  cellsAt (f.bitmap e 0) (List.replicate (32 * f.layers) 0) ++ cellsAt (f.table e) (p.flatMap (fun t => bytesOf t 4))
/-- A record whose entry begins a generation: layer 0 released, or the entry PROOFED (R335). -/
def FWork.armed (w : FWork) (e : Nat) (p : List Nat) : FWork :=
  let x := w.entry e
  if p.isEmpty then w.setEntry e { x with state := 2, done := w.f.layers, psize := 0, flight := false, rel := false }
  else (w.setEntry e { x with state := 1, done := 0, psize := p.length, flight := false }).release e
/-- An entry begins a generation. -/
def fmArm (j : Job) (rs : Runs) (w : FWork) (e : Nat) (p : List Nat) : FM FWork := do
  fmPut j rs (w.f.armCells e p)
  return w.armed e p

/-! ### GSEAL (R233) -/

/-- The fields of a GSEAL command block or of a galley's shape: tokens, format, layers, heads, head dimension.
Log entry 68. -/
def galleyShape (c : List Byte) (o : Nat) : Nat × Nat × Nat × Nat × Nat :=
  (cmdNat c o 3, cmdNat c (o + 3) 1, cmdNat c (o + 4) 2, cmdNat c (o + 6) 1 + 1, (cmdNat c (o + 7) 1 + 1) * 8)

/-- GSEAL at its point. -/
def fmGseal (j : Job) (c : List Byte) : FM Unit := do
  let hdr := cmdNat c 0 8
  let rows := cmdNat c 8 8
  let kern := cmdNat c 16 8
  let (n, fmt, layers, heads, hdim) := galleyShape c 24
  let host := (← get).inHost j hdr
  fmDecode (badAt (hdr % 64 ≠ 0 || host) 0 ++ badAt (rows % 16 ≠ 0) 8 ++ badAt (n = 0) 24 ++ badAt (decide (2 < fmt)) 27
    ++ badAt (decide (layers < 1 ∨ 1024 < layers)) 28 ++ badAt (decide (256 < hdim ∨ (fmt = 2 ∧ hdim % 32 ≠ 0))) 31)
  let rs ← fmReach j (some (0x02, 0)) 1 hdr 64
  let _ ← fmReach j none 0 rows (2 * n * layers * heads * rowLen fmt hdim)
  let _ ← fmReach j none 0 kern n
  let h ← fmRead j (some (0x02, 0)) hdr 64
  if (cmdNat h 28 1).testBit 0 ∧ cmdNat h 24 4 ≠ 0 then throw (.status 0x21 0)
  fmPut j rs (cellsAt hdr (bytesOf rows 8 ++ bytesOf kern 8 ++ (c.drop 24).take 8 ++ bytesOf 0 4 ++ bytesOf 1 1 ++ List.replicate 35 0))

/-! ### IMPOSE (R234, R335) -/

/-- IMPOSE at its point. Log entry 68. -/
def fmImpose (j : Job) (c : List Byte) : FM Unit := do
  let galley := cmdNat c 8 8
  let base := cmdNat c 16 3
  let e := cmdNat c 19 1
  let flags := cmdNat c 23 1
  fmDecode (badAt (galley % 64 ≠ 0) 8 ++ badAt (decide (1 < flags)) 23 ++ nonzeroAt c 24 8)
  let w0 ← fmLoad j (cmdNat c 0 8) (some e) e
  let g ← fmRead j (some (0x28, e)) galley 64
  if ! (cmdNat g 28 1).testBit 0 then throw (.status 0x28 e)
  let (n, fmt, layers, heads, hdim) := galleyShape g 16
  let len := if cmdNat c 20 3 = 0 then n else cmdNat c 20 3
  let f := w0.f
  if fmt ≠ f.fmt ∨ layers ≠ f.layers ∨ heads ≠ f.heads ∨ hdim ≠ f.hdim ∨ n < len then throw (.status 0x23 e)
  let x := w0.entry e
  if ¬ (x.state = 0 ∨ x.state = 4) ∨ cmdNat g 24 4 = 0xFFFFFFFF then throw (.status 0x21 e)
  let w1 ← fmAll j w0 e
  if f.tailbase < base + len ∨ w1.es.any (fun y => y.1 ≠ e && y.2.holds && rangesMeet base len y.2.base y.2.len) then
    throw (.status 0x22 e)
  let w2 ← fmRing j w1 e
  if (← get).genClash w2 e then throw .wait
  let noproof := flags % 2 == 1
  let p ← fmProof j f galley base len noproof
  let ra ← fmArmReach j f e p e
  let rr ← fmRecord j w2 [e] true e
  let rg ← fmRefsReach j (some (0x28, e)) galley
  fmRefs j rg galley true
  let w3 := w2.setEntry e { x.bump with galley := galley, base := base, noproof := noproof, keep := false, len := len }
  let w4 ← fmArm j ra w3 e p
  fmSave j rr w2 w4

/-! ### DISTRIB (R236, R335) -/

/-- DISTRIB and DISTRIB.COMPACT at their point. -/
def fmDistrib (j : Job) (compact : Bool) (c : List Byte) : FM Unit := do
  let e := cmdNat c 8 1
  fmDecode (nonzeroAt c 9 23)
  let w0 ← fmLoad j (cmdNat c 0 8) (some e) e
  let x := w0.entry e
  if x.state = 0 ∨ x.state = 4 then throw (.status 0x24 e)
  let w1 ← if compact then fmAll j w0 e else pure w0
  let w2 ← fmRing j w1 e
  let cut := compact && (decide (x.state ≠ 3) || x.keep)
  let moved := if cut then (w2.es.filter (fun y => y.1 ≠ e && y.2.holds && decide (x.base < y.2.base))).map (·.1) else []
  let live := moved.filter (fun y => (w2.entry y).live)
  if (e :: live).any ((← get).genClash w2) then throw .wait
  let plans ← live.mapM (fun y => do
    let z := w2.entry y
    let p ← fmProof j w2.f z.galley (z.base - x.len) z.len z.noproof
    let rs ← fmArmReach j w2.f y p e
    pure (y, p, rs))
  let gone := decide (x.state ≠ 3) && ! x.flight && decide (x.drain = 0)
  let rg ← if gone then fmRefsReach j none x.galley else pure []
  let rr ← fmRecord j w2 (e :: moved) true e
  let w3 ← fmCancel w2 e
  let y := (w3.entry e).bump
  let keep := if x.state = 3 then x.keep && ! compact else ! compact
  let w4 := w3.setEntry e { y with keep := keep, state := if gone then 4 else 3 }
  if gone then fmRefs j rg x.galley false
  let w5 ← moved.foldlM (fun w m => do
    let w := w.setEntry m { w.entry m with base := (w.entry m).base - x.len }
    match plans.find? (fun q => q.1 == m) with
    | none => pure w
    | some (_, p, rs) =>
      let v ← fmCancel w m
      fmArm j rs (v.setEntry m (v.entry m).bump) m p) w4
  let w6 := if cut then { w5 with f := { w5.f with tailbase := w5.f.tailbase - x.len } } else w5
  fmSave j rr w2 w6

/-! ### PROOFPUB (R238, R332) -/

/-- One draining item of an entry gone (R335): drain − 1, and a DRAINING entry with none left CANCELLED. The runs are
those of the galley's refs count. -/
def fmDrained (j : Job) (rg : Runs) (w : FWork) (e : Nat) : FM FWork := do
  let x := w.entry e
  let d := x.drain - 1
  if x.state = 3 ∧ d = 0 then
    fmRefs j rg x.galley false
    return w.setEntry e { x with drain := d, state := 4 }
  else return w.setEntry e { x with drain := d }

/-- PROOFPUB at its point. A source beyond the scratch is DECODE of its offset, found once the header has been read. Log entry 69. -/
def fmPub (j : Job) (wg : Workgroup) (c : List Byte) : FM Unit := do
  let e := cmdNat c 8 1
  let sl := cmdNat c 9 1
  let k := cmdNat c 10 1 + 1
  let l := cmdNat c 12 2
  let gen := cmdNat c 14 2
  let src := cmdNat c 16 4
  let det := e + 256 * (l % 1024)
  let bad := nonzeroAt c 11 1 ++ badAt (src % 16 ≠ 0) 16 ++ nonzeroAt c 20 12
  let w0 ← tryCatch (fmLoad j (cmdNat c 0 8) (some e) det) (fun x => do fmDecode bad; throw x)
  let f := w0.f
  let size := k * f.heads * (2 * f.row)
  fmDecode (bad ++ badAt (decide (wg.scratchSize < src + size)) 16)
  let mine (i : ProofItem) : Bool := i.gen == gen && i.layer == l && i.wid == wg.wid
  let s ← get
  let x := w0.entry e
  match (s.drains f.key e).find? mine with
  | some i =>
    let rr ← fmRecord j w0 [e] false det
    let rg ← if x.state = 3 ∧ x.drain ≤ 1 then fmRefsReach j none x.galley else pure []
    modify (fun s => { s with items := s.items.erase i })
    let w1 ← fmDrained j rg w0 e
    fmSave j rr w0 w1
    throw (.status 0x26 det)
  | none =>
    match (s.item? f.key e).filter (fun i => x.flight && mine i && i.gen == x.gen) with
    | none => throw (.status 0x25 det)
    | some i =>
      if x.psize < sl + k then throw (.status 0x25 det)
      let old := natOfBytes (← fmRead j (some (badForme det)) (f.bitmap e l) 32)
      let range := (2 ^ k - 1) * 2 ^ sl
      if old &&& range ≠ 0 then throw (.status 0x25 det)
      let rows := wg.readScratch src size
      if rows.2 then throw (.poisoned ((wg.firstPoison src size).getD src))
      let w1 ← fmRing j w0 det
      let rr ← fmRecord j w1 [e] true det
      let rc ← fmReach j (some (badForme det)) 1 (f.corrRow e l sl 0) size
      let rb ← fmReach j (some (badForme det)) 1 (f.bitmap e l) 32
      fmPut j rc (cellsAt (f.corrRow e l sl 0) rows.1)
      let new := old ||| range
      fmPut j rb (cellsAt (f.bitmap e l) (bytesOf new 32))
      if new &&& (2 ^ x.psize - 1) = 2 ^ x.psize - 1 then
        modify (fun s => { s with items := s.items.erase i })
        let y := { x with flight := false, done := x.done + 1 }
        if f.layers ≤ y.done then fmSave j rr w1 (w1.setEntry e { y with state := 2 })
        else fmSave j rr w1 ((w1.setEntry e y).release e)

/-! ### KVAPPEND, SPECAPP, COMMIT (R244, R330, R331, R341) -/

/-- The 2 × row × heads bytes of one layer of an overrun slot, written into it with its fill bit. -/
def fmSlotReach (j : Job) (f : Forme) (l det : Nat) (slots : List Nat) : FM Runs := do
  let a ← slots.mapM (fun sl => fmReach j (some (badForme det)) 1 (f.ovrRow sl l 0) (2 * f.row * f.heads))
  let b ← slots.mapM (fun sl => fmReach j (some (badForme det)) 1 (f.fillMap sl) 128)
  return a.flatten ++ b.flatten
def fmSlotWrite (j : Job) (f : Forme) (l : Nat) (rs : Runs) (slots : List (Nat × List Byte)) (fills : List (Nat × Nat)) : FM Unit :=
  fmPut j rs (slots.flatMap (fun x => cellsAt (f.ovrRow x.1 l 0) x.2)
    ++ fills.flatMap (fun x => cellsAt (f.fillMap x.1) (bytesOf (x.2 ||| 2 ^ l) 128)))

/-- What a COMMIT of n slots will write: the runs of the tail rows, fill maps and header, and the tail cells; WINDOW
when it may not. `inst` are rows that stand in for layer `l` of the first slots, and their fill bit. Log entry 69. -/
def fmCommitPlan (j : Job) (w : FWork) (n l det : Nat) (inst : List (List Byte)) : FM (Option (Runs × List (Nat × Byte))) := do
  let f := w.f
  let block := 2 * f.row * f.heads
  let slots := List.range n
  let fills ← slots.mapM (fun sl => do
    let b ← fmRead j (some (badForme det)) (f.fillMap sl) 128
    pure (natOfBytes b ||| (if sl < inst.length then 2 ^ l else 0)))
  let whole := 2 ^ f.layers - 1
  if fills.any (fun m => m &&& whole ≠ whole) ∨ (f.win = false ∧ f.cap < f.count + n) ∨ 2 ^ 24 < f.tailbase + f.count + n then
    return none
  let cells ← slots.mapM (fun sl => do
    let ls ← (List.range f.layers).mapM (fun y => do
      let b ← match (if y = l then inst[sl]? else none) with
        | some b => pure b
        | none => fmRead j (some (badForme det)) (f.ovrRow sl y 0) block
      let p := f.tailbase + f.count + sl
      pure ((List.range f.heads).flatMap (fun h =>
        cellsAt (f.tailRow p y h) ((b.drop (2 * f.row * h)).take f.row)
          ++ cellsAt (f.tailRow p y h + f.row * f.cap) ((b.drop (2 * f.row * h + f.row)).take f.row))))
    pure ls.flatten)
  let tails ← slots.mapM (fun sl => do
    let rs ← (List.range f.layers).mapM (fun y => do
      let qs ← (List.range f.heads).mapM (fun h => do
        let a ← fmReach j (some (badForme det)) 1 (f.tailRow (f.tailbase + f.count + sl) y h) f.row
        let b ← fmReach j (some (badForme det)) 1 (f.tailRow (f.tailbase + f.count + sl) y h + f.row * f.cap) f.row
        pure (a ++ b))
      pure qs.flatten)
    pure rs.flatten)
  let maps ← (List.range 16).mapM (fun sl => fmReach j (some (badForme det)) 1 (f.fillMap sl) 128)
  let hd ← fmRecord j w [] false det
  return some (tails.flatten ++ maps.flatten ++ hd, cells.flatten)

/-- A planned COMMIT carried out: tail rows, T, every fill map emptied. -/
def fmCommitDo (j : Job) (w : FWork) (n : Nat) (plan : Runs × List (Nat × Byte)) : FM Unit := do
  fmPut j plan.1 plan.2
  fmPut j plan.1 ((List.range 16).flatMap (fun sl => cellsAt (w.f.fillMap sl) (List.replicate 128 0)))
  fmSave j plan.1 w { w with f := { w.f with count := w.f.count + n } }

/-- SPECAPP (`adv` and `append` false) and KVAPPEND at their point. Log entry 69. -/
def fmAppend (j : Job) (append : Bool) (wg : Workgroup) (c : List Byte) : FM Unit := do
  let src := cmdNat c 8 4
  let l := cmdNat c 12 2
  let k := cmdNat c 14 1 + 1
  let b15 := cmdNat c 15 1
  let det := 256 * (l % 1024)
  let bad := badAt (src % 16 ≠ 0) 8 ++ badAt (decide (16 < k)) 14 ++ badAt (append && decide (1 < b15)) 15 ++ nonzeroAt c 16 16
  let w ← tryCatch (fmLoad j (cmdNat c 0 8) none det) (fun x => do fmDecode bad; throw x)
  let f := w.f
  let block := 2 * f.row * f.heads
  fmDecode (bad ++ badAt (decide (wg.scratchSize < src + k * block)) 8 ++ badAt (decide (f.layers ≤ l)) 12)
  let first := if append then 0 else b15
  if 16 < first + k then throw (.status 0x27 det)
  let rows := wg.readScratch src (k * block)
  if rows.2 then throw (.poisoned ((wg.firstPoison src (k * block)).getD src))
  let slots := (List.range k).map (first + ·)
  let data := (List.range k).map (fun i => (rows.1.drop (block * i)).take block)
  let fills ← slots.mapM (fun sl => do
    let b ← fmRead j (some (badForme det)) (f.fillMap sl) 128
    pure (sl, natOfBytes b))
  let rs ← fmSlotReach j f l det slots
  let adv := append && b15 % 2 == 1
  let plan ← if adv then fmCommitPlan j w k l det data else pure none
  fmSlotWrite j f l rs (slots.zip data) fills
  match adv, plan with
  | true, some p => fmCommitDo j w k p
  | true, none => throw (.status 0x27 det)
  | false, _ => pure ()

/-- COMMIT at its point. A gather reads its rows at its own single point, so none is ever still to be read here
(R245). Log entry 69. -/
def fmCommit (j : Job) (c : List Byte) : FM Unit := do
  let n := cmdNat c 8 1
  fmDecode (badAt (decide (16 < n)) 8 ++ nonzeroAt c 9 23)
  let w ← fmLoad j (cmdNat c 0 8) none 0
  match ← fmCommitPlan j w n 0 0 [] with
  | some p => fmCommitDo j w n p
  | none => throw (.status 0x27 0)

/-! ### PROOFW's fetch (R237, R332) -/

/-- A fetch at its point: none while the ring is empty, else the two words of the descriptor. A record that is BADFORME
rejects it (R327). Log entry 68. -/
def fmFetch (j : Job) (va : Nat) : FM (Option (Nat × Nat)) := do
  let _ ← fmReach j (some (badForme 0)) 1 va 128
  let f := (← fmLoad j va none 0).f
  if f.qcount = 0 then return none
  let b ← fmRead j (some (badForme 0)) (f.ringAt + f.qhead) 1
  let e := natOfBytes b
  let bs ← fmRead j (some (badForme 0)) (f.entryAt e) 32
  if entryBad bs then throw (.status 0x20 0)
  let x := FEntry.decode bs
  let w : FWork := { f := f, es := [(e, x)], ring := [] }
  let rr ← fmRecord j w [e] false 0
  modify (fun s => { s with items := s.items ++ [{ forme := f.key, va := va, entry := e, gen := x.gen, layer := x.done,
                                                   wid := j.wid, draining := false }] })
  fmSave j rr w ({ w with f := { f with qhead := (f.qhead + 1) % 256, qcount := f.qcount - 1 } }.setEntry e
    { x with rel := false, flight := true })
  return some (e + 256 * (x.done % 1024), x.psize % 512 + 2 ^ 16 * x.gen)

/-! ### The order of operations on a forme (R230) -/

/-- The forme address of an operation of R230. -/
def JobKind.formeVa (k : JobKind) : Option Nat :=
  match k with
  | .forme major _ cmd _ => if major = 0x48 then none else some (cmdNat cmd 0 8)
  | .proofw va _ _ _ => some va
  | .prstat va _ _ _ => some va
  | .gather ctl _ _ _ => some (cmdNat ctl 0 8)
  | _ => none

/-- Whether two jobs come from one thread. -/
def Job.sharesThread (a b : Job) : Bool := a.wid == b.wid && a.gi == b.gi && a.tis.any b.tis.contains

/-- Whether two jobs act on one forme. -/
def State.sameForme (s : State) (j k : Job) : Bool :=
  match j.kind.formeVa, k.kind.formeVa with
  | some va, some vb => s.formeKey j.part j.ctx j.core va == s.formeKey k.part k.ctx k.core vb
  | _, _ => false
/-- Whether a job is a gather that pre-emption has withdrawn: it holds no other back (R241, R343). -/
def Job.withdrawn (j : Job) : Bool := j.waited && (match j.kind with | .gather _ _ _ _ => true | _ => false)
/-- Whether an operation of the same thread on the same forme, issued earlier, has still to act (R230). -/
def State.threadHeld (s : State) (j : Job) : Bool :=
  s.jobs.any (fun k => decide (k.id < j.id) && ! k.withdrawn && j.sharesThread k && s.sameForme j k)
/-- Whether an operation waits in the forme unit for an item to drain (R334). -/
def State.genWaits (s : State) (k : Job) : Bool :=
  match k.kind with
  | .forme 0x49 _ c _ => (match ((fmImpose k c).run s).1 with | .error .wait => true | _ => false)
  | .forme 0x4A compact c _ => (match ((fmDistrib k compact c).run s).1 with | .error .wait => true | _ => false)
  | _ => false
/-- Whether an operation has still to wait for others on its forme (R230, R334): one that its own thread issued before it, or
one that waits in the forme unit, or has waited and not acted yet, and was issued before it. Log entry 57. -/
def State.formeHeld (s : State) (j : Job) : Bool :=
  s.threadHeld j || s.jobs.any (fun k => decide (k.id < j.id) && s.sameForme j k && ! s.threadHeld k && ! k.withdrawn && (k.waited || s.genWaits k))
/-- The operations that a state finds waiting in the forme unit, marked: what drains may let them act, and until they have acted
the later ones stay behind them (R334). -/
def State.markWaited (old s : State) : State :=
  { s with jobs := s.jobs.map (fun j => if old.jobs.any (fun k => k.id == j.id && ! old.threadHeld k && old.genWaits k) then
      { j with waited := true } else j) }

/-- The forme unit that serves a forme: that of the die whose cluster is home to the first byte of its record (R23). -/
def formeAgent (key : Nat) : Agent := Agent.formeUnit (Config.homeCluster (key / 128) % 24 / 6)
/-- What a PROOFPUB has released with the bits of an entry (R238), for those that acquire it (R239, R241). -/
def State.publish (s : State) (key e : Nat) (v : View) : State :=
  { s with formeViews := SMap.insert s.formeViews (256 * key + e) ((SMap.get s.formeViews (256 * key + e) []).join v) }
def State.published (s : State) (key e : Nat) : View := SMap.get s.formeViews (256 * key + e) []

/-- Whether an operation on a forme cannot act: R334 makes it wait, or it stands behind one that waits. -/
def State.formeStuck (s : State) (j : Job) : Bool :=
  (match j.kind with | .forme _ _ _ _ => true | .prstat _ _ _ _ => true | .gather _ _ _ _ => true | _ => false)
    && (s.genWaits j || s.formeHeld j)

/-- A descriptor given to a group (R237, R370): V-class results of its registers d and d + 1. -/
def State.giveItem (s : State) (j : Job) (d : Nat) (x : Nat × Nat) (poison : Bool) (va : Nat) : State :=
  s.addGPending j.wid j.gi
    [Pending.now s.nextId (96 + d) (BitVec.ofNat 32 x.1) poison j.pc va,
     Pending.now s.nextId (97 + d) (BitVec.ofNat 32 x.2) poison j.pc va]

/-- The two words of the descriptor that a fetch whose record is BADFORME leaves: the spec states none. Log entry 68. -/
def State.rejected (s : State) (j : Job) : Nat × Nat :=
  ((Config.freeWord s.draws (600000 + 2 * j.id)).toNat, (Config.freeWord s.draws (600001 + 2 * j.id)).toNat)
/-- The fetches pending on a forme offered what its ring holds, in the order in which they were received (R237). A
fetch whose record no longer translates sends its threads back to their unit. Log entries 57 and 68. -/
def State.serveFetches (s : State) (key : Nat) : (fuel : Nat) → State
  | 0 => s
  | n + 1 =>
    match s.jobs.find? (fun j => match j.kind with
      | .proofw _ k _ _ => k == key && ! s.formeHeld j
      | _ => false) with
    | none => s
    | some j =>
      match j.kind with
      | .proofw va _ d h =>
        let back (past : Bool) (s : State) : State :=
          ({ s with jobs := s.jobs.filter (fun k => k.id ≠ j.id) }).endParks j.wid past (fun k => match k with
            | .proofw i => if i = j.id then some h else none
            | _ => none)
        match (fmFetch j va).run s with
        | (.ok none, _) => s
        | (.ok (some x), s1) => State.serveFetches (back true ((s.markBy s1 (formeAgent key)).giveItem j d x false va)) key n
        | (.error (.poisoned _), s1) => State.serveFetches (back true (s1.giveItem j d (0, 0) true va)) key n
        | (.error (.status _ _), s1) => State.serveFetches (back true (s1.giveItem j d (s.rejected j) false va)) key n
        | (.error _, s1) => State.serveFetches (back false s1) key n
      | _ => s

/-! ### The end of an operation -/

/-- An operation carried out for a job: none when it must wait, else the state after it and its status word. -/
def State.runForme (s : State) (j : Job) (agent det : Nat) (m : FM Unit) : Option (State × Nat) :=
  match m.run s with
  | (.ok _, s1) => some (s1, 0)
  | (.error .wait, _) => none
  | (.error (.status c d), s1) => some (s1, statusWord c agent d)
  | (.error (.unmapped k a), s1) => some (s1.logEngine j a k, statusWord 0x01 agent det)
  | (.error (.poisoned a), s1) => some (s1.logEngine j a 6, statusWord 0x04 agent det)

/-- An asynchronous operation of the forme unit at its point: its effect, which is its unit's (R299) and which its release at .dev
has applied at every die (R231, R293), its arrival, and the fetches that its releases serve. -/
def State.formePerform (s0 : State) (j : Job) (major : Nat) (compact : Bool) (c : List Byte) : Option State :=
  match s0.wg? j.wid with
  | none => some (s0.endJob j)
  | some wg =>
    let s := s0.settleJob j
    let key := s0.formeKey j.part j.ctx j.core (cmdNat c 0 8)
    let ld := 256 * (cmdNat c 12 2 % 1024)
    let r := match major with
      | 0x48 => s.runForme j 6 0 (fmGseal j c)
      | 0x49 => s.runForme j 6 (cmdNat c 19 1) (fmImpose j c)
      | 0x4A => s.runForme j 6 (cmdNat c 8 1) (fmDistrib j compact c)
      | 0x4C => s.runForme j 6 (cmdNat c 8 1 + ld) (fmPub j wg c)
      | 0x4E => s.runForme j 6 ld (fmAppend j true wg c)
      | 0x4F => s.runForme j 6 ld (fmAppend j false wg c)
      | _ => s.runForme j 6 0 (fmCommit j c)
    r.map (fun r =>
      let s1 := s.wroteBy r.1 j (if major = 0x48 then Agent.formeUnit (Agent.unit j.core).die else formeAgent key)
      let v := (s1.jobNow j).completes
      let s2 := s1.withLedger (s1.ledger.certain v true)
      let s3 := if major = 0x4C ∧ statusCode r.2 = 0 then s2.publish key (cmdNat c 8 1) v else s2
      let s4 := (s.markWaited s3).finishJob j 6 r.2
      if major = 0x48 then s4 else s4.serveFetches key (s4.jobs.length + 1))

/-! ### Retirement (R332, R335) -/

/-- One item that a retiring workgroup has fetched: draining items are gone, an item in flight is released again at the
ring's tail and logged. -/
def fmAbandon (j : Job) (i : ProofItem) : FM Unit := do
  let h ← fmRead j none i.va 128
  let f := Forme.decode i.va i.forme h
  let x := FEntry.decode (← fmRead j none (f.entryAt i.entry) 32)
  let w0 : FWork := { f := f, es := [(i.entry, x)], ring := [] }
  if i.draining then
    let rr ← fmRecord j w0 [i.entry] false 0
    let rg ← if x.state = 3 ∧ x.drain ≤ 1 then tryCatch (fmRefsReach j none x.galley) (fun _ => pure []) else pure []
    let w1 ← fmDrained j rg w0 i.entry
    fmSave j rr w0 w1
  else
    let w1 ← fmRing j w0 0
    let rr ← fmRecord j w1 [i.entry] true 0
    fmSave j rr w1 ((w1.setEntry i.entry { x with flight := false }).release i.entry)
    modify (fun s => s.logRecord j.part j.ctx i.va 0x15 5 j.core (i.entry + 256 * (i.layer % 1024)) 0)

/-- The items of a workgroup that retires: those draining first, then those in flight, and the fetches that the
releases serve. -/
def State.abandonItems (s : State) (j : Job) : State :=
  let mine := s.items.filter (fun i => i.wid == j.wid)
  let s1 := s.markWaited ((mine.filter (·.draining) ++ mine.filter (fun i => ! i.draining)).foldl (fun s i =>
    let s := { s with items := s.items.erase i }
    s.markBy ((fmAbandon j i).run s).2 (formeAgent i.forme)) s)
  ((mine.map (·.forme)).eraseDups).foldl (fun s k => s.serveFetches k (s.jobs.length + 1)) s1

/-! ### The instructions (R229, R237, R239) -/

/-- The issue of an asynchronous instruction of one group (R229). -/
def formeGroup (major : Nat) (compact : Bool) (u : GR2) (s : State) (e : LaneEnv) (ls : List LaneEnv) : State × List Fate :=
  let w := s.wgOf e
  let a := (e.greg u.a).toNat
  let bar := (e.greg u.d).toNat
  if a % 32 ≠ 0 ∨ w.scratchSize < a + 32 then (s, allFate ls (.trap (alignTrap 0x9 a)))
  else if u.d ≠ 0 ∧ w.isBarrier bar = false then (s, allFate ls (.trap (alignTrap 0x9 bar)))
  else
    (((s.traceIssue e 6).addJob e (.forme major compact (w.readScratch a 32).1 (if u.d = 0 then none else some bar))).1, [])

/-- An asynchronous instruction of the forme unit. -/
def formeUnit (i : Instr) (major : Nat) (compact : Bool) (u : GR2) (s : State) : State :=
  runUnit i false none noExtra (groupBody (formeGroup major compact u)) s

/-- GSEAL (R229, R233). -/
def execGseal (u : GR2) (s : State) : Out := .next (formeUnit (.gseal u) 0x48 false u s)
/-- IMPOSE (R229, R234). -/
def execImpose (u : GR2) (s : State) : Out := .next (formeUnit (.impose u) 0x49 false u s)
/-- DISTRIB (R229, R236). -/
def execDistrib (u : GR2) (s : State) : Out := .next (formeUnit (.distrib u) 0x4A false u s)
/-- DISTRIB.COMPACT (R229, R236). -/
def execDistribCompact (u : GR2) (s : State) : Out := .next (formeUnit (.distribCompact u) 0x4A true u s)
/-- PROOFPUB (R229, R238). -/
def execProofpub (u : GR2) (s : State) : Out := .next (formeUnit (.proofpub u) 0x4C false u s)
/-- KVAPPEND (R229, R244). -/
def execKvappend (u : GR2) (s : State) : Out := .next (formeUnit (.kvappend u) 0x4E false u s)
/-- SPECAPP (R229, R244). -/
def execSpecapp (u : GR2) (s : State) : Out := .next (formeUnit (.specapp u) 0x4F false u s)
/-- COMMIT (R229, R244). -/
def execCommit (u : GR2) (s : State) : Out := .next (formeUnit (.commit u) 0x50 false u s)

/-- The work of a lane's group as a job that has no number yet. -/
def State.asJob (s : State) (e : LaneEnv) (k : JobKind) : Job :=
  { id := s.nextId, part := e.wg.part, ctx := e.wg.ctx, core := e.wg.core, wid := e.wg.wid, gi := e.gi, tis := e.issued,
    pc := s.issue.pc, kind := k, view := [], wrote := [], waited := false }

/-- A group's own access to a range that does not translate: its threads park, with a record of kind 0 for each failing page
(R362). -/
def State.readFault (s : State) (e : LaneEnv) (ls : List LaneEnv) (kind : Nat) (rs : List (Nat × Nat)) : State × List Fate :=
  (s, allFate ls (.miss 0 (s.failing e.wg.part e.wg.ctx e.wg.core kind rs)))

/-- PROOFW of one group, its record translated: the fetch takes effect at once, or stays pending with the threads
parked at the unit. -/
def proofwFrom (u : GR2) (e : LaneEnv) (ls : List LaneEnv) (va : Nat) (t : State × Runs × Option (Nat × Nat)) : State × List Fate :=
  match t.2.2 with
  | some _ => t.1.readFault e ls 1 (pageRuns va 8576 4)
  | none =>
    let key := t.1.formeKey e.wg.part e.wg.ctx e.wg.core va
    let j := t.1.asJob e (.proofw va key u.d.toNat u.h)
    let waiting := t.1.jobs.any (fun k => match k.kind with
      | .proofw _ q _ _ => q == key && ! t.1.formeHeld k
      | _ => false)
    let pend : State × List Fate :=
      let r := t.1.addJob e j.kind
      (r.1, allFate ls (.park (.proofw r.2)))
    if waiting || t.1.formeHeld j then pend
    else
      match (fmFetch j va).run t.1 with
      | (.ok (some x), s1) => ((t.1.markBy s1 (formeAgent key)).giveItem j u.d.toNat x false va, [])
      | (.error (.poisoned _), s1) => (s1.giveItem j u.d.toNat (0, 0) true va, [])
      | (.error (.status _ _), s1) => (s1.giveItem j u.d.toNat (t.1.rejected j) false va, [])
      | (.error (.unmapped k x), s1) => (s1, allFate ls (.miss 0 [(k, x % 2 ^ 64)]))
      | _ => pend

/-- PROOFW of one group. -/
def proofwGroup (u : GR2) (s : State) (e : LaneEnv) (ls : List LaneEnv) : State × List Fate :=
  let va := e.gpair u.a
  if 2 ^ 58 ≤ va then (s, allFate ls (.trap (alignTrap 0x8 (va % 2 ^ 64))))
  else proofwFrom u e ls va (s.translateRuns e.wg.part e.wg.ctx e.wg.core 1 (pageRuns va 8576 4))

/-- PROOFW (R237), V class. -/
def execProofw (u : GR2) (s : State) : Out := .next (runUnit (.proofw u) false none noExtra (groupBody (proofwGroup u)) s)

/-- PRSTAT of one group, its reads translated: its value is that of its point of R230. -/
def prstatFrom (u : GR3) (e : LaneEnv) (ls : List LaneEnv) (va x : Nat) (t : State × Runs × Option (Nat × Nat)) : State × List Fate :=
  match t.2.2 with
  | some _ => t.1.readFault e ls 0 (pageRuns va 128 2 ++ pageRuns (va + 128 + 32 * x) 32 2)
  | none =>
    if u.d = 0 then (t.1, [])
    else
      let id := t.1.nextId
      let key := t.1.formeKey e.wg.part e.wg.ctx e.wg.core va
      let s1 := (t.1.addJob e (.prstat va key x t.2.1)).1
      (s1.addGPending e.wg.wid e.gi [Pending.later id (96 + u.d.toNat) s1.issue.pc id], [])

/-- PRSTAT of one group: its reads translate at issue. -/
def prstatGroup (u : GR3) (s : State) (e : LaneEnv) (ls : List LaneEnv) : State × List Fate :=
  let va := e.gpair u.a
  let x := (e.greg u.b).toNat % 256
  if 2 ^ 58 ≤ va then (s, allFate ls (.trap (alignTrap 0x8 (va % 2 ^ 64))))
  else prstatFrom u e ls va x
    (s.translateRuns e.wg.part e.wg.ctx e.wg.core 0 (pageRuns va 128 2 ++ pageRuns (va + 128 + 32 * x) 32 2))

/-- PRSTAT (R239), V class. -/
def execPrstat (u : GR3) (s : State) : Out := .next (runUnit (.prstat u) false none noExtra (groupBody (prstatGroup u)) s)

/-- The word of PRSTAT (R239). -/
def FEntry.stat (x : FEntry) : Word := BitVec.ofNat 32 (x.gen * 2 ^ 16 + x.done * 2 ^ 5 + natOfBool x.flight * 2 ^ 4 + x.state)

/-- PRSTAT acts: the word of R239, poisoned when the header or the entry is; of a record that is BADFORME the spec states no
word (R327). Its threads acquire what the entry's PROOFPUBs have released, and the fetches that waited behind it are offered what
the ring holds. Log entry 68. -/
def State.prstatAct (s0 : State) (j : Job) (va key entry : Nat) (pages : Runs) : State :=
  let s := s0.touchRuns pages
  let r := s.readRuns pages
  let f := Forme.decode va key (r.1.take 128)
  let bad := headerBad va (r.1.take 128) || entryBad (r.1.drop 128) || pages.any (fun q => q.2.2.host) ||
    [f.corr, f.bits, f.tail, f.ovr].any (s.inHost j)
  let v := if bad && r.2.isNone then BitVec.ofNat 32 (s.rejected j).1 else (FEntry.decode (r.1.drop 128)).stat
  let s1 := ((s.jobRegs j).foldl (fun (s : State) n => s.supplyG j n v r.2) s).endJob j
  (j.tis.foldl (fun (s : State) i => s.modThread j.wid j.gi i (·.learn (s.published key entry))) s1).serveFetches key (s1.jobs.length + 1)

end Sys2Proof.Machine
end

