-- ==== Sys2Proof/Machine/MemoryLanes.lean ====
section
/-!
DEFINITION. Loads, stores, full-empty operations and atomics of the lanes (R185 to R195).
-/
namespace Sys2Proof.Machine
open Sys2Proof

/-- LDG (R185): each participant's bytes, outstanding until they return. -/
def ldgBody (z : Bool) (u : LMem) : Body := fun s es =>
  let n := accessBytes u.w
  let q := u.q.toNat
  let r := s.globalAccess 0 n (lmAddr u true) es
  let s1 := r.2.1.foldl (fun s x =>
    (s.loadResult x.e u.d.toNat (r.1.returnGlobal x n q) (x.addr % 2 ^ 64)).observeGlobal r.1 x u.d.toNat n q) (r.1.touchRequests r.2.1)
  (zeroRest z u.d.toNat (grp u.w) s1 es, r.2.2)

/-- STG (R185): the participants' bytes, the higher lane last. -/
def stgBody (u : LMem) : Body := fun s es =>
  let n := accessBytes u.w
  let r := s.globalAccess 1 n (lmAddr u true) es
  ((r.1.touchRequests r.2.1).storeGlobal u.q.toNat false (r.2.1.map (fun x => (x, dataBytes u.d.toNat (grp u.w) x.e))), r.2.2)

/-- The lanes of an LDS.FE or LDS.FEC that issue, and those that park at the unit (R190): `taken` lists the granules
that lower lanes of an LDS.FEC touch. -/
def feSplit (w : Workgroup) (clear : Bool) (n : Nat) : (taken : List Nat) → List (LaneEnv × Nat) → List (LaneEnv × Nat) × List Fate
  | _, [] => ([], [])
  | taken, (e, a) :: r =>
    let g := granuleSpan a n
    if ! w.allFull g.1 g.2 || (clear && (granulesIn a n).any taken.contains) then
      let t := feSplit w clear n taken r
      (t.1, e.fate (.park (.fullEmpty g.1 g.2)) :: t.2)
    else
      let t := feSplit w clear n (if clear then taken ++ granulesIn a n else taken) r
      ((e, a) :: t.1, t.2)

/-- LDS (R185, R189, R190): q 0 plain, 1 .FE, 2 .FEC, 3 .ACQ. Log entry 31. -/
def ldsBody (z : Bool) (u : LMem) : Body := fun s es =>
  let n := accessBytes u.w
  let q := u.q.toNat
  let r := scratchAccess n false (lmAddr u false) es
  match r.1 with
  | [] => (zeroRest z u.d.toNat (grp u.w) s es, r.2)
  | (e, a) :: rest =>
    let sp : List (LaneEnv × Nat) × List Fate :=
      if q = 1 ∨ q = 2 then feSplit e.wg (q == 2) n [] ((e, a) :: rest) else ((e, a) :: rest, [])
    let fresh := q == 1 || q == 2
    let s1 := sp.1.foldl (fun s x =>
      (s.loadResult x.1 u.d.toNat (x.1.returnScratch x.1.wg fresh x.2 n) x.2).observeScratch x.1 x.1.wg fresh (q ≠ 0) u.d.toNat x.2 n) s
    let s2 := if q = 2 then
        s1.modWg e.wg.wid (fun w => sp.1.foldl (fun w x =>
          ((granulesIn x.2 n).filter (fun g => (w.obj? (16 * g)).isNone)).foldl (fun w g => w.setFull g g false) w) w)
      else s1
    (zeroRest z u.d.toNat (grp u.w) s2 es, r.2 ++ sp.2)

/-- STS (R185, R189): q 1 and 3 fill; q 2 and 3 release. -/
def stsBody (u : LMem) : Body := fun s es =>
  let n := accessBytes u.w
  let r := scratchAccess n true (lmAddr u false) es
  (s.storeScratch 2 (u.q.toNat % 2 == 1) (decide (2 ≤ u.q.toNat)) false (r.1.map (fun x => (x.1, x.2, dataBytes u.d.toNat (grp u.w) x.1))), r.2)

/-- The participants' vault accesses, in ascending lane order. Log entry 30. -/
def vaultAccess (n : Nat) (addr : LaneEnv → Nat) (es : List LaneEnv) : List (LaneEnv × Nat × Nat) × List Fate :=
  let ls := (byLane (es.filter LaneEnv.takes)).map (fun e => (e, addr e, vaultPlace e.wg (addr e) n))
  (ls.filterMap (fun l => match l.2.2 with | .ok k => some (l.1, l.2.1, k) | .error _ => none),
    ls.filterMap (fun l => match l.2.2 with | .ok _ => none | .error t => some (l.1.fate (.trap t))))

/-- LDV (R185). -/
def ldvBody (z : Bool) (u : LMem) : Body := fun s es =>
  let n := accessBytes u.w
  let r := vaultAccess n (lmAddr u false) es
  let q := u.q.toNat
  let s1 := r.1.foldl (fun s' x =>
    (s'.loadResult x.1 u.d.toNat (s.loadVault x.1 x.2.1 x.2.2 n q) x.2.1).observeVault s x.1 u.d.toNat x.2.1 x.2.2 n q) s
  (zeroRest z u.d.toNat (grp u.w) s1 es, r.2)

/-- STV (R185, R369). -/
def stvBody (u : LMem) : Body := fun s es =>
  let n := accessBytes u.w
  let r := vaultAccess n (lmAddr u false) es
  (s.storeVault u.q.toNat (r.1.map (fun x => (x.1, x.2.1, x.2.2, dataBytes u.d.toNat (grp u.w) x.1))), r.2)

/-- FESET and FECLR (R189): the granule that holds the lane's address becomes full or empty. Log entry 31. -/
def feBody (full : Bool) (u : LFe) : Body := fun s es =>
  let r := scratchAccess 4 true (fun e => (e.reg u.a.toNat).toNat + 4 * u.off4.toNat) es
  match r.1 with
  | [] => (s, r.2)
  | x :: rest =>
    let s1 := s.modWg x.1.wg.wid (fun w => (x :: rest).foldl (fun w y => w.setFull (y.2 / 16) (y.2 / 16) full) w)
    (if full then s1.wakeFull x.1.wg.wid else s1, r.2)

/-! ### Atomics (R192 to R195) -/

/-- What memory becomes (R192): the old value m, the operand x, the compare value k, all patterns of n bits. -/
def atomicNew (op n m x k : Nat) : Nat :=
  match op with
  | 0 => (m + x) % 2 ^ n
  | 1 => if sext m n ≤ sext x n then m else x
  | 2 => min m x
  | 3 => if sext m n ≤ sext x n then x else m
  | 4 => max m x
  | 5 => m &&& x
  | 6 => m ||| x
  | 7 => m ^^^ x
  | 8 => x
  | 9 => if m = k then x else m
  | _ => fp32.round 0 false 0 (fAdd 0 (fp32.value m) (fp32.value x))

/-- Registers of an element: CAS holds compare and new value in two halves (R80). -/
def atomicRegs (op : Nat) (w : BitVec 2) : Nat := if op = 9 then grp w / 2 else grp w

/-- The operand x and compare value k of a lane. -/
def atomicOperands (op : Nat) (d : Nat) (w : BitVec 2) (e : LaneEnv) : Nat × Nat :=
  let n := atomicRegs op w
  if op = 9 then (e.val (d + n) n, e.val d n) else (e.val d n, 0)

/-- Whether a host page refuses an atomic (R195): only FetchAdd, Swap and CAS exist there, and only while the
function's AtomicOp requests are enabled. -/
def State.hostRefuses (s : State) (p op addr : Nat) : Bool :=
  decide (bitsOf addr 57 52 = 0) && (! (op == 0 || op == 8 || op == 9) || ! s.atomicEn.getLsbD (s.fnOf p))

/-- Where a read-modify-write may stand in the coherence order of its location other than last: right after an older store that
its thread may read and that the next one writes over (R281, R290, R294). None on an SC page (R295). Log entry 1. -/
def State.atomicSlot (s : State) (x : Access) (n strong : Nat) : Option Nat :=
  let p := x.spot n strong
  let v := s.stores.get (p.loc 0) Versions.none
  let tag := tagOf (s.keyOf (8 * (p.place / 8))) x.page.ver.toNat
  let e := x.e.agent.reader
  if x.page.sc || s.memPoison.get (p.place / 32) false || s.memTag.get (p.place / 32) 0 != tag then none
  else
    match (v.slots (max ((p.after x.e.t).floor (p.va 0) (p.loc 0)) (v.bound e x.e.t.view (p.loc 0)))
        (cellMask ((List.range n).map (fun i => ((p.place + i) % 8, 0)))) tag).filter (fun k => match v.older[k]? with
          | some o => o.info.reaches o.pos e (s.clockOf e) v
          | none => false) with
    | [] => none
    | ks =>
      let c := Config.choose s.draws (340000 + 1024 * x.e.lane) % (ks.length + 1)
      if c = 0 then none else ks[c - 1]?

/-- The location of an atomic as the store right before it leaves it. -/
def State.atomicSees (s : State) (x : Access) (n strong i : Nat) : List Byte × Nat × Stored :=
  let p := x.spot n strong
  let v := s.stores.get (p.loc i) Versions.none
  let now := (s.readPhys (8 * ((p.place + i) / 8)) 8 x.page.ver.toNat).1
  match (s.atomicSlot x n strong).bind (fun k => v.older[k]?) with
  | some o => (o.bytes, o.pos, o.info)
  | none => (now, v.last, v.info)

/-- An atomic's write put after the store it has read: the newest, or the older one that its slot names (R290). -/
def State.atomicStore (s : State) (x : Access) (strong : Nat) (bs : List Byte) : State :=
  let p := x.spot bs.length strong
  match s.atomicSlot x bs.length strong with
  | none => s.storeGlobal strong true [(x, bs)]
  | some k =>
    let s1 := s.readyStore p
    let ps := p.pieces (fun g => tagOf (s.keyOf (8 * g)) x.page.ver.toNat) bs
    let h := ps.foldl (fun h q => SMap.insert h q.loc
      ((SMap.get h q.loc Versions.none).slip k true q.cells (cellMask q.cells) q.tag (x.e.t.carries x.e.agent strong)).1) s1.stores
    { s1 with stores := h }.ownPieces h ps

/-- One lane's atomic on global memory: the old value's registers with their poison, memory updated unless the old
value is poisoned (R194). What lies outside the module answers with a value of its own. Log entry 1. -/
def State.atomicGlobal (s0 : State) (op : Nat) (w : BitVec 2) (d strong : Nat) (x : Access) : State × List (Word × Bool) :=
  let n := atomicRegs op w
  let s := s0.touchPage x.page x.addr
  if x.page.host then
    let ok := decide (bitsOf x.addr 57 52 ≠ 0) || Config.hostAtomicOk s.draws x.e.lane
    (s, (s.loadGlobal x (4 * n)).map (fun r => (r.1, r.2 || ! ok)))
  else if (s.loadGlobal x (4 * n)).any (·.2) then (s, (s.loadGlobal x (4 * n)).map (fun r => (r.1, true)))
  else
    let old := wordsSeen (x.page.phys x.addr) 8 (4 * n) (s.atomicSees x (4 * n) strong)
    let o := atomicOperands op d w x.e
    let m := natOfBytes (old.flatMap (fun r => bytesOf r.toNat 4))
    let y := atomicNew op (32 * n) m o.1 o.2
    ((s.observeSpot s x.e.wg (x.spot (4 * n) strong) (s.atomicSees x (4 * n) strong) none).atomicStore x strong (bytesOf y (4 * n)),
      old.map (·, false))

/-- ATOM and RED (R192): lanes in ascending order; `back` returns the old value. Under zeroing a lane that does not take
part receives zero in the registers that a part-taking lane would have written: of a CAS the low half alone.
Log entry 80. -/
def atomBody (z back : Bool) (op q : Nat) (w : BitVec 2) (d a : Nat) : Body := fun s es =>
  let n := atomicRegs op w
  let r := s.globalAccess 2 (4 * n) (fun e => e.val a 2) es
  let refused (x : Access) : Bool := x.page.host && r.1.hostRefuses x.e.wg.part op x.addr
  let go := r.2.1.filter (fun x => ! refused x)
  let no := (r.2.1.filter refused).map (fun x => x.e.fate (.trap (alignTrap 0xF (x.addr % 2 ^ 64))))
  let s1 := go.foldl (fun s x =>
    let t := s.atomicGlobal op w d q x
    if back then t.1.loadResult x.e d t.2 (x.addr % 2 ^ 64)
    else if t.2.any (·.2) then t.1.logPoison x.e (x.addr / 32 * 32) else t.1) r.1
  (zeroRest (z && back) d n s1 es, r.2.2 ++ no)

/-- ATOMS (R192, R193): full-empty bits stay as they are. -/
def atomsBody (z : Bool) (op : Nat) (w : BitVec 2) (d a : Nat) : Body := fun s es =>
  let n := atomicRegs op w
  let r := scratchAccess (4 * n) true (fun e => (e.reg a).toNat) es
  let s1 := r.1.foldl (fun s x =>
    let wg := (s.wg? x.1.wg.wid).getD x.1.wg
    let old := wg.loadScratch x.2 (4 * n)
    if old.any (·.2) then s.loadResult x.1 d (old.map (fun r => (r.1, true))) x.2
    else
      let o := atomicOperands op d w x.1
      let y := atomicNew op (32 * n) (natOfBytes (wg.readScratch x.2 (4 * n)).1) o.1 o.2
      let s1 := s.observeScratch x.1 wg true false d x.2 (4 * n)
      (s1.storeScratch 2 false false true [(x.1, x.2, bytesOf y (4 * n))]).loadResult x.1 d old x.2) s
  (zeroRest z d n s1 es, r.2)

/-- LDG. -/
def execLdg (u : LMem) (s : State) : Out := .next (runUnit (.ldg u) false none noExtra (ldgBody (shapeOf (.ldg u)).zero u) s)
/-- STG. -/
def execStg (u : LMem) (s : State) : Out := .next (runUnit (.stg u) false none noExtra (stgBody u) s)
/-- LDS. -/
def execLds (u : LMem) (s : State) : Out := .next (runUnit (.lds u) false none noExtra (ldsBody (shapeOf (.lds u)).zero u) s)
/-- STS. -/
def execSts (u : LMem) (s : State) : Out := .next (runUnit (.sts u) false none noExtra (stsBody u) s)
/-- LDV. -/
def execLdv (u : LMem) (s : State) : Out := .next (runUnit (.ldv u) false none noExtra (ldvBody (shapeOf (.ldv u)).zero u) s)
/-- STV. -/
def execStv (u : LMem) (s : State) : Out := .next (runUnit (.stv u) false none noExtra (stvBody u) s)
/-- FESET. -/
def execFeset (u : LFe) (s : State) : Out := .next (runUnit (.feset u) false none noExtra (feBody true u) s)
/-- FECLR. -/
def execFeclr (u : LFe) (s : State) : Out := .next (runUnit (.feclr u) false none noExtra (feBody false u) s)
/-- ATOM. -/
def execAtom (u : LMem) (s : State) : Out :=
  .next (runUnit (.atom u) false none noExtra (atomBody (shapeOf (.atom u)).zero true u.off4.toNat u.q.toNat u.w u.d.toNat u.a.toNat) s)
/-- ATOMS. -/
def execAtoms (u : LMem0) (s : State) : Out :=
  .next (runUnit (.atoms u) false none noExtra (atomsBody (shapeOf (.atoms u)).zero u.off4.toNat u.w u.d.toNat u.a.toNat) s)
/-- RED. -/
def execRed (u : LMem) (s : State) : Out :=
  .next (runUnit (.red u) false none noExtra (atomBody false false u.off4.toNat u.q.toNat u.w u.d.toNat u.a.toNat) s)

end Sys2Proof.Machine
end

