-- ==== Sys2Proof/Machine/Special.lean ====
section
/-!
DEFINITION. The special functions (R132, R133). The spec fixes a bound, not a value: the value is the device's choice
(Config.special) where that choice lies within the bound, and otherwise the exact value rounded, so every value
within the bound, and no other, can result. The exact values of transcendental functions stand in the bound as
fractions computed from their series to 400 bits.
-/
namespace Sys2Proof.Machine
open Sys2Proof

/-- Fraction bits of the fixed-point series. -/
def spBits : Nat := 400
/-- 1 in fixed point. -/
def spOne : Nat := 2 ^ spBits

/-- Σ ± p^(2k+1) / (2k+1) from term k on, p a fixed-point number, `pw` its power so far: the series of arctanh, or of
arctan with alternating signs. -/
def oddSeries (alt : Bool) (p2 : Int) : (fuel k : Nat) → (pw : Int) → Int
  | 0, _, _ => 0
  | n + 1, k, pw =>
    pw / ((2 * k + 1 : Nat) : Int) + oddSeries alt p2 n (k + 1) ((if alt then -(pw * p2) else pw * p2) / (spOne : Int))

/-- arctanh and arctan of a fixed-point number. -/
def spAtanh (z : Int) : Int := oddSeries false (z * z / (spOne : Int)) 140 0 z
def spAtan (z : Int) : Int := oddSeries true (z * z / (spOne : Int)) 140 0 z
/-- ln 2 and π. -/
def spLn2 : Int := 2 * spAtanh ((spOne : Int) / 3)
def spPi : Int := 16 * spAtan ((spOne : Int) / 5) - 4 * spAtan ((spOne : Int) / 239)

/-- Σ y^k / k! from term k on, `t` the term so far: with step 1 the exponential; with step 2 and the factor −y² a sine
or cosine. -/
def expTerms (y : Int) (stp : Nat) : (fuel k : Nat) → (t : Int) → Int
  | 0, _, _ => 0
  | n + 1, k, t =>
    let d : Nat := if stp = 1 then k + 1 else (k + 1) * (k + 2)
    t + expTerms y stp n (k + stp) (t * y / (spOne : Int) / (d : Int))

/-- An exact or approximate value: whether it is exact, and the value as a signed fraction. -/
structure Ref where
  exact : Bool
  s : Bool
  num : Nat
  den : Nat
  deriving DecidableEq, Repr

/-- 2^x for x = ±num/den, as a fraction; x is rounded downwards, so that the value of a negative x stays below 1. -/
def refExp2 (s : Bool) (num den : Nat) : Ref :=
  let whole := num % den == 0
  let x : Int := (if s then -1 else 1) * ((min num (20000 * den) * spOne : Nat) : Int) / (den : Int)
  let n := x / (spOne : Int)
  let f := x % (spOne : Int)
  let e := (expTerms (f * spLn2 / (spOne : Int)) 1 100 0 (spOne : Int)).toNat
  let t := scaled e (n - (spBits : Int))
  { exact := whole, s := false, num := t.1, den := t.2 }

/-- log₂ x for x = num/den > 0. -/
def refLog2 (num den : Nat) : Ref :=
  let e := floorLog2 num den
  let t := scaled den e
  let n := num * t.2
  let d := t.1
  let z : Int := (((n - d) * spOne / (n + d) : Nat) : Int)
  let l := e * (spOne : Int) + 2 * spAtanh z * (spOne : Int) / spLn2
  { exact := n == d, s := decide (l < 0), num := l.natAbs, den := spOne }

/-- The integer square root, by descending iteration. -/
def sqrtIter (n : Nat) : (fuel x : Nat) → Nat
  | 0, x => x
  | k + 1, x =>
    let y := (x + n / x) / 2
    if y < x then sqrtIter n k y else x
def natSqrt (n : Nat) : Nat := if n = 0 then 0 else sqrtIter n 64 (2 ^ (Nat.log2 n / 2 + 1))

/-- √(num / den). -/
def refSqrt (num den : Nat) : Ref :=
  let r := natSqrt (num * den)
  if r * r = num * den then { exact := true, s := false, num := r, den := den }
  else { exact := false, s := false, num := natSqrt (num * den * 2 ^ (2 * spBits)), den := den * spOne }

/-- sin or cos of a turn fraction t = num/den in [0, 1). -/
def refSin (cosine s : Bool) (num den : Nat) : Ref :=
  let q := 4 * num % den == 0
  let a : Int := 2 * spPi * ((num % den * spOne / den : Nat) : Int) / (spOne : Int)
  let m : Int := -(a * a / (spOne : Int))
  if q then
    let k := 4 * num / den % 4
    let v : Int := if cosine then (match k with | 0 => 1 | 2 => -1 | _ => 0) else (match k with | 1 => 1 | 3 => -1 | _ => 0)
    let v' := if s && ! cosine then -v else v
    { exact := true, s := decide (v' < 0), num := v'.natAbs, den := 1 }
  else
    let v := if cosine then expTerms m 2 100 0 (spOne : Int) else expTerms m 2 100 1 a
    let v' := if s && ! cosine then -v else v
    { exact := false, s := decide (v' < 0), num := v'.natAbs, den := spOne }

/-- tanh x for x = ±num/den, not zero. -/
def refTanh (s : Bool) (num den : Nat) : Ref :=
  let y := 2 * min num (6000 * den) * spOne
  let e := refExp2 false y (den * spLn2.toNat)
  { exact := false, s := s, num := e.num - e.den, den := e.num + e.den }

/-- The value whose magnitude code on a format's extended grid is m (R63). -/
def Fmt.gridVal (f : Fmt) (m : Nat) : Nat × Nat :=
  if m < 2 ^ f.fbits then scaled m f.qmin
  else scaled (2 ^ f.fbits + m % 2 ^ f.fbits) (f.qmin + ((m / 2 ^ f.fbits : Nat) : Int) - 1)

/-- Whether two signed fractions are within a bound. -/
def within (s1 : Bool) (n1 d1 : Nat) (s2 : Bool) (n2 d2 : Nat) (bn bd : Nat) : Bool :=
  let x : Int := (if s1 then -1 else 1) * ((n1 * d2 : Nat) : Int)
  let y : Int := (if s2 then -1 else 1) * ((n2 * d1 : Nat) : Int)
  decide ((x - y).natAbs * bd ≤ bn * (d1 * d2))

/-- The larger of two fractions. -/
def maxFrac (x y : Nat × Nat) : Nat × Nat := if x.1 * y.2 < y.1 * x.2 then y else x

/-- The bound of R132 around an exact value, for .F32 (0) and .F64 (1). -/
def spBound (f : Fmt) (fn ty : Nat) (r : Ref) : Nat × Nat :=
  let ulp (n : Nat) : Nat × Nat := if r.num = 0 then scaled n f.qmin else scaled n (f.spacing r.num r.den)
  let absolute : Nat × Nat := (1, if ty = 0 then 2 ^ 22 else 2 ^ 50)
  match fn with
  | 0 => ulp 2
  | 1 => maxFrac (ulp 2) absolute
  | 5 => absolute
  | 6 => absolute
  | 7 => maxFrac (ulp 2) absolute
  | _ => ulp 1

/-- A magnitude code put into the format: beyond the largest finite value it is an infinity (R64 under rne). -/
def Fmt.bounded (f : Fmt) (s : Bool) (m : Nat) : Nat := if f.maxMag < m then f.infinite s false else f.signed s m

/-- The exact value of a special function at a finite operand, with the sign and the fraction of it. Log entry 9. -/
def spRef (fn : Nat) (s : Bool) (num den : Nat) : Ref :=
  match fn with
  | 0 => refExp2 s num den
  | 1 => refLog2 num den
  | 2 => { exact := true, s := s, num := den, den := num }
  | 3 => refSqrt den num
  | 4 => refSqrt num den
  | 5 => refSin false s num den
  | 6 => refSin true s num den
  | _ => refTanh s num den

/-- A result within the bound (R132): the exact value where it is exact and on the grid; of a packed type one of the
two grid neighbours; otherwise the device's choice `c` (sign in bit 0, magnitude code above it) when it is within the
bound, and the rounded value when it is not. Log entry 9. -/
def spPick (f : Fmt) (fn ty c : Nat) (r : Ref) : Nat :=
  let odd := c % 2 == 1
  let v := f.gridVal (c / 2)
  let b := spBound f fn ty r
  if r.num = 0 then
    (if r.exact = false ∧ ty < 2 ∧ within odd v.1 v.2 r.s 0 1 b.1 b.2 then f.bounded odd (c / 2) else f.signed odd 0)
  else
    let q := f.spacing r.num r.den
    let onGrid := roundAt r.s r.num r.den q 1 0 == roundAt false r.num r.den q 2 0
    let lo := f.roundMag r.s r.num r.den 1 0
    if r.exact ∧ onGrid = true then f.bounded r.s lo
    else if 2 ≤ ty then f.bounded r.s (if onGrid || odd then lo else lo + 1)
    else if within odd v.1 v.2 r.s r.num r.den b.1 b.2 then f.bounded odd (c / 2)
    else f.bounded r.s (f.roundMag r.s r.num r.den 0 0)

/-- One element of a special function (R132, R133). Log entry 9. -/
def specialElem (fn ty x : Nat) : Nat :=
  let f := fmtOf ty
  let one (s : Bool) : Nat := f.round 0 false 0 (.fin s 1 1)
  let nan : Nat := f.round 0 false 0 .canonNan
  let inf (s : Bool) : Nat := f.infinite s false
  let zero (s : Bool) : Nat := f.signed s 0
  match f.value x with
  | .nan s fr fb => f.nan s fr fb
  | .inf s =>
    match fn with
    | 0 => if s then zero false else inf false
    | 1 => if s then nan else inf false
    | 2 => zero s
    | 3 => if s then nan else zero false
    | 4 => if s then nan else inf false
    | 7 => one s
    | _ => nan
  | .fin s n d =>
    if n = 0 then
      match fn with
      | 0 => one false
      | 1 => inf true
      | 2 => inf s
      | 3 => inf s
      | 6 => one false
      | _ => zero s
    else if s = true ∧ (fn = 1 ∨ fn = 3 ∨ fn = 4) then nan
    else spPick f fn ty (Config.special fn ty x) (spRef fn s n d)

/-- A special function in a lane (R132), V class. -/
def specialLane (fn : Nat) (u : LUw) (e : LaneEnv) : LaneOut :=
  floatUnary u (fun _ _ _ x => specialElem fn u.t.toNat x) false e

/-- EXP2 (R132). -/
def execExp2 (u : LUw) (s : State) : Out := .next (laneUnitV (.exp2 u) (specialLane 0 u) s)
/-- LOG2 (R132). -/
def execLog2 (u : LUw) (s : State) : Out := .next (laneUnitV (.log2 u) (specialLane 1 u) s)
/-- RCP (R132). -/
def execRcp (u : LUw) (s : State) : Out := .next (laneUnitV (.rcp u) (specialLane 2 u) s)
/-- RSQ (R132). -/
def execRsq (u : LUw) (s : State) : Out := .next (laneUnitV (.rsq u) (specialLane 3 u) s)
/-- SQRT (R132). -/
def execSqrt (u : LUw) (s : State) : Out := .next (laneUnitV (.sqrt u) (specialLane 4 u) s)
/-- SIN (R132). -/
def execSin (u : LUw) (s : State) : Out := .next (laneUnitV (.sin u) (specialLane 5 u) s)
/-- COS (R132). -/
def execCos (u : LUw) (s : State) : Out := .next (laneUnitV (.cos u) (specialLane 6 u) s)
/-- TANH (R132). -/
def execTanh (u : LUw) (s : State) : Out := .next (laneUnitV (.tanh u) (specialLane 7 u) s)

end Sys2Proof.Machine
end

