-- ==== Sys2Proof/Machine/Attention.lean ====
section
/-!
DEFINITION. Gathers of formes and what goes with them (R240 to R243, R246): KVGATHER and its snapshot, the exact
rotation, ROTQ and ACCEPT.
-/
namespace Sys2Proof.Machine
open Sys2Proof

/-! ### The exact rotation (R242) -/

/-- T[k] of R242, for k up to 4,098. -/
def rotT (k : Nat) : Int :=
  let n := if 4096 < k then 8192 - k else k
  let y := spPi * (n : Int) / 8192
  let v := expTerms (-(y * y / (spOne : Int))) 2 100 1 y
  (v * 2 ^ 30 + (spOne : Int) / 2) / (spOne : Int)

/-- num/den rounded to an integer, ties to even. -/
def roundEven (num : Int) (den : Nat) : Int :=
  let q := num / (den : Int)
  let r := (num % (den : Int)).toNat
  if den < 2 * r then q + 1 else if 2 * r = den ∧ q % 2 ≠ 0 then q + 1 else q

/-- S(z) of R242: the quadratic interpolation, exact and then rounded. -/
def rotS (z : Nat) : Int :=
  let k := z / 2 ^ 50
  let f : Int := ((z % 2 ^ 50 : Nat) : Int)
  let d : Int := 2 ^ 50
  let t0 := rotT k
  let t1 := rotT (k + 1)
  let t2 := rotT (k + 2)
  roundEven (t0 * (2 * d * d) + 2 * d * f * (t1 - t0) + f * (f - d) * (t2 - 2 * t1 + t0)) (2 * 2 ^ 100)

/-- sin and cos of an angle in units of 2^−64 turn, as Q2.30. -/
def rotSin (phi : Nat) : Int :=
  let z := phi % 2 ^ 62
  match phi / 2 ^ 62 % 4 with
  | 0 => rotS z
  | 1 => rotS (2 ^ 62 - z)
  | 2 => - rotS z
  | _ => - rotS (2 ^ 62 - z)
def rotCos (phi : Nat) : Int := rotSin ((phi + 2 ^ 62) % 2 ^ 64)

/-- A Q2.30 value. -/
def q30 (v : Int) : FVal := .fin (decide (v < 0)) v.natAbs (2 ^ 30)

/-- A pair rotated by position p at a rate (R242), each result rounded once. -/
def rotPair (f : Fmt) (p rate : Nat) (x y : FVal) : Nat × Nat :=
  let phi := p * rate % 2 ^ 64
  let c := q30 (rotCos phi)
  let sn := q30 (rotSin phi)
  (f.round 0 false 0 (fSub 0 (fMul 0 x c) (fMul 0 y sn)), f.round 0 false 0 (fAdd 0 (fMul 0 x sn) (fMul 0 y c)))

/-! ### The snapshot of a gather (R240, R241) -/

/-- The elements of a stored row as exact values (R67). -/
def rowValues (fmt hdim : Nat) (bs : List Byte) : List FVal :=
  let byte (i : Nat) : Nat := ((bs[i]?).getD 0).toNat
  (List.range hdim).map (fun k => match fmt with
    | 0 => bf16.value (byte (2 * k) + 256 * byte (2 * k + 1))
    | 1 => e4m3.value (byte k)
    | _ => Dx.dx8.read (bs.drop (34 * (k / 32))) (k % 32))

/-- An operation whose memory errors carry a detail of their own. -/
def fmDetail {α : Type} (j : Job) (det : Nat) (m : FM α) : FM α :=
  tryCatch m (fun x => match x with
    | .unmapped k a => do
      modify (fun s => s.logEngine j a k)
      throw (.status 0x01 det)
    | .poisoned a => do
      modify (fun s => s.logEngine j a 6)
      throw (.status 0x04 det)
    | y => throw y)

/-- The live entry that holds a position. -/
def FWork.at (w : FWork) (p : Nat) : Option (Nat × FEntry) :=
  w.es.find? (fun x => x.2.live && decide (x.2.base ≤ p ∧ p < x.2.base + x.2.len))

/-- The row of a position, none when it is invalid (R241). -/
def fmRow (j : Job) (w : FWork) (p l h : Nat) (v : Bool) (det : Nat) : FM (Option (List Byte)) := do
  let f := w.f
  let host := some (badForme det)
  if 2 ^ 24 ≤ p then return none
  match w.at p with
  | some (e, x) =>
    let t := p - x.base
    fmDetail j (det + e) (do
      let tab ← fmRead j host (f.table e) (4 * x.psize)
      let bits ← if x.psize = 0 then pure 0 else natOfBytes <$> fmRead j host (f.bitmap e l) 32
      match (List.range x.psize).find? (fun sl => cmdNat tab (4 * sl) 4 == t && bits.testBit sl) with
      | some sl => some <$> fmRead j host (f.corrRow e l sl h + natOfBool v * f.row) f.row
      | none =>
        let g ← fmRead j none x.galley 64
        let n := cmdNat g 16 3
        some <$> fmRead j none (cmdNat g 0 8 + f.row * ((l * f.heads + h) * (2 * n) + t) + natOfBool v * (f.row * n)) f.row)
  | none =>
    let top := f.tailbase + f.count
    if f.tailbase ≤ p ∧ p < top ∧ (f.win = false ∨ top ≤ p + f.cap) then
      some <$> fmRead j host (f.tailRow p l h + natOfBool v * (f.row * f.cap)) f.row
    else if top ≤ p ∧ p < top + 16 then
      let fill ← fmRead j host (f.fillMap (p - top)) 128
      if (natOfBytes fill).testBit l then some <$> fmRead j host (f.ovrRow (p - top) l h + natOfBool v * f.row) f.row
      else return none
    else return none

/-- An output row (R241): the stored row decoded exactly, for K rotated by its position, rounded to the output format.
Log entry 69. -/
def gatherRow (fmt hdim : Nat) (v : Bool) (fp32out : Bool) (rates : List Byte) (p : Nat) (row : Option (List Byte)) : List Byte :=
  let o : Fmt := if fp32out then fp32 else bf16
  let n := if fp32out then 4 else 2
  match row with
  | none => List.replicate (n * hdim) 0
  | some bs =>
    let xs := rowValues fmt hdim bs
    if v then xs.flatMap (fun x => bytesOf (o.round 0 false 0 x) n)
    else (List.range (hdim / 2)).flatMap (fun k =>
      let r := rotPair o p (cmdNat rates (8 * k) 8) ((xs[2 * k]?).getD .canonNan) ((xs[2 * k + 1]?).getD .canonNan)
      bytesOf r.1 n ++ bytesOf r.2 n)

/-- What a gather's snapshot gives: the destination length, the output row length, and the validity and bytes of each
participant's row. Log entry 69. -/
def fmSnapshot (j : Job) (wg : Workgroup) (c : List Byte) (v proofed : Bool) (rows : List (Nat × Word)) :
    FM (Nat × Nat × List (Nat × Bool × List Byte)) := do
  let dst := cmdNat c 8 4
  let vm := cmdNat c 16 4
  let l := cmdNat c 20 2
  let h := cmdNat c 22 1
  let ofmt := cmdNat c 23 1
  let det := 256 * (l % 1024)
  let bad := badAt (dst % 16 ≠ 0) 8 ++ badAt (decide (vm % 16 ≠ 0 ∨ wg.scratchSize < vm + 16)) 16 ++ badAt (decide (1 < ofmt)) 23
    ++ nonzeroAt c 24 8
  let w ← tryCatch (fmLoad j (cmdNat c 0 8) none det) (fun x => do fmDecode bad; throw x)
  let f := w.f
  let o := (if ofmt = 0 then 2 else 4) * f.hdim
  let len := match (rows.map (·.1)).foldl max 0, rows with | _, [] => 0 | m, _ => (m + 1) * o
  fmDecode (bad ++ badAt (decide (0 < len ∧ wg.scratchSize < dst + len)) 8 ++ badAt (decide (f.layers ≤ l)) 20
    ++ badAt (decide (f.heads ≤ h)) 22 ++ badAt (decide (32768 < len)) 23)
  if (wg.protectedCode dst len).isSome || (wg.protectedCode vm 16).isSome then throw (.status 0x03 det)
  if rows.isEmpty then return (0, o, [])
  let w ← fmAll j w det
  if proofed ∧ rows.any (fun r => match (if r.2.toNat < 2 ^ 24 then w.at r.2.toNat else none) with
      | some (_, x) => x.state == 1 && decide (x.done ≤ l)
      | none => false) then throw .wait
  let got ← rows.mapM (fun r => do
    let b ← fmRow j w r.2.toNat l h v det
    pure (r.1, r.2.toNat, b))
  let rates ← if v = false ∧ got.any (fun r => r.2.2.isSome) then fmRead j none f.rot (4 * f.hdim) else pure []
  return (len, o, got.map (fun r => (r.1, r.2.2.isSome, gatherRow f.fmt f.hdim v (ofmt == 1) rates r.2.1 r.2.2)))

/-- A gather job ends (R240, R374): a nonzero status goes to its map. -/
def State.endGather (s : State) (j : Job) (map status : Nat) : State :=
  ((((s.releaseJob j map 1).traceDone j 5 status).takeUp j true status).setMapStatus j.wid map status).endJob j

/-- The entries that the participants' positions fall in, whose bits a snapshot reads. -/
def State.gatherEntries (s : State) (j : Job) (c : List Byte) (rows : List (Nat × Word)) : List Nat :=
  match ((do fmAll j (← fmLoad j (cmdNat c 0 8) none 0) 0 : FM FWork).run s).1 with
  | .ok w => rows.filterMap (fun r => (w.at r.2.toNat).map (·.1))
  | .error _ => []
/-- What the snapshot acquires (R241, R297). -/
def State.gatherLearns (s : State) (j : Job) (c : List Byte) (rows : List (Nat × Word)) : View :=
  (s.gatherEntries j c rows).foldl (fun (v : View) e => v.join (s.published (s.formeKey j.part j.ctx j.core (cmdNat c 0 8)) e)) []

/-- A KVGATHER at its snapshot (R241): none when it must wait; else the mask granule, the rows and the chunk bits. -/
def State.gatherEnd (s : State) (j : Job) (c : List Byte) (v proofed : Bool) (rows : List (Nat × Word)) : Option State :=
  let map := cmdNat c 12 4
  let det := 256 * (cmdNat c 20 2 % 1024)
  match s.wg? j.wid with
  | none => some (s.endJob j)
  | some wg =>
    match (fmSnapshot j wg c v proofed rows).run s with
    | (.error .wait, _) => none
    | (.error (.status k d), s1) => some (s1.endGather j map (statusWord k 0x5 d))
    | (.error (.unmapped k a), s1) => some ((s1.logEngine j a k).endGather j map (statusWord 0x01 0x5 det))
    | (.error (.poisoned a), s1) => some ((s1.logEngine j a 6).endGather j map (statusWord 0x04 0x5 det))
    | (.ok (len, o, out), s1) =>
      let mask := out.foldl (fun m r => m + natOfBool r.2.1 * 2 ^ r.1) 0
      let acq := s.gatherLearns j c rows
      let s3 := (s1.jobWrote j acq).jobWrites j j.engine (fun s =>
        out.foldl (fun s r => s.engineScratch j.wid j.pc (cmdNat c 8 4 + r.1 * o) r.2.2 (j.view.join acq))
          (s.engineScratch j.wid j.pc (cmdNat c 16 4) (bytesOf mask 16) (j.view.join acq)))
      let s4 := (List.range ((len + 511) / 512)).foldl (fun s i => (s.releaseJob j map (2 + i)).setChunk j.wid map i) s3
      some (s4.endGather j map 0)

/-- A KVGATHER's action, and the fetches that waited behind it on its forme (R230, R237). Log entry 23. -/
def State.gatherPerform (s : State) (j : Job) (c : List Byte) (v proofed : Bool) (rows : List (Nat × Word)) : Option State :=
  (s.gatherEnd j c v proofed rows).map (fun s1 =>
    s1.serveFetches (s.formeKey j.part j.ctx j.core (cmdNat c 0 8)) (s1.jobs.length + 1))

/-- Whether a gather waits for the items of its entries, its turn having come (R241). -/
def State.gatherWaits (s : State) (j : Job) : Bool :=
  match j.kind with
  | .gather c v true rows => ! s.formeHeld j && (s.gatherEnd j c v true rows).isNone
  | _ => false
/-- A gather marked withdrawn, or in the queue again. -/
def State.setWithdrawn (s : State) (j : Job) (b : Bool) : State :=
  { s with jobs := s.jobs.map (fun k => if k.id = j.id then { k with waited := b } else k) }
/-- The gathers of a context on a core that wait are withdrawn, to be issued again on resume (R241, R353). -/
def State.withdrawGathers (s : State) (p c core : Nat) : State :=
  (s.jobs.filter (fun j => j.part == p && j.ctx == c && j.core == core && s.gatherWaits j)).foldl (fun s j => s.setWithdrawn j true) s
/-- A gather's turn (R241, R347, R353): its snapshot where its condition holds; one that waits is withdrawn while its core
quiesces, and ends with nothing done when its context closes. One that was withdrawn is in the queue again once the core offers
units. -/
def State.gatherTurn (s : State) (j : Job) (c : List Byte) (v proofed : Bool) (rows : List (Nat × Word)) : State :=
  let stops := (s.resident j.part j.ctx j.core).quiescing
  if j.waited && stops then s
  else match s.gatherPerform j c v proofed rows with
    | some t => t
    | none => if (s.context j.part j.ctx).state = .closing then s.endJob j else s.setWithdrawn j stops

/-! ### KVGATHER (R240) -/

/-- KVGATHER of one group: the control block is read at issue, with the participants' positions. -/
def gatherGroup (u : LGather) (s : State) (e : LaneEnv) (ls : List LaneEnv) : State × List Fate :=
  let w := s.wgOf e
  let a := (e.reg u.d.toNat).toNat
  let ps := ls.filter LaneEnv.takes
  let c := (w.readScratch a 32).1
  let map := cmdNat c 12 4
  if a % 32 ≠ 0 ∨ w.scratchSize < a + 32 then (s, allFate ps (.trap (alignTrap 0x9 a)))
  else if ! w.isChunkMap map then (s, allFate ps (.trap (alignTrap 0x9 map)))
  else
    (((s.traceIssue e 5).addJob e (.gather c (u.v == 1) (u.proofed == 1)
      (ps.map (fun x => (x.ti, x.reg u.a.toNat))))).1, [])

/-- KVGATHER. -/
def execKvgather (u : LGather) (s : State) : Out :=
  .next (runUnit (.kvgather u) false none noExtra (groupBody (gatherGroup u)) s)

/-! ### ROTQ (R243) -/

/-- The elements of a register group as pairs: BF16X2 one register each, FP32 two. -/
def rotqPairs (bf : Bool) (size x : Nat) : List (FVal × FVal) :=
  if bf then (List.range size).map (fun r => (bf16.value (elemAt x 16 (2 * r)), bf16.value (elemAt x 16 (2 * r + 1))))
  else (List.range (size / 2)).map (fun r => (fp32.value (elemAt x 32 (2 * r)), fp32.value (elemAt x 32 (2 * r + 1))))

/-- The group that results from a lane's pairs under the rates. Log entry 70. -/
def rotqResult (bf : Bool) (size x p : Nat) (rates : List Byte) : Nat :=
  let f : Fmt := if bf then bf16 else fp32
  packElems (if bf then 16 else 32) ((rotqPairs bf size x).zipIdx.flatMap (fun q =>
    let r := rotPair f p (cmdNat rates (8 * q.2) 8) q.1.1 q.1.2
    [r.1, r.2]))

/-- What one participant's ROTQ comes to, its reads made: a trap, the failing pages of a read with their causes, or registers with
their poison. -/
inductive RotqOut where
  | trap (t : Trap)
  | fault (pages : List (Nat × Nat))
  | result (x : Nat) (poison : Option Nat)

/-- A range read as loads of one thread; every page that fails is told (R362). -/
def laneRead (s : State) (e : LaneEnv) (a n : Nat) : State × Except (Trap ⊕ List (Nat × Nat)) (List Byte × Bool) :=
  if 2 ^ 58 ≤ a then (s, .error (.inl (alignTrap 0x8 (a % 2 ^ 64))))
  else
    let r := s.readVirt e.wg.part e.wg.ctx e.wg.core a n
    (r.1, match r.2 with
      | .fault _ _ => .error (.inr (s.failing e.wg.part e.wg.ctx e.wg.core 0 (pageRuns a n (n / 2 ^ 14 + 2))))
      | .bytes bs p => .ok (bs, p.isSome))

/-- One participant of ROTQ. Log entry 70. -/
def rotqLane (s : State) (e : LaneEnv) (u : LRw) (forme j0 : Nat) (bf : Bool) : State × RotqOut :=
  let size := grp u.w
  let n := if bf then size else size / 2
  let p := (e.reg u.d.toNat).toNat
  if 2 ^ 24 ≤ p then (s, .trap (alignTrap 0xB 0))
  else
    match laneRead s e forme 16 with
    | (s1, .error (.inl t)) => (s1, .trap t)
    | (s1, .error (.inr x)) => (s1, .fault x)
    | (s1, .ok (h, bad)) =>
      if (cmdNat h 3 1 + 1) * 4 < j0 + n then (s1, .trap (alignTrap 0xB 0))
      else
        let a := cmdNat h 8 8 + 8 * j0
        match laneRead s1 e a (8 * n) with
        | (s2, .error (.inl t)) => (s2, .trap t)
        | (s2, .error (.inr x)) => (s2, .fault x)
        | (s2, .ok (rates, worse)) =>
          (s2, .result (rotqResult bf size (e.val u.a.toNat size) p rates)
            (if bad then some forme else if worse then some a else none))

/-- ROTQ of one group. -/
def rotqGroup (u : LRw) (z : Bool) (s : State) (e : LaneEnv) (ls : List LaneEnv) : State × List Fate :=
  let size := grp u.w
  let w := s.wgOf e
  let a := (e.reg u.b.toNat).toNat
  let ps := byLane (ls.filter LaneEnv.takes)
  let c := (w.readScratch a 16).1
  let fmt := cmdNat c 9 1
  let s0 := zeroRest z u.d.toNat size s ls
  if a % 16 ≠ 0 ∨ w.scratchSize < a + 16 ∨ ! (nonzeroAt c 10 6).isEmpty ∨ 1 < fmt ∨ (fmt = 0 ∧ size % 2 ≠ 0) then
    (s0, allFate ps (.trap (alignTrap 0xB 0)))
  else
    let r := ps.foldl (fun (acc : State × List (LaneEnv × RotqOut)) x =>
      let y := rotqLane acc.1 x u (cmdNat c 0 8) (cmdNat c 8 1) (fmt == 1)
      (y.1, acc.2 ++ [(x, y.2)])) (s0, [])
    let traps := r.2.filterMap (fun x => match x.2 with | .trap t => some (x.1.fate (.trap t)) | _ => none)
    let faults := r.2.filterMap (fun x => match x.2 with | .fault ps => some (x.1.fate (.miss 0 ps)) | _ => none)
    let s1 := r.2.foldl (fun (t : State) x => match x.2 with
      | .result v p => t.loadResult x.1 u.d.toNat ((splitWords 0 size v).map (fun y => (y.2, p.isSome))) (p.getD 0)
      | _ => t) r.1
    (s1, traps ++ faults)

/-- ROTQ (R243), V class. -/
def execRotq (u : LRw) (s : State) : Out :=
  .next (runUnit (.rotq u) false none noExtra (groupBody (rotqGroup u (shapeOf (.rotq u)).zero)) s)

/-! ### ACCEPT (R246) -/

/-- The acceptance decision and its NaN flag. -/
def acceptOf (p q u : Nat) : Bool × Bool :=
  if fp32.isNan p || fp32.isNan q || fp32.isNan u then (false, true)
  else if (fp32.value q).isZero then (floatCond fp32 4 p 0, false)
  else
    let t := fp32.round 0 false 0 (fMul 0 (fp32.value u) (fp32.value q))
    if fp32.isNan t then (false, true) else (floatCond fp32 2 t p, false)

/-- ACCEPT. -/
def execAccept (u : LAccept) (s : State) : Out :=
  .next (laneUnit (.accept u) (fun e =>
    let q := if u.w = 1 then (e.reg (u.a.toNat + 1)).toNat else 0x3F800000
    let r := acceptOf (e.reg u.a.toNat).toNat q (e.reg u.b.toNat).toNat
    { regs := [], masks := [(u.k.toNat, r.1), (u.k.toNat + 1, r.2)], draws := 0 }) s)

end Sys2Proof.Machine
end

