-- ==== Sys2Proof/Machine/Image.lean ====
section
/-!
DEFINITION. The save image of a context on a core (R352, R354): what is written to the save area when the context goes
to SAVED, and what is read back from it. Where R352 names what a part holds and not its places, the model lays it out; bytes
that stand for nothing are free. Log entry 37.
-/
namespace Sys2Proof.Machine
open Sys2Proof

/-- Where the image of a core lies: the k-th core of the partition, in ascending number (R352). -/
def State.imageAt (s : State) (p c core : Nat) : Nat :=
  (s.context p c).savearea.toNat + 2 ^ 21 * ((s.coresOf p).findIdx (· == core))

/-- The lane base of a workgroup's footprint. -/
def Workgroup.laneBase (w : Workgroup) : Nat := w.groups.foldl (fun n g => min n g.lanebase) 64
/-- A workgroup's entry in the workgroup table and the pattern tables: eight places a slot, as for group records. -/
def Workgroup.tableIndex (w : Workgroup) : Nat := 8 * w.slot + w.laneBase / 8
/-- The group record of a group (R352). -/
def groupRecord (w : Workgroup) (g : Group) : Nat := 0x151000 + 2048 * (8 * w.slot + g.lanebase / 8)
/-- The registers of thread i of a group (R352). -/
def laneRegs (w : Workgroup) (g : Group) (i : Nat) : Nat := 24576 * w.slot + 384 * (g.lanebase + i)

/-- What a group's first thread sees, for reading system registers. -/
def groupEnv (s : State) (w : Workgroup) (gi : Nat) (g : Group) (ti : Nat) : Option LaneEnv :=
  (g.threads[ti]?).map (fun t =>
    { s := s, wg := w, gi := gi, g := g, ti := ti, t := t, issued := [], parts := [], pfx := none })

/-- One word of the system-register space as a thread reads it (R41, R42): index i, the high words of the 64-bit
registers at the odd index. -/
def sysWord (s : State) (e : LaneEnv) (i : Nat) : Nat :=
  let t := { s with issue := { s.issue with pc := e.t.pc } }
  if i = 0x35 ∨ i = 0x3B then sysRead t e (i - 1) / 2 ^ 32 else sysRead t e i % 2 ^ 32

/-- The bytes of a list of words. -/
def bytesOfWords (ws : List Nat) : List Byte := ws.flatMap (fun w => bytesOf w 4)

/-- The workgroups of a context on a core. -/
def State.wgsOn (s : State) (p c core : Nat) : List Workgroup :=
  s.wgs.filter (fun w => w.part == p && w.ctx == c && w.core == core)

/-! ### Thread records (R266, R352) -/

/-- A park kind's code. -/
def ParkKind.code (k : ParkKind) : Nat :=
  match k with
  | .wait _ _ => 1 | .phase _ _ _ => 2 | .chunk _ _ _ => 3 | .fullEmpty _ _ => 4 | .quire _ => 5 | .sleep _ _ => 6 | .proofw _ => 7
  | .port _ _ => 8 | .inFlight _ => 9 | .handler => 10 | .fault _ => 11 | .delivery _ _ _ _ => 12 | .met _ _ _ => 13

/-- A park's datum, of 128 bits; of a delivery's address the low 56, since sys.trapaddr holds it. -/
def ParkKind.datum (k : ParkKind) : Nat :=
  match k with
  | .wait u d => u.toNat + 2 ^ 32 * natOfBool d
  | .phase o p h => o + 2 ^ 32 * natOfBool h + 2 ^ 33 * natOfBool p
  | .chunk o m h => o + 2 ^ 31 * natOfBool h + 2 ^ 32 * m
  | .fullEmpty a b => a + 2 ^ 32 * b
  | .quire q => q
  | .sleep d h => d % 2 ^ 64 + 2 ^ 64 * natOfBool h
  | .proofw j => j
  | .port st n => n + 2 ^ 32 * natOfBool st
  | .inFlight o => o
  | .handler => 0
  | .fault n => n
  | .delivery v c i a => v.toNat + 2 ^ 32 * (i % 2 ^ 32) + 2 ^ 64 * (a % 2 ^ 56) + 2 ^ 120 * c
  | .met p h q => natOfBool p + 2 * natOfBool h + 4 * (match q with | some n => n + 1 | none => 0)

/-- A park from its code and datum. -/
def parkOf (code d : Nat) : ParkKind :=
  let lo := d % 2 ^ 32
  let hi := d / 2 ^ 32
  match code with
  | 1 => .wait (BitVec.ofNat 32 lo) (hi.testBit 0)
  | 2 => .phase lo (hi.testBit 1) (hi.testBit 0)
  | 3 => .chunk (lo % 2 ^ 31) (hi % 2 ^ 64) (lo.testBit 31)
  | 4 => .fullEmpty lo hi
  | 5 => .quire d
  | 6 => .sleep (d % 2 ^ 64) (d.testBit 64)
  | 7 => .proofw d
  | 8 => .port (hi.testBit 0) lo
  | 9 => .inFlight d
  | 10 => .handler
  | 11 => .fault d
  | 12 => .delivery (BitVec.ofNat 32 lo) (d / 2 ^ 120 % 256) (hi % 2 ^ 32) (d / 2 ^ 64 % 2 ^ 56)
  | _ => .met (d.testBit 0) (d.testBit 1) (if d / 4 = 0 then none else some (d / 4 - 1))

/-- The words of a thread record: PC, state, depth, the return entries, k bits, unwaited set, stream counter, resume PC and
park datum. -/
def Thread.record (t : Thread) : List Nat :=
  let run := match t.run with | .ready => 0 | .parked k _ => 1 + 16 * k.code | .exited => 2
  let datum := match t.run with | .parked k _ => k.datum | _ => 0
  [t.pc.toNat, run + 2 ^ 8 * natOfBool t.handler + 2 ^ 9 * natOfBool t.stopped + 2 ^ 10 * natOfBool t.offered + 2 ^ 11 * natOfBool (t.pass == some t.pc),
    t.depth]
    ++ (List.range 16).map (fun i => ((t.stack[i]?).getD 0).toNat) ++ [t.k.toNat]
    ++ (List.range 5).map (fun i => (List.range 32).foldl (fun n b => n + 2 ^ b * natOfBool (t.unwaited.contains (32 * i + b))) 0)
    ++ [t.stream % 2 ^ 32, t.stream / 2 ^ 32 % 2 ^ 32, t.resume.toNat]
    ++ (List.range 4).map (fun i => datum / 2 ^ (32 * i) % 2 ^ 32)

/-- A thread as its record has it. -/
def Thread.ofRecord (t : Thread) (word : Nat → Nat) : Thread :=
  let st := word 1
  let depth := word 2 % 128
  let set := match t.run with | .parked _ n => n | _ => 0
  let datum := word 28 + 2 ^ 32 * word 29 + 2 ^ 64 * word 30 + 2 ^ 96 * word 31
  { t with
    pc := BitVec.ofNat 32 (word 0), depth := depth
    stack := (List.range (min depth 16)).map (fun i => BitVec.ofNat 32 (word (3 + i)))
    k := BitVec.ofNat 8 (word 19) &&& 0xFE#8
    unwaited := (List.range 160).filter (fun n => (word (20 + n / 32)).testBit (n % 32))
    stream := word 25 + 2 ^ 32 * word 26, resume := BitVec.ofNat 32 (word 27)
    run := match st % 4 with | 0 => .ready | 1 => .parked (parkOf (st / 16 % 16) datum) set | _ => .exited
    handler := st.testBit 8, stopped := st.testBit 9, offered := st.testBit 10, pass := if st.testBit 11 then some (BitVec.ofNat 32 (word 0)) else none }

/-! ### The parts of an image -/

/-- Bits as bytes. -/
def bytesOfBits (n : Nat) (f : Nat → Bool) : List Byte :=
  (List.range n).map (fun i => BitVec.ofNat 8 ((List.range 8).foldl (fun x b => x + 2 ^ b * natOfBool (f (8 * i + b))) 0))
/-- The numbers of the bits that are set in bytes read from an address, as a map of booleans. -/
def State.bitsAt (s : State) (a n : Nat) : SMap Bool :=
  ((List.range (8 * n)).filter (fun i => (natOfBytes (s.readPhys (a + i / 8) 1 0).1).testBit (i % 8))).map (fun i => (i, true))

/-- The thread record of a thread. -/
def threadRecord (w : Workgroup) (g : Group) (i : Nat) : Nat := 0x131000 + 128 * (64 * w.slot + g.lanebase + i)

/-- A registered object as a barrier slot holds it: 16 bytes. -/
def slotBytes (index a : Nat) (o : Obj) : List Byte :=
  match o with
  | .barrier code errors waiters => bytesOf a 4 ++ bytesOf 1 1 ++ bytesOf index 1 ++ bytesOf waiters.toNat 2 ++ bytesOf code.toNat 4 ++ bytesOf errors 4
  | .chunkMap => bytesOf a 4 ++ bytesOf 2 1 ++ bytesOf index 1 ++ List.replicate 10 0

/-- The objects that the barrier slots hold for a workgroup. -/
def State.slotObjects (s : State) (at_ index : Nat) : List (Nat × Obj) :=
  (List.range 64).filterMap (fun i =>
    let n (o k : Nat) : Nat := natOfBytes (s.readPhys (at_ + 0x12D000 + 16 * i + o) k 0).1
    if n 5 1 ≠ index then none
    else match n 4 1 with
      | 1 => some (n 0 4, .barrier (BitVec.ofNat 32 (n 8 4)) (n 12 4) (BitVec.ofNat 16 (n 6 2)))
      | 2 => some (n 0 4, .chunkMap)
      | _ => none)

/-- The parts of a workgroup. -/
def State.workgroupParts (s : State) (w : Workgroup) : List (Nat × List Byte) :=
  (0x060000 + w.scratchBase, SMap.read w.scratch 0 w.scratchSize 0)
    :: (0x12C000 + w.scratchBase / 128, bytesOfBits (w.scratchSize / 128) (fun i => SMap.get w.full i false))
    :: (0x130000 + 32 * w.tableIndex, bytesOf (natOfBool w.started + 2 * natOfBool w.retired) 4 ++ bytesOf w.handle 4 ++ bytesOf w.wglin 4
          ++ bytesOf w.entry.toNat 4 ++ bytesOf w.consts 8 ++ bytesOf w.scratchBase 4 ++ bytesOf w.scratchSize 4)
    :: (0x191000 + 2048 * w.tableIndex, SMap.read w.patterns 0 2048 0)
    :: w.groups.zipIdx.flatMap (fun g =>
      (groupRecord w g.1,
          bytesOfWords ((List.range 32).map (fun n => (g.1.greg n).toNat)) ++
          bytesOfWords ((List.range 64).map (fun i => match groupEnv s w g.2 g.1 0 with
            | some e => sysWord s e i
            | none => 0)) ++
          SMap.read g.1.shapes 0 1536 0)
        :: g.1.threads.zipIdx.flatMap (fun t =>
          [(laneRegs w g.1 t.2, bytesOfWords ((SMap.read t.1.v 0 96 0).map BitVec.toNat)),
           (threadRecord w g.1 t.2, bytesOfWords t.1.record)]))

/-- The parts of a context's array state on a core. -/
def State.residentParts (s : State) (r : Resident) : List (Nat × List Byte) :=
  r.tiles.zipIdx.flatMap (fun t =>
      [(0x0E0000 + 0xC000 * t.2, (SMap.read t.1.elems 0 4096 0).flatMap (fun x => bytesOf x.toNat 12)),
       (0x12D400 + 8 * t.2, bytesOf (natOfBool t.1.integer) 4 ++ bytesOf t.1.corrected 4),
       (0x12D800 + 512 * t.2, bytesOfBits 512 (fun i => SMap.get t.1.poison i false))])
    ++ r.planes.zipIdx.flatMap (fun b =>
      [(0x110000 + 0x6000 * b.2, SMap.read b.1.bytes 0 0x6000 0), (0x12D420 + 8 * b.2, bytesOf b.1.fmt 4 ++ bytesOf (natOfBool b.1.bad) 4)])
    ++ r.paradigms.zipIdx.flatMap (fun d =>
      [(0x11C000 + 0x4000 * d.2, SMap.read (d.1.getD []) 128 0x4000 0),
       (0x12E000 + 0x100 * d.2, bytesOf (natOfBool d.1.isSome) 1 ++ List.replicate 127 0 ++ SMap.read (d.1.getD []) 0 128 0)])
    ++ r.quires.map (fun q => (0x12E800 + 8 * q.q, bytesOf q.tokens 2 ++ bytesOf (s.occupancy r.part r.ctx r.core q.q) 4))

/-- Work in the engines that goes on while its context is not ACTIVE (R354). -/
def JobKind.goesOn (k : JobKind) : Bool :=
  match k with
  | .stream _ _ _ _ => true
  | .tierpf _ _ _ => true
  | _ => false
/-- Whether a job is in the engine queues of a context on a core that an image holds (R352, R354). -/
def Job.inQueue (j : Job) (p c core : Nat) : Bool := j.part == p && j.ctx == c && j.core == core && j.kind.goesOn
/-- The engine queues of a context on a core: each job's number plus 1, oldest first. -/
def State.queuePart (s : State) (p c core : Nat) : List Byte :=
  ((s.jobs.filter (·.inQueue p c core)).flatMap (fun j => bytesOf (j.id + 1) 8)).take 4096

/-- The parts of an image, as offsets and bytes. -/
def State.imageParts (s : State) (p c core : Nat) : List (Nat × List Byte) :=
  let ws := s.wgsOn p c core
  ws.flatMap s.workgroupParts
    ++ [(0x12D000, ((ws.flatMap (fun w => w.objects.map (fun o => slotBytes w.tableIndex o.1 o.2))).flatMap id).take 1024)]
    ++ [(0x12F000, s.queuePart p c core)] ++ s.residentParts (s.resident p c core)

/-- Bytes of an image that stand for nothing: offset and length (R352). Log entry 37. -/
def imageOpen : List (Nat × Nat) := [(0x12C000, 0x25000)]

/-- The image written to the save area, under version 0 (R352, R359). Log entry 37. -/
def State.saveImage (s : State) (p c core : Nat) : State :=
  let at_ := s.imageAt p c core
  let open_ := imageOpen.map (fun o => (o.1, (List.range o.2).map (fun i =>
    if 0x12D000 ≤ o.1 + i ∧ o.1 + i < 0x130000 then 0 else Config.outsideByte s.draws (o.1 + i))))
  (open_ ++ s.imageParts p c core).foldl (fun s x => s.writePhys (at_ + x.1) x.2 0) s

/-! ### What an image holds, read back -/

/-- The registers that are the workgroup's, the launch's or the context's, with their widths (R42). -/
def keptRegs : List (Nat × Nat) :=
  [(0x02, 4), (0x06, 4), (0x08, 32), (0x09, 32), (0x0A, 32), (0x0B, 32), (0x0C, 4), (0x10, 32), (0x11, 32), (0x12, 32), (0x13, 32),
   (0x14, 32), (0x23, 16), (0x24, 3), (0x25, 1)]
/-- Those that a group's record gives another value (R41, R42). -/
def Group.overrides (s : State) (w : Workgroup) (gi : Nat) (g : Group) (sys : Nat → Nat) : SMap Word :=
  match groupEnv s w gi g 0 with
  | none => []
  | some e => (keptRegs.filter (fun x => sys x.1 % 2 ^ x.2 ≠ sysValue s e x.1)).map
      (fun x => (x.1, BitVec.ofNat 32 (sys x.1 % 2 ^ x.2)))

/-- A group with its record, and its threads with their registers and records, as an image holds them. -/
def Group.fromImage (s : State) (at_ : Nat) (w : Workgroup) (gi : Nat) (g : Group) : Group :=
  let o := at_ + groupRecord w g
  let word (n : Nat) : Nat := natOfBytes (s.readPhys (o + 4 * n) 4 0).1
  let sys (i : Nat) : Nat := word (32 + i)
  { g with
    lanebase := sys 0x00 % 64, width := sys 0x01 % 128, role := sys 0x03 % 4, budget := sys 0x04 % 128, tbase := sys 0x05 % 1024
    g := (List.range 32).foldl (fun m n => if n = 0 then m else SMap.set m n (BitVec.ofNat 32 (word n)) 0) []
    trapvec := BitVec.ofNat 32 (sys 0x30), trapcause := BitVec.ofNat 8 (sys 0x31), trappc := BitVec.ofNat 32 (sys 0x32)
    traplane := BitVec.ofNat 6 (sys 0x33), trapaddr := BitVec.ofNat 64 (sys 0x34 + 2 ^ 32 * sys 0x35)
    trapinfo := BitVec.ofNat 32 (sys 0x36), spill := BitVec.ofNat 32 (bitsOf (sys 0x38) 18 8 * 256)
    seed := BitVec.ofNat 64 (sys 0x3A + 2 ^ 32 * sys 0x3B), sys := Group.overrides s w gi g sys
    shapes := SMap.write [] 0 (s.readPhys (o + 0x180) 1536 0).1 0
    threads := g.threads.zipIdx.map (fun t =>
      let u := t.1.ofRecord (fun n => natOfBytes (s.readPhys (at_ + threadRecord w g t.2 + 4 * n) 4 0).1)
      { u with v := SMap.write [] 0 ((List.range 96).map (fun n =>
          BitVec.ofNat 32 (natOfBytes (s.readPhys (at_ + laneRegs w g t.2 + 4 * n) 4 0).1))) 0 }) }

/-- A workgroup's launch as a handle in its entry names it: the count nearest to the one it had. -/
def Workgroup.ofHandle (w : Workgroup) (h : Nat) : Nat × Nat :=
  if h = w.handle then (w.queue, w.count) else (h / 2 ^ 24 % 256, w.count / 2 ^ 24 * 2 ^ 24 + h % 2 ^ 24)

/-- A workgroup as an image holds it. Log entry 37. -/
def Workgroup.fromImage (s : State) (at_ : Nat) (w : Workgroup) : Workgroup :=
  let entry (o n : Nat) : Nat := natOfBytes (s.readPhys (at_ + 0x130000 + 32 * w.tableIndex + o) n 0).1
  let base := entry 24 4 % 2 ^ 19
  let size := min (entry 28 4) (2 ^ 19 - base)
  let launch := w.ofHandle (entry 4 4)
  { w with
    started := (entry 0 1).testBit 0, retired := (entry 0 1).testBit 1, queue := launch.1, count := launch.2, wglin := entry 8 4
    scratchBase := base, scratchSize := size
    scratch := SMap.write [] 0 (s.readPhys (at_ + 0x060000 + base) size 0).1 0
    full := s.bitsAt (at_ + 0x12C000 + base / 128) (size / 128)
    entry := BitVec.ofNat 32 (entry 12 4), consts := entry 16 8
    objects := s.slotObjects at_ w.tableIndex
    patterns := SMap.write [] 0 (s.readPhys (at_ + 0x191000 + 2048 * w.tableIndex) 2048 0).1 0
    groups := w.groups.zipIdx.map (fun g => Group.fromImage s at_ w g.2 g.1) }

/-- The array state of a context as an image holds it; a quire whose tokens and occupancy are 0 there comes back ABSENT (R351).
Log entry 37. -/
def Resident.fromImage (s : State) (at_ : Nat) (r : Resident) : Resident :=
  let n (o k : Nat) : Nat := natOfBytes (s.readPhys (at_ + o) k 0).1
  { r with
    tiles := r.tiles.zipIdx.map (fun t =>
      { integer := (n (0x12D400 + 8 * t.2) 4).testBit 0, corrected := n (0x12D404 + 8 * t.2) 4
        poison := s.bitsAt (at_ + 0x12D800 + 512 * t.2) 512
        elems := SMap.write [] 0 ((List.range 4096).map (fun k => BitVec.ofNat 96 (n (0x0E0000 + 0xC000 * t.2 + 12 * k) 12))) 0 })
    planes := r.planes.zipIdx.map (fun b =>
      { fmt := n (0x12D420 + 8 * b.2) 4, bad := (n (0x12D424 + 8 * b.2) 4).testBit 0
        bytes := SMap.write [] 0 (s.readPhys (at_ + 0x110000 + 0x6000 * b.2) 0x6000 0).1 0 })
    paradigms := r.paradigms.zipIdx.map (fun d =>
      if (n (0x12E000 + 0x100 * d.2) 1).testBit 0 then
        some (SMap.write [] 0 ((s.readPhys (at_ + 0x12E080 + 0x100 * d.2) 128 0).1 ++ (s.readPhys (at_ + 0x11C000 + 0x4000 * d.2) 0x4000 0).1) 0)
      else none)
    quires := r.quires.map (fun q =>
      let x : Quire := { q with tokens := n (0x12E800 + 8 * q.q) 2 % 256 }
      if x.tokens = 0 ∧ n (0x12E802 + 8 * q.q) 4 = 0 then x.evict else x) }

/-- The numbers of the jobs that an image's engine queues hold. -/
def State.queuedJobs (s : State) (at_ : Nat) : List Nat :=
  (List.range 512).filterMap (fun i => match natOfBytes (s.readPhys (at_ + 0x12F000 + 8 * i) 8 0).1 with
    | 0 => none
    | n + 1 => some n)

/-- The image read back: what software has written there is what the context resumes with (R352). Log entry 37. -/
def State.loadImage (s : State) (p c core : Nat) : State :=
  let at_ := s.imageAt p c core
  let s1 : State :=
    { s with
      wgs := s.wgs.map (fun (w : Workgroup) => if w.part = p ∧ w.ctx = c ∧ w.core = core then w.fromImage s at_ else w)
      jobs := s.jobs.filter (fun j => ! j.inQueue p c core || (s.queuedJobs at_).contains j.id) }
  s1.modResident p c core (fun r => r.fromImage s at_)

/-- A change made where the context's state lies (R354): in the core or a frame, or in the image of a SAVED context. -/
def State.inPlace (s : State) (p c core : Nat) (f : State → State) : State :=
  if (s.resident p c core).loc = .saved then (f (s.loadImage p c core)).saveImage p c core else f s

end Sys2Proof.Machine
end

