-- ==== Sys2Proof/Machine/Jobs.lean ====
section
/-!
DEFINITION. Asynchronous work as the machine carries it out: the order that footprints give jobs (R210, R214, R231), when
a piece of work may act, and the events in which it acts (R85, R158, R178, R208, R209, R211, R215, R229, R241).
-/
namespace Sys2Proof.Machine
open Sys2Proof

/-! ### Footprints (R210, R214, R231) -/

/-- The scratch of a workgroup as a space. -/
def scratchSpan (wid a n : Nat) : Span := { space := 2 + wid, lo := a, len := n }

/-- A vault range of a workgroup as a span of the module's vaults. -/
def Workgroup.vaultSpan (w : Workgroup) (a n : Nat) : List Span :=
  match w.vaultHome (a / 2 ^ 23) with
  | some h => [{ space := 1, lo := vaultKey h.1 (h.2 + a % 2 ^ 23), len := n }]
  | none => []

/-- The bytes that chunk i of a streamer job reads, as the smallest interval, and those it writes. -/
def chunkSpans (w : Workgroup) (c shape : List Byte) (i : Nat) : List Span × List Span :=
  let lo := 512 * i
  let hi := min (512 * i + 512) (smLen c)
  let offs := smAddrs c shape i
  let rd := match lowest offs with
    | none => []
    | some a =>
      let n := offs.foldl max 0 + smZs c - a
      if smVaultSrc c then w.vaultSpan a n else [{ space := 0, lo := a, len := n }]
  (rd, if smVaultDst c then w.vaultSpan (smDst c + lo) (hi - lo) else [scratchSpan w.wid (smDst c + lo) (hi - lo)])

/-- Heads and row length of the forme a command names, 0 when its header does not read. -/
def State.formeRow (s : State) (j : Job) (va : Nat) : Nat × Nat × Nat :=
  match (s.readVirt j.part j.ctx j.core va 128).2 with
  | .bytes h _ =>
    let f := Forme.decode va 0 h
    (f.heads, f.row, f.hdim)
  | .fault _ _ => (0, 0, 0)

/-- What a job has still to read and to write; of a streamer job, chunk `chunk` alone when it is given. Log entry 22. -/
def State.spansOf (s : State) (j : Job) (chunk : Option Nat) : List Span × List Span :=
  match s.wg? j.wid with
  | none => ([], [])
  | some w =>
    match j.kind with
    | .stream c shape _ done =>
      let is_ := match chunk with
        | some i => [i]
        | none => (List.range (smChunks c)).filter (fun i => ! done.contains i)
      (is_.flatMap (fun i => (chunkSpans w c shape i).1), is_.flatMap (fun i => (chunkSpans w c shape i).2))
    | .mlatb image _ fmt _ => ([scratchSpan w.wid image (64 * mmRow fmt)], [])
    | .mma fmt _ _ _ _ rows =>
      match lowest (rows.map (·.2)) with
      | none => ([], [])
      | some a => ([scratchSpan w.wid a ((rows.map (·.2)).foldl max 0 + mmRow fmt - a)], [])
    | .mstore _ ty dst _ c1 => ([], [scratchSpan w.wid dst (msLen ty c1)])
    | .forme major _ c _ =>
      let r := s.formeRow j (cmdNat c 0 8)
      let k := match major with
        | 0x4C => cmdNat c 10 1 + 1
        | 0x4E => cmdNat c 14 1 + 1
        | 0x4F => cmdNat c 14 1 + 1
        | _ => 0
      (if k = 0 then [] else [scratchSpan w.wid (cmdNat c (if major = 0x4C then 16 else 8) 4) (k * r.1 * (2 * r.2.1))], [])
    | .gather c _ _ rows =>
      let o := (if cmdNat c 23 1 = 0 then 2 else 4) * (s.formeRow j (cmdNat c 0 8)).2.2
      let m := (rows.map (·.1)).foldl max 0
      ([], [scratchSpan w.wid (cmdNat c 8 4) (if rows.isEmpty then 0 else (m + 1) * o), scratchSpan w.wid (cmdNat c 16 4) 16])
    | _ => ([], [])

/-- Whether one access must follow another: what is written meets what was read or written, or what is read meets what
was written. Log entry 22. -/
def spansClash (later earlier : List Span × List Span) : Bool :=
  spansMeet later.2 (earlier.1 ++ earlier.2) || spansMeet later.1 earlier.2

/-! ### When work may act -/

/-- Whether two copies go to the same place (R158, R252). Log entry 38. -/
def JobKind.sameCopy (a b : JobKind) : Bool := match a, b with | .copy x i _, .copy y k _ => x == y && i == k | _, _ => false

/-- Whether a job, or one chunk of it, may act now: footprints (R210), tiles and planes (R213), formes (R230), copies to
one place in their order. All but a streamer job or a prefetch needs its context ACTIVE (R349, R353, R354).
Log entry 22. -/
def State.jobReady (s : State) (j : Job) (chunk : Option Nat) : Bool :=
  let mine := s.spansOf j chunk
  ! (s.before j).any (fun k => spansClash mine (s.spansOf k none) || j.kind.after k.kind
      || (j.kind.sameCopy k.kind && (k.wid == j.wid && k.gi == j.gi || (match j.kind with | .copy 2 _ _ => true | _ => false))))
    && ! s.formeHeld j
    && (j.kind.goesOn || (s.resident j.part j.ctx j.core).loc == .active)

/-! ### Results (R85, R194, R223, R226, R239) -/

/-- Jobs that a result's return makes act. Log entry 59. -/
def JobKind.isRead (k : JobKind) : Bool :=
  match k with | .mread _ _ _ _ _ _ => true | .mstat _ => true | .prstat _ _ _ _ => true | _ => false

/-- A reading job acts: its results become known. Log entry 59. -/
def State.actRead (s : State) (j : Job) : State :=
  match j.kind with
  | .mread d t ty m sat rows => s.mreadAct j d t ty m sat rows
  | .mstat t => s.mstatAct j t
  | .prstat va key x pages => s.prstatAct j va key x pages
  | _ => s

/-- The outstanding result that an event names. -/
def State.result? (s : State) (u : EvResult) : Option Pending :=
  match s.group? u.wid u.gi with
  | none => none
  | some g => if u.ti < g.width then (g.threads[u.ti]?).bind (fun t => t.pending[u.idx]?) else g.gPending[u.idx]?

/-- Whether a result may return now. -/
def State.returnable (s : State) (u : EvResult) : Bool :=
  match s.result? u with
  | none => false
  | some p => ! p.returned && (p.known || (match s.job? p.job with
      | some j => j.kind.isRead && s.jobReady j none
      | none => false))

/-- One result marked returned. Log entry 59. -/
def State.markReturned (s : State) (u : EvResult) : State :=
  let mark (ps : List Pending) : List Pending := ps.modify u.idx (fun p => { p with returned := true })
  s.modGroup u.wid u.gi (fun g =>
    if u.ti < g.width then { g with threads := g.threads.modify u.ti (fun t => { t with pending := mark t.pending }) }
    else { g with gPending := mark g.gPending })

/-- Whether a byte of a space lies in a poisoned granule. -/
def State.poisonIn (s : State) (w : Workgroup) (space a : Nat) : Bool :=
  if space = 0 then s.memPoison.get (a / 32) false
  else if space = 1 then s.vaultPoison.get (a / 16) false else w.scratchPoison.get (a / 16) false
/-- A load that has still to be performed, performed as its results return (R281, R286): each byte may come from a store no
earlier than the one found at issue. What has been poisoned since keeps what was found. Log entry 1. -/
def State.performLoad (s : State) (w : Workgroup) (gi : Nat) (g : Group) (ti : Nat) (t : Thread) (ld : Load) : State :=
  let u := { t with loads := t.loads.filter (fun l => l.ord != ld.ord) }
  let e : LaneEnv := { s := s, wg := w, gi := gi, g := g, ti := ti, t := u, issued := [], parts := [], pfx := none }
  let p : Spot := { e := e, space := ld.space, sz := if ld.space < 2 then 8 else 16, addr := ld.addr, place := ld.place, n := ld.size,
                    strong := ld.strong }
  let s1 := s.modThread w.wid gi ti (fun _ => u)
  if (List.range ld.size).any (fun i => s.poisonIn w ld.space (ld.place + i)) then
    s1.modThread w.wid gi ti (fun t => t.take ld.seen ld.acq)
  else
    let see (i : Nat) : List Byte × Nat × Stored := s.seeIn w ld.space (ld.place + i) ld.ver e.agent.reader
      (max (u.bound (p.va i) (p.loc i)) ((ld.picks[i]?).getD 0)) u.view (p.key i)
    let ws := wordsSeen ld.place p.sz ld.size see
    (s1.observeSpot s w p see none).modThread w.wid gi ti (fun t =>
      { t with pending := t.pending.map (fun q =>
          if q.ord = ld.ord ∧ ld.reg ≤ q.reg then { q with value := (ws[q.reg - ld.reg]?).getD q.value } else q) })
/-- The load that a result of a thread belongs to performed, if it has still to be. -/
def State.performLoadOf (s : State) (u : EvResult) (ord : Nat) : State :=
  match s.wg? u.wid with
  | none => s
  | some w => match w.groups[u.gi]? with
    | none => s
    | some g => match g.threads[u.ti]? with
      | none => s
      | some t => match t.loads.find? (fun l => l.ord == ord) with
        | some ld => s.performLoad w u.gi g u.ti t ld
        | none => s

/-- RESULT_RETURN (R85): a result returns; sets whose results are all back wake. -/
def execResultReturn (u : EvResult) (s : State) : Out :=
  .next (
    if s.returnable u then
      let s1 := match s.result? u with
        | some p => if p.known then (if p.job = 0 then s.performLoadOf u p.ord else s)
          else (match s.job? p.job with | some j => s.actRead j | none => s)
        | none => s
      (s1.markReturned u).wakeWaits u.wid
    else s)

/-! ### Sleep (R178) -/

/-- A sleeping thread of a set whose deadline has come: its park is met. -/
def Thread.dawn (t : Thread) (now set : Nat) : Thread :=
  match t.run with
  | .parked (.sleep dl h) n => if n = set ∧ dl ≤ now then { t with run := .parked (.met true h none) n } else t
  | _ => t

/-- SLEEP_WAKE: the deadlines that have come in the set of a sleeping thread are met, and the set wakes past its unit once all
have (R267). -/
def execSleepWake (u : EvThread) (s : State) : Out :=
  .next (
    match s.thread? u.wid u.gi u.ti with
    | some t => (match t.run with
        | .parked (.sleep dl _) set =>
          if dl ≤ s.time.toNat then (s.modWg u.wid (·.mapThreads (·.dawn s.time.toNat set))).wakeWaits u.wid else s
        | _ => s)
    | none => s)

/-! ### Copies (R158, R252) -/

/-- COPY_COMPLETE: a shape entry, pattern table or paradigm slot receives its bytes; the units that wait for it in the issue
stage are eligible again. -/
def execCopyComplete (u : EvJob) (s : State) : Out :=
  .next (
    match s.job? u.job with
    | some j => (match j.kind with
        | .copy what i bs =>
          if s.jobReady j none then
            let s1 := match what with
              | 0 => s.modGroup j.wid j.gi (fun g => { g with shapes := SMap.write g.shapes (96 * i) bs 0 })
              | 1 => s.modWg j.wid (fun w => { w with patterns := SMap.write w.patterns (256 * i) bs 0 })
              | _ => s.modResident j.part j.ctx j.core (fun r =>
                  { r with paradigms := r.paradigms.set i (if bs.isEmpty then none else some (SMap.write [] 0 bs 0)) })
            s1.endJob j
          else s
        | _ => s)
    | none => s)

/-! ### The streamer, the tier engine and the matrix engine -/

/-- A job that an event names, ready to act. Log entry 78. -/
def State.readyJob (s : State) (id : Nat) (f : State → Job → State) : State :=
  match s.job? id with
  | some j => if s.jobReady j none then f s j else s
  | none => s

/-- A change that a job makes where its context's state lies (R354). Log entry 78. -/
def State.jobInPlace (s : State) (j : Job) (f : State → State) : State := s.inPlace j.part j.ctx j.core f

/-- STREAMER_JOB_CHECK (R209). -/
def execStreamerJobCheck (u : EvJob) (s : State) : Out :=
  .next (match s.job? u.job with
    | some j => (match j.kind with
        | .stream cmd shape none _ => s.jobInPlace j (fun s => s.streamCheck j cmd shape)
        | _ => s)
    | none => s)

/-- CHUNK_WRITE (R208). -/
def execChunkWrite (u : EvChunk) (s : State) : Out :=
  .next (match s.job? u.job with
    | some j => (match j.kind with
        | .stream cmd shape (some pages) done =>
          if decide (u.chunk < smChunks cmd) && ! done.contains u.chunk && s.jobReady j (some u.chunk) then
            s.jobInPlace j (fun s => s.streamChunk j cmd shape pages done u.chunk)
          else s
        | _ => s)
    | none => s)

/-- TIERPF_ARRIVAL (R211). -/
def execTierpfArrival (u : EvJob) (s : State) : Out :=
  .next (s.readyJob u.job (fun s j => match j.kind with
    | .tierpf b n _ => s.jobInPlace j (fun s => s.tierpfEnd j b n)
    | _ => s))

/-- MLATB_LATCH (R219). -/
def execMlatbLatch (u : EvJob) (s : State) : Out :=
  .next (s.readyJob u.job (fun s j => match j.kind with | .mlatb i _ f p => s.mlatbAct j i f p | _ => s))

/-- MMA_PASS (R222): one group's operation. Passes fuse octets of groups for time alone, since the rows of a tile that
two groups name are distinct or act in their order. -/
def execMmaPass (u : EvJob) (s : State) : Out :=
  .next (s.readyJob u.job (fun s j => match j.kind with | .mma f t p rb _ rows => s.mmaAct j f t p rb rows | _ => s))

/-- MSTORE_WRITE (R225). -/
def execMstoreWrite (u : EvJob) (s : State) : Out :=
  .next (s.readyJob u.job (fun s j => match j.kind with | .mstore t ty d c0 c1 => s.mstoreAct j t ty d c0 c1 | _ => s))

/-! ### The forme unit and the gather path -/

/-- One asynchronous operation of the forme unit at its point (R230), when it is the one that an event names. -/
def State.formeEvent (s : State) (id : Nat) (majors : List Nat) : State :=
  s.readyJob id (fun s j => match j.kind with
    | .forme m c cmd _ => if majors.contains m then (s.formePerform j m c cmd).getD s else s
    | _ => s)

/-- GSEAL_PERFORM (R233). -/
def execGsealPerform (u : EvJob) (s : State) : Out := .next (s.formeEvent u.job [0x48])
/-- IMPOSE_PERFORM (R234). -/
def execImposePerform (u : EvJob) (s : State) : Out := .next (s.formeEvent u.job [0x49])
/-- DISTRIB_PERFORM (R236). -/
def execDistribPerform (u : EvJob) (s : State) : Out := .next (s.formeEvent u.job [0x4A])
/-- PROOFPUB_PERFORM (R238). -/
def execProofpubPerform (u : EvJob) (s : State) : Out := .next (s.formeEvent u.job [0x4C])
/-- KVAPPEND_PERFORM (R244). -/
def execKvappendPerform (u : EvJob) (s : State) : Out := .next (s.formeEvent u.job [0x4E])
/-- SPECAPP_PERFORM (R244). -/
def execSpecappPerform (u : EvJob) (s : State) : Out := .next (s.formeEvent u.job [0x4F])
/-- COMMIT_PERFORM (R244, R245). -/
def execCommitPerform (u : EvJob) (s : State) : Out := .next (s.formeEvent u.job [0x50])

/-- KVGATHER_SNAPSHOT (R241). Log entry 23. -/
def execKvgatherSnapshot (u : EvJob) (s : State) : Out :=
  .next (s.readyJob u.job (fun s j => match j.kind with
    | .gather c v p rows => s.gatherTurn j c v p rows
    | _ => s))

/-- EPOCH_END (R390) of a stack. -/
def execEpochEnd (u : EvNat) (s : State) : Out := .next (s.epochEnd u.n)

end Sys2Proof.Machine
end

