-- ==== Sys2Proof/Machine/Retire.lean ====
section
/-!
DEFINITION. The end of threads, groups and workgroups (R162, R180, R314, R315, R332).
-/
namespace Sys2Proof.Machine
open Sys2Proof

/-- A thread that has ended: its outstanding results and its return stack are gone. -/
def Thread.ended (t : Thread) : Thread :=
  { t with run := .exited, pending := [], unwaited := [], marks := [], stack := [], depth := 0, handler := false, stopped := false, age := 0 }

/-- One thread ended; threads that its handler held are offered again. -/
def State.exitThread (s : State) (wid gi ti : Nat) : State :=
  (s.modThread wid gi ti Thread.ended).releaseHeld wid gi

/-- Whether every thread has exited. -/
def Group.ended (g : Group) : Bool := g.threads.all (fun t => t.run == .exited)
def Workgroup.ended (w : Workgroup) : Bool := w.groups.all Group.ended

/-- Whether a result of a job is still outstanding. -/
def State.awaited (s : State) (j : Job) : Bool :=
  match s.group? j.wid j.gi with
  | none => false
  | some g => g.gPending.any (fun p => p.job == j.id) || g.threads.any (fun t => t.pending.any (fun p => p.job == j.id))

/-- Reading operations whose results have all been discarded are gone. -/
def State.dropReads (s : State) (wid : Nat) : State :=
  let s1 := (s.jobs.filter (fun j => j.wid == wid && j.kind.isRead && ! s.awaited j)).foldl (fun s j => s.endJob j) s
  s1.settleZeros (s1.jobs.length + 1)

/-- A group whose last thread has ended: its g registers, shape table and system registers end with it, its spill area among
them (R25, R38, R162), and its results are discarded. -/
def Group.close (g : Group) : Group :=
  { g with g := [], gPending := [], gMarks := [], gOld := [], shapes := [], trapvec := 0, trapcause := 0, trappc := 0, traplane := 0,
           trapaddr := 0, trapinfo := 0, spill := 0, seed := 0, sys := [] }
/-- The groups of a workgroup whose threads have all ended, closed. -/
def State.endGroups (s : State) (wid : Nat) : State :=
  s.modWg wid (fun w => { w with groups := w.groups.map (fun g => if g.ended then g.close else g) })

/-- What the retirement of a workgroup orders (R315): every access of its threads and every completion of its work. -/
def Workgroup.gives (w : Workgroup) (scope : Nat) : View :=
  w.groups.foldl (fun (v : View) g => g.threads.foldl (fun (v : View) t => v.join (t.released scope)) v) w.work
/-- The completion scope of the launch that a withdrawn workgroup is of (R180). -/
def State.cscopeOf (s : State) (p c : Nat) (f : Nat × Nat × Nat) : Nat := ((s.launch? p c f.1 f.2.1).map Launch.cscope).getD 5

/-- A workgroup retires (R162, R315): the proof items it has fetched are released again or drain, the bits of the
workgroups it withdrew and its own are set, and it leaves once no work of its own is left. Log entries 36 and 73. -/
def State.retire (s : State) (w : Workgroup) : State :=
  let who : Job := { id := 0, part := w.part, ctx := w.ctx, core := w.core, wid := w.wid, gi := 0, tis := [], pc := 0, kind := .copy 0 0 [], view := [], wrote := [], waited := false }
  let s1 := s.abandonItems who
  let s2 := w.fetched.foldl (fun s f =>
    let m := s.cscopeOf w.part w.ctx f
    s.markDone w.part w.ctx f.1 f.2.1 f.2.2 m (w.gives m)) s1
  let s3 := s2.markDone w.part w.ctx w.queue w.count w.wglin 5 (w.gives 5)
  let s4 := s3.trace w.part w.ctx 7 0x04 w.core 0 w.handle w.wglin 0
  ((s4.modWg w.wid (fun x => { x with retired := true, fetched := [] })).dropRetired w.wid).wakePorts w.core

/-- What follows when threads of a workgroup have ended. -/
def State.settleExit (s : State) (wid : Nat) : State :=
  let s1 := (s.endGroups wid).dropReads wid
  match s1.wg? wid with
  | some w => if w.ended && ! w.retired then s1.retire w else s1
  | none => s1

end Sys2Proof.Machine
end

