-- ==== Sys2Proof/Machine/Control.lean ====
section
/-!
DEFINITION. The control instructions (R35 to R37, R160 to R163), quires (R171, R172), traps and breakpoints (R173 to
R176), time (R177, R178), LAUNCH and FETCHW (R179, R180) and the root-context instructions (R181).
-/
namespace Sys2Proof.Machine
open Sys2Proof

/-! ### Reaching a quire (R172) -/

/-- A thread about to enter a quire (R172): it may, it parks on the load in progress, its quire is to be loaded, or it traps,
with the trap `first` where the push that goes with the entry fails (R368). `view` is what its fences have ordered (R300).
Log entry 35. -/
def State.reachQuire (s : State) (w : Workgroup) (q : Nat) (first : Option Trap) (view : View) : State × Verdict :=
  match ((s.resident w.part w.ctx w.core).quire q).state with
  | .resident => (s, .done)
  | .loading => (s, .park (.quire q))
  | _ =>
    match s.quireEntry w.part w.ctx w.core q view with
    | (s1, none, a) => (s1, .trap (first.getD (quireAbsent q 1 a)))
    | (s1, some e, _) => if e.autoload then (s1, .load q first) else (s1, .trap (first.getD (quireAbsent q 2 0)))

/-- Whether a PC's offset is at or beyond the length of its quire (R35): the image's, the entry's while there is none, or the
longest that a quire can be. Log entry 35. -/
def State.beyondQuire (s : State) (w : Workgroup) (pc : Word) (view : View) : Bool :=
  let x := (s.resident w.part w.ctx w.core).quire (pcQuire pc)
  decide (0x10000 ≤ pcOffset pc) ||
    (if x.state = .resident ∨ x.state = .loading then decide (x.length ≤ pcOffset pc)
     else match (s.quireEntry w.part w.ctx w.core (pcQuire pc) view).2.1 with
       | some e => decide (e.length ≤ pcOffset pc)
       | none => false)

/-! ### The return stack (R36, R37) -/

/-- Where a group spills the entry at depth e, counted from 1, of thread i. -/
def Group.spillSlot (g : Group) (i e : Nat) : Nat := g.spill.toNat + 256 * i + 4 * (e - 1)

/-- The STACK_OVERFLOW that a push raises. -/
def pushFault (g : Group) (t : Thread) : Option Trap :=
  if 80 ≤ t.depth then some { cause := 0x04, info := 0, addr := 0 }
  else if 16 ≤ t.depth ∧ g.spill = 0 then some { cause := 0x04, info := 3, addr := 0 }
  else none

/-- A push; with sixteen entries held the oldest goes to scratch, as a store of the thread's own at .thr. -/
def State.push (s : State) (e : LaneEnv) (ret : Word) : State :=
  (if 16 ≤ e.t.depth then
      s.storeScratch 0 false false false
        [(e, e.g.spillSlot e.ti (e.t.depth - 15), bytesOf ((e.t.stack.getLast?).getD 0).toNat 4)]
    else s).modLane e (fun t =>
      { t with depth := t.depth + 1, stack := ret :: (if 16 ≤ t.depth then t.stack.dropLast else t.stack) })

/-- A pop; the newest spilled entry comes back. -/
def State.pop (s : State) (e : LaneEnv) : State :=
  s.modLane e (fun t =>
    { t with
      depth := t.depth - 1
      stack := t.stack.tail ++
        (if 16 < t.depth then [BitVec.ofNat 32 ((s.wgOf e).scratchWord (e.g.spillSlot e.ti (t.depth - 16)))] else []) })

/-! ### Moving a thread (R160) -/

/-- What a control instruction does with one thread: the next word, a target with what goes on the stack or comes off
it, or its end. `bad` marks a relative target outside the offsets of a PC. -/
inductive Move where
  | fall
  | go (pc : Word) (bad : Bool) (push pop ret : Bool)
  | exit
  | trap (t : Trap)
  deriving DecidableEq, Repr

/-- A relative target keeps the quire (R160). Log entry 35. -/
def relative (pc : Word) (words : Int) : Word × Bool :=
  let o : Int := (pcOffset pc : Int) + 4 * words
  (mkPc (pcQuire pc) (o % 2 ^ 24).toNat, decide (o < 0 ∨ 2 ^ 24 ≤ o))
def Move.rel (pc : Word) (words : Int) (push : Bool) : Move := .go (relative pc words).1 (relative pc words).2 push false false

/-- The trap that a push goes with, if any (R37). -/
def pushTrap (e : LaneEnv) (push : Bool) : Option Trap := if push then pushFault e.g e.t else none

/-- A thread's PC set to a target that it may enter, with its push, pop or return (R160, R176). -/
def State.enter (s : State) (e : LaneEnv) (next pc : Word) (push pop ret : Bool) : State :=
  let s1 := if push then s.push e next else if pop then s.pop e else s
  if ret then s1.trapReturn e.wg.wid e.gi e.ti else s1.setPc e.wg.wid e.gi e.ti pc

/-- One thread moved; `next` is the word after its unit. A bad target comes first, then the park on a quire, then a failing
push, then a quire that cannot be had (R35, R160, R368). A return from a handler is a target like the others. Log entry 90. -/
def State.move (s : State) (e : LaneEnv) (next : Word) (m : Move) : State × List Fate :=
  let w := e.wg
  match m with
  | .fall => (s.modThread w.wid e.gi e.ti (fun t => { t with pc := next }), [])
  | .exit => (s.exitThread w.wid e.gi e.ti, [])
  | .trap t => (s, [e.fate (.trap t)])
  | .go pc bad push pop ret =>
    if bad || pc.toNat % 4 != 0 || s.beyondQuire w pc e.t.code then (s, [e.fate (.trap (alignTrap 0 pc.toNat))])
    else
      match s.reachQuire w (pcQuire pc) (pushTrap e push) e.t.code with
      | (s1, .done) =>
        (match pushTrap e push with
          | some t => (s1, [e.fate (.trap t)])
          | none => (s1.enter e next pc push pop ret, []))
      | (s1, v) => (s1, [e.fate v])

/-- Threads moved one after another. -/
def State.moves (s : State) (next : Word) (es : List (LaneEnv × Move)) : State × List Fate :=
  es.foldl (fun acc x =>
    let r := acc.1.move x.1 next x.2
    (r.1, acc.2 ++ r.2)) (s, [])

/-- A control instruction's body; what follows the end of threads follows only where some end. Entries come before any load
that the unit asks for (R169). -/
def moveBody (len : Nat) (f : LaneEnv → Move) : Body := fun s es =>
  let next := s.issue.pc + BitVec.ofNat 32 (4 * len)
  let ms := es.map (fun e => (e, f e))
  let r := s.moves next ms
  (if ms.any (fun x => x.2 == .exit) then r.1.settleExit s.issue.wid else r.1, r.2)

/-- A control instruction. -/
def moveUnit (i : Instr) (f : Word → LaneEnv → Move) (s : State) : State :=
  runUnit i true none noExtra (moveBody (shapeOf i).len (f s.issue.pc)) s

/-- BRA. -/
def execBra (u : GB) (s : State) : Out := .next (moveUnit (.bra u) (fun pc _ => .rel pc u.off23.toInt false) s)
/-- BRU. -/
def execBru (u : GBru) (s : State) : Out :=
  .next (moveUnit (.bru u) (fun pc e => if zeroCond u.cond.toNat (e.greg u.a) then .rel pc u.off15.toInt false else .fall) s)
/-- BRT. -/
def execBrt (u : GBrt) (s : State) : Out :=
  .next (moveUnit (.brt u) (fun pc e => if e.mask u.k.toNat = (u.pol == 1) then .rel pc u.off15.toInt false else .fall) s)
/-- CALL. -/
def execCall (u : GB) (s : State) : Out := .next (moveUnit (.call u) (fun pc _ => .rel pc u.off23.toInt true) s)
/-- JMPI; a masked thread goes to the next word. -/
def execJmpi (u : LJmp) (s : State) : Out :=
  .next (moveUnit (.jmpi u) (fun _ e => if e.takes then .go (e.reg u.a.toNat) false false false false else .fall) s)
/-- CALLI. -/
def execCalli (u : LJmp) (s : State) : Out :=
  .next (moveUnit (.calli u) (fun _ e => if e.takes then .go (e.reg u.a.toNat) false true false false else .fall) s)
/-- RET; with an empty stack the thread ends (R37). -/
def execRet (u : G0) (s : State) : Out :=
  .next (moveUnit (.ret u) (fun _ e => match e.t.stack with
    | [] => .exit
    | pc :: _ => .go pc false false true false) s)
/-- EXIT. -/
def execExit (u : G0) (s : State) : Out := .next (moveUnit (.exit u) (fun _ _ => .exit) s)
/-- NOP. -/
def execNop (u : G0) (s : State) : Out := .next (runUnit (.nop u) false none noExtra (fun s _ => (s, [])) s)
/-- YIELD: no effect but that the grouping stage passes the set over in the next cycle when another is ready (R163). -/
def execYield (u : G0) (s : State) : Out :=
  .next (runUnit (.yield u) false none noExtra (fun s es =>
    (es.foldl (fun s e => s.modLane e (fun t => { t with yielded := true })) s, [])) s)

/-! ### Quires (R171, R172) -/

/-- The quire a GI word names. -/
def quireOf (a : BitVec 5) (q : BitVec 8) (e : LaneEnv) : Nat := if a = 0 then q.toNat else (e.greg a).toNat % 256

/-- CALLQ for one thread: the entry's word is read once the quire is RESIDENT (R172). -/
def callqMove (u : GCallq) (s : State) (e : LaneEnv) (next : Word) : State × List Fate :=
  let q := quireOf u.a u.quire e
  let w := e.wg
  match s.reachQuire w q (pushTrap e true) e.t.code with
  | (s1, .done) =>
    let x := (s1.resident w.part w.ctx w.core).quire q
    let n := natOfBytes (SMap.read x.image (4 * u.entry.toNat) 4 0)
    if n = 0xFFFFFFFF then (s1, [e.fate (.trap (alignTrap 0x3 0))])
    else s1.move e next (.go (mkPc q (n % 2 ^ 24)) (decide (x.length ≤ n)) true false false)
  | (s1, v) => (s1, [e.fate v])

/-- CALLQ. -/
def execCallq (u : GCallq) (s : State) : Out :=
  .next (runUnit (.callq u) true none noExtra (fun s es =>
    let next := s.issue.pc + 4
    es.foldl (fun acc e =>
      let r := callqMove u acc.1 e next
      (r.1, acc.2 ++ r.2)) (s, [])) s)

/-- A quire of a lane's context on its core, changed. -/
def State.modQuire (s : State) (e : LaneEnv) (q : Nat) (f : Quire → Quire) : State :=
  s.modResident e.wg.part e.wg.ctx e.wg.core (·.modQuire q f)

/-- QLOAD of one group: the load is asked for at the cycle's end, and its outcome is the status (R169). -/
def qloadGroup (u : GQuire) (s : State) (e : LaneEnv) (_ : List LaneEnv) : State × List Fate :=
  (s, [e.fate (.ask (quireOf u.a u.quire e) u.d.toNat false)])
/-- QLOAD. -/
def execQload (u : GQuire) (s : State) : Out := .next (runUnit (.qload u) false none noExtra (groupBody (qloadGroup u)) s)

/-- QPIN of one group: its token first, then the load is asked for (R169). -/
def qpinGroup (u : GQuire) (s : State) (e : LaneEnv) (_ : List LaneEnv) : State × List Fate :=
  let q := quireOf u.a u.quire e
  if 255 ≤ ((s.resident e.wg.part e.wg.ctx e.wg.core).quire q).tokens then (s.setG e u.d 2, [])
  else (s.modQuire e q (fun x => { x with tokens := x.tokens + 1 }), [e.fate (.ask q u.d.toNat true)])
/-- QPIN. -/
def execQpin (u : GQuire) (s : State) : Out := .next (runUnit (.qpin u) false none noExtra (groupBody (qpinGroup u)) s)

/-- QUNPIN of one group. -/
def qunpinGroup (u : GQuire) (s : State) (e : LaneEnv) (_ : List LaneEnv) : State × List Fate :=
  let q := quireOf u.a u.quire e
  if ((s.resident e.wg.part e.wg.ctx e.wg.core).quire q).tokens = 0 then (s.setG e u.d 1, [])
  else ((s.modQuire e q (fun x => { x with tokens := x.tokens - 1 })).setG e u.d 0, [])
/-- QUNPIN. -/
def execQunpin (u : GQuire) (s : State) : Out := .next (runUnit (.qunpin u) false none noExtra (groupBody (qunpinGroup u)) s)

/-- The code of a quire state (R171). -/
def QuireState.code (x : QuireState) : Nat :=
  match x with | .absent => 0 | .loading => 1 | .resident => 2 | .failed => 3 | .badEntry => 4
/-- The record of a quire (R171). -/
def quireStat (occupancy : Nat) (shared : Bool) (x : Quire) : Nat :=
  min occupancy 0x7FFF * 2 ^ 17 + x.tokens % 256 * 2 ^ 9 + x.frames % 32 * 2 ^ 4 + natOfBool shared * 2 ^ 3 + x.state.code
/-- QSTAT. -/
def execQstat (u : GQuire) (s : State) : Out :=
  .next (uniformUnit (.qstat u) (fun s e =>
    let q := quireOf u.a u.quire e
    [(u.d.toNat, BitVec.ofNat 32 (quireStat (s.occupancy e.wg.part e.wg.ctx e.wg.core q)
      (s.quireShared e.wg.part e.wg.ctx e.wg.core q) ((s.resident e.wg.part e.wg.ctx e.wg.core).quire q)))]) s)

/-! ### Traps and breakpoints (R173, R176) -/

/-- TRAP. -/
def execTrap (u : GTrap) (s : State) : Out :=
  .next (runUnit (.trap u) false none noExtra (fun s es =>
    (s, allFate es (.trap { cause := 0x08, info := u.imm13.toNat, addr := 0 }))) s)

/-- BKPT: the trap, or a debug stop with WHY = 2 while breakpoint capture is on. Log entry 74. -/
def execBkpt (u : GTrap) (s : State) : Out :=
  .next (runUnit (.bkpt u) false none noExtra (fun s es =>
    match es with
    | [] => (s, [])
    | e :: _ =>
      if (s.context e.wg.part e.wg.ctx).capture then (s.debugStop e.wg.wid 2 0 s.issue.pc, [])
      else (s, allFate es (.trap { cause := 0x09, info := u.imm13.toNat, addr := 0 }))) s)

/-- TRAPRET: a thread in handler state goes to its resume PC; any other traps (R176). Log entry 58. -/
def execTrapret (u : G0) (s : State) : Out :=
  .next (moveUnit (.trapret u) (fun _ e =>
    if e.t.handler then .go e.t.resume false false false true else .trap { cause := 0x08, info := 0x10000, addr := 0 }) s)

/-! ### Time (R177, R178) -/

/-- RDTIME: every die and the root core read the one count. Log entry 6. -/
def execRdtime (u : GD) (s : State) : Out :=
  .next (uniformUnit (.rdtime u) (fun s _ => splitWords u.d.toNat 2 s.time.toNat) s)

/-- SLEEPTO of one group: an ordinary issue when the deadline is reached, else its threads park. -/
def sleeptoGroup (u : GA) (s : State) (e : LaneEnv) (ls : List LaneEnv) : State × List Fate :=
  let dl := e.gpair u.a
  if dl ≤ s.time.toNat then (s, []) else (s, allFate ls (.park (.sleep dl u.h)))
/-- SLEEPTO. -/
def execSleepto (u : GA) (s : State) : Out := .next (runUnit (.sleepto u) false none noExtra (groupBody (sleeptoGroup u)) s)

/-! ### LAUNCH and FETCHW (R179, R180) -/

/-- LAUNCH of one group: the record is read and checked at issue (R310); its results come from the distributor.
Log entry 75. -/
def launchGroup (u : GR3) (s : State) (e : LaneEnv) (ls : List LaneEnv) : State × List Fate :=
  let va := e.gpair u.a
  if va % 256 ≠ 0 ∨ 2 ^ 52 ≤ va then (s, allFate ls (.trap (alignTrap 0x10 va)))
  else
    let r := s.readVirt e.wg.part e.wg.ctx e.wg.core va 256
    let rec_ : List Byte × Nat := match r.2 with
      | .bytes bs none => (bs, if (s.recordBad e.wg.part e.wg.ctx bs).isSome then 3 else 0)
      | _ => ([], 4)
    let j := r.1.addJob e (.launch rec_.1 (e.greg u.b).toNat rec_.2)
    (j.1.addGPending e.wg.wid e.gi
      [Pending.later j.2 (96 + u.d.toNat) s.issue.pc j.2, Pending.later j.2 (97 + u.d.toNat) s.issue.pc j.2], [])
/-- LAUNCH, V class. Log entry 75. -/
def execLaunch (u : GR3) (s : State) : Out := .next (runUnit (.launch u) false none noExtra (groupBody (launchGroup u)) s)

/-- Whether a handle names a record that its queue holds and the distributor has not read (R307, R317). -/
def Queue.unread (d : Queue) (k : Nat) : Bool :=
  decide ((k + 2 ^ 24 - d.qhead.toNat % 2 ^ 24) % 2 ^ 24 < (d.qtail - d.qhead).toNat)

/-- The launch of a context that a handle names: the newest of its queue with that count modulo 2^24. A record not yet
read is a launch only when LAUNCH queued it (R324). -/
def State.launchOf (s : State) (p c h : Nat) : Option Launch :=
  match ((s.context p c).launches.filter (fun l => l.queue == h / 2 ^ 24 && l.count % 2 ^ 24 == h % 2 ^ 24)).getLast? with
  | some l => if ((s.context p c).queues.get (h / 2 ^ 24) Queue.reset).unread (h % 2 ^ 24) && l.state != .queued then none else some l
  | none => none

/-- Whether two handles name one feed. -/
def sameFeed (f : Nat × Nat) (h : Word) : Bool := f.1 == h.toNat / 2 ^ 24 && f.2 % 2 ^ 24 == h.toNat % 2 ^ 24
/-- A FETCHW of the workgroup on the feed that has issued before and is still to be answered: what it withdraws is done at once,
with what this one releases (R180). Log entry 90. -/
def JobKind.passed (k : JobKind) (h : Word) (v : View) : JobKind :=
  match k with
  | .fetchw m h0 none => if h0 = h then .fetchw m h0 (some v) else k
  | _ => k
/-- FETCHW of one group: the mailbox empties at issue, and what the workgroup's earlier FETCHWs have withdrawn from the same feed
is done, as a release at the feed's completion scope. Log entry 90. -/
def fetchwGroup (u : GAB) (s : State) (e : LaneEnv) (ls : List LaneEnv) : State × List Fate :=
  let w := s.wgOf e
  let a := (e.greg u.a).toNat
  let h := e.greg u.b
  if a % 32 ≠ 0 ∨ w.scratchSize < a + 32 then (s, allFate ls (.trap (alignTrap 0x4 0)))
  else
    let s1 := s.modWg w.wid (fun w => w.setFull (a / 16) (a / 16 + 1) false)
    let mine (f : Nat × Nat × Nat) : Bool := sameFeed (f.1, f.2.1) h
    let scope := ((s1.launchOf w.part w.ctx h.toNat).map Launch.cscope).getD 5
    let s2 := (w.fetched.filter mine).foldl (fun s f => s.markDone w.part w.ctx f.1 f.2.1 f.2.2 scope (e.releases scope)) s1
    let s3 := s2.modWg w.wid (fun w => { w with fetched := w.fetched.filter (fun f => ! mine f) })
    let s4 : State := { s3 with jobs := s3.jobs.map (fun j =>
      if j.wid = w.wid ∧ (e.s.job? j.id).isSome = true then { j with kind := j.kind.passed h (e.releases scope) } else j) }
    ((s4.addJob e (.fetchw a h none)).1, [])
/-- FETCHW. -/
def execFetchw (u : GAB) (s : State) : Out := .next (runUnit (.fetchw u) false none noExtra (groupBody (fetchwGroup u)) s)

/-! ### Root-context instructions (R181) -/

/-- The fields of a control block: source, length, destination, register. -/
structure RootCmd where
  src : Nat
  len : Nat
  dst : Nat
  idx : Nat
  deriving DecidableEq, Repr

/-- The bytes of a source, none when it is unmapped or poisoned. Log entry 34. -/
def State.rootSource (s : State) (e : LaneEnv) (a n : Nat) : State × Option (List Byte) :=
  match s.readVirt e.wg.part e.wg.ctx e.wg.core a n with
  | (s1, .bytes bs none) => (s1, some bs)
  | (s1, _) => (s1, none)

/-- Bytes put at a destination: status 0, or 1 with nothing written. -/
def State.rootPut (s : State) (e : LaneEnv) (a : Nat) (bs : List Byte) : State × Nat :=
  match s.writeVirt e.wg.part e.wg.ctx e.wg.core a bs with
  | (s1, none) => (s1, 0)
  | (s1, some _) => (s1, 1)

/-- A root-context instruction of one group: its control block, then its effect and status. Log entry 34. -/
def rootGroup (f : State → LaneEnv → RootCmd → State × Nat) (u : GR2) (s : State) (e : LaneEnv) (_ : List LaneEnv) : State × List Fate :=
  let va := e.gpair u.a
  let r : State × Nat :=
    if va % 32 ≠ 0 then (s, 2)
    else match s.rootSource e va 32 with
      | (s1, none) => (s1, 1)
      | (s1, some c) => f s1 e { src := cmdNat c 0 8, len := cmdNat c 8 8, dst := cmdNat c 16 8, idx := cmdNat c 24 4 }
  (r.1.laterG e u.d r.2, [])

/-- A root-context instruction, V class. -/
def rootUnit (i : Instr) (f : State → LaneEnv → RootCmd → State × Nat) (u : GR2) (s : State) : State :=
  runUnit i false none noExtra (groupBody (rootGroup f u)) s

/-- HASH. Log entry 34. -/
def execHash (u : GR2) (s : State) : Out :=
  .next (rootUnit (.hash u) (fun s e c =>
    if 2 ^ 32 ≤ c.len then (s, 2)
    else match s.rootSource e c.src c.len with
      | (s1, none) => (s1, 1)
      | (s1, some bs) => s1.rootPut e c.dst (sha256 bs)) u s)

/-- SIGN. Log entry 34. -/
def execSign (u : GR2) (s : State) : Out :=
  .next (rootUnit (.sign u) (fun s e c =>
    if c.len ≠ 32 then (s, 2)
    else match s.rootSource e c.src 32 with
      | (s1, none) => (s1, 1)
      | (s1, some bs) => s1.rootPut e c.dst (bytesBig (Config.sign (natOfBig bs)) 384)) u s)

/-- A measurement register as bytes, and extended (R181, R402). -/
def mrBytes (x : BitVec 256) : List Byte := bytesOf x.toNat 32
def mrExtend (x : BitVec 256) (bs : List Byte) : BitVec 256 := BitVec.ofNat 256 (natOfBytes (sha256 (mrBytes x ++ bs)))

/-- MEXT. Log entry 34. -/
def execMext (u : GR2) (s : State) : Out :=
  .next (rootUnit (.mext u) (fun s e c =>
    if c.len ≠ 32 ∨ c.idx < 8 ∨ 15 < c.idx then (s, 2)
    else match s.rootSource e c.src 32 with
      | (s1, none) => (s1, 1)
      | (s1, some bs) => ({ s1 with mrs := s1.mrs.modify c.idx (fun x => mrExtend x bs) }, 0)) u s)

/-- MRD. Log entry 34. -/
def execMrd (u : GR2) (s : State) : Out :=
  .next (rootUnit (.mrd u) (fun s e c =>
    if 15 < c.idx then (s, 2) else s.rootPut e c.dst (mrBytes ((s.mrs[c.idx]?).getD 0))) u s)

end Sys2Proof.Machine
end

