-- ==== Sys2Proof/Machine/Launches.lean ====
section
/-!
DEFINITION. The distributor (R306 to R324): records read and launches admitted, LAUNCH and FETCHW at the distributor,
dependencies, completion and cancellation.
-/
namespace Sys2Proof.Machine
open Sys2Proof

/-- The distributor's agent code (R197). -/
def distAgent : Nat := 7

/-- A launch queue of a context (R306), and changed. -/
def State.queue (s : State) (p c q : Nat) : Queue := (s.context p c).queues.get q Queue.reset
def State.modQueue (s : State) (p c q : Nat) (f : Queue → Queue) : State :=
  s.modContext p c (fun x => { x with queues := SMap.set x.queues q (f (x.queues.get q Queue.reset)) Queue.reset })

/-- The counts of the records at QHEAD and at QTAIL, not taken modulo 2^32 (R307). -/
def Queue.headCount (d : Queue) : Nat := d.laps * 2 ^ 32 + d.qhead.toNat
def Queue.tailCount (d : Queue) : Nat := d.headCount + (d.qtail - d.qhead).toNat
/-- QHEAD moved past one record. -/
def Queue.take (d : Queue) : Queue := { d with qhead := d.qhead + 1, laps := if d.qhead + 1 = 0 then d.laps + 1 else d.laps }

/-- The launches of a queue that are ADMITTED. -/
def State.admittedOf (s : State) (p c q : Nat) : List Launch :=
  (s.context p c).launches.filter (fun l => l.queue == q && l.state == .admitted)

/-- A launch that has just come to exist, QUEUED (R324), with what its queueing has released. -/
def Launch.queued (q k : Nat) (record : List Byte) (start : View) : Launch :=
  { queue := q, count := k, record := record, state := .queued, status := 0, done := [], placed := [], tstart := 0, tend := 0,
    ranges := [], depLogged := [], finished := 0, start := start, gave := [] }

/-- A record that the distributor holds for a launch: a new launch, or one that LAUNCH has queued. `start` is what a new one's
queueing has released. Log entry 60. -/
def State.holdRecord (s : State) (p c q k : Nat) (record : List Byte) (start : View) : State :=
  if (s.launch? p c q k).isSome then s.modLaunch p c q k (fun l => { l with record := record })
  else s.modContext p c (fun x => { x with launches := x.launches ++ [Launch.queued q k record start] })

/-- A log record in the distributor's name. -/
def State.distLog (s : State) (p c addr cause kind : Nat) : State := s.logRecord p c (addr % 2 ^ 64) cause kind hubCore 0 0

/-- A launch FAILED at its admission with no completion record (R307, R313). -/
def State.failSilently (s : State) (p c q k status : Nat) : State :=
  { s with nextId := s.nextId + 1 }.modLaunch p c q k (fun l =>
    { l with state := .failed, tend := s.time, finished := s.nextId, status := BitVec.ofNat 32 status })

/-! ### Reading records (R307, R310, R313, R314, R319) -/

/-- The bytes of a launch's completion record (R313). -/
def Launch.crecBytes (l : Launch) : Nat := 32 + 8 * ((l.total + 63) / 64)

/-- A launch whose record passes its checks (R313, R314). -/
def State.admitLaunch (s : State) (p c q k : Nat) (l : Launch) : State :=
  let s0 := s.modContext p c (fun x => { x with qtable := some (x.qtable.getD (l.nat 8 8)) })
  let t := if l.crec = 0 then (s0, [], none)
    else s0.translateRuns p c hubCore 1 (pageRuns l.crec l.crecBytes (l.crecBytes / 2 ^ 14 + 2))
  match t.2.2 with
  | some (cause, a) =>
    let st := statusWord 0x01 distAgent 0
    ((t.1.failSilently p c q k st).distLog p c a cause 4).distLog p c (st + 2 ^ 32 * l.handle) 0x11 5
  | none =>
    let s1 := t.1.modLaunch p c q k (fun l => { l with state := .admitted })
    let s2 := match s1.launch? p c q k with
      | some l1 => s1.writeCrec p c l1 32 (List.replicate (l1.crecBytes - 32) 0)
      | none => s1
    let s3 := s2.writeHeader p c q k
    if l.total = 0 then s3.endLaunch p c q k .complete 0 else s3

/-- A record that could not be read: its launch has FAILED, with a log record (R310). -/
def State.lostRecord (s : State) (p c q k slot cause code : Nat) : State :=
  ((s.holdRecord p c q k (List.replicate 256 0) []).failSilently p c q k (statusWord code distAgent 0)).distLog p c slot cause 4

/-- What follows the read of a record at its slot: the launch is admitted, or has FAILED (R310). A launch that the host queues
follows what the host has written before. -/
def State.tookRecord (s : State) (p c q k slot : Nat) (x : Fetched) : State :=
  match x with
  | .fault cause _ => s.lostRecord p c q k slot cause 0x01
  | .bytes _ (some _) => s.lostRecord p c q k slot 6 0x04
  | .bytes bs none =>
    let s1 := s.holdRecord p c q k bs s.hostView
    match s.recordBad p c bs, s1.launch? p c q k with
    | some off, _ => s1.endLaunch p c q k .failed (statusWord 0x30 distAgent off)
    | none, some l => s1.admitLaunch p c q k l
    | none, none => s1

/-- The next record of a queue read (R307, R310, R314): at most eight launches of a queue are ADMITTED at once.
Log entry 60. -/
def State.readRecord (s : State) (p c q : Nat) : State :=
  let x := s.context p c
  let d := s.queue p c q
  if x.state ≠ .live ∨ d.qsize = 0 ∨ d.qtail = d.qhead ∨ 8 ≤ (s.admittedOf p c q).length then s
  else
    let k := d.headCount
    let slot := d.qbase.toNat + 256 * (k % 2 ^ d.qsize.toNat)
    let r := s.readVirt p c hubCore slot 256
    (r.1.modQueue p c q Queue.take).tookRecord p c q k slot r.2

/-- RECORD_READ (R310). -/
def execRecordRead (u : EvQueue) (s : State) : Out := .next (s.readRecord u.part u.ctx u.queue)

/-! ### LAUNCH at the distributor (R179, R308, R324) -/

/-- What LAUNCH answers, with its effect: status and handle. `view` is what its issue has released (R179). Log entries 60
and 75. -/
def State.launchAt (s : State) (p c q : Nat) (record : List Byte) (status : Nat) (view : View) : State × Nat × Nat :=
  let d := s.queue p c q
  let slot := d.qbase.toNat + 256 * (d.qtail.toNat % 2 ^ d.qsize.toNat)
  if (s.context p c).state ≠ .live then (s, 1, 0)
  else if 64 ≤ q ∨ d.qsize = 0 ∨ d.qdev = false then (s, 5, 0)
  else if status ≠ 0 then (s, status, 0)
  else if (d.qtail - d.qhead).toNat = 2 ^ d.qsize.toNat then (s, 2, 0)
  else
    match s.writeVirt p c hubCore slot record with
    | (s1, some _) => (s1, 4, 0)
    | (s1, none) =>
      ((s1.holdRecord p c q d.tailCount record view).modQueue p c q (fun d => { d with qtail := d.qtail + 1 }), 0,
        q * 2 ^ 24 + d.qtail.toNat % 2 ^ 24)

/-- LAUNCH_ARRIVE (R179): the two results become known. Log entries 60 and 75. -/
def execLaunchArrive (u : EvJob) (s : State) : Out :=
  .next (match s.job? u.job with
    | some j => (match j.kind with
        | .launch record q status =>
          let r := s.launchAt j.part j.ctx q record status j.view
          let regs := r.1.jobRegs j
          let s1 := regs.foldl (fun (s : State) n =>
            s.supplyG j n (BitVec.ofNat 32 (if n % 2 = 0 then r.2.1 else r.2.2)) none) r.1
          s1.endJob j
        | _ => s)
    | none => s)

/-! ### Dependencies (R316, R317) -/

/-- What a producer's handle stands for now (R317). -/
inductive Producer where
  | met
  | waits
  | never
  | running (l : Launch)
  deriving DecidableEq, Repr

/-- A producer's handle read (R317). -/
def State.producer (s : State) (p c h : Nat) : Producer :=
  let q := h / 2 ^ 24
  let k := h % 2 ^ 24
  let d := s.queue p c q
  if (k + 2 ^ 24 - d.qtail.toNat % 2 ^ 24) % 2 ^ 24 < 2 ^ 23 then .waits
  else
    match s.launchOf p c h with
    | none => if d.unread k then .waits else .met
    | some l =>
      match l.state with
      | .queued => .waits
      | .admitted => .running l
      | .complete => .met
      | _ =>
        if 4096 ≤ ((s.context p c).launches.filter (fun x => x.queue == q && decide (l.finished < x.finished))).length then .met
        else .never

/-- The kind of dependency entry d of a launch, and its producer's handle. -/
def Launch.depKind (l : Launch) (d : Nat) : Nat := l.nat (172 + 40 * d) 1
def Launch.depHandle (l : Launch) (d : Nat) : Nat := l.nat (168 + 40 * d) 4

/-- The needed range of workgroup c, before clipping: none while its table entry has not been read (R316). -/
def Launch.depRange (l pr : Launch) (d c : Nat) : Option (Int × Int) :=
  let o := 168 + 40 * d
  let kind := if pr.crec = 0 then 3 else l.depKind d
  match kind with
  | 1 =>
    let lo := sext (l.nat (o + 8) 4) 32 * c + sext (l.nat (o + 12) 4) 32
    some (lo, lo + (l.nat (o + 16) 4 : Int) - 1)
  | 2 => (l.ranges.find? (fun x => x.1 == 2 * c + d)).map (fun x =>
      let lo : Int := (x.2.toNat % 2 ^ 32 : Nat)
      (lo, lo + (x.2.toNat / 2 ^ 32 : Nat) - 1))
  | _ => some (0, (pr.total : Int) - 1)

/-- What the settings of the bits in a range have released. -/
def Launch.gaveIn (pr : Launch) (r : Option (Int × Int)) : View :=
  pr.gave.foldl (fun (v : View) x => match r with
    | some (lo, hi) => if lo ≤ (x.1 : Int) ∧ (x.1 : Int) ≤ hi then v.join x.2 else v
    | none => v.join x.2) []

/-- Whether every bit of a range, clipped to the producer's workgroups, is set. -/
def Launch.rangeMet (pr : Launch) (r : Int × Int) : Bool :=
  let lo := max r.1 0
  let hi := min r.2 ((pr.total : Int) - 1)
  decide (hi < lo) || decide (((pr.done.filter (fun (w : Nat) => decide (lo ≤ (w : Int) ∧ (w : Int) ≤ hi))).length : Int) = hi - lo + 1)

/-- Whether dependency entry d of workgroup c is met. Log entry 62. -/
def State.depMet (s : State) (p c : Nat) (l : Launch) (d w : Nat) : Bool :=
  if l.depKind d = 0 then true
  else
    match s.producer p c (l.depHandle d) with
    | .met => true
    | .waits => false
    | .never => false
    | .running pr => (match l.depRange pr d w with | some r => pr.rangeMet r | none => false)

/-- Whether a workgroup is ready (R317). -/
def State.wgReady (s : State) (p c : Nat) (l : Launch) (w : Nat) : Bool := s.depMet p c l 0 w && s.depMet p c l 1 w

/-- What the placement of a workgroup acquires (R179, R297, R318): what queued its launch, and the settings of the bits that its
dependencies needed. -/
def State.placeView (s : State) (p c : Nat) (l : Launch) (w : Nat) : View :=
  [0, 1].foldl (fun (v : View) d =>
    if l.depKind d = 0 then v
    else match s.launchOf p c (l.depHandle d) with
      | some pr => v.join (pr.gaveIn (l.depRange pr d w))
      | none => v) l.start

/-- Workgroups of a launch that are neither placed nor withdrawn, ascending. -/
def Launch.unplaced (l : Launch) : List Nat := (List.range l.total).filter (fun w => ! l.placed.contains w)

/-- Whether dependency entry d needs table entries read now. -/
def State.readsTable (s : State) (p c : Nat) (l : Launch) (d : Nat) : Bool :=
  l.depKind d == 2 && (match s.producer p c (l.depHandle d) with | .running pr => pr.crec != 0 | _ => false)

/-- One table entry read for a workgroup (R316): a launch whose entry does not translate, or reads poisoned, is
FAILED. Log entry 62. -/
def State.readDep (s : State) (p c q k d w : Nat) : State :=
  match s.launch? p c q k with
  | none => s
  | some l =>
    if l.state ≠ .admitted ∨ l.ranges.any (fun x => x.1 == 2 * w + d) = true then s
    else
      match s.readVirt p c hubCore (l.nat (192 + 40 * d) 8 + 8 * w) 8 with
      | (s1, .fault _ _) => s1.endLaunch p c q k .failed (statusWord 0x01 distAgent 0)
      | (s1, .bytes _ (some _)) => s1.endLaunch p c q k .failed (statusWord 0x04 distAgent 0)
      | (s1, .bytes bs none) => s1.modLaunch p c q k (fun l =>
          { l with ranges := SMap.insert l.ranges (2 * w + d) (BitVec.ofNat 64 (natOfBytes bs)) })

/-- A launch considered (R316, R317): table entries read, and a dependency that can never be met logged once. -/
def State.consider (s : State) (p c : Nat) (l : Launch) : State :=
  [0, 1].foldl (fun s d =>
    let s1 := if l.depKind d ≠ 0 ∧ s.producer p c (l.depHandle d) = .never ∧ l.depLogged.contains d = false then
        (s.modLaunch p c l.queue l.count (fun l => { l with depLogged := l.depLogged ++ [d] })).distLog p c
          (l.handle + 2 ^ 32 * l.depHandle d) 0x14 5
      else s
    if s1.readsTable p c l d then l.unplaced.foldl (fun s w => s.readDep p c l.queue l.count d w) s1 else s1) s

/-- Whether considering a launch would do anything. -/
def State.considerable (s : State) (p c : Nat) (l : Launch) : Bool :=
  l.state == .admitted && [0, 1].any (fun d =>
    (l.depKind d != 0 && ! l.depLogged.contains d && (match s.producer p c (l.depHandle d) with | .never => true | _ => false))
      || (s.readsTable p c l d && l.unplaced.any (fun w => ! l.ranges.any (fun x => x.1 == 2 * w + d))))

/-- A workgroup counted as placed or withdrawn (R313): the first sets tstart. -/
def State.countPlaced (s : State) (p c q k w : Nat) : State :=
  match s.launch? p c q k with
  | none => s
  | some l =>
    let s1 := s.modLaunch p c q k (fun l => { l with placed := l.placed ++ [w], tstart := if l.placed.isEmpty then s.time else l.tstart })
    if l.placed.isEmpty then s1.writeCrec p c l 16 (bytesOf s.time.toNat 8) else s1

/-! ### FETCHW at the distributor (R180, R323) -/

/-- The coordinates of a workgroup (R311). -/
def Launch.coords (l : Launch) (w : Nat) : Nat × Nat × Nat :=
  let x := l.nat 24 4
  let y := l.nat 28 4
  (w % x, w / x % y, w / (x * y))

/-- The mailbox of a FETCHW filled: the record, the second granule full, then the first. Log entry 90. -/
def State.fillMailbox (s : State) (j : Job) (mailbox status w : Nat) (xyz : Nat × Nat × Nat) : State :=
  let bs := bytesOf status 4 ++ bytesOf w 4 ++ bytesOf xyz.1 4 ++ bytesOf xyz.2.1 4 ++ bytesOf xyz.2.2 4 ++ List.replicate 12 0
  let s1 := s.jobWrites j j.engine (fun s => s.engineScratch j.wid j.pc (mailbox + 16) (bs.drop 16) j.view)
  let k := s1.jobNow j
  s1.jobWrites k k.engine (fun s => s.engineScratch k.wid k.pc mailbox (bs.take 16) k.completes)

/-- A workgroup withdrawn by a FETCHW: the fetching workgroup's until its bit is set, at once where the next FETCHW on the feed
has issued already or the fetching workgroup has retired (R180). Log entry 90. -/
def State.withdraw (s : State) (j : Job) (l : Launch) (w : Nat) (next : Option View) : State :=
  match s.wg? j.wid, next with
  | some g, none =>
    if g.retired then s.markDone j.part j.ctx l.queue l.count w l.cscope (g.gives l.cscope)
    else s.modWg j.wid (fun g => { g with fetched := g.fetched ++ [(l.queue, l.count, w)] })
  | _, some v => s.markDone j.part j.ctx l.queue l.count w l.cscope v
  | none, none => s

/-- A FETCHW reaches the distributor (R180): what it withdraws, and its mailbox. A failed or cancelled launch gives status 1, a
queued one 3; beside a status other than 0 stand zeros. Log entries 88 and 90. -/
def State.deliverFetchw (s : State) (j : Job) (mailbox : Nat) (h : Word) (next : Option View) : State :=
  let none_ (s : State) (status : Nat) : State := s.fillMailbox j mailbox status 0 (0, 0, 0)
  match s.launchOf j.part j.ctx h.toNat with
  | none => none_ s 2
  | some l0 =>
    if l0.feed = false then none_ s 2
    else
      let s1 := s.consider j.part j.ctx l0
      match s1.launch? j.part j.ctx l0.queue l0.count with
      | none => none_ s1 2
      | some l =>
        if l.state = .queued then none_ s1 3
        else if l.state ≠ .admitted then none_ s1 1
        else
          match l.unplaced, l.unplaced.find? (fun w => s1.wgReady j.part j.ctx l w) with
          | [], _ => none_ s1 1
          | _, none => none_ s1 3
          | _, some w =>
            ((s1.countPlaced j.part j.ctx l.queue l.count w).withdraw j l w next).fillMailbox j mailbox 0 w (l.coords w)

/-- FETCHW_DELIVER (R180). -/
def execFetchwDeliver (u : EvJob) (s : State) : Out :=
  .next (match s.job? u.job with
    | some j => (match j.kind with
        | .fetchw mailbox h next => (s.deliverFetchw j mailbox h next).endJob j
        | _ => s)
    | none => s)

/-! ### The end of a launch (R314, R317, R321) -/

/-- Workgroups of a launch that have not started released unplaced (R321). Log entry 64. -/
def State.releaseUnstarted (s : State) (p c q k : Nat) : State :=
  let gone (w : Workgroup) : Bool := w.part == p && w.ctx == c && w.queue == q && w.count == k && ! w.started
  let ws := (s.wgs.filter gone).map (·.wglin)
  { s with wgs := s.wgs.filter (fun w => ! gone w) }.modLaunch p c q k (fun l => { l with placed := l.placed.filter (fun w => ! ws.contains w) })

/-- A failed load of an entry quire (R313, R314, R321): the launch FAILED with the reason, or the report in the fault log
alone once it has finished. Log entry 62. -/
def State.entryFailed (s : State) (p c q k reason : Nat) : State :=
  match s.launch? p c q k with
  | none => s
  | some l =>
    let st := statusWord 0x31 distAgent reason
    let s1 := if l.state = .admitted then s.endLaunch p c q k .failed st else s.distLog p c (st + 2 ^ 32 * l.handle) 0x11 5
    s1.releaseUnstarted p c q k

/-- Whether work of a launch's workgroups is still outstanding. -/
def State.launchBusy (s : State) (p c q k : Nat) : Bool :=
  s.jobs.any (fun j => match s.wg? j.wid with
    | some w => w.part == p && w.ctx == c && w.queue == q && w.count == k
    | none => false)

/-- Whether a launch may complete (R314). -/
def State.completable (s : State) (p c : Nat) (l : Launch) : Bool :=
  l.state == .admitted && decide (l.done.length = l.total) && ! s.launchBusy p c l.queue l.count

/-- LAUNCH_COMPLETE (R314). -/
def execLaunchComplete (u : EvLaunch) (s : State) : Out :=
  .next (match s.launch? u.part u.ctx u.queue u.count with
    | some l => if s.completable u.part u.ctx l then s.endLaunch u.part u.ctx u.queue u.count .complete 0 else s
    | none => s)

/-- LAUNCH_CANCEL (R317): the driver cancels an unfinished launch; workgroups that have not started are released.
Log entry 64. -/
def execLaunchCancel (u : EvLaunch) (s : State) : Out :=
  .next ((s.endLaunch u.part u.ctx u.queue u.count .cancelled 0).releaseUnstarted u.part u.ctx u.queue u.count)

end Sys2Proof.Machine
end

