-- ==== Sys2Proof/Machine/Quires.lean ====
section
/-!
DEFINITION. The end of a quire load (R165, R172, R174, R300, R321, R351), the walk of a TLB miss (R358, R360), and a
unit in a quire that a failed reload has left absent (R351).
-/
namespace Sys2Proof.Machine
open Sys2Proof

/-- Threads of a workgroup whose park satisfies `hit`: group, thread, and what `hit` answers. -/
def Workgroup.parkedOn {α : Type} (w : Workgroup) (hit : Thread → ParkKind → Option α) : List (Nat × Nat × α) :=
  w.groups.zipIdx.flatMap (fun g => g.1.threads.zipIdx.filterMap (fun t => match t.1.run with
    | .parked k _ => (hit t.1 k).map (fun x => (g.2, t.2, x))
    | _ => none))

/-- Threads parked on a load that failed trap at their units (R172, R267). -/
def State.trapParked (s : State) (wid q reason addr : Nat) : State :=
  match s.wg? wid with
  | none => s
  | some w =>
    let ths := w.parkedOn (fun t k => match k with | .quire n => if n = q then some t.pc else none | _ => none)
    let s1 := ths.foldl (fun (s : State) x => s.modThread wid x.1 x.2.1 Thread.wake) s
    ((ths.map (·.2.2)).eraseDups).foldl (fun (s : State) pc =>
      s.deliverNow wid pc 1 ((ths.filter (fun x => x.2.2 == pc)).map (fun x =>
        { gi := x.1, ti := x.2.1, v := .trap (quireAbsent q reason addr) }))) s1 |>.wakeWaits wid

/-- Deliveries that wait for a handler's quire (R174): they go on, or become undeliverable with their own cause. -/
def State.endDeliveries (s : State) (wid q : Nat) (ok : Bool) : State :=
  match s.wg? wid with
  | none => s
  | some w =>
    let ths := w.parkedOn (fun t k => match k with
      | .delivery vec cause info addr =>
        if pcQuire vec = q then some (vec, ({ cause := cause, info := info, addr := addr } : Trap), t.pc, t.resume) else none
      | _ => none)
    let h := (s.resident w.part w.ctx w.core).quire q
    ths.foldl (fun (s : State) x =>
      if ok ∧ h.state = .resident ∧ pcOffset x.2.2.1 < h.length then
        { s with nextId := s.nextId + 1 }.enterHandler wid x.1 x.2.1 x.2.2.1 x.2.2.2.2.1 x.2.2.2.2.2 x.2.2.2.1.cause s.nextId
      else s.withdrawDelivery wid x.1 x.2.1 x.2.2.2.2.1 x.2.2.2.1) s

/-- A load of a quire ended (R165). -/
def State.quireLoaded (s : State) (p c core q : Nat) : State :=
  let x := (s.resident p c core).quire q
  if x.state ≠ .loading then s
  else
    let r := s.readCode p c core x.source x.length x.view
    let bad : Option (Nat × Nat) := match r.2 with
      | .fault _ a => some (4, a)
      | .bytes _ (some a) => some (4, a)
      | .bytes bs none => if natOfBytes (sha256 bs) = x.digest then none else some (3, 0)
    let s1 := r.1.modResident p c core (fun r => { r with reload := r.reload.filter (· ≠ q) })
    let ws := s1.wgsOn p c core
    match r.2, bad with
    | .bytes bs _, none =>
      let s2 := s1.modResident p c core (·.modQuire q (fun x => { x with state := .resident, image := SMap.write [] 0 bs 0 }))
      ws.foldl (fun (s : State) w =>
        (s.endParks w.wid false (fun k => match k with | .quire n => if n = q then some false else none | _ => none)).endDeliveries
          w.wid q true) s2
    | _, some (reason, a) =>
      let s2 := s1.modResident p c core (·.modQuire q (fun x => { x with state := .failed, frames := 0, image := [], length := 0, why := (reason, a % 2 ^ 64) }))
      let s3 := ws.foldl (fun (s : State) w => (s.trapParked w.wid q reason (a % 2 ^ 64)).endDeliveries w.wid q false) s2
      ((ws.filter (fun w => ! w.started && pcQuire w.entry == q)).map (fun w => (w.queue, w.count))).eraseDups.foldl
        (fun (s : State) l => s.entryFailed p c l.1 l.2 reason) s3
    | _, none => s1

/-- QUIRE_LOAD_COMPLETE (R165). -/
def execQuireLoadComplete (u : EvQuire) (s : State) : Out := .next (s.quireLoaded u.part u.ctx u.core u.quire)

/-- PAGE_WALK (R358): a walk fills the TLBs, and a failed one leaves nothing. A unit that needs the page walks in its
own step, and raises what the walk finds. Log entry 56. -/
def execPageWalk (u : EvWalk) (s : State) : Out :=
  .next (if (s.tlbHit u.core u.part u.ctx (u.va % 2 ^ 52)).isSome then s else (s.pageWalk u.part u.ctx u.core (u.va % 2 ^ 52) 0).1)

/-- What becomes of threads whose own quire is not RESIDENT (R351): a reload that failed is a trap with its reason; else they
park or trap as an entry to the quire would. -/
def State.strand (s : State) (w : Workgroup) (q : Nat) (view : View) : State × Verdict :=
  let x := (s.resident w.part w.ctx w.core).quire q
  if x.state = .failed then (s, .trap (quireAbsent q x.why.1 x.why.2)) else s.reachQuire w q none view

/-- A unit whose own quire is not RESIDENT (R351). -/
def strandUnit (s : State) : State :=
  match s.issueLanes Shape.event with
  | [] => s
  | e :: es =>
    let r := s.strand e.wg (pcQuire s.issue.pc) ((e :: es).foldl (fun (v : View) x => v.join x.t.code) [])
    match r.2 with
    | .done => r.1
    | v => finishUnit Shape.event true ((e :: es).map (fun e => (e.gi, e.ti))) ((e :: es).map (fun e => e.fate v)) s.issue.pc
        s.issue.wid (r.1.vecsOf s.issue.wid) r.1

end Sys2Proof.Machine
end

