-- ==== Sys2Proof/Machine/Placement.lean ====
section
/-!
DEFINITION. Placement (R261 to R263, R311, R312, R319 to R321): the turn that a partition's distributor takes, the sites
that a workgroup or a gang may go to, and the start of a placed workgroup.
-/
namespace Sys2Proof.Machine
open Sys2Proof

/-! ### Layout (R261 to R263, R311, R312) -/

/-- The footprint of a placed workgroup in lanes (R262). -/
def Workgroup.footprint (w : Workgroup) : Nat :=
  let t := w.groups.foldl (fun n g => n + g.width) 0
  if t ≤ 8 then 8 else if t ≤ 16 then 16 else if t ≤ 32 then 32 else 64

/-- The lowest W-aligned place of a footprint that earlier groups leave free (R262 step 3). -/
def lowestLane (taken : List (Nat × Nat)) (width : Nat) : Nat :=
  (((List.range (64 / width)).map (width * ·)).find? (fun b => ! taken.any (fun t => rangesMeet b width t.1 t.2))).getD 0

/-- The lane offsets of the groups of a record within its footprint: by decreasing width, ties to the lower index. -/
def laneOffsets (gs : List (Nat × Nat × Nat)) : List Nat :=
  let order := sortBy (fun (a b : Nat × Nat) => decide (b.1 < a.1 ∨ (a.1 = b.1 ∧ a.2 ≤ b.2))) (gs.zipIdx.map (fun g => (g.1.1, g.2)))
  let placed := order.foldl (fun (ps : List (Nat × Nat × Nat)) g => ps ++ [(lowestLane (ps.map (fun p => (p.1, p.2.1))) g.1, g.1, g.2)]) []
  (List.range gs.length).map (fun i => ((placed.find? (fun p => p.2.2 == i)).map (·.1)).getD 0)

/-- The groups of a workgroup at a lane base (R25, R42, R263). -/
def layGroups (r : List Byte) (lane : Nat) : List Group :=
  let gs := recGroups r
  let offs := laneOffsets gs
  gs.zipIdx.map (fun g =>
    Group.start g.1.1 (lane + (offs[g.2]?).getD 0) g.1.2.1 g.1.2.2 ((gs.take g.2).foldl (fun n x => n + x.1) 0)
      (BitVec.ofNat 32 (recNat r 4 4)) (BitVec.ofNat 32 (recNat r 0 4)))

/-- The index of the member of level 3 + i that holds workgroup w (R311). -/
def Launch.member (l : Launch) (i w : Nat) : Nat := w / recLevel l.record i

/-- A workgroup as it is placed (R42, R311, R320). -/
def Launch.workgroup (l : Launch) (p c w wid : Nat) (site : Site) (handles : List (Nat × Nat)) : Workgroup :=
  let xyz := l.coords w
  { wid := wid, part := p, ctx := c, core := site.core, queue := l.queue, count := l.count, wglin := w, wgx := xyz.1, wgy := xyz.2.1,
    wgz := xyz.2.2, levels := 3 + l.nlev, lvl := (List.range l.nlev).map (fun i => l.member i w), slot := site.slot,
    entry := BitVec.ofNat 32 (l.nat 0 4), consts := l.nat 16 8, started := false, retired := false, scratchBase := site.scratch,
    scratchSize := l.nat 36 4, scratch := [], full := [], scratchPoison := [], stores := [], sync := [], vaultBase := site.vault, vaultSize := l.nat 40 4,
    handles := handles, objects := [], patterns := [], work := [], fetched := [], groups := layGroups l.record site.lane }

/-! ### Gangs (R309, R320) -/

/-- The highest co-resident level of a launch, if any. Log entry 61. -/
def Launch.coLevel (l : Launch) : Option Nat := (List.range l.nlev).reverse.find? (fun i => recCo l.record i)

/-- The workgroups placed together with w: those of its member at the highest co-resident level that no FETCHW has
withdrawn. -/
def Launch.gang (l : Launch) (w : Nat) : List Nat :=
  match l.coLevel with
  | none => [w]
  | some i => l.unplaced.filter (fun x => l.member i x == l.member i w)

/-- The first workgroup whose gang is ready, in ascending order (R319 step 4). Log entry 61. -/
def State.readyGang (s : State) (p c : Nat) (l : Launch) : Option (List Nat) :=
  if l.state ≠ .admitted ∨ l.hold = true then none
  else ((l.unplaced).find? (fun w => (l.gang w).all (fun x => s.wgReady p c l x))).map l.gang

/-! ### Sites (R320) -/

/-- Where a context is ACTIVE on a core. -/
def State.activeAt (s : State) (core : Nat) : Option Resident := s.residents.find? (fun r => r.core == core && r.loc == .active)
def State.isActive (s : State) (p c core : Nat) : Bool :=
  s.residents.any (fun r => r.part == p && r.ctx == c && r.core == core && r.loc == .active && ! r.quiescing)

/-- The vault bytes of each core that a partition's workgroups may hold (R344); the root core has a home vault like the others.
Log entry 12. -/
def State.vaultLimit (s : State) (p : Nat) : Nat := if p = rootPart then 4194304 else min (s.part p).vaultq.toNat 4194304

/-- Whether the entry quire's frames can be had (R320): resident or loading, free, or after evictions. -/
def State.framesFor (s : State) (p c core q : Nat) : Bool :=
  let r := s.resident p c core
  match (r.quire q).state with
  | .resident => true
  | .loading => true
  | _ => match s.quireEntry p c core q [] with
    | (s1, some e, _) => (evictFor (s.frameQuota p c - r.framesHeld) (e.length / 4096) (s1.evictable r q)).isSome
    | _ => true

/-- Whether two workgroups of a launch that share a member must share a cluster, or a die (R309). -/
def domainOk (l : Launch) (w core : Nat) (others : List (Nat × Nat)) : Bool :=
  (List.range l.nlev).all (fun i =>
    let f : Nat → Nat := match recNat l.record (132 + 8 * i) 1 with | 0 => clusterOf | 1 => dieOf | _ => fun _ => 0
    others.all (fun o => l.member i o.1 != l.member i w || f o.2 == f core))

/-- The scratch that a context's workgroups hold on a core, as bases and sizes, and their sum (R320). -/
def State.scratchUsed (s : State) (p c core : Nat) : List (Nat × Nat) := (s.wgsOn p c core).map (fun v => (v.scratchBase, v.scratchSize))
def State.scratchSum (s : State) (p c core : Nat) : Nat := (s.scratchUsed p c core).foldl (fun n u => n + u.2) 0
/-- Whether a place in scratch is free as the workgroups lie. -/
def State.scratchFree (s : State) (p c core base size : Nat) : Bool :=
  decide (base + size ≤ 524288) && ! (s.scratchUsed p c core).any (fun u => rangesMeet base size u.1 u.2)
/-- The workgroups of a context on a core moved together in scratch: the sum of their demands is all that R320 bounds.
Log entry 61. -/
def State.packScratch (s : State) (p c core : Nat) : State :=
  (s.wgsOn p c core).foldl (fun (acc : State × Nat) w =>
    (acc.1.modWg w.wid (fun x => { x with scratchBase := acc.2 }), acc.2 + w.scratchSize)) (s, 0) |>.1
/-- A workgroup added at its place; where no gap holds it the others are moved together first. -/
def State.addWg (s : State) (w : Workgroup) : State :=
  let t := if s.scratchFree w.part w.ctx w.core w.scratchBase w.scratchSize then s else s.packScratch w.part w.ctx w.core
  { t with wgs := t.wgs ++ [w] }

/-- Whether a workgroup of a launch fits at a site, beside the workgroups already there (R262, R320). -/
def State.fits (s : State) (p c : Nat) (l : Launch) (w : Nat) (x : Site) : Bool :=
  let f := footprintOf l.record
  let here := s.wgsOn p c x.core
  let all := s.wgs.filter (fun v => v.core == x.core)
  (s.coresOf p).contains x.core && s.isActive p c x.core
    && decide (x.slot < 16 ∧ x.lane % f = 0 ∧ x.lane + f ≤ 64)
    && ! here.any (fun v => ! v.retired && v.slot == x.slot && rangesMeet x.lane f v.laneBase v.footprint)
    && decide (s.scratchSum p c x.core + l.nat 36 4 ≤ 524288)
    && (s.scratchFree p c x.core x.scratch (l.nat 36 4) || x.scratch == s.scratchSum p c x.core)
    && decide (x.vault + l.nat 40 4 ≤ s.vaultLimit p) && ! all.any (fun v => rangesMeet x.vault (l.nat 40 4) v.vaultBase v.vaultSize)
    && (! recMatrix l.record || (p != rootPart && ! here.any (fun v => ! v.retired && v.groups.any (fun g => decide (2 ≤ g.role)))))
    && s.framesFor p c x.core (pcQuire (BitVec.ofNat 32 (l.nat 0 4)))
    && domainOk l w x.core ((s.wgs.filter (fun v => v.part == p && v.ctx == c && v.queue == l.queue && v.count == l.count)).map
      (fun v => (v.wglin, v.core)))

/-- The lowest base at which `size` bytes meet none of the ranges in use. -/
def lowestBase (used : List (Nat × Nat)) (size : Nat) : Nat :=
  let cands := 0 :: used.map (fun u => u.1 + u.2)
  let ok := cands.filter (fun b => ! used.any (fun u => rangesMeet b size u.1 u.2))
  ok.foldl min (ok.headD 0)

/-- The sites of one workgroup on a core: every slot and lane base; scratch and vault at their lowest free place, scratch
past the others where no gap is wide enough. -/
def State.sitesOn (s : State) (p c : Nat) (l : Launch) (w core : Nat) : List Site :=
  let f := footprintOf l.record
  let low := lowestBase (s.scratchUsed p c core) (l.nat 36 4)
  let scratch := if low + l.nat 36 4 ≤ 524288 then low else s.scratchSum p c core
  let vault := lowestBase ((s.wgs.filter (fun v => v.core == core)).map (fun v => (v.vaultBase, v.vaultSize))) (l.nat 40 4)
  ((List.range 16).flatMap (fun sl => (List.range (64 / f)).map (fun b =>
    ({ core := core, slot := sl, lane := f * b, scratch := scratch, vault := vault } : Site)))).filter (fun x => s.fits p c l w x)

/-- Workgroups put at their sites one after another, each where it fits beside those before it. Log entry 61. -/
def State.fitAll (s : State) (p c : Nat) (l : Launch) : List (Nat × Site) → Bool
  | [] => true
  | (w, x) :: r =>
    s.fits p c l w x && State.fitAll (s.addWg (l.workgroup p c w 0 x [])) p c l r

/-- Sites for a gang, one workgroup after another: the first of the cores, in the order given, with a site from which the others
find theirs. The sites of one core are alike to the rest of a gang, whose members are of one size: one of them is tried. -/
def State.choose (s : State) (p c : Nat) (l : Launch) (cores : List Nat) : List Nat → Option (List Site)
  | [] => some []
  | w :: r => cores.findSome? (fun k => match s.sitesOn p c l w k with
      | [] => none
      | xs => (xs[Config.choose s.draws (1000 + w) % xs.length]?).bind (fun x =>
          (State.choose (s.addWg (l.workgroup p c w 0 x [])) p c l cores r).map (x :: ·)))

/-- A list begun at its n-th element. -/
def rotate {α : Type} (xs : List α) (n : Nat) : List α := xs.drop (n % xs.length) ++ xs.take (n % xs.length)

/-- Sites for a gang, on cores of the device's choice (R11); none when there is no room for it (R320). -/
def State.sitesFor (s : State) (p c : Nat) (l : Launch) (ws : List Nat) : Option (List Site) :=
  s.choose p c l (rotate ((s.coresOf p).filter (fun k => s.isActive p c k)) (Config.choose s.draws 900)) ws

/-! ### Turns (R319) -/

/-- The launches of a partition that have a ready gang, in the order of contexts and admission, each with its gang.
Log entry 61. -/
def State.readyLaunches (s : State) (p : Nat) : List (Nat × Launch × List Nat) :=
  (s.contexts.filter (fun x => x.part == p && x.state == .live)).flatMap (fun x =>
    x.launches.filterMap (fun l => (s.readyGang p x.ctx l).map (fun g => (x.ctx, l, g))))

/-- The key of a queue in the round of a class. -/
def queueKey (c q : Nat) : Nat := 64 * c + q

/-- The turns of classes 1 to 3. -/
def classTurns : List Nat := [1, 1, 1, 1, 2, 2, 3]

/-- The class whose turn it is among those that can be served, and the next place in the sequence. -/
def nextClass (turn : Nat) (classes : List Nat) : Option (Nat × Nat) :=
  if classes.contains 0 then some (0, turn)
  else (List.range 7).findSome? (fun i =>
    let k := (classTurns[(turn + i) % 7]?).getD 1
    if classes.contains k then some (k, (turn + i + 1) % 7) else none)

/-- The launch that the next placement turn of a partition serves, with its gang and the turn's new place (R319), whether or
not there is room for it. Log entry 61. -/
def State.turnFor (s : State) (p : Nat) : Option (Nat × Launch × List Nat × Nat) :=
  let xs := s.readyLaunches p
  match nextClass (s.part p).turn (xs.map (fun x => x.2.1.prio)) with
  | none => none
  | some (k, t) =>
    let ys := xs.filter (fun x => x.2.1.prio == k)
    let key (x : Nat × Launch × List Nat) : Nat := queueKey x.1 x.2.1.queue
    let last := (((s.part p).lastServed)[k]?).getD 0
    let after := ys.filter (fun x => decide (last ≤ key x))
    let pool := if after.isEmpty then ys else after
    let low := pool.foldl (fun m x => min m (key x)) (pool.headD (0, Launch.queued 0 0 [] [], []) |> key)
    (pool.find? (fun x => key x == low)).map (fun x => (x.1, x.2.1, x.2.2, t))

/-- A turn whose gang finds no room although another that it does not have to wait for would: class 0 keeps its turns, and
among its own queues, and for the other classes, the turn passes on (R319). Log entry 61. -/
def State.turnPasses (s : State) (p : Nat) : Option (Nat × Launch × Nat) :=
  match s.turnFor p with
  | none => none
  | some (c, l, ws, t) =>
    if (s.sitesFor p c l ws).isNone && (s.readyLaunches p).any (fun x => (l.prio != 0 || x.2.1.prio == 0) && (s.sitesFor p x.1 x.2.1 x.2.2).isSome)
    then some (c, l, t) else none
/-- A partition's turn taken by a launch. -/
def State.takeTurn (s : State) (p c : Nat) (l : Launch) (turn : Nat) : State :=
  s.modPart p (fun d => { d with turn := turn, lastServed := d.lastServed.set l.prio (queueKey c l.queue + 1) })

/-! ### PLACEMENT (R312, R320, R321) -/

/-- The home vaults that the handles of a gang's workgroup name (R312): a workgroup that was not placed has none. -/
def Launch.handlesOf (l : Launch) (placed : List (Nat × Site)) (w : Nat) : List (Nat × Nat) :=
  if l.nat 45 1 = 3 then
    let e := recNat l.record 128 4
    let first := e * l.member 0 w
    ((List.range e).filter (fun h => decide (first + h < l.total))).map (fun h =>
      match placed.find? (fun x => x.1 == first + h) with
      | some x => (x.2.core, x.2.vault)
      | none => (rootCore + 1, 0))
  else []

/-- One workgroup of a gang placed; its entry quire's load requested (R321). -/
def State.placeOne (s : State) (p c q k : Nat) (placed : List (Nat × Site)) (w : Nat) (x : Site) : State :=
  match s.launch? p c q k with
  | none => s
  | some l =>
    let s1 : State := { s with nextId := s.nextId + 1 }.addWg (l.workgroup p c w s.nextId x (l.handlesOf placed w))
    let s2 := if recMatrix l.record then s1.modResident p c x.core (fun r =>
        { r with tiles := List.replicate 4 Tile.reset, planes := List.replicate 2 Plane.reset }) else s1
    ((s2.countPlaced p c q k w).trace p c distAgent 0x03 x.core 0 l.handle w 0)

/-- The load of a placed workgroup's entry quire requested; an unusable entry fails the launch (R321). -/
def State.requestEntry (s : State) (w : Workgroup) : State :=
  match s.loadQuire w.part w.ctx w.core (pcQuire w.entry) [] with
  | (s1, .badEntry) => s1.entryFailed w.part w.ctx w.queue w.count 1
  | (s1, _) => s1

/-- PLACEMENT without sites: the launch is considered (R316, R317), or its turn passes. -/
def State.placeNone (s : State) (p c : Nat) (l : Launch) : State :=
  if s.considerable p c l then s.consider p c l
  else match s.turnPasses p with
    | some (d, t, turn) => if d = c ∧ t.queue = l.queue ∧ t.count = l.count then s.takeTurn p d t turn else s
    | none => s

/-- PLACEMENT: with sites, the gang whose turn it is goes there. -/
def execPlacement (u : EvPlace) (s : State) : Out :=
  .next (match s.launch? u.part u.ctx u.queue u.count with
    | none => s
    | some l =>
      if (s.context u.part u.ctx).state ≠ .live then s
      else if u.sites.isEmpty then s.placeNone u.part u.ctx l
      else
        match s.turnFor u.part with
        | none => s
        | some (c, t, ws, turn) =>
          if c = u.ctx ∧ t.queue = u.queue ∧ t.count = u.count ∧ ws.length = u.sites.length ∧ s.fitAll u.part c l (ws.zip u.sites) = true then
            let placed := ws.zip u.sites
            let s0 := s.takeTurn u.part c t turn
            let s1 := placed.foldl (fun (s : State) x => s.placeOne u.part c l.queue l.count placed x.1 x.2) s0
            ((s1.wgs.filter (fun w => decide (s.nextId ≤ w.wid))).foldl (fun (s : State) w => s.requestEntry w) s1)
          else s)

/-! ### WORKGROUP_START (R266, R321) -/

/-- A workgroup whose threads start: they have acquired what its placement does (R318), and a debug stop of their context holds
them (R379). -/
def Workgroup.begin (w : Workgroup) (s : State) (hold : Bool) : Workgroup :=
  let v := match s.launch? w.part w.ctx w.queue w.count with
    | some l => s.placeView w.part w.ctx l w.wglin
    | none => []
  let x : Workgroup := { w with
    started := true
    groups := w.groups.map (fun g => { g with threads := g.threads.map (fun t => { t with view := v }) }) }
  if hold then x.stop s else x

/-- WORKGROUP_START: with its entry quire RESIDENT every thread of the workgroup starts; otherwise the load is requested
again. -/
def State.startWg (s : State) (w : Workgroup) : State :=
  let r := s.resident w.part w.ctx w.core
  let q := pcQuire w.entry
  if w.started ∨ r.loc ≠ .active ∨ r.quiescing = true ∨ (s.context w.part w.ctx).state ≠ .live then s
  else
    match (r.quire q).state with
    | .loading => s
    | .resident =>
      let hold := (s.context w.part w.ctx).stops w
      (s.modWg w.wid (fun w => w.begin s hold)).enterQuire
        w.part w.ctx w.core q
    | _ => s.requestEntry w

/-- WORKGROUP_START (R321). -/
def execWorkgroupStart (u : EvWg) (s : State) : Out :=
  .next (match s.wg? u.wid with | some w => s.startWg w | none => s)

end Sys2Proof.Machine
end

