-- ==== Sys2Proof/Machine/Switching.lean ====
section
/-!
DEFINITION. Pre-emption and the places where a core keeps a context (R322, R343, R348 to R355): quiescing, the switch
between ACTIVE and SHADOW, the save and the restore, each on a whole gang.
-/
namespace Sys2Proof.Machine
open Sys2Proof

/-! ### Who is on a core -/

/-- The contexts that a core holds, ACTIVE or SHADOW (R348). -/
def State.heldOn (s : State) (core : Nat) : List Resident := s.residents.filter (fun r => r.core == core && r.loc != .saved)
/-- Whether a context has work of its own on a core: workgroups that have not retired. -/
def State.busyOn (s : State) (p c core : Nat) : Bool := (s.wgsOn p c core).any (fun w => ! w.retired)

/-- Whether two workgroups stand in one gang: one launch, one member of a co-resident level (R320). Log entry 63. -/
def State.ganged (s : State) (a b : Workgroup) : Bool :=
  a.part == b.part && a.ctx == b.ctx && a.queue == b.queue && a.count == b.count &&
    (match s.launch? a.part a.ctx a.queue a.count with
      | none => false
      | some l => (List.range l.nlev).any (fun i => recCo l.record i && l.member i a.wglin == l.member i b.wglin))

/-- The cores that gangs of some contexts link to a set of cores. Log entry 63. -/
def State.linked (s : State) (mine : Workgroup → Bool) (cores : List Nat) : (fuel : Nat) → List Nat
  | 0 => cores
  | n + 1 =>
    let here := s.wgs.filter (fun w => ! w.retired && mine w && cores.contains w.core)
    let more := (s.wgs.filter (fun w => ! w.retired && mine w && here.any (fun x => s.ganged x w))).map (·.core)
    let all := (cores ++ more).eraseDups
    if all.length = cores.length then cores else State.linked s mine all n

/-- The cores that must switch together so that a context becomes ACTIVE on one: gangs of the contexts that leave, and of
the one that comes. -/
def State.switchCores (s : State) (p c core : Nat) : List Nat :=
  s.linked (fun w => (w.part == p && w.ctx == c) || (match s.activeAt w.core with
    | some r => r.part == w.part && r.ctx == w.ctx
    | none => false)) [core] (s.wgs.length + 1)

/-- Whether a core has room to hold one more context: three at most, FRAMEQ values summing to at most 64 (R349). -/
def State.holdRoom (s : State) (p c core : Nat) : Bool :=
  let others := (s.heldOn core).filter (fun r => ! (r.part == p && r.ctx == c))
  decide (others.length ≤ 2) && decide (others.foldl (fun n r => n + s.frameQuota r.part r.ctx) (s.frameQuota p c) ≤ 64)

/-! ### Quiescing (R353) -/

/-- Work that a save does not wait for: streamer jobs and prefetches (R354), a .PROOFED gather that waits or has been withdrawn
(R241), a pending fetch of PROOFW (R237, R343). Log entry 57. -/
def State.outlasts (s : State) (j : Job) : Bool :=
  j.kind.goesOn || j.withdrawn || s.gatherWaits j || (match j.kind with | .proofw _ _ _ _ => true | _ => false)

/-- Whether the work begun on a core for a context has ended, and its results have been drained. Log entry 57. -/
def State.quiet (s : State) (p c core : Nat) : Bool :=
  (s.jobs.filter (fun j => j.part == p && j.ctx == c && j.core == core)).all s.outlasts
    && (s.wgsOn p c core).all (fun w => w.groups.all (fun g =>
      g.gPending.all (·.returned) && g.threads.all (fun t => t.pending.all (·.returned))))

/-- Whether a launch of a class is class 0's. -/
def Launch.first (l : Launch) : Bool := l.prio == 0
/-- Whether a context has class-0 work that wants a core: workgroups of class 0 there, or a class-0 gang to place (R322). -/
def State.urgent (s : State) (p c core : Nat) : Bool :=
  (s.wgsOn p c core).any (fun w => ! w.retired && (match s.launch? p c w.queue w.count with | some l => l.first | none => false))
    || (s.context p c).launches.any (fun l => l.first && (s.readyGang p c l).isSome)

/-- Whether the context ACTIVE on a core may leave it for another: it has no work there, or it has been quiesced for class-0
work of the one that comes (R320, R322). -/
def State.mayLeave (s : State) (p c core : Nat) : Bool :=
  match s.activeAt core with
  | none => true
  | some r => (! s.busyOn r.part r.ctx core || (r.quiescing && s.urgent p c core)) && s.quiet r.part r.ctx core

/-- What waits for a context on a core withdrawn: gathers, and the pending fetches of its workgroups, whose threads stand at the
unit, to be offered again (R237, R241, R343). Log entry 57. -/
def State.withdrawOn (s : State) (p c core : Nat) : State :=
  (s.wgsOn p c core).foldl (fun (s : State) w =>
    (s.withdrawFetches w.wid).endParks w.wid false (fun k => match k with | .proofw _ => some false | _ => none)) (s.withdrawGathers p c core)

/-- Ages set to zero (R268). -/
def State.zeroAges (s : State) (p c core : Nat) : State :=
  { s with wgs := s.wgs.map (fun (w : Workgroup) =>
      if w.part = p ∧ w.ctx = c ∧ w.core = core then
        { w with groups := w.groups.map (fun (g : Group) => { g with threads := g.threads.map (fun (t : Thread) => { t with age := 0 }) }) }
      else w) }

/-- The results of a context's workgroups on a core in their registers (R88, R353, R366). -/
def State.landOn (s : State) (p c core : Nat) : State :=
  { s with wgs := s.wgs.map (fun (w : Workgroup) => if w.part = p ∧ w.ctx = c ∧ w.core = core then w.land s else w) }

/-- A SWITCH record of a context (R385). -/
def State.traceSwitch (s : State) (p c core on : Nat) : State := s.trace p c distAgent 0x05 core 0 0 0 on

/-- The translations of a context that leaves a core: those of the core, and those of the die once the context is ACTIVE on no
core of it (R350). -/
def State.dropTlb (s : State) (p c core : Nat) : State :=
  let stays := s.residents.any (fun r => r.part == p && r.ctx == c && r.loc == .active && dieOf r.core == dieOf core)
  { s with tlb := s.tlb.filter (fun t => ! (t.part == p && t.ctx == c && (t.place == core || (t.place == 256 + dieOf core && ! stays)))) }

/-- The threads of a context on a core, as one changes each. -/
def State.modThreads (s : State) (p c core : Nat) (f : Thread → Thread) : State :=
  { s with wgs := s.wgs.map (fun (w : Workgroup) => if w.part = p ∧ w.ctx = c ∧ w.core = core then w.mapThreads f else w) }
/-- What the save of a context at pre-emption has ordered on a core: every access that its threads have performed (R285). -/
def State.savedView (s : State) (p c core : Nat) : View :=
  (s.wgsOn p c core).foldl (fun (v : View) w => w.groups.foldl (fun (v : View) g =>
    g.threads.foldl (fun (v : View) t => v.join (t.released 5)) v) v) []
/-- The save's release at .dev, and the restore's acquire by every thread resumed (R285). -/
def State.saveRelease (s : State) (p c core : Nat) : State :=
  (s.withLedger (s.ledger.certain (s.savedView p c core) true)).modThreads p c core (·.release 5)
def State.resumeAcquire (s : State) (p c core : Nat) : State := s.modThreads p c core (·.learn (s.savedView p c core))

/-- On one core the ACTIVE context leaves for a shadow frame. -/
def State.leave (s : State) (core : Nat) : State :=
  match s.activeAt core with
  | none => s
  | some r =>
    ((((((s.withdrawOn r.part r.ctx core).landOn r.part r.ctx core).saveRelease r.part r.ctx core).zeroAges r.part r.ctx core).modResident r.part r.ctx core (fun x =>
      { x with loc := .shadow, quiescing := false })).dropTlb r.part r.ctx core).traceSwitch r.part r.ctx core 0

/-- On one core a context becomes ACTIVE: from its frame, or with an empty image. -/
def State.activate (s : State) (p c core : Nat) : State :=
  ((s.resumeAcquire p c core).modResident p c core (fun x => { x with loc := .active, quiescing := false })).traceSwitch p c core 1

/-- A context made ACTIVE on one core, the one there before leaving it. -/
def State.swapIn (s : State) (p c core : Nat) : State :=
  match s.activeAt core with
  | some r => if r.part = p ∧ r.ctx = c then s.modResident p c core (fun x => { x with quiescing := false })
      else (s.leave core).activate p c core
  | none => s.activate p c core

/-! ### PREEMPT (R322) -/

/-- Whether a context could become ACTIVE on a core with nothing pre-empted. -/
def State.idleFor (s : State) (p c core : Nat) : Bool :=
  (match s.activeAt core with | none => true | some r => ! s.busyOn r.part r.ctx core)
    && s.holdRoom p c core && ! s.residents.any (fun r => r.part == p && r.ctx == c && r.core == core && r.loc == .saved)
/-- The state in which a context is ACTIVE on every core of its partition that no other context works on. -/
def State.withIdle (s : State) (p c : Nat) : State :=
  ((s.coresOf p).filter (s.idleFor p c)).foldl (fun (s : State) k => s.swapIn p c k) s

/-- Class-0 launches of a context with a ready gang that no core can take, idle ones among them (R322). -/
def State.waiting0 (s : State) (p c : Nat) : List (Launch × List Nat) :=
  ((s.context p c).launches.filterMap (fun l =>
    if l.prio = 0 then (s.readyGang p c l).map (fun g => (l, g)) else none)).filter (fun x =>
      ((s.withIdle p c).sitesFor p c x.1 x.2).isNone)

/-- Whether the context ACTIVE on a core has no class-0 workgroup of another context than c there, and the core has room for
one more context. -/
def State.yieldsTo (s : State) (p c core : Nat) : Bool :=
  (match s.activeAt core with
    | none => true
    | some r => r.part == p && (r.ctx == c || (s.wgsOn p r.ctx core).all (fun w =>
        w.retired || (match s.launch? p r.ctx w.queue w.count with | some l => l.prio != 0 | none => true))))
    && s.holdRoom p c core
    && ! s.residents.any (fun r => r.part == p && r.ctx == c && r.core == core && r.loc == .saved)

/-- Whether the context ACTIVE on a core may be pre-empted for another context of its partition: on that core, and on every
core that gangs link to it, its workgroups are all of classes 1 to 3. -/
def State.preemptible (s : State) (p c core : Nat) : Bool :=
  (match s.activeAt core with | none => false | some r => r.ctx != c) && (s.switchCores p c core).all (s.yieldsTo p c)

/-- The lowest-numbered cores whose pre-emption, with those already quiescing, frees room for a gang: the shortest run of the
candidates that does, less those of it, from the highest down, without which it still does (R322). Log entry 61. -/
def State.preemptCores (s : State) (p c : Nat) (l : Launch) (ws : List Nat) : List Nat :=
  let quiescing := (s.residents.filter (fun r => r.part == p && r.loc == .active && r.quiescing)).map (·.core)
  let base := quiescing.foldl (fun (s : State) k => s.swapIn p c k) (s.withIdle p c)
  let cands := (s.coresOf p).filter (fun k => s.preemptible p c k && ! quiescing.contains k)
  let fitsWith (ks : List Nat) : Bool := ((ks.foldl (fun (b : State) k =>
    (s.switchCores p c k).foldl (fun (b : State) k => b.swapIn p c k) b) base).sitesFor p c l ws).isSome
  match (List.range (cands.length + 1)).find? (fun n => fitsWith (cands.take n)) with
  | some n => (cands.take n).reverse.foldl (fun ks k => if fitsWith (ks.filter (· != k)) then ks.filter (· != k) else ks) (cands.take n)
  | none => []

/-- Whether PREEMPT would quiesce a core for a context. -/
def State.preempts (s : State) (p c core : Nat) : Bool :=
  (s.context p c).state == .live && (s.waiting0 p c).any (fun x => (s.preemptCores p c x.1 x.2).contains core)

/-- PREEMPT (R322, R353): a core, with those that gangs link to it, stops offering units. -/
def execPreempt (u : EvCore) (s : State) : Out :=
  .next (
    if s.preempts u.part u.ctx u.core then
      (s.switchCores u.part u.ctx u.core).foldl (fun (s : State) k => match s.activeAt k with
        | some r => s.modResident r.part r.ctx k (fun x => { x with quiescing := ! (x.part == u.part && x.ctx == u.ctx) })
        | none => s) s
    else s)

/-! ### CONTEXT_SWITCH (R320, R349, R350) -/

/-- Whether a context has work that wants it ACTIVE on a core: workgroups there, or workgroups to place. -/
def State.wants (s : State) (p c core : Nat) : Bool :=
  s.busyOn p c core || (s.context p c).launches.any (fun l => (s.readyGang p c l).isSome)

/-- Whether a context may become ACTIVE on a core now. -/
def State.switchable (s : State) (p c core : Nat) : Bool :=
  let ks := s.switchCores p c core
  (s.context p c).state == .live && (s.coresOf p).contains core && s.wants p c core && ! s.isActive p c core
    && ks.all (fun k => (s.coresOf p).contains k && s.mayLeave p c k && s.holdRoom p c k
      && ! s.residents.any (fun r => r.part == p && r.ctx == c && r.core == k && r.loc == .saved))

/-- Whether a quiescing core need no longer give way: no class-0 workgroup of another context waits. -/
def State.quiesceOver (s : State) (p c core : Nat) : Bool :=
  (match s.activeAt core with | some r => r.part == p && r.ctx == c && r.quiescing | none => false)
    && ! s.contexts.any (fun x => x.part == p && x.ctx != c && x.state == .live && ! (s.waiting0 p x.ctx).isEmpty)

/-- The waiting gathers that stand in the way of a context that wants a core: those of contexts that have nothing else left there
(R241, R353). -/
def State.inWay (s : State) (p c core : Nat) : List Job :=
  if (s.context p c).state == .live && (s.coresOf p).contains core && s.wants p c core && ! s.isActive p c core then
    s.jobs.filter (fun j => ! j.withdrawn && ! (j.part == p && j.ctx == c) && (s.switchCores p c core).contains j.core
      && s.isActive j.part j.ctx j.core && ! s.busyOn j.part j.ctx j.core && s.gatherWaits j)
  else []

/-- CONTEXT_SWITCH (R350): on every core of the swap the context becomes ACTIVE, or gathers in its way are withdrawn; or a core whose
pre-emption has lost its reason goes on. -/
def execContextSwitch (u : EvCore) (s : State) : Out :=
  .next (
    if s.quiesceOver u.part u.ctx u.core then s.modResident u.part u.ctx u.core (fun x => { x with quiescing := false })
    else if s.switchable u.part u.ctx u.core then
      (s.switchCores u.part u.ctx u.core).foldl (fun (s : State) k => s.swapIn u.part u.ctx k) s
    else (s.inWay u.part u.ctx u.core).foldl (fun (s : State) j => s.setWithdrawn j true) s)

/-! ### CONTEXT_SAVE (R349, R352) -/

/-- The cores whose images a context saves and restores together: those that its gangs link. Log entry 63. -/
def State.gangCores (s : State) (p c core : Nat) : List Nat :=
  s.linked (fun w => w.part == p && w.ctx == c) [core] (s.wgs.length + 1)

/-- Whether a core's shadow frame of a context may be streamed out: no load of its quires is in progress.
Log entries 57 and 63. -/
def State.savable (s : State) (p c core : Nat) : Bool :=
  s.residents.any (fun r => r.part == p && r.ctx == c && r.core == core && r.loc == .shadow
    && r.quires.all (fun x => x.state != .loading))

/-- What a context's quires keep when its frames are freed (R349, R351): tokens; RESIDENT stands for a quire to reload, where the
image still counts tokens or occupancy when it returns. -/
def State.freeQuires (s : State) (p c core : Nat) : State :=
  s.modResident p c core (fun r =>
    { r with
      loc := .saved
      quires := r.quires.map (fun (x : Quire) =>
        if x.state = .resident then { x with frames := 0, image := [] } else x.evict) })

/-- CONTEXT_SAVE. -/
def execContextSave (u : EvCore) (s : State) : Out :=
  .next (
    let ks := s.gangCores u.part u.ctx u.core
    if ks.all (fun k => s.savable u.part u.ctx k) then
      ks.foldl (fun (s : State) k => (s.saveImage u.part u.ctx k).freeQuires u.part u.ctx k) s
    else s)

/-! ### CONTEXT_RESTORE (R349, R351, R354, R355) -/

/-- The locations of a range with only their newest stores kept. -/
def onlyNewest (h : SMap Versions) (lo hi : Nat) : SMap Versions :=
  h.map (fun x => if lo ≤ x.1 ∧ x.1 < hi then (x.1, { x.2 with last := x.2.last + 1, older := [] }) else x)

/-- The vault bytes of a workgroup moved with it to another core. Log entry 63. -/
def State.moveVault (s : State) (w : Workgroup) (core base : Nat) : State :=
  let from_ := vaultKey w.core w.vaultBase
  let to_ := vaultKey core base
  let bs := SMap.read s.vault from_ w.vaultSize 0
  let marks := SMap.read s.vaultPoison (from_ / 16) (w.vaultSize / 16) false
  { s with
    vault := SMap.write (s.vault.clearRange from_ (from_ + w.vaultSize)) to_ bs 0
    stores := onlyNewest (onlyNewest s.stores (locKey 1 (from_ / 8)) (locKey 1 ((from_ + w.vaultSize) / 8))) (locKey 1 (to_ / 8))
      (locKey 1 ((to_ + w.vaultSize) / 8))
    vaultPoison := SMap.write (s.vaultPoison.clearRange (from_ / 16) ((from_ + w.vaultSize) / 16)) (to_ / 16) marks false }

/-- A workgroup moved to another core: its vault allocation, the handles that name it, its jobs. -/
def State.moveWg (s : State) (w : Workgroup) (core : Nat) : State :=
  if w.core = core then s
  else
    let base := lowestBase ((s.wgs.filter (fun v => v.core == core)).map (fun v => (v.vaultBase, v.vaultSize))) w.vaultSize
    let s1 := s.moveVault w core base
    { s1 with
      wgs := s1.wgs.map (fun (v : Workgroup) =>
        let v1 : Workgroup := if v.part = w.part ∧ v.ctx = w.ctx ∧ v.queue = w.queue ∧ v.count = w.count then
            { v with handles := v.handles.map (fun (h : Nat × Nat) => if h = (w.core, w.vaultBase) then (core, base) else h) }
          else v
        if v.wid = w.wid then { v1 with core := core, vaultBase := base } else v1)
      jobs := s1.jobs.map (fun (j : Job) => if j.wid = w.wid then { j with core := core } else j) }

/-- Quires that were RESIDENT and in use loaded again, before any thread of the context issues; one whose load cannot start is
FAILED with its reason (R351). Log entry 63. -/
def State.reloadQuires (s : State) (p c core : Nat) : State :=
  let qs := ((s.resident p c core).quires.filter (fun x => x.state == .resident)).map (fun x => (x.q, x.entered, x.view))
  let s1 := s.modResident p c core (fun r => { r with quires := r.quires.map (fun (x : Quire) => if x.state = .resident then { x with state := .absent } else x) })
  qs.foldl (fun (s : State) q =>
    let t := s.loadQuire p c core q.1 q.2.2
    match t.2 with
    | .started =>
      if ((t.1.resident p c core).quire q.1).state = .resident then t.1
      else t.1.modResident p c core (fun r => { r with reload := r.reload ++ [q.1] })
    | a =>
      let why : Nat × Nat := if a = .noFrames then (5, 0) else (1, (s.quireEntry p c core q.1 q.2.2).2.2)
      t.1.modResident p c core (·.modQuire q.1 (fun x => { x with state := .failed, why := why }))) s1

/-- Whether the vault of a core has room for the workgroups of an image. -/
def State.vaultRoom (s : State) (p c image core : Nat) : Bool :=
  let mine := (s.wgsOn p c image).foldl (fun n w => n + w.vaultSize) 0
  let there := (s.wgs.filter (fun w => w.core == core && ! (w.part == p && w.ctx == c))).foldl (fun n w => max n (w.vaultBase + w.vaultSize)) 0
  image == core || decide (there + mine ≤ s.vaultLimit p)

/-- The images restored together with one: its gang's others return to their own cores (R355). -/
def State.restorePlan (s : State) (p c image core : Nat) : List (Nat × Nat) :=
  (s.gangCores p c image).map (fun k => (k, if k = image then core else k))

/-- Whether every workgroup of a context would still share its members' clusters and dies with the images back at their cores
(R309, R355). -/
def State.domainsKept (s : State) (p c : Nat) (plan : List (Nat × Nat)) : Bool :=
  let at_ (w : Workgroup) : Nat := ((plan.find? (fun x => x.1 == w.core)).map (·.2)).getD w.core
  let mine := s.wgs.filter (fun w => w.part == p && w.ctx == c && ! w.retired)
  mine.all (fun w => match s.launch? p c w.queue w.count with
    | none => true
    | some l => domainOk l w.wglin (at_ w) ((mine.filter (fun v => v.queue == w.queue && v.count == w.count)).map (fun v => (v.wglin, at_ v))))

/-- Whether a SAVED image may return to a core. -/
def State.restorable (s : State) (p c image core : Nat) : Bool :=
  (s.context p c).state == .live && (s.restorePlan p c image core).all (fun x =>
    (s.coresOf p).contains x.2
      && s.residents.any (fun r => r.part == p && r.ctx == c && r.core == x.1 && r.loc == .saved)
      && (x.1 == x.2 || ! s.residents.any (fun r => r.part == p && r.ctx == c && r.core == x.2))
      && s.mayLeave p c x.2 && s.holdRoom p c x.2 && s.vaultRoom p c x.1 x.2)
    && s.domainsKept p c (s.restorePlan p c image core)

/-- The parks whose conditions an image read back meets: those threads are READY (R355). -/
def State.settleParks (s : State) (p c core : Nat) : State :=
  (s.wgsOn p c core).foldl (fun (s : State) w => (s.endParksWith w.wid true
    (fun k => match k with | .phase o _ _ => w.sync.get (syncKey o 1) [] | .chunk o m _ => w.mapSync o m | _ => [])
    (fun k => match k with
      | .phase o x h => if w.phaseBit o = x then none else some h
      | .chunk o m h => if w.mapDone o m then some h else none
      | _ => none)).wakeFull w.wid) s

/-- One image restored to one core. Log entry 63. -/
def State.restoreOne (s : State) (p c image core : Nat) : State :=
  let s1 := (s.loadImage p c image).leave core
  let s2 := (s1.wgsOn p c image).foldl (fun (s : State) w => s.moveWg w core) s1
  let s3 : State := { s2 with residents := s2.residents.map (fun (r : Resident) =>
    if r.part = p ∧ r.ctx = c ∧ r.core = image then { r with core := core, loc := .active, quiescing := false } else r) }
  ((((((s3.zeroAges p c core).resumeAcquire p c core).reloadQuires p c core).settleParks p c core).wakePorts core).wakePorts
    image).traceSwitch p c core 1

/-- CONTEXT_RESTORE (R355). -/
def execContextRestore (u : EvRestore) (s : State) : Out :=
  .next (
    if s.restorable u.part u.ctx u.image u.core then
      (s.restorePlan u.part u.ctx u.image u.core).foldl (fun (s : State) x => s.restoreOne u.part u.ctx x.1 x.2) s
    else s)

end Sys2Proof.Machine
end

