-- ==== Sys2Proof/Machine/Contexts.lean ====
section
/-!
DEFINITION. Partitions and contexts as the driver handles them (R306, R307, R324, R344 to R347, R359, R361, R362, R407):
setup and teardown, the launch queues, the fault queue, invalidation.
-/
namespace Sys2Proof.Machine
open Sys2Proof

/-- An MSI-X message of the physical function (R398). Log entry 17. -/
def State.messagePf (s : State) (vector : Nat) : State := s.message 0 vector

/-! ### Partitions (R344, R345, R359, R407) -/

/-- What each stack of a list can give of a quota, in 512 MiB blocks: `whole` bytes less what the common library takes. -/
def quotaFits (q : Nat) (sts : List Nat) (room : Nat → Nat) : Bool :=
  sts.all (fun st => decide (shareOf q sts st ≤ room st)) && (q == 0 || ! sts.isEmpty)

/-- Blocks of a stack's tier that the common library leaves. -/
def State.tierRoom (s : State) (st : Nat) : Nat := tierBytes / quotaBlock - s.libraryBelow st (tierBytes / quotaBlock)

/-- The checks of a descriptor in the order 5, 6, 1, 4, 2 (R345): the ERR code, 0 for none. -/
def State.setupError (s : State) (p : Nat) : Nat :=
  let d := s.part p
  let others := (List.range 8).filter (fun o => o != p && (s.part o).up)
  if d.clusters = 0 ∨ d.cachemode &&& ~~~ d.stackSet ≠ 0 ∨ 4194304 < d.vaultq.toNat ∨ d.vaultq.toNat % 4096 ≠ 0 ∨
      d.hbmq.toNat % quotaBlock ≠ 0 ∨ d.tierq.toNat % quotaBlock ≠ 0 then 5
  else if s.numVfs ≤ d.vf.toNat then 6
  else if others.any (fun o => (s.part o).clusters &&& d.clusters != 0 || (s.part o).stackSet &&& d.stackSet != 0) then 1
  else if others.any (fun o => (s.part o).vf == d.vf) then 4
  else if ! quotaFits (d.hbmq.toNat / quotaBlock) d.peerList (fun _ => hbmBytes / quotaBlock)
      || ! quotaFits (d.tierq.toNat / quotaBlock) d.stackList s.tierRoom then 2
  else 0

/-- A partition set up (R345, R407): a key pair drawn, and the access counters of its stacks begin (R389).
Log entry 65. -/
def State.setupPart (s : State) (p : Nat) : State :=
  if (s.part p).go then s
  else if (s.part p).up then s.modPart p (fun d => { d with go := true })
  else
    let e := s.setupError p
    let s1 := if e = 0 then
        { s with keys := s.keys + 1, migration := (s.part p).stackList.foldl (fun ms st => ms.modify st (fun (m : Migration) => { m with since := s.time.toNat })) s.migration }.modPart
          p (fun d => { d with go := true, up := true, err := 0, key := s.keys + 1 })
      else s.modPart p (fun d => { d with go := true, err := BitVec.ofNat 8 e })
    if e = 0 ∨ (s.part p).err ≠ BitVec.ofNat 8 e then s1.messagePf 1 else s1

/-- Whether a physical address is memory of a partition: its stacks, less the common library. -/
def State.ofPart (s : State) (p a : Nat) : Bool := s.inQuota p a || s.inReserve p a

/-- Every vault and every page of a partition cleared (R345). -/
def State.clearPart (s : State) (p : Nat) : State :=
  let mine (core : Nat) : Bool := (s.coresOf p).contains core
  { s with
    mem := s.mem.filter (fun c => ! s.ofPart p c.1)
    memTag := s.memTag.filter (fun c => ! s.ofPart p (32 * c.1))
    memPoison := s.memPoison.filter (fun c => ! s.ofPart p (32 * c.1))
    blocks := s.blocks.filter (fun c => ! s.ofPart p (2 ^ 14 * c.1))
    swapped := s.swapped.filter (fun c => ! s.ofPart p (2 ^ 14 * c.1))
    stores := s.stores.filter (fun c => ! (if c.1 < locKey 1 0 then s.ofPart p (8 * c.1) else mine (8 * (c.1 - locKey 1 0) / 2 ^ 23)))
    vault := s.vault.filter (fun c => ! mine (c.1 / 2 ^ 23))
    vaultPoison := s.vaultPoison.filter (fun c => ! mine (16 * c.1 / 2 ^ 23))
    tlb := s.tlb.filter (fun t => t.part ≠ p) }

/-- A partition torn down (R345): refused with ERR 3 while a context of it is LIVE or CLOSING. Log entry 65. -/
def State.teardownPart (s : State) (p : Nat) : State :=
  let d := s.part p
  if ! d.up then s.modPart p (fun d => { d with go := false })
  else if s.contexts.any (fun x => x.part == p && (x.state == .live || x.state == .closing)) then
    let s1 := s.modPart p (fun d => { d with go := false, err := 3 })
    if d.err = 3 then s1 else s1.messagePf 1
  else ((s.clearPart p).modPart p (fun d => { d with go := false, up := false, key := 0, turn := 0, lastServed := [0, 0, 0, 0] })).messagePf 1

/-- PARTITION_SETUP: a write of GO = 1. -/
def execPartitionSetup (u : EvNat) (s : State) : Out := .next (s.setupPart u.n)
/-- PARTITION_TEARDOWN: a write of GO = 0. -/
def execPartitionTeardown (u : EvNat) (s : State) : Out := .next (if (s.part u.n).go then s.teardownPart u.n else s)

/-! ### CREATE and TEARDOWN (R324, R346, R347) -/

/-- A physical range that structures of a context may lie in (R359). -/
def State.physOk (s : State) (p a n : Nat) : Bool :=
  (s.ofPart p a && s.addressable a) && (s.ofPart p (a + n - 1) && s.addressable (a + n - 1))

/-- Whether the registers of a window are valid for CREATE (R346, R347). -/
def State.createOk (s : State) (x : Context) : Bool :=
  decide (x.ptroot.toNat % 2 ^ 14 = 0) && s.physOk x.part x.ptroot.toNat (2 ^ 14)
    && decide (x.savearea.toNat % 2 ^ 21 = 0) && s.physOk x.part x.savearea.toNat (2 ^ 21 * (s.coresOf x.part).length)
    && decide (x.fqbase.toNat % 4096 = 0 ∧ 4 ≤ x.fqsize.toNat ∧ x.fqsize.toNat ≤ 12)
    && s.physOk x.part x.fqbase.toNat (32 * 2 ^ x.fqsize.toNat) && decide (1 ≤ x.frameq.toNat ∧ x.frameq.toNat ≤ 64)

/-- Rings that still hold records which an earlier teardown left unread are empty for a new context (R324).
Log entry 64. -/
def Queue.forget (q : Queue) : Queue := { q with qtail := q.qhead }

/-- CREATE (R347). Log entry 64. -/
def State.createCtx (s : State) (p c : Nat) : State :=
  let s0 := s.hostOrders.modContext p c (fun x => { x with cmd := 1 })
  let x := s0.context p c
  if (x.state = .none ∨ x.state = .closed) ∧ s0.createOk x = true then
    s0.modContext p c (fun x =>
      { x with state := .live, launches := [], qtable := none, queues := x.queues.map (fun q => (q.1, q.2.forget)) })
  else s0

/-- TEARDOWN (R324, R347): CLOSING; unfinished launches CANCELLED; pending fetches and waiting
gathers withdrawn (R237, R241, R353). -/
def State.teardownCtx (s : State) (p c : Nat) : State :=
  let s0 := s.modContext p c (fun x => { x with cmd := 2 })
  if (s0.context p c).state ≠ .live then s0
  else
    let s1 := s0.modContext p c (fun x => { x with state := .closing })
    let s2 := (s1.context p c).launches.foldl (fun (s : State) l => s.endLaunch p c l.queue l.count .cancelled 0) s1
    let s3 : State := { s2 with jobs := s2.jobs.filter (fun (j : Job) =>
      ! (j.part == p && j.ctx == c && (j.withdrawn || s2.gatherWaits j))) }
    (s3.wgs.filter (fun w => w.part == p && w.ctx == c)).foldl (fun (s : State) w => s.withdrawFetches w.wid) s3

/-- Whether a prefetch waits for room in HBM (R390). -/
def State.tierpfWaits (s : State) (j : Job) : Bool :=
  match j.kind with
  | .tierpf b n _ => ((s.tierpfEnd j b n).job? j.id).isSome
  | _ => false
/-- Whether the work of a context that closes has ended, without waiting for any wait condition (R347, R353): what R334 holds
in a forme unit, and a prefetch that finds no room, end with nothing done. Log entry 64. -/
def State.closable (s : State) (p c : Nat) : Bool :=
  (s.context p c).state == .closing &&
    ! s.jobs.any (fun j => j.part == p && j.ctx == c && ! s.formeStuck j && ! s.tierpfWaits j)

/-- The debug block after teardown (R377: it lives with the context). -/
def Context.debugReset (x : Context) : Context :=
  { x with
    arm := false, dscope := 0, capture := false, dcmd := 0, noissue := false, bpn := 0, why := 0, dstate := 0, dhandle := 0, dwg := 0
    dthr := 0, dridx := 0, bppc := List.replicate 8 0, bpen := List.replicate 8 false, stepping := none
    stopper := 0, heldAll := false, heldLaunches := [] }

/-- A context CLOSED (R347): every workgroup retired (R343), its frames, tokens, shadow frames, images and
translations gone, and the fetches that stood behind its operations served (R333). -/
def State.closeCtx (s : State) (p c : Nat) : State :=
  if ! s.closable p c then s
  else
    let mine (a b : Nat) : Bool := a == p && b == c
    let gone := (s.jobs.filter (fun (j : Job) => mine j.part j.ctx)).filterMap (fun j =>
      j.kind.formeVa.map (fun va => s.formeKey j.part j.ctx j.core va))
    let s0 : State := { s with jobs := s.jobs.filter (fun (j : Job) => ! mine j.part j.ctx) }
    let s1 := gone.eraseDups.foldl (fun (s : State) k => s.serveFetches k (s.jobs.length + 1)) s0
    let s2 := (s1.wgs.filter (fun w => mine w.part w.ctx && ! w.retired)).foldl (fun (s : State) w => s.retire w) s1
    { s2 with
      wgs := s2.wgs.filter (fun (w : Workgroup) => ! mine w.part w.ctx)
      jobs := s2.jobs.filter (fun (j : Job) => ! mine j.part j.ctx)
      residents := s2.residents.filter (fun (r : Resident) => ! mine r.part r.ctx)
      tlb := s2.tlb.filter (fun (t : TlbEntry) => ! mine t.part t.ctx) }.modContext p c (fun x =>
        { x.debugReset with state := .closed, qtable := none, invgo := false, invSpans := [] })

/-- CREATE. -/
def execCreate (u : EvCtx) (s : State) : Out := .next (s.createCtx u.part u.ctx)
/-- TEARDOWN. -/
def execTeardown (u : EvCtx) (s : State) : Out := .next (s.teardownCtx u.part u.ctx)
/-- CONTEXT_CLOSED. -/
def execContextClosed (u : EvCtx) (s : State) : Out := .next (s.closeCtx u.part u.ctx)

/-! ### Launch queues (R306, R307) -/

/-- A QTAIL write (R307, R324): applied, refused and logged, or ignored while the context is not LIVE. -/
def State.writeQtail (s : State) (p c q : Nat) (v : Word) : State :=
  let d := s.queue p c q
  if (s.context p c).state ≠ .live then s
  else if d.qsize = 0 ∨ d.qdev = true ∨ (v - d.qhead).toNat < (d.qtail - d.qhead).toNat ∨ 2 ^ d.qsize.toNat < (v - d.qhead).toNat then
    s.distLog p c (v.toNat + 2 ^ 32 * q) 0x13 5
  else s.hostOrders.modQueue p c q (fun d => { d with qtail := v })

/-- QTAIL_WRITE. -/
def execQtailWrite (u : EvQueue) (s : State) : Out := .next (s.writeQtail u.part u.ctx u.queue (BitVec.ofNat 32 u.n))

/-- Half `i` of a 64-bit register replaced (R397). -/
def setHalf (x : DWord) (i : Nat) (v : Word) : DWord :=
  if i = 0 then BitVec.ofNat 64 (x.toNat / 2 ^ 32 * 2 ^ 32 + v.toNat) else BitVec.ofNat 64 (v.toNat * 2 ^ 32 + x.toNat % 2 ^ 32)

/-- A word of a queue's descriptor written (R306): only while QTAIL = QHEAD. -/
def State.writeQueueWord (s : State) (p c q off : Nat) (v : Word) : State :=
  let d := s.queue p c q
  if d.qtail ≠ d.qhead then s
  else
    match off with
    | 0 => s.modQueue p c q (fun d => { d with qbase := setHalf d.qbase 0 v })
    | 4 => s.modQueue p c q (fun d => { d with qbase := setHalf d.qbase 1 v })
    | 8 =>
      let n := v.toNat % 32
      if n = 0 ∨ (4 ≤ n ∧ n ≤ 16) then s.modQueue p c q (fun d => { d with qsize := BitVec.ofNat 5 n, qdev := v.getLsbD 8 }) else s
    | _ => s

/-- The aligned words of a write of 4 or 8 bytes: offsets and values. -/
def wordsOfWrite (off size value : Nat) : List (Nat × Word) :=
  (List.range (size / 4)).map (fun i => (off + 4 * i, BitVec.ofNat 32 (value / 2 ^ (32 * i))))

/-- QUEUE_DESCRIPTOR_WRITE (R306). -/
def execQueueDescriptorWrite (u : EvDesc) (s : State) : Out :=
  .next ((wordsOfWrite u.off u.size u.value).foldl (fun (s : State) w => s.writeQueueWord u.part u.ctx u.queue w.1 w.2) s)

/-! ### The fault queue (R347, R362) -/

/-- Whether a context is LIVE or CLOSING. Log entry 53. -/
def Context.open (x : Context) : Bool := x.state == .live || x.state == .closing

/-- FQHEAD written: room for records that wait (R362). -/
def State.writeFqhead (s : State) (p c : Nat) (v : Word) : State :=
  if (s.context p c).open then
    let s1 := s.modContext p c (fun x => { x with fqhead := v })
    s1.flushMisses (s1.missBuffer.length + 1)
  else s

/-- FQHEAD_WRITE. -/
def execFqheadWrite (u : EvCtxN) (s : State) : Out := .next (s.writeFqhead u.part u.ctx (BitVec.ofNat 32 u.n))

/-- The workgroups of a context with threads parked on a fault record. -/
def State.faulted (s : State) (p c seq : Nat) : List Workgroup :=
  s.wgs.filter (fun w => w.part == p && w.ctx == c && w.groups.any (fun g => g.threads.any (fun t =>
    match t.run with | .parked (.fault n) _ => n == seq | _ => false)))

/-- A change made where each core's part of a context lies, images read and written again (R352, R362). -/
def State.whereHeld (s : State) (p c : Nat) (f : State → State) : State :=
  let saved := (s.residents.filter (fun r => r.part == p && r.ctx == c && r.loc == .saved)).map (·.core)
  saved.foldl (fun (s : State) k => s.saveImage p c k) (f (saved.foldl (fun (s : State) k => s.loadImage p c k) s))

/-- FRESUME with bit 31 clear: the threads parked on the record are offered again (R362). -/
def State.fresume (s : State) (p c seq : Nat) : State :=
  s.whereHeld p c (fun s => (s.faulted p c seq).foldl (fun (s : State) w =>
    s.endParks w.wid false (fun k => match k with | .fault n => if n = seq then some false else none | _ => none)) s)

/-- FRESUME with bit 31 set: their workgroup stops, and its launch FAILED with NOTMAPPED (R362). Log entry 64. -/
def State.fabort (s : State) (p c seq : Nat) : State :=
  s.whereHeld p c (fun s => (s.faulted p c seq).foldl (fun (s : State) w =>
    ((s.withdrawFetches w.wid).modWg w.wid (Workgroup.stop s)).endLaunch p c w.queue w.count .failed (statusWord 0x01 distAgent 0)) s)

/-- A write of FRESUME: it takes effect while the context is LIVE (R347). -/
def State.writeFresume (s : State) (p c : Nat) (v : Word) : State :=
  if (s.context p c).state = .live then
    let s1 := s.hostOrders.modContext p c (fun x => { x with fresume := v &&& 0x80FFFFFF })
    let seq := v.toNat % 2 ^ 24
    if v.getLsbD 31 then s1.fabort p c seq else s1.fresume p c seq
  else s

/-- FRESUME_RETRY of a sequence number. -/
def execFresumeRetry (u : EvCtxN) (s : State) : Out := .next (s.writeFresume u.part u.ctx (BitVec.ofNat 32 (u.n % 2 ^ 24)))
/-- FRESUME_ABORT of a sequence number. -/
def execFresumeAbort (u : EvCtxN) (s : State) : Out := .next (s.writeFresume u.part u.ctx (BitVec.ofNat 32 (2 ^ 31 + u.n % 2 ^ 24)))

/-! ### Invalidation (R361) -/

/-- The range that an invalidation names, or the whole of the context's addresses. -/
def Context.invRange (x : Context) : Nat × Nat := if x.invall then (0, 2 ^ 52) else (x.invva.toNat, 2 ^ x.invlog.toNat)

/-- INVGO written with 1: an invalidation starts (R347, R361). -/
def State.startInvalidate (s : State) (p c : Nat) : State :=
  if (s.context p c).open then s.hostOrders.modContext p c (fun x => { x with invgo := true, invSpans := x.invSpans ++ [x.invRange] }) else s

/-- Whether an engine's job translated a page of a range before it moved anything, and has still to end. -/
def Job.translated (j : Job) (r : Nat × Nat) : Bool :=
  match j.kind with
  | .stream _ _ (some pages) _ => pages.any (fun q => rangesMeet (q.1 % 2 ^ 52) q.2.1 r.1 r.2)
  | .prstat _ _ _ pages => pages.any (fun q => rangesMeet (q.1 % 2 ^ 52) q.2.1 r.1 r.2)
  | _ => false

/-- Whether an invalidation may end. -/
def State.invDone (s : State) (p c : Nat) : Bool :=
  (s.context p c).invgo && ! s.jobs.any (fun j => j.part == p && j.ctx == c && (s.context p c).invSpans.any j.translated)

/-- INVALIDATE_RANGE. -/
def execInvalidateRange (u : EvCtx) (s : State) : Out :=
  .next (s.modContext u.part u.ctx (fun x => if x.open then { x with invall := false } else x) |>.startInvalidate u.part u.ctx)
/-- INVALIDATE_ALL. -/
def execInvalidateAll (u : EvCtx) (s : State) : Out :=
  .next (s.modContext u.part u.ctx (fun x => if x.open then { x with invall := true } else x) |>.startInvalidate u.part u.ctx)

/-- INVALIDATE_DONE: every entry of the ranges begun is dropped and INVGO reads 0 (R361). -/
def execInvalidateDone (u : EvCtx) (s : State) : Out :=
  .next (
    if s.invDone u.part u.ctx then
      let rs := (s.context u.part u.ctx).invSpans
      { s with tlb := s.tlb.filter (fun (t : TlbEntry) => ! (t.part == u.part && t.ctx == u.ctx && rs.any (fun r => rangesMeet t.base t.size r.1 r.2))) }.modContext
        u.part u.ctx (fun x => { x with invgo := false, invSpans := [] })
    else s)

end Sys2Proof.Machine
end

