-- ==== Sys2Proof/Machine/Debug.lean ====
section
/-!
DEFINITION. The debugger's view (R377 to R381): HALT, RESUME, STEP, breakpoints, the end of a stop, and the register
window DRDATA.
-/
namespace Sys2Proof.Machine
open Sys2Proof

/-- The workgroups of a context. -/
def State.wgsOf (s : State) (p c : Nat) : List Workgroup := s.wgs.filter (fun w => w.part == p && w.ctx == c)

/-- HALT (R379): every workgroup of the context stops, with WHY = 3 when no stop stands. -/
def State.halt (s : State) (p c : Nat) : State :=
  let s1 := (s.wgsOf p c).foldl (fun (s : State) w => (s.withdrawFetches w.wid).modWg w.wid (Workgroup.stop s)) s
  s1.modContext p c (fun x => { x with dcmd := 1, dstate := 1, why := if x.dstate = 0 then 3 else x.why, stepping := none, stopper := if x.dstate = 0 then 0 else x.stopper, heldAll := true })

/-- RESUME (R379): every stopped workgroup of the context restarts. -/
def State.resumeAll (s : State) (p c : Nat) : State :=
  let s1 := (s.wgsOf p c).foldl (fun (s : State) w => (s.modWg w.wid (fun (w : Workgroup) =>
    { w with groups := w.groups.map (fun (g : Group) => { g with threads := g.threads.map (fun (t : Thread) => { t with stopped := false }) }) }))) s
  s1.modContext p c (fun x => { x with dcmd := 2, dstate := 0, stepping := none, heldAll := false, heldLaunches := [] })

/-- The selected thread (R377): workgroup, group and thread index. -/
def State.selected (s : State) (p c : Nat) : Option (Workgroup × Nat × Group × Nat × Thread) :=
  let x := s.context p c
  ((s.wgsOf p c).find? (fun w => ! w.retired && w.handle == x.dhandle.toNat && w.wglin == x.dwg.toNat)).bind (fun w =>
    (w.groups.zipIdx.find? (fun g => decide (g.1.tbase ≤ x.dthr.toNat ∧ x.dthr.toNat < g.1.tbase + g.1.width))).bind (fun g =>
      (g.1.threads[x.dthr.toNat - g.1.tbase]?).map (fun t => (w, g.2, g.1, x.dthr.toNat - g.1.tbase, t))))

/-- Whether a thread may be stepped: it was READY when it stopped, and still is (R380). -/
def Thread.steppable (t : Thread) : Bool := t.run == .ready && t.stopped && t.offered

/-- STEP (R380): the threads of the selected thread's group that stand at its PC and were READY when they stopped may issue
one unit. -/
def State.stepOne (s : State) (p c : Nat) : State :=
  let s1 := s.modContext p c (fun x => { x with dcmd := 3 })
  if (s1.context p c).dstate ≠ 2 then s1
  else
    match s1.selected p c with
    | some (w, gi, _, _, t) =>
      if t.steppable then
        (s1.modGroup w.wid gi (fun g => { g with threads := g.threads.map (fun (u : Thread) =>
          if u.steppable ∧ u.pc = t.pc then { u with stopped := false, pass := some u.pc } else u) })).modContext p c
            (fun x => { x with noissue := false, stepping := some w.wid })
      else s1.modContext p c (fun x => { x with noissue := true })
    | none => s1.modContext p c (fun x => { x with noissue := true })

/-- HALT, taken while the context is LIVE or CLOSING. Log entry 53. -/
def execHalt (u : EvCtx) (s : State) : Out := .next (if (s.context u.part u.ctx).open then s.halt u.part u.ctx else s)
/-- RESUME. Log entry 53. -/
def execResume (u : EvCtx) (s : State) : Out := .next (if (s.context u.part u.ctx).open then s.resumeAll u.part u.ctx else s)
/-- STEP. Log entry 53. -/
def execStep (u : EvCtx) (s : State) : Out := .next (if (s.context u.part u.ctx).open then s.stepOne u.part u.ctx else s)

/-- Whether an issue set is the one that a STEP lets issue: of the workgroup selected when it began, every other thread of
which is STOPPED (R380). -/
def State.stepsNow (s : State) (i : IssueSet) : Bool :=
  match s.wg? i.wid with
  | none => false
  | some w => (s.context w.part w.ctx).stepping == some i.wid

/-- After the unit that a STEP let issue, its threads are STOPPED again, what it has given in their registers (R148), and WHY = 4
(R380). -/
def State.settleStep (s : State) (i : IssueSet) : State :=
  match s.wg? i.wid with
  | none => s
  | some w =>
    let s1 := i.members.foldl (fun (s : State) m => m.2.foldl (fun (s : State) ti => s.modThread i.wid m.1 ti Thread.stop) s)
      ((s.withdrawFetches i.wid).modWg i.wid (Workgroup.land s))
    s1.modContext w.part w.ctx (fun x => { x with stepping := none, why := 4 })

/-! ### Breakpoints (R378) -/

/-- The enabled breakpoint that a PC matches, lowest number first. Log entry 74. -/
def Context.breakpoint (x : Context) (pc : Word) : Option Nat :=
  if x.arm then (List.range 8).find? (fun i => ((x.bpen[i]?).getD false) && (x.bppc[i]?) == some pc) else none

/-- The breakpoint that the issue set matches: not when every thread of it is to issue its unit once without matching.
Log entry 74. -/
def State.matched (s : State) (i : IssueSet) : Option (Nat × Nat × Nat) :=
  match s.wg? i.wid with
  | none => none
  | some w =>
    if i.members.all (fun m => m.2.all (fun ti => match s.thread? i.wid m.1 ti with | some t => t.pass == some i.pc | none => true)) then none
    else ((s.context w.part w.ctx).breakpoint i.pc).map (fun b => (w.part, w.ctx, b))

/-- BREAKPOINT_MATCH (R378): the set does not issue; its threads pass the unit once on the next RESUME or STEP, and the
stop begins with WHY = 1. -/
def execBreakpointMatch (_ : EvNone) (s : State) : Out :=
  .next (match s.matched s.issue with
    | none => s
    | some (_, _, b) =>
      let s1 := s.issue.members.foldl (fun (s : State) m => m.2.foldl (fun (s : State) ti =>
        s.modThread s.issue.wid m.1 ti (fun t => { t with pass := some s.issue.pc })) s) s
      s1.debugStop s.issue.wid 1 b s.issue.pc)

/-- Whether every thread of the stop's scope has stopped (R379). -/
def State.allStopped (s : State) (p c : Nat) : Bool :=
  (s.wgsOf p c).all (fun w => ! w.started || ! (s.context p c).stops w ||
    w.groups.all (fun g => g.threads.all (fun t => t.stopped || t.run == .exited)))

/-- DEBUG_STOPPED (R379): every thread of the scope has stopped. -/
def execDebugStopped (u : EvCtx) (s : State) : Out :=
  .next (if (s.context u.part u.ctx).dstate = 1 ∧ s.allStopped u.part u.ctx = true then s.modContext u.part u.ctx (fun x => { x with dstate := 2 }) else s)

/-! ### DRDATA (R377, R381) -/

/-- Whether a register number names the upper half of a 64-bit system register, which DRIDX does not reach (R41). -/
def upperHalf (i : Nat) : Bool := i == 0x135 || i == 0x13B

/-- The selected register: 0 while the selected thread is not STOPPED. -/
def State.drRead (s : State) (p c : Nat) : Word :=
  match s.selected p c with
  | none => 0
  | some (w, gi, g, ti, t) =>
    let i := (s.context p c).dridx.toNat
    if t.stopped = false ∨ upperHalf i = true then 0
    else if i < 128 then t.held g i
    else if i < 136 then (if i = 128 ∨ t.k.getLsbD (i - 128) = true then 1 else 0)
    else if 256 ≤ i ∧ i < 512 then (match groupEnv s w gi g ti with | some e => BitVec.ofNat 32 (sysWord s e (i - 256)) | none => 0)
    else if i = 512 then t.pc else 0

/-- A system register of a group written by the debugger: those whose access is rw (R42, R381). Log entry 83. -/
def Group.sysWrite (g : Group) (i : Nat) (v : Word) : Group :=
  match i with
  | 0x30 => { g with trapvec := v }
  | 0x38 => { g with spill := BitVec.ofNat 32 (bitsOf v.toNat 18 8 * 256) }
  | 0x3A => { g with seed := setHalf g.seed 0 v }
  | _ => g

/-- The selected register written (R381); a PC that is not word-aligned lies in no quire (R34). Log entry 83. -/
def State.drWrite (s : State) (p c : Nat) (v : Word) : State :=
  match s.selected p c with
  | none => s
  | some (w, gi, _, ti, t) =>
    let i := (s.context p c).dridx.toNat
    if t.stopped = false then s
    else if i < 96 then s.modThread w.wid gi ti (·.writeV i v)
    else if i < 128 then s.modGroup w.wid gi (·.writeG (i - 96) v)
    else if i < 136 then s.modThread w.wid gi ti (·.writeK (i - 128) (v.getLsbD 0))
    else if 256 ≤ i ∧ i < 512 then s.modGroup w.wid gi (·.sysWrite (i - 256) v)
    else if i = 512 then
      let x := (s.resident w.part w.ctx w.core).quire (pcQuire v)
      if x.state = .resident ∧ pcOffset v < x.length ∧ pcOffset v % 4 = 0 then s.setPc w.wid gi ti v else s
    else s

/-- The core whose state holds the selected thread. -/
def State.drCore (s : State) (p c : Nat) : Option Nat := (s.selected p c).map (fun x => x.1.core)

/-- DRDATA as read, wherever the context's state lies (R354, R381). -/
def State.readDrdata (s : State) (p c : Nat) : Word :=
  match s.drCore p c with
  | some k => if (s.resident p c k).loc = Where.saved then (s.loadImage p c k).drRead p c else s.drRead p c
  | none => s.drRead p c

/-- DRDATA_READ: what the host is answered. -/
def execDrdataRead (u : EvCtx) (s : State) : Out :=
  .next { s with replies := s.replies ++ [.data (bytesOf (s.readDrdata u.part u.ctx).toNat 4)] }

/-- DRDATA written, wherever the context's state lies (R354). -/
def State.writeDrdata (s : State) (p c : Nat) (v : Word) : State :=
  match s.drCore p c with
  | some k => s.inPlace p c k (fun s => s.drWrite p c v)
  | none => s

/-- DRDATA_WRITE. -/
def execDrdataWrite (u : EvCtxN) (s : State) : Out := .next (s.writeDrdata u.part u.ctx (BitVec.ofNat 32 u.n))

end Sys2Proof.Machine
end

