-- ==== Sys2Proof/Machine/Time.lean ====
section
/-!
DEFINITION. The time base and the arithmetic clock (R19, R20, R382 to R386): steps of the count, the servo's inputs, the
1PPS signals, STEPTO, and changes of the clock with their trace records.
-/
namespace Sys2Proof.Machine
open Sys2Proof

/-- A time or clock record for every context whose mask bit 0 is set (R386). -/
def State.traceAll (s : State) (event detail : Nat) : State :=
  s.contexts.foldl (fun (s : State) x => s.trace x.part x.ctx 0 event hubCore 0 0 0 detail) s

/-- CLOCK_CHANGE (R20, R386): the clock moves to the next step below or above, its record written before the change.
Log entries 14 and 45. -/
def State.changeClock (s : State) (mhz : Nat) : State :=
  if 800 ≤ mhz ∧ mhz ≤ 1400 ∧ (mhz + 200 = s.clock ∨ s.clock + 200 = mhz) then
    { s.traceAll 7 mhz with clock := mhz }
  else s

/-- A forward step of more than 1 ms, in ns (R383). -/
def stepLimit : Nat := 1000000

/-- The count stepped to a value: STEPS advances, with a TIMESTEP record and a message (R383, R386, R398). -/
def State.stepTime (s : State) (upto : Nat) : State :=
  let before := s.time.toNat
  let s1 : State := { s with time := BitVec.ofNat 64 upto, steps := s.steps + 1 }
  (s1.traceAll 6 before).messagePf 2

/-- TIME_STEP (R383): the locked servo steps over a forward offset of more than 1 ms. Log entry 44. -/
def State.servoStep (s : State) (by_ : Nat) : State :=
  if s.locked = true ∧ stepLimit < by_ ∧ s.time.toNat + by_ < 2 ^ 64 then s.stepTime (s.time.toNat + by_) else s

/-- A rate of at most 200,000 parts in 10^9 either way, as the servo finds it (R382). Log entry 44. -/
def State.freeRate (s : State) : Word := BitVec.ofInt 32 ((Config.choose s.draws 80 % 400001 : Nat) - 200000)

/-- DIVERGED set, with the message of a change (R398). Log entry 44. -/
def State.setDiverged (s : State) (d : Bool) : State :=
  let s1 : State := { s with diverged := d }
  if s.diverged = d then s1 else s1.messagePf 2

/-- What the servo does with an offset, how far the count is behind the reference (R382, R383). Log entry 44. -/
def State.servoTo (s : State) (offset : Int) : State :=
  let diverged := decide (offset < -10000000)
  let s1 : State := { s with rate := if diverged then BitVec.ofInt 32 (-200000) else s.freeRate }
  let s2 := s1.setDiverged diverged
  if s.locked = true ∧ (stepLimit : Int) < offset then s2.servoStep offset.toNat
  else { s2 with locked := decide (-1000 ≤ offset ∧ offset ≤ 1000) }

/-- IEEE1588_MESSAGE (R382, R383) under SRC = 1. Log entry 44. -/
def State.servoMessage (s : State) (offset : Int) : State := if s.src ≠ 1 then s else s.servoTo offset

/-- The step rule for STEPTO (R383), for a count asked for. -/
def State.requestStep (s : State) (count : Nat) : State :=
  if s.time.toNat + stepLimit < count ∧ count < 2 ^ 64 then s.stepTime count else { s with steperr := true }

/-- STEPTO_WRITE (R383, R384): under SRC = 2 the request waits for the next edge. Log entry 46. -/
def State.writeStepto (s : State) (v : DWord) : State :=
  let s1 : State := { s with stepto := v }
  if s.src = 2 then { s1 with ppsPending := true } else s1.requestStep v.toNat

/-- How far the count is behind the multiple of 10^9 nearest to it (R384). -/
def State.ppsOffset (s : State) : Int :=
  let r := s.time.toNat % 1000000000
  if r < 500000000 then - (r : Int) else 1000000000 - (r : Int)

/-- PPS_INPUT (R384): under SRC = 2, the seconds that wait are taken under the step rule; else the servo steers the count
towards a multiple of 10^9. Log entries 44 and 46. -/
def State.ppsEdge (s : State) : State :=
  if s.src ≠ 2 then s
  else if s.ppsPending then { s with ppsPending := false }.requestStep (s.stepto.toNat * 1000000000)
  else s.servoTo s.ppsOffset

/-- Whether the count has passed a multiple of 10^9 that the output has not shown (R384). -/
def State.ppsDue (s : State) : Bool := decide (s.ppsEdges < s.time.toNat / 1000000000)

/-- PPS_OUTPUT (R384). -/
def State.ppsRise (s : State) : State := if s.ppsDue then { s with ppsEdges := s.time.toNat / 1000000000 } else s

/-- CLOCK_CHANGE. Log entry 45. -/
def execClockChange (u : EvNat) (s : State) : Out := .next (s.changeClock u.n)
/-- TIME_STEP. Log entry 45. -/
def execTimeStep (u : EvNat) (s : State) : Out := .next (s.servoStep u.n)
/-- PPS_INPUT. Log entry 45. -/
def execPpsInput (_ : EvNone) (s : State) : Out := .next s.ppsEdge
/-- PPS_OUTPUT. -/
def execPpsOutput (_ : EvNone) (s : State) : Out := .next s.ppsRise
/-- STEPTO_WRITE. -/
def execSteptoWrite (u : EvNat) (s : State) : Out := .next (s.writeStepto (BitVec.ofNat 64 u.n))
/-- IEEE1588_MESSAGE. -/
def execIeee1588Message (u : EvPtp) (s : State) : Out := .next (s.servoMessage u.offset)

end Sys2Proof.Machine
end

