-- ==== Sys2Proof/Machine/Boot.lean ====
section
/-!
DEFINITION. Boot, the recovery mailbox and the common library's registers (R9, R387, R402, R403, R407).
-/
namespace Sys2Proof.Machine
open Sys2Proof

/-- RSTATE set, with the message that a change raises (R398). -/
def State.setRstate (s : State) (x : BootState) : State :=
  let s1 : State := { s with rstate := x }
  if s.rstate = x then s1 else s1.messagePf 0

/-- A measurement register extended by the digest of some bytes (R402). -/
def State.measure (s : State) (i : Nat) (bs : List Byte) : State :=
  { s with mrs := s.mrs.modify i (fun x => mrExtend x (sha256 bs)) }

/-- The payload of an image, and the signature that its last 384 bytes hold (R402). -/
def payloadOf (img : List Byte) : List Byte := img.take (img.length - 384)
def imageOk (img : List Byte) : Bool :=
  decide (384 ≤ img.length) && Config.verify (natOfBig (sha256 (payloadOf img))) (natOfBig (img.drop (img.length - 384)))

/-- The root context when the module enters service: LIVE on the root core, its page table the firmware's own.
Log entry 12. -/
def State.startRoot (s : State) : State :=
  s.modContext rootPart 0 (fun x =>
    { x with state := .live, ptroot := BitVec.ofNat 64 (Config.choose s.draws 81 * 2 ^ 14), fqsize := 4, frameq := 64 })

/-- POWER_ON (R402): the six steps of boot; a failed verification goes to RECOVERY, a failed self-test keeps the module
out of service and is reported (R9). Log entry 19. -/
def State.powerOn (s : State) : State :=
  if s.rstate ≠ .booting ∨ s.inService = false then s
  else
    let img := s.flash.getD Config.factoryImage
    let s1 := s.measure 0 Config.rom
    if imageOk img = false then s1.setRstate .recovery
    else
      let s2 := ((s1.measure 1 (payloadOf img)).measure 2 Config.fuses).measure 3 Config.selfTestRecord
      if Config.selfTestPasses = false then
        { s2 with inService := false, replies := s2.replies ++ [.selfTestFailed Config.selfTestRecord] }
      else ((s2.measure 4 Config.certificate).startRoot).setRstate .running

/-- INSTALL (R403): in RECOVERY, verification begins; in any other state it is ignored. Log entry 49. -/
def State.install (s : State) : State :=
  let s1 : State := { s with rcmd := 1 }
  if s.rstate = .recovery then s1.setRstate .verifying else s1

/-- Verification failed with a code (R403). Log entry 49. -/
def State.verifyFailed (s : State) (code : BitVec 8) : State := { s with rerr := code }.setRstate .recovery

/-- IMAGE_VERIFIED (R403): the checks of the image in the window; on success the image is written to flash and the
module is reset. Log entries 2 and 49. -/
def State.imageVerified (s : State) : State :=
  if s.rstate ≠ .verifying then s
  else
    let n := s.rlen.toNat
    let img := SMap.read s.window 0 n 0
    if n < 384 ∨ 0xFF000 < n then s.verifyFailed 2
    else if imageOk img = false then s.verifyFailed 1
    else if Config.flashWrites s.draws = false then s.verifyFailed 3
    else
      { State.reset with
        flash := some img, draws := s.draws, inbox := s.inbox, replies := s.replies, messages := s.messages ++ [(0, 0)] }

/-- A context stopped without being saved (R403): torn down, whatever work it has in hand. Log entry 48. -/
def State.dropContext (s : State) (p c : Nat) : State :=
  let s1 := s.teardownCtx p c
  { s1 with jobs := s1.jobs.filter (fun (j : Job) => ! (j.part == p && j.ctx == c)) }.closeCtx p c

/-- ENTER (R403). Log entry 48. -/
def State.enterRecovery (s : State) : State :=
  let s1 : State := { s with rcmd := 2 }
  let s2 := (s1.contexts.map (fun x => (x.part, x.ctx))).foldl (fun (s : State) k => s.dropContext k.1 k.2) s1
  let s3 := (List.range 8).foldl (fun (s : State) p => s.teardownPart p) s2
  s3.setRstate .recovery

/-- Whether a partition holds the stack that LIBSTACK names (R387). Log entry 50. -/
def State.libraryHeld (s : State) : Bool := (s.stackOwner s.libstack.toNat).isSome

/-- LIBBASE written (R5, R387): ignored while a partition holds the stack. Log entry 50. -/
def State.writeLibbase (s : State) (x : DWord) : State := if s.libraryHeld then s else { s with libbase := x }

/-- LIBSIZE written (R5, R387, R407): ignored while a partition holds the stack; the library's key pair is drawn.
Log entry 50. -/
def State.writeLibsize (s : State) (n : Nat) : State :=
  if s.libraryHeld then s
  else { s with libsize := BitVec.ofNat 64 n, keys := s.keys + 1, libkey := s.keys + 1 }

/-- LIBSTACK written (R387): ignored while a partition holds the stack that it names or the one that it would name.
Log entry 50. -/
def State.writeLibstack (s : State) (x : BitVec 3) : State :=
  if s.libraryHeld || (s.stackOwner x.toNat).isSome then s else { s with libstack := x }

/-- POWER_ON. Log entry 11. -/
def execPowerOn (_ : EvNone) (s : State) : Out := .next s.powerOn
/-- INSTALL. -/
def execInstall (_ : EvNone) (s : State) : Out := .next s.install
/-- IMAGE_VERIFIED. -/
def execImageVerified (_ : EvNone) (s : State) : Out := .next s.imageVerified
/-- ENTER. -/
def execEnter (_ : EvNone) (s : State) : Out := .next s.enterRecovery
/-- LIBSIZE_WRITE. -/
def execLibsizeWrite (u : EvNat) (s : State) : Out := .next (s.writeLibsize (u.n % 2 ^ 64))

end Sys2Proof.Machine
end

