-- ==== Sys2Proof/Machine/Host.lean ====
section
/-!
DEFINITION. The host's accesses (R5, R18, R344, R346, R377, R382, R385, R387, R389, R397 to R400, R403): the apertures onto device
memory, and the register windows, word by word.
-/
namespace Sys2Proof.Machine
open Sys2Proof

/-- The host is sent an answer. Log entry 79. -/
def State.reply (s : State) (r : Reply) : State := { s with replies := s.replies ++ [r] }

/-- The partition that is bound to a virtual function (R18, R344). Log entry 52. -/
def State.partOfVf (s : State) (v : Nat) : Option Nat := (List.range 8).find? (fun p => (s.part p).up && (s.part p).vf.toNat == v)

/-! ### Accesses from outside the module (R296, R399, R400) -/

/-- Runs of module memory read by an agent outside the module: the bytes, whether any is poisoned, and the state once the agent has
seen them. An SC page gives its newest bytes (R295). Log entry 1. -/
def State.readOutside (s : State) (who : Agent) (runs : List (Nat × Nat × Page)) : State × List Byte × Bool :=
  let v := s.outsideView who
  let read (q : Nat × Nat × Page) : List Byte × Bool :=
    if q.2.2.sc then s.readPage q.2.2 q.1 q.2.1 else s.readPageAs who q.2.2 q.1 q.2.1 v (2 ^ 200 + q.1)
  let seen (q : Nat × Nat × Page) : List (Nat × Nat) :=
    if q.2.2.host then []
    else (s.sights who q.2.2 q.1 q.2.1 v (2 ^ 200 + q.1)).map (fun x =>
      (x.1, if q.2.2.sc then (s.stores.get x.1 Versions.none).last else x.2.2.1))
  (s.outsideSees who ((runs.flatMap seen).foldl (fun v x => v.raise x.1 x.2) []),
    runs.flatMap (fun q => (read q).1), runs.any (fun q => (read q).2))

/-- Bytes written to runs of module memory by an agent outside the module, with the addresses at which a granule's
read-modify-write failed (R369). The stores carry `rel`: the writes that are applied before them (R296). Log entry 1. -/
def State.writeOutside (s : State) (who : Agent) (rel : View) (a : Nat) (data : List Byte) (runs : List (Nat × Nat × Page)) :
    State × List Nat :=
  let r := runs.foldl (fun (acc : State × List Nat) q =>
    let w := acc.1.writeCells (cellsAt (q.2.2.phys q.1) ((data.drop (q.1 - a)).take q.2.1)) q.2.2.ver.toNat
    (w.1, acc.2 ++ w.2.map (fun g => (q.1 + (32 * g - q.2.2.phys q.1)) / 32 * 32))) (s, [])
  let mine : Stored := { agent := who, strong := 6, rel := viewOf 6 rel, stamp := [] }
  ({ r.1 with stores := markSince s.stores r.1.stores mine }.outsideSees who (wroteSince s.stores r.1.stores), r.2)

/-- What the host has written through a function (R296). -/
def State.hostWrote (s : State) (fn : Nat) : View := s.madeBy (· == Agent.host fn)

/-! ### The apertures (R399) -/

/-- The page by which the PF aperture reaches physical memory: version 0. -/
def physPage : Page := { base := 0, size := 2 ^ 52, frame := 0, ver := 0, host := false, hint := 0, sc := false, wr := true }

/-- PF BAR4: a physical address, version 0. Log entry 51. -/
def State.pfAperture (s : State) (u : EvAper) : State :=
  let a := s.papbase.toNat + u.off
  let n := if u.write then u.data.length else u.len
  if 2 ^ 36 < u.off + n ∨ ((List.range n).all (fun i => s.addressable (a + i))) = false then s.reply .unsupportedRequest
  else if u.write then (s.writeOutside (Agent.host 0) (s.hostWrote 0) a u.data [(a, n, physPage)]).1
  else
    let r := s.readOutside (Agent.host 0) [(a, n, physPage)]
    r.1.reply (.data r.2.1)

/-- A kind-6 record (R372), and the completer abort of its access (R399). Log entry 51. -/
def State.apertureFault (s : State) (p c addr cause : Nat) : State :=
  (s.logRecord p c addr cause 6 hubCore 0 0).reply .completerAbort

/-- A write from outside through translated pages; a granule whose read-modify-write fails is logged (R369). -/
def State.apertureWrite (s : State) (who : Agent) (rel : View) (p c a : Nat) (data : List Byte) (runs : List (Nat × Nat × Page)) : State :=
  let r := s.writeOutside who rel a data runs
  r.2.foldl (fun (s : State) g => s.logRecord p c g 0x10 5 hubCore 0 0) r.1

/-- The blocks of translated pages that an access of the host's reaches: R389 counts no such access, R390's hint does.
Log entry 25. -/
def State.meetRuns (s : State) (runs : List (Nat × Nat × Page)) : State :=
  runs.foldl (fun s q => if q.2.2.host then s else s.meetBlock (q.2.2.phys q.1 / 2 ^ 14) q.2.2.hint) s

/-- An access of context c of partition p at a virtual address. Log entry 51. -/
def State.apertureAccess (s : State) (p c : Nat) (u : EvAper) (a n : Nat) : State :=
  let t := s.translateRuns p c hubCore (if u.write then 1 else 0) (pageRuns a n (n / 2 ^ 14 + 2))
  match t.2.2 with
  | some f => t.1.apertureFault p c f.2 f.1
  | none =>
    match t.2.1.find? (fun q => q.2.2.host) with
    | some q => t.1.apertureFault p c q.1 (1 + Config.choose s.draws 82 % 4)
    | none =>
      let s1 := t.1.meetRuns t.2.1
      if u.write then s1.apertureWrite (Agent.host u.fn) (s1.hostWrote u.fn) p c a u.data t.2.1
      else
        let r := s1.readOutside (Agent.host u.fn) t.2.1
        r.1.reply (.data r.2.1)

/-- VF BAR4: a virtual address of context APCTX. Log entries 51 and 52. -/
def State.vfAperture (s : State) (u : EvAper) : State :=
  let v := u.fn - 1
  let ctl := (s.apctl[v]?).getD 0
  let n := if u.write then u.data.length else u.len
  match s.partOfVf v with
  | none => s.reply .unsupportedRequest
  | some p =>
    let c := ctl.toNat % 1024
    if ctl.getLsbD 31 = false ∨ (s.context p c).state ≠ .live ∨ 2 ^ 34 < u.off + n then s.reply .unsupportedRequest
    else s.apertureAccess p c u (((s.apva[v]?).getD 0).toNat + u.off) n

/-- PF_APERTURE_ACCESS. -/
def execPfApertureAccess (u : EvAper) (s : State) : Out := .next (s.pfAperture u)
/-- VF_APERTURE_ACCESS. -/
def execVfApertureAccess (u : EvAper) (s : State) : Out := .next (s.vfAperture u)

/-! ### The physical function's window -/

/-- A 64-bit register with half `i` replaced, its reserved bits kept zero (R5, R397). -/
def maskHalf (x : DWord) (i : Nat) (v : Word) (mask : DWord) : DWord := setHalf x i v &&& mask

/-- A word of a partition descriptor written (R344, R345). Log entry 65. -/
def State.writeDescriptor (s : State) (p off : Nat) (v : Word) : State :=
  if off = 0x1C then
    if v.getLsbD 0 then s.setupPart p else if (s.part p).go then s.teardownPart p else s
  else if (s.part p).up then s
  else
    match off with
    | 0x00 => s.modPart p (fun d => { d with clusters := v.setWidth 24 })
    | 0x04 => s.modPart p (fun d =>
        { d with stackSet := v.setWidth 8, cachemode := (v >>> 8).setWidth 8, vf := (v >>> 16).setWidth 3 })
    | 0x08 => s.modPart p (fun d => { d with hbmq := setHalf d.hbmq 0 v })
    | 0x0C => s.modPart p (fun d => { d with hbmq := setHalf d.hbmq 1 v })
    | 0x10 => s.modPart p (fun d => { d with tierq := setHalf d.tierq 0 v })
    | 0x14 => s.modPart p (fun d => { d with tierq := setHalf d.tierq 1 v })
    | 0x18 => s.modPart p (fun d => { d with vaultq := v })
    | _ => s

/-- A word of a stack's migration registers written (R389). -/
def State.writeMigration (s : State) (st off : Nat) (v : Word) : State :=
  match off with
  | 0x0 => s.modMigration st (fun m => { m with promote := v.setWidth 8, demote := (v >>> 8).setWidth 8 })
  | 0x4 => s.modMigration st (fun m => { m with epoch := v.setWidth 16 })
  | 0x8 => s.modMigration st (fun m => { m with promoted := m.promoted &&& ~~~v })
  | _ => s.modMigration st (fun m => { m with demoted := m.demoted &&& ~~~v })

/-- RCMD written (R403). -/
def State.writeRcmd (s : State) (v : BitVec 2) : State :=
  if v = 1 then s.install else if v = 2 then s.enterRecovery else { s with rcmd := v }

/-- A word of PF BAR0 written (R397). -/
def State.writePfWord (s : State) (off : Nat) (v : Word) : State :=
  if 0x100000 ≤ off ∧ off < 0x100200 then s.writeDescriptor ((off - 0x100000) / 64) (off % 64) v
  else if off = 0x100200 ∨ off = 0x100204 then s.writeLibbase (setHalf s.libbase (off / 4 % 2) v)
  else if off = 0x100208 ∨ off = 0x10020C then s.writeLibsize (setHalf s.libsize (off / 4 % 2) v).toNat
  else if off = 0x100210 then s.writeLibstack (v.setWidth 3)
  else if 0x100400 ≤ off ∧ off < 0x100480 then s.writeMigration ((off - 0x100400) / 16) (off % 16) v
  else if off = 0x100600 ∨ off = 0x100604 then { s with papbase := maskHalf s.papbase (off / 4 % 2) v 0x000FFFF000000000 }
  else if off = 0x200008 then { s with src := v.setWidth 2 }
  else if off = 0x20000C then { s with steperr := s.steperr && ! v.getLsbD 2 }
  else if off = 0x200018 ∨ off = 0x20001C then s.writeStepto (setHalf s.stepto (off / 4 % 2) v)
  else if 0x280000 ≤ off ∧ off < 0x281000 then
    (if off % 8 = 0 ∧ off % 512 ≠ 0 then
      { s with peers := SMap.set s.peers ((off - 0x280000) / 8) ((v &&& 0xBFF70FFF).setWidth 64) 0 }
    else s)
  else if off = 0x300004 then s.writeRcmd (v.setWidth 2)
  else if off = 0x300008 then { s with rlen := v }
  else if 0x301000 ≤ off ∧ off < 0x400000 then { s with window := SMap.write s.window (off - 0x301000) (bytesOf v.toNat 4) 0 }
  else s

/-! ### A context window (R306, R346, R347, R373, R377, R385, R398) -/

/-- A register that CREATE takes: written only in NONE and CLOSED (R347). Log entry 46. -/
def State.writeTaken (s : State) (p c : Nat) (f : Context → Context) : State :=
  if (s.context p c).open then s else s.modContext p c f

/-- A register of the block that lives with the context, or of an invalidation: written while LIVE or CLOSING (R347,
R377). Log entry 53. -/
def State.writeLive (s : State) (p c : Nat) (f : Context → Context) : State :=
  if (s.context p c).open then s.modContext p c f else s

/-- CMD written (R346). -/
def State.writeCmd (s : State) (p c : Nat) (v : BitVec 2) : State :=
  if v = 1 then s.createCtx p c else if v = 2 then s.teardownCtx p c else s.modContext p c (fun x => { x with cmd := v })

/-- The word of TRMASK and TRSIZE written (R385). -/
def State.writeTrace (s : State) (p c : Nat) (v : Word) : State :=
  let n := v.toNat % 16
  if 1 ≤ n ∧ n ≤ 5 then s
  else s.modContext p c (fun x => { x with trmask := (v >>> 8).setWidth 8, trsize := v.setWidth 4 })

/-- The debug CMD written (R377, R379, R380). -/
def State.writeDebugCmd (s : State) (p c : Nat) (v : BitVec 2) : State :=
  if ! (s.context p c).open then s
  else if v = 1 then s.halt p c
  else if v = 2 then s.resumeAll p c
  else if v = 3 then s.stepOne p c
  else s.modContext p c (fun x => { x with dcmd := v })

/-- A word of the debug block written (R377). Log entry 53. -/
def State.writeDebug (s : State) (p c off : Nat) (v : Word) : State :=
  match off with
  | 0x100 => s.writeLive p c (fun x => { x with capture := v.getLsbD 0, dscope := (v >>> 1).setWidth 2, arm := v.getLsbD 3 })
  | 0x104 => s.writeDebugCmd p c (v.setWidth 2)
  | 0x110 => s.writeLive p c (fun x => { x with dhandle := v })
  | 0x114 => s.writeLive p c (fun x => { x with dwg := v })
  | 0x118 => s.writeLive p c (fun x => { x with dthr := v.setWidth 10 })
  | 0x11C => s.writeLive p c (fun x => { x with dridx := v.setWidth 10 })
  | 0x120 => s.writeDrdata p c v
  | _ =>
    if 0x140 ≤ off ∧ off < 0x180 then
      let i := (off - 0x140) / 8
      if off % 8 = 0 then s.writeLive p c (fun x => { x with bppc := x.bppc.set i v })
      else s.writeLive p c (fun x => { x with bpen := x.bpen.set i (v.getLsbD 0) })
    else s

/-- A word of a launch-queue block written (R306, R307). -/
def State.writeQueue (s : State) (p c q off : Nat) (v : Word) : State :=
  if off = 0x10 then s.writeQtail p c q v else s.writeQueueWord p c q off v

/-- A word of a context window written (R346). -/
def State.writeWindow (s : State) (p c off : Nat) (v : Word) : State :=
  match off with
  | 0x000 => s.writeTaken p c (fun x => { x with ptroot := setHalf x.ptroot 0 v })
  | 0x004 => s.writeTaken p c (fun x => { x with ptroot := setHalf x.ptroot 1 v })
  | 0x008 => s.writeTaken p c (fun x => { x with savearea := setHalf x.savearea 0 v })
  | 0x00C => s.writeTaken p c (fun x => { x with savearea := setHalf x.savearea 1 v })
  | 0x010 => s.writeTaken p c (fun x => { x with fqbase := setHalf x.fqbase 0 v })
  | 0x014 => s.writeTaken p c (fun x => { x with fqbase := setHalf x.fqbase 1 v })
  | 0x018 => s.writeTaken p c (fun x => { x with fqsize := v.setWidth 4 })
  | 0x01C => s.writeFqhead p c v
  | 0x024 => s.writeTaken p c (fun x => { x with frameq := v.setWidth 7 })
  | 0x028 => s.writeTaken p c (fun x => { x with strict := v.getLsbD 0 })
  | 0x02C => s.writeCmd p c (v.setWidth 2)
  | 0x034 => s.writeFresume p c v
  | 0x038 => s.modContext p c (fun x => { x with fqvec := v.setWidth 6, fqen := v.getLsbD 31 })
  | 0x040 => s.writeLive p c (fun x => { x with invva := setHalf x.invva 0 v })
  | 0x044 => s.writeLive p c (fun x => { x with invva := setHalf x.invva 1 v })
  | 0x048 =>
    let s1 := s.writeLive p c (fun x => { x with invlog := v.setWidth 6, invall := v.getLsbD 8 })
    if v.getLsbD 31 then s1.startInvalidate p c else s1
  | 0x050 => s.modContext p c (fun x => { x with fqlost := x.fqlost &&& ~~~v })
  | 0x060 => s.modContext p c (fun x => { x with trbase := setHalf x.trbase 0 v })
  | 0x064 => s.modContext p c (fun x => { x with trbase := setHalf x.trbase 1 v })
  | 0x068 => s.writeTrace p c v
  | 0x06C => s.modContext p c (fun x => { x with trlost := x.trlost &&& ~~~v })
  | 0x070 => s.modContext p c (fun x => { x with trhead := v })
  | _ =>
    if 0x100 ≤ off ∧ off < 0x180 then s.writeDebug p c off v
    else if 0x1000 ≤ off ∧ off < 0x1800 then s.writeQueue p c ((off - 0x1000) / 32) (off % 32) v
    else s

/-- A word of VF BAR2 written: aperture control (R399). -/
def State.writeVfControl (s : State) (v off : Nat) (x : Word) : State :=
  match off with
  | 0x0F10 => { s with apctl := s.apctl.set v (x &&& 0x800003FF) }
  | 0x0F18 => { s with apva := s.apva.modify v (fun a => maskHalf a 0 x 0x000FFFFC00000000) }
  | 0x0F1C => { s with apva := s.apva.modify v (fun a => maskHalf a 1 x 0x000FFFFC00000000) }
  | _ => s

/-- What the driver sets outside the memory BARs, in the number 7 of the model: NumVFs at 0 (R17, R344), a function's
AtomicOp Requester Enable at 4 (R195), the power limit in W at 8 (R20). That a NumVFs above 8 and a limit outside 1,600 to
2,600 W are ignored, the old value kept, is the model's choice. Log entry 16. -/
def State.writeConfigSpace (s : State) (fn off : Nat) (v : Word) : State :=
  match off with
  | 0 => if fn = 0 ∧ v.toNat ≤ 8 then { s with numVfs := v.toNat } else s
  | 4 => { s with atomicEn := if v.getLsbD 0 then s.atomicEn ||| (1#9 <<< fn) else s.atomicEn &&& ~~~(1#9 <<< fn) }
  | 8 => if fn = 0 ∧ 1600 ≤ v.toNat ∧ v.toNat ≤ 2600 then { s with powerLimit := v.toNat } else s
  | _ => s

/-- A word written: none where the access is an unsupported request (R18, R397). -/
def State.writeWord (s : State) (fn bar off : Nat) (v : Word) : Option State :=
  if bar = 7 then some (s.writeConfigSpace fn off v)
  else if fn = 0 then
    if bar = 0 ∧ off < 2 ^ 22 then some (s.writePfWord off v) else if bar = 2 ∧ off < 2 ^ 13 then some s else none
  else if bar = 0 ∧ off < 2 ^ 24 then (s.partOfVf (fn - 1)).map (fun p => s.writeWindow p (off / 2 ^ 14) (off % 2 ^ 14) v)
  else if bar = 2 ∧ off < 2 ^ 13 then (s.partOfVf (fn - 1)).map (fun _ => s.writeVfControl (fn - 1) off v) else none

/-- A register write (R397): 4 or 8 bytes, aligned; a 64-bit register written whole takes effect at once.
Log entry 52. -/
def State.registerWrite (s : State) (u : EvReg) : State :=
  if (u.size ≠ 4 ∧ u.size ≠ 8) ∨ u.off % u.size ≠ 0 then s.reply .unsupportedRequest
  else if u.fn = 0 ∧ u.bar = 0 ∧ u.size = 8 ∧ u.off = 0x100208 then s.writeLibsize (u.value % 2 ^ 64)
  else if u.fn = 0 ∧ u.bar = 0 ∧ u.size = 8 ∧ u.off = 0x100200 then
    s.writeLibbase (BitVec.ofNat 64 u.value)
  else if u.fn = 0 ∧ u.bar = 0 ∧ u.size = 8 ∧ u.off = 0x200018 then s.writeStepto (BitVec.ofNat 64 u.value)
  else
    match (wordsOfWrite u.off u.size u.value).foldl (fun (o : Option State) w =>
        o.bind (fun (s : State) => s.writeWord u.fn u.bar w.1 w.2)) (some s) with
    | some s1 => s1
    | none => s.reply .unsupportedRequest

/-- REGISTER_WRITE. -/
def execRegisterWrite (u : EvReg) (s : State) : Out := .next (s.registerWrite u)

/-! ### What a register read returns (R5) -/

/-- A half of a 64-bit register. -/
def halfOf (x : DWord) (i : Nat) : Word := BitVec.ofNat 32 (x.toNat / 2 ^ (32 * i))

/-- A number with a field at a bit position. -/
def fieldAt (x lo : Nat) : Word := BitVec.ofNat 32 (x * 2 ^ lo)

/-- A word of a partition descriptor. -/
def Partition.word (d : Partition) (off : Nat) : Word :=
  match off with
  | 0x00 => d.clusters.setWidth 32
  | 0x04 => fieldAt d.stackSet.toNat 0 ||| fieldAt d.cachemode.toNat 8 ||| fieldAt d.vf.toNat 16
  | 0x08 => halfOf d.hbmq 0
  | 0x0C => halfOf d.hbmq 1
  | 0x10 => halfOf d.tierq 0
  | 0x14 => halfOf d.tierq 1
  | 0x18 => d.vaultq
  | 0x1C => fieldAt (natOfBool d.go) 0 ||| fieldAt (natOfBool d.up) 1 ||| fieldAt d.err.toNat 8
  | _ => 0

/-- The code of RSTATE (R403) and of STATE (R346). -/
def BootState.code (x : BootState) : Nat := match x with | .booting => 0 | .running => 1 | .recovery => 2 | .verifying => 3
def CtxState.code (x : CtxState) : Nat := match x with | .none => 0 | .live => 1 | .closing => 2 | .closed => 3

/-- A word of a stack's migration registers. -/
def Migration.word (m : Migration) (off : Nat) : Word :=
  match off with
  | 0x0 => fieldAt m.promote.toNat 0 ||| fieldAt m.demote.toNat 8
  | 0x4 => m.epoch.setWidth 32
  | 0x8 => m.promoted
  | _ => m.demoted

/-- A word of PF BAR0. Log entry 76. -/
def State.pfWord (s : State) (off : Nat) : Word :=
  if 0x100000 ≤ off ∧ off < 0x100200 then (s.part ((off - 0x100000) / 64)).word (off % 64)
  else if off = 0x100200 ∨ off = 0x100204 then halfOf s.libbase (off / 4 % 2)
  else if off = 0x100208 ∨ off = 0x10020C then halfOf s.libsize (off / 4 % 2)
  else if off = 0x100210 then s.libstack.setWidth 32
  else if 0x100400 ≤ off ∧ off < 0x100480 then (s.migrationOf ((off - 0x100400) / 16)).word (off % 16)
  else if off = 0x100600 ∨ off = 0x100604 then halfOf s.papbase (off / 4 % 2)
  else if off = 0x200000 ∨ off = 0x200004 then halfOf s.time (off / 4 % 2)
  else if off = 0x200008 then s.src.setWidth 32
  else if off = 0x20000C then fieldAt (natOfBool s.locked) 0 ||| fieldAt (natOfBool s.diverged) 1 ||| fieldAt (natOfBool s.steperr) 2
  else if off = 0x200010 then s.rate
  else if off = 0x200014 then s.steps
  else if off = 0x200018 ∨ off = 0x20001C then halfOf s.stepto (off / 4 % 2)
  else if 0x280000 ≤ off ∧ off < 0x281000 then halfOf (SMap.get s.peers ((off - 0x280000) / 8) 0) (off / 4 % 2)
  else if off = 0x281000 then s.linkup.setWidth 32
  else if off = 0x300000 then fieldAt s.rstate.code 0 ||| fieldAt s.rerr.toNat 8
  else if off = 0x300004 then s.rcmd.setWidth 32
  else if off = 0x300008 then s.rlen
  else if 0x301000 ≤ off ∧ off < 0x400000 then BitVec.ofNat 32 (natOfBytes (SMap.read s.window (off - 0x301000) 4 0))
  else 0

/-- A word of a launch-queue block. -/
def Queue.word (d : Queue) (off : Nat) : Word :=
  match off with
  | 0x00 => halfOf d.qbase 0
  | 0x04 => halfOf d.qbase 1
  | 0x08 => fieldAt d.qsize.toNat 0 ||| fieldAt (natOfBool d.qdev) 8
  | 0x10 => d.qtail
  | 0x14 => d.qhead
  | _ => 0

/-- A word of a context's debug block, DRDATA apart. -/
def Context.debugWord (x : Context) (off : Nat) : Word :=
  match off with
  | 0x100 => fieldAt (natOfBool x.capture) 0 ||| fieldAt x.dscope.toNat 1 ||| fieldAt (natOfBool x.arm) 3
  | 0x104 => x.dcmd.setWidth 32
  | 0x108 => fieldAt x.dstate.toNat 0 ||| fieldAt x.why.toNat 4 ||| fieldAt x.bpn.toNat 8 ||| fieldAt (natOfBool x.noissue) 11
  | 0x110 => x.dhandle
  | 0x114 => x.dwg
  | 0x118 => x.dthr.setWidth 32
  | 0x11C => x.dridx.setWidth 32
  | _ =>
    if 0x140 ≤ off ∧ off < 0x180 then
      let i := (off - 0x140) / 8
      if off % 8 = 0 then (x.bppc[i]?).getD 0 else fieldAt (natOfBool ((x.bpen[i]?).getD false)) 0
    else 0

/-- A word of a context window. Log entry 76. -/
def Context.word (x : Context) (off : Nat) : Word :=
  match off with
  | 0x000 => halfOf x.ptroot 0
  | 0x004 => halfOf x.ptroot 1
  | 0x008 => halfOf x.savearea 0
  | 0x00C => halfOf x.savearea 1
  | 0x010 => halfOf x.fqbase 0
  | 0x014 => halfOf x.fqbase 1
  | 0x018 => x.fqsize.setWidth 32
  | 0x01C => x.fqhead
  | 0x020 => x.fqtail
  | 0x024 => x.frameq.setWidth 32
  | 0x028 => fieldAt (natOfBool x.strict) 0
  | 0x02C => x.cmd.setWidth 32
  | 0x030 => fieldAt x.state.code 0
  | 0x034 => x.fresume
  | 0x038 => fieldAt x.fqvec.toNat 0 ||| fieldAt (natOfBool x.fqen) 31
  | 0x040 => halfOf x.invva 0
  | 0x044 => halfOf x.invva 1
  | 0x048 => fieldAt x.invlog.toNat 0 ||| fieldAt (natOfBool x.invall) 8 ||| fieldAt (natOfBool x.invgo) 31
  | 0x050 => x.fqlost
  | 0x060 => halfOf x.trbase 0
  | 0x064 => halfOf x.trbase 1
  | 0x068 => fieldAt x.trsize.toNat 0 ||| fieldAt x.trmask.toNat 8
  | 0x06C => x.trlost
  | 0x070 => x.trhead
  | 0x074 => x.trtail
  | _ =>
    if 0x100 ≤ off ∧ off < 0x180 then x.debugWord off
    else if 0x1000 ≤ off ∧ off < 0x1800 then (SMap.get x.queues ((off - 0x1000) / 32) Queue.reset).word (off % 32)
    else 0

/-- A register word as a read of it returns it; none where the read is an unsupported request (R18, R397).
Log entry 76. -/
def State.readWord (s : State) (fn bar off : Nat) : Option Word :=
  if off % 4 ≠ 0 then none
  else if fn = 0 then
    if bar = 0 ∧ off < 2 ^ 22 then some (s.pfWord off) else if bar = 2 ∧ off < 2 ^ 13 then some 0 else none
  else if bar = 0 ∧ off < 2 ^ 24 then
    (s.partOfVf (fn - 1)).map (fun p =>
      if off % 2 ^ 14 = 0x120 then s.readDrdata p (off / 2 ^ 14) else (s.context p (off / 2 ^ 14)).word (off % 2 ^ 14))
  else if bar = 2 ∧ off < 2 ^ 13 then
    (s.partOfVf (fn - 1)).map (fun _ => match off with
      | 0x0F00 => halfOf s.time 0
      | 0x0F04 => halfOf s.time 1
      | 0x0F10 => (s.apctl[fn - 1]?).getD 0
      | 0x0F18 => halfOf ((s.apva[fn - 1]?).getD 0) 0
      | 0x0F1C => halfOf ((s.apva[fn - 1]?).getD 0) 1
      | _ => 0)
  else none

/-- What a register read returns (R397): 4 or 8 bytes, aligned; both halves of a 64-bit register at one point. None where
it is an unsupported request. -/
def State.readRegister (s : State) (fn bar off size : Nat) : Option Nat :=
  if (size ≠ 4 ∧ size ≠ 8) ∨ off % size ≠ 0 then none
  else if size = 4 then (s.readWord fn bar off).map BitVec.toNat
  else (s.readWord fn bar off).bind (fun lo => (s.readWord fn bar (off + 4)).map (fun hi => lo.toNat + hi.toNat * 2 ^ 32))

end Sys2Proof.Machine
end

