-- ==== Sys2Proof/Machine/Spdm.lean ====
section
/-!
DEFINITION. The SPDM responder (R404 to R406): one request object and its response, and the connection state of each
function. The layouts of the objects are those of SPDM 1.3, which the spec names.
-/
namespace Sys2Proof.Machine
open Sys2Proof

/-- The connection state of a function, and changed. -/
def State.spdmOf (s : State) (fn : Nat) : Spdm := (s.spdm[fn]?).getD .start
def State.setSpdm (s : State) (fn : Nat) (x : Spdm) : State := { s with spdm := s.spdm.set fn x }

/-- Bytes that the responder draws or that the spec does not state. -/
def State.freeBytes (s : State) (key n : Nat) : List Byte := (List.range n).map (fun i => Config.nonceByte s.draws (key + i))

/-- What a function's signatures cover, and changed. -/
def State.heardOf (s : State) (fn : Nat) : Heard := (s.heard[fn]?).getD Heard.none
def State.setHeard (s : State) (fn : Nat) (h : Heard) : State := { s with heard := s.heard.set fn h }

/-- The text that SPDM 1.3 puts before a hash it signs, for a signing context of n characters (R405). Log entry 18. -/
def spdmPrefix (text : String) : List Byte :=
  let ascii (x : String) : List Byte := x.toList.map (fun c => BitVec.ofNat 8 c.toNat)
  let four := (List.replicate 4 (ascii "dmtf-spdm-v1.3.*")).flatten
  four ++ List.replicate (36 - text.length) 0 ++ ascii text

/-- An RSASSA-3072 signature of a transcript under the identity key (R404, R405). Log entry 18. -/
def spdmSign (text : String) (transcript : List Byte) : List Byte :=
  bytesBig (Config.sign (natOfBig (sha256 (spdmPrefix text ++ sha256 transcript)))) 384

/-- A response object sent. Log entry 79. -/
def State.respond (s : State) (fn : Nat) (bs : List Byte) : State := s.reply (.spdm fn bs)
/-- An ERROR response with a code (R406): the state is left unchanged. -/
def State.spdmError (s : State) (fn code : Nat) : State := s.respond fn [0x13, 0x7F, BitVec.ofNat 8 code, 0]

/-- A field of a request. -/
def reqField (u : EvSpdm) (off n : Nat) : Nat := natOfBytes ((u.req.drop off).take n)

/-- The failures of R406 in their order: out of order, header version, fields; else the answer. Log entry 18. -/
def State.spdmGuard (s : State) (u : EvSpdm) (inOrder fields : Bool) (answer : State → State) : State :=
  if inOrder = false then s.spdmError u.fn 0x04
  else if reqField u 0 1 ≠ 0x13 then s.spdmError u.fn 0x41
  else if fields = false then s.spdmError u.fn 0x01
  else answer s

/-- An opening exchange: its response joins what the signatures cover, and the connection state advances (R405, R406). -/
def State.opens (s : State) (u : EvSpdm) (next : Spdm) (h : Heard) (resp : List Byte) : State :=
  ((s.setSpdm u.fn next).setHeard u.fn { h with opening := h.opening ++ u.req ++ resp }).respond u.fn resp

/-- GET_VERSION (R405): 1.3 alone; the connection state becomes that after VERSION. Log entry 18. -/
def State.getVersion (s : State) (u : EvSpdm) : State :=
  if u.req.length < 4 then s.spdmError u.fn 0x01
  else s.opens u .version Heard.none [0x10, 0x04, 0, 0, 0, 1, 0x00, 0x13]

/-- GET_CAPABILITIES (R405, R406): CERT_CAP, CHAL_CAP and MEAS_CAP = signed. Log entry 18. -/
def State.getCapabilities (s : State) (u : EvSpdm) : State :=
  s.spdmGuard u (s.spdmOf u.fn == .version) (decide (u.req.length = 20)) (fun s =>
    s.opens u .capabilities (s.heardOf u.fn) ([0x13, 0x61, 0, 0, 0] ++ s.freeBytes 0 1 ++ [0, 0, 0x16, 0, 0, 0] ++ s.freeBytes 1 8))

/-- NEGOTIATE_ALGORITHMS (R405, R406): RSASSA-3072, SHA-256, measurement hash SHA-256. Log entry 18. -/
def State.negotiate (s : State) (u : EvSpdm) : State :=
  let common := (reqField u 6 1).testBit 0 && (reqField u 8 4).testBit 2 && (reqField u 12 4).testBit 0
  s.spdmGuard u (s.spdmOf u.fn == .capabilities) (decide (32 ≤ u.req.length ∧ reqField u 4 2 = u.req.length) && common) (fun s =>
    s.opens u .algorithms (s.heardOf u.fn)
      ([0x13, 0x63, 0, 0, 36, 0, 1, 0] ++ bytesOf 2 4 ++ bytesOf 4 4 ++ bytesOf 1 4 ++ List.replicate 16 0))

/-- A digest or certificate exchange: a later challenge's signature covers it (R405). Log entry 18. -/
def State.tells (s : State) (u : EvSpdm) (resp : List Byte) : State :=
  let h := s.heardOf u.fn
  (s.setHeard u.fn { h with slots := h.slots ++ u.req ++ resp, measured := [] }).respond u.fn resp

/-- GET_DIGESTS (R405): the digest of slot 0. Log entry 18. -/
def State.getDigests (s : State) (u : EvSpdm) : State :=
  s.spdmGuard u (s.spdmOf u.fn == .algorithms) (decide (u.req.length = 4)) (fun s =>
    s.tells u ([0x13, 0x01, 0x01, 0x01] ++ sha256 Config.certificate))

/-- GET_CERTIFICATE (R405): at most 1,024 bytes of slot 0's chain. Log entry 18. -/
def State.getCertificate (s : State) (u : EvSpdm) : State :=
  let off := reqField u 4 2
  s.spdmGuard u (s.spdmOf u.fn == .algorithms)
    (decide (u.req.length = 8 ∧ reqField u 2 1 = 0 ∧ off < Config.certificate.length)) (fun s =>
      let part := (Config.certificate.drop off).take (min (reqField u 6 2) 1024)
      s.tells u ([0x13, 0x02, 0, 0] ++ bytesOf part.length 2 ++ bytesOf (Config.certificate.length - off - part.length) 2 ++ part))

/-- One measurement block: index i and the register MR(i - 1). -/
def State.measurementBlock (s : State) (i : Nat) : List Byte :=
  [BitVec.ofNat 8 i, 0x01, 35, 0, BitVec.ofNat 8 (min (i - 1) 3), 32, 0] ++ mrBytes ((s.mrs[i - 1]?).getD 0)

/-- The measurement summary hash of a kind: none, over the TCB's registers, or over all (R405). Log entry 18. -/
def State.summaryHash (s : State) (kind : Nat) : List Byte :=
  if kind = 0 then []
  else sha256 ((((List.range 16).map (· + 1)).filter (fun i => kind == 0xFF || Config.tcbIndex i)).flatMap s.measurementBlock)

/-- CHALLENGE (R404, R405): a signed CHALLENGE_AUTH of slot 0. Log entry 18. -/
def State.challenge (s : State) (u : EvSpdm) : State :=
  let kind := reqField u 3 1
  s.spdmGuard u (s.spdmOf u.fn == .algorithms)
    (decide (u.req.length = 44 ∧ reqField u 2 1 = 0 ∧ (kind = 0 ∨ kind = 1 ∨ kind = 0xFF))) (fun s =>
      let resp := [0x13, 0x03, 0, 0x01] ++ sha256 Config.certificate ++ s.freeBytes 16 32 ++ s.summaryHash kind ++ [0, 0]
        ++ (u.req.drop 36).take 8
      let h := s.heardOf u.fn
      (s.setHeard u.fn { h with slots := [], measured := [] }).respond u.fn
        (resp ++ spdmSign "responder-challenge_auth signing" (h.opening ++ h.slots ++ u.req ++ resp)))

/-- GET_MEASUREMENTS (R405, R406): every register is read at one point. Log entry 18. -/
def State.getMeasurements (s : State) (u : EvSpdm) : State :=
  let signed := (reqField u 2 1).testBit 0
  let op := reqField u 3 1
  let ids := if op = 0xFF then (List.range 16).map (· + 1) else [op]
  s.spdmGuard u (s.spdmOf u.fn == .algorithms)
    (decide (u.req.length = (if signed then 45 else 12)) && (decide ((1 ≤ op ∧ op ≤ 16) ∨ op = 0xFF))
      && (! signed || decide (reqField u 36 1 % 16 = 0))) (fun s =>
      let record := ids.flatMap s.measurementBlock
      let resp := [0x13, 0x60, 0, 0, BitVec.ofNat 8 ids.length] ++ bytesOf record.length 3 ++ record ++ s.freeBytes 16 32 ++ [0, 0]
        ++ (u.req.drop (if signed then 37 else 4)).take 8
      let h := s.heardOf u.fn
      let covered := h.measured ++ u.req ++ resp
      (s.setHeard u.fn { h with measured := if signed then [] else covered }).respond u.fn
        (resp ++ (if signed then spdmSign "responder-measurements signing" (h.opening ++ covered) else [])))

/-- Any other request code (R406). Log entry 18. -/
def State.spdmOther (s : State) (u : EvSpdm) : State := s.spdmError u.fn 0x07

/-- GET_VERSION. -/
def execGetVersion (u : EvSpdm) (s : State) : Out := .next (s.getVersion u)
/-- GET_CAPABILITIES. -/
def execGetCapabilities (u : EvSpdm) (s : State) : Out := .next (s.getCapabilities u)
/-- NEGOTIATE_ALGORITHMS. -/
def execNegotiateAlgorithms (u : EvSpdm) (s : State) : Out := .next (s.negotiate u)
/-- GET_DIGESTS. -/
def execGetDigests (u : EvSpdm) (s : State) : Out := .next (s.getDigests u)
/-- GET_CERTIFICATE. -/
def execGetCertificate (u : EvSpdm) (s : State) : Out := .next (s.getCertificate u)
/-- CHALLENGE. -/
def execChallenge (u : EvSpdm) (s : State) : Out := .next (s.challenge u)
/-- GET_MEASUREMENTS. -/
def execGetMeasurements (u : EvSpdm) (s : State) : Out := .next (s.getMeasurements u)
/-- SPDM_OTHER_REQUEST. -/
def execSpdmOtherRequest (u : EvSpdm) (s : State) : Out := .next (s.spdmOther u)
/-- DOE_ABORT (R405): the function's connection state returns to its start. -/
def execDoeAbort (u : EvNat) (s : State) : Out := .next ((s.setSpdm u.n .start).setHeard u.n Heard.none)

end Sys2Proof.Machine
end

