-- ==== Sys2Proof/Machine/Peers.lean ====
section
/-!
DEFINITION. Peer links (R358, R369, R370, R400, R401, R408): links that go down and come up, and accesses that arrive from a peer.
-/
namespace Sys2Proof.Machine
open Sys2Proof

/-- Whether an access is borne by a link that goes down: its address names a peer whose traffic the link carries; where several links carry it, which one bore it is the device's choice (R400, R401). Log entry 55. -/
def State.linkBears (s : State) (p n addr key : Nat) : Bool :=
  let d := bitsOf addr 57 52
  let up := (s.peerEntry p d).setWidth 12 &&& s.linkup
  decide (d ≠ 0) && up.getLsbD n && (up == 1#12 <<< n || Config.choose s.draws key % 2 == 0)

/-- A result in flight on a link that goes down (R401). -/
def State.onLink (s : State) (p n : Nat) (r : Pending) : Bool := ! r.returned && s.linkBears p n r.addr (r.ord * 128 + r.reg)

/-- The results in flight on a link poisoned (R401). Log entries 10 and 55. -/
def State.poisonLink (s : State) (n : Nat) : State :=
  let hurt (p : Nat) (r : Pending) : Pending := if s.onLink p n r then { r with poison := true } else r
  { s with wgs := s.wgs.map (fun (w : Workgroup) =>
    { w with groups := w.groups.map (fun (g : Group) =>
      { g with
        gPending := g.gPending.map (hurt w.part)
        threads := g.threads.map (fun (t : Thread) => { t with pending := t.pending.map (hurt w.part) }) }) }) }

/-- The stores in flight on a link each leave a STORE_POISONED record (R369, R372, R401): which of those sent are still in flight is
the device's choice. Log entry 55. -/
def State.loseStores (s : State) (n : Nat) : State :=
  let lost := s.sent.zipIdx.filter (fun q => s.linkBears q.1.part n q.1.addr (320000 + q.2) && Config.choose s.draws (330000 + q.2) % 2 == 0)
  lost.foldl (fun (s : State) q => s.logRecord q.1.part q.1.ctx (q.1.addr % 2 ^ 64 / 32 * 32) 0x10 5 q.1.core q.1.pc q.1.who)
    { s with sent := (s.sent.zipIdx.filter (fun q => ! lost.contains q)).map (·.1) }

/-- LINK_DOWN (R401). Log entry 55. -/
def execLinkDown (u : EvNat) (s : State) : Out :=
  .next { (s.poisonLink u.n).loseStores u.n with linkup := s.linkup &&& ~~~(1#12 <<< u.n) }
/-- LINK_UP (R401). Log entry 15. -/
def execLinkUp (u : EvNat) (s : State) : Out := .next { s with linkup := s.linkup ||| (1#12 <<< u.n) }

/-- Whether the entry for the partition an access names, under the device number of its source, is enabled and names the
source's partition (R400). Log entry 54. -/
def State.acceptsPeer (s : State) (u : EvPeer) : Bool :=
  let e := s.peerEntry u.part u.dev
  decide (1 ≤ u.dev ∧ u.dev ≤ 63) && e.getLsbD 31 && decide (bitsOf e.toNat 18 16 = u.srcPart)

/-- A peer's atomic on n bytes: operation `op`; CAS carries the compare value before the new one (R192).
It acts on the newest store, and its own follows that at once (R290). Log entry 54. -/
def State.peerAtomic (s : State) (u : EvPeer) (g : Page) (op : Nat) : State :=
  let old := s.readPage g u.va u.len
  let x := natOfBytes (if op = 9 then u.data.drop u.len else u.data.take u.len)
  let k := if op = 9 then natOfBytes (u.data.take u.len) else 0
  if old.2 then s.reply (.peer old.1 true)
  else if g.host then s.reply (.peer old.1 false)
  else
    let who := Agent.peer u.dev
    let mine : Stored := { agent := who, strong := 6, rel := [], stamp := [] }
    let s1 := s.writePage g u.va (bytesOf (atomicNew op (8 * u.len) (natOfBytes old.1) x k) u.len)
    let wrote := wroteSince s.stores s1.stores
    ({ s1 with stores := wrote.foldl (fun (h : SMap Versions) (l : Nat × Nat) => markRmw h l.1 mine) s1.stores }.outsideSees who wrote).reply (.peer old.1 false)

/-- The requests of a peer's access counted, each of at most 128 bytes (R187, R389). -/
def State.touchPeer (s : State) (runs : List (Nat × Nat × Page)) : State :=
  runs.foldl (fun s q => (List.range ((q.1 + q.2.1 + 127) / 128 - q.1 / 128)).foldl (fun s k =>
    s.touchPage q.2.2 (max q.1 (128 * (q.1 / 128 + k)))) s) s

/-- PEER_ACCESS (R358, R400): accepted under the peer map and translated by the named context, or refused. `kind` is 0 load,
1 store, 2 + op an atomic. What a peer's fences have ordered among its stores here is not shown to the module. Log entries 1 and
54. -/
def State.peerAccess (s : State) (u : EvPeer) : State :=
  if s.acceptsPeer u = false ∨ (s.context u.part u.ctx).state ≠ .live then s.reply .peerRefused
  else
    let n := if u.kind = 1 then u.data.length else u.len
    let t := s.translateRuns u.part u.ctx hubCore (min u.kind 2) (pageRuns (u.va % 2 ^ 52) n (n / 2 ^ 14 + 2))
    match t.2.2 with
    | some _ => t.1.reply .peerRefused
    | none =>
      let s1 := t.1.touchPeer t.2.1
      if u.kind = 0 then
        let r := s1.readOutside (Agent.peer u.dev) t.2.1
        r.1.reply (.peer r.2.1 r.2.2)
      else if u.kind = 1 then
        (s1.apertureWrite (Agent.peer u.dev) [] u.part u.ctx (u.va % 2 ^ 52) u.data (t.2.1.filter (fun q => ! q.2.2.host))).reply
          (.peer [] false)
      else
        match t.2.1 with
        | q :: _ => s1.peerAtomic u q.2.2 (u.kind - 2)
        | [] => s1.reply .peerRefused

/-- PEER_ACCESS. -/
def execPeerAccess (u : EvPeer) (s : State) : Out := .next (s.peerAccess u)

end Sys2Proof.Machine
end

