-- ==== Sys2Proof/Machine/Transducer.lean ====
section
/-!
DEFINITION. The digit-transducer lanes (R247 to R260, R410): paradigms and their checks, PDLOAD and PDINFO, the walks of
DXT and DXCMP, and the radix conversions DXVAL and DXENC.
-/
namespace Sys2Proof.Machine
open Sys2Proof

/-! ### Paradigms (R247 to R250) -/

/-- A paradigm's header, with its image (R248). -/
structure Paradigm where
  wd : Nat
  arity : Nat
  rmsd : Bool
  wmsd : Bool
  states : Nat
  start : Nat
  rkind : Nat
  radix : Int
  bal : Bool
  image : SMap Byte
  deriving DecidableEq, Repr

/-- The header that an image holds. -/
def Paradigm.of (m : SMap Byte) : Paradigm :=
  let b (i : Nat) : Nat := (SMap.get m i 0).toNat
  { wd := b 0, arity := b 1, rmsd := (b 2).testBit 0, wmsd := (b 2).testBit 1, states := b 3, start := b 4, rkind := b 5,
    radix := sext (b 6) 8, bal := (b 7).testBit 0, image := m }

/-- Digits of a word, input symbols, and the length of the image. -/
def Paradigm.n (p : Paradigm) : Nat := 32 / p.wd
def Paradigm.sy (p : Paradigm) : Nat := 2 ^ (p.wd * p.arity)
def Paradigm.len (p : Paradigm) : Nat := 128 + 2 * p.states * p.sy
/-- The transition entry of a state and symbol, and the final-action entry of a state. -/
def Paradigm.trans (p : Paradigm) (st x : Nat) : Nat := natOfBytes (SMap.read p.image (128 + 2 * (st * p.sy + x)) 2 0)
def Paradigm.final (p : Paradigm) (st : Nat) : Nat := natOfBytes (SMap.read p.image (64 + 2 * st) 2 0)

/-- The first bad byte of a header (R248, R251). -/
def headerFault (h : List Byte) : Option Nat :=
  let p := Paradigm.of (SMap.write [] 0 h 0)
  let b (i : Nat) : Nat := ((h[i]?).getD 0).toNat
  let badIf (c : Bool) (o : Nat) : List Nat := if c then [o] else []
  let balOk := p.rkind == 1 && decide (0 < p.radix) && decide (p.radix % 2 = 1)
  let fits := if p.bal && balOk then decide ((p.radix - 1) / 2 ≤ (2 ^ (p.wd - 1) : Nat) - 1) else decide (p.radix.natAbs - 1 < 2 ^ p.wd)
  let all := badIf (decide (p.wd < 1 ∨ 4 < p.wd)) 0 ++ badIf (decide (p.arity < 1 ∨ 2 < p.arity)) 1 ++ badIf (decide (3 < b 2)) 2
    ++ badIf (decide (p.states < 1 ∨ 32 < p.states)) 3 ++ badIf (decide (p.states ≤ p.start)) 4
    ++ badIf (decide (2 < p.rkind ∨ (p.rkind = 2 ∧ p.wd ≠ 1))) 5
    ++ badIf (decide ((p.rkind = 1 ∧ (p.radix.natAbs < 2 ∨ 16 < p.radix.natAbs)) ∨ (p.rkind ≠ 1 ∧ b 6 ≠ 0))
        || (p.rkind == 1 && decide (1 ≤ p.wd ∧ p.wd ≤ 4) && ! fits)) 6
    ++ badIf (decide (1 < b 7) || (p.bal && ! balOk)) 7 ++ ((List.range 56).map (8 + ·)).filter (fun i => b i ≠ 0)
  all.foldl (fun o x => match o with | none => some x | some y => some (min x y)) none

/-! ### PDLOAD and PDINFO (R251 to R253) -/

/-- Whether a copy to a paradigm slot of a lane's context on its core is in flight (R252). -/
def State.slotBusy (s : State) (e : LaneEnv) (slot : Nat) : Bool :=
  s.jobs.any (fun j => match j.kind with
    | .copy 2 i _ => i == slot && j.part == e.wg.part && j.ctx == e.wg.ctx && j.core == e.wg.core
    | _ => false)

/-- A range of a PDLOAD read: none with its state and fates when it does not translate or reads poisoned.
Log entry 71. -/
def pdRead (s : State) (e : LaneEnv) (ls : List LaneEnv) (a n : Nat) : Except (State × List Fate) (State × List Byte) :=
  if 2 ^ 58 < a + n then .error (s, allFate ls (.miss 3 [(1, a % 2 ^ 64)]))
  else
    match s.readVirt e.wg.part e.wg.ctx e.wg.core a n with
    | (s1, .fault _ _) => .error (s1.groupFault e ls a n)
    | (s1, .bytes _ (some x)) => .error (s1, allFate ls (.trap { cause := 0x0A, info := s.issue.pc.toNat, addr := x % 2 ^ 64 }))
    | (s1, .bytes bs none) => .ok (s1, bs)

/-- PDLOAD of one group once its header is read: the header's checks, then the whole paradigm. Log entry 71. -/
def pdloadFrom (slot : Nat) (e : LaneEnv) (ls : List LaneEnv) (a : Nat) (s : State) (h : List Byte) : State × List Fate :=
  match headerFault h with
  | some o => (s, allFate ls (.trap (alignTrap 0xD (a + o))))
  | none =>
    match pdRead s e ls a (Paradigm.of (SMap.write [] 0 h 0)).len with
    | .error r => r
    | .ok (s2, bs) => ((s2.addJob e (.copy 2 slot bs)).1, [])

/-- PDLOAD of one group. -/
def pdloadGroup (u : GPd) (s : State) (e : LaneEnv) (ls : List LaneEnv) : State × List Fate :=
  let a := e.gpair u.a
  let slot := u.slot.toNat
  if a = 0 then
    if s.slotBusy e slot then ((s.addJob e (.copy 2 slot [])).1, [])
    else (s.modResident e.wg.part e.wg.ctx e.wg.core (fun r => { r with paradigms := r.paradigms.set slot none }), [])
  else if a % 128 ≠ 0 then (s, allFate ls (.trap (alignTrap 0xC a)))
  else
    match pdRead s e ls a 64 with
    | .error r => r
    | .ok (s1, h) => pdloadFrom slot e ls a s1 h

/-- PDLOAD. -/
def execPdload (u : GPd) (s : State) : Out := .next (runUnit (.pdload u) false none noExtra (groupBody (pdloadGroup u)) s)

/-- The contents of a slot as a lane's unit finds them. -/
def LaneEnv.paradigm (e : LaneEnv) (slot : Nat) : Paradigm :=
  Paradigm.of ((((e.s.resident e.wg.part e.wg.ctx e.wg.core).paradigms[slot]?).join).getD [])

/-- The summary of a slot (R253). -/
def Paradigm.info (p : Paradigm) : Nat :=
  (if p.rkind = 1 then wrapN p.radix 8 else 0) * 2 ^ 24 + p.rkind % 4 * 2 ^ 22 + natOfBool p.bal * 2 ^ 21 + p.start % 32 * 2 ^ 16
    + (p.states - 1) % 32 * 2 ^ 11 + natOfBool p.wmsd * 2 ^ 10 + natOfBool p.rmsd * 2 ^ 9 + (p.arity - 1) % 2 * 2 ^ 8
    + p.n % 64 * 2 ^ 2 + (p.wd - 1) % 4

/-- PDINFO. -/
def execPdinfo (u : GPi) (s : State) : Out :=
  .next (uniformUnit (.pdinfo u) (fun _ e => [(u.d.toNat, BitVec.ofNat 32 (e.paradigm u.slot.toNat).info)]) s)

/-! ### DIGIT_UNDEFINED (R260) -/

/-- The trap of R260. -/
def digitTrap (kind slot state pos symbol : Nat) : Trap :=
  { cause := 0x05, info := kind * 2 ^ 22 + symbol % 256 * 2 ^ 14 + pos % 128 * 2 ^ 7 + state % 32 * 2 ^ 2 + slot, addr := 0 }

/-- Lanes that compute a result or trap; those that trap write nothing (R259). -/
def dxBody (sh : Shape) (f : LaneEnv → Except Trap LaneOut) : Body := fun s es =>
  let bad := es.filterMap (fun (e : LaneEnv) => if e.parts.contains e.ti then
      match f e with
      | .error t => some ({ gi := e.gi, ti := e.ti, v := .trap t } : Fate)
      | .ok _ => none
    else none)
  let r := writeLanes sh true (fun e => match f e with | .ok o => o | .error _ => LaneOut.ofRegs []) s es
  (r.1, bad)

/-! ### Walks (R255, R256) -/

/-- Digit i of a number of words (R247). -/
def Paradigm.digit (p : Paradigm) (x i : Nat) : Nat := x / 2 ^ (32 * (i / p.n) + p.wd * (i % p.n)) % 2 ^ p.wd
/-- The number that digits at their places make. -/
def Paradigm.place (p : Paradigm) (ds : List (Nat × Nat)) : Nat :=
  ds.foldl (fun n d => n + d.2 % 2 ^ p.wd * 2 ^ (32 * (d.1 / p.n) + p.wd * (d.1 % p.n))) 0

/-- The steps of a walk from step `i` on: the output digits and the end state, or the undefined transition. -/
def Paradigm.steps (p : Paradigm) (slot a b : Nat) : (left i st : Nat) → List Nat → Except Trap (List Nat × Nat)
  | 0, _, st, out => .ok (out, st)
  | n + 1, i, st, out =>
    let pos := if p.rmsd then p.n - 1 - i else i
    let x := p.digit a pos + (if p.arity = 2 then 2 ^ p.wd * p.digit b pos else 0)
    let e := p.trans st x
    let nx := e / 16 % 32
    if e < 2 ^ 15 ∨ p.states ≤ nx then .error (digitTrap 0 slot st pos x)
    else Paradigm.steps p slot a b n (i + 1) nx (out ++ [e % 2 ^ p.wd])

/-- A whole walk. -/
def Paradigm.walk (p : Paradigm) (slot a b : Nat) : Except Trap (List Nat × Nat) := p.steps slot a b p.n 0 p.start []

/-- DXT in a lane (R255). -/
def Paradigm.dxt (p : Paradigm) (slot a b : Nat) : Except Trap Nat :=
  match p.walk slot a b with
  | .error t => .error t
  | .ok (out, st) =>
    let f := p.final st
    let kind := f / 2 ^ 14 % 2
    let cnt := f / 2 ^ 12 % 4
    if f < 2 ^ 15 ∨ (kind = 0 ∧ cnt = 3) then .error (digitTrap 1 slot st 0x7F 0)
    else
      let all := if kind = 0 then out ++ [f % 16 % 2 ^ p.wd, f / 16 % 16 % 2 ^ p.wd].take cnt else out
      .ok (p.place (all.zipIdx.map (fun d => (if p.wmsd then all.length - 1 - d.2 else d.2, d.1))))

/-- Whether a condition holds for a relation (R256). -/
def relationHolds (cond rel : Nat) : Bool :=
  match cond with
  | 0 => rel == 0
  | 1 => rel != 0
  | 2 => rel == 1
  | 3 => rel == 1 || rel == 0
  | 4 => rel == 2
  | 5 => rel == 2 || rel == 0
  | 6 => rel == 3
  | _ => rel != 3

/-- DXCMP in a lane. -/
def Paradigm.dxcmp (p : Paradigm) (slot a b cond : Nat) : Except Trap Bool :=
  match p.walk slot a b with
  | .error t => .error t
  | .ok (_, st) =>
    let f := p.final st
    if f < 2 ^ 15 ∨ f / 2 ^ 14 % 2 = 0 then .error (digitTrap 1 slot st 0x7F 0)
    else .ok (relationHolds cond (f % 4))

/-- The reason that a nonzero b with an arity-1 slot gives (R254). -/
def arityReason (sh : Shape) (slot : Nat) (b : BitVec 7) : State → Workgroup → List (Nat × Nat) := fun s w =>
  match ((s.resident w.part w.ctx w.core).paradigms[slot]?).join with
  | some m => if (Paradigm.of m).arity = 1 ∧ b ≠ 0 then [(3, sh.len - 1)] else []
  | none => []

/-- The sources of a walk: b only for arity 2. -/
def walkReads (slot : Nat) (a b : BitVec 7) : CrossReads := fun e =>
  (e.ti, a.toNat, 1) :: (if (e.paradigm slot).arity = 2 then [(e.ti, b.toNat, 1)] else [])

/-- The b operand of a walk. -/
def walkB (p : Paradigm) (b : BitVec 7) (e : LaneEnv) : Nat := if p.arity = 2 then (e.reg b.toNat).toNat else 0

/-- DXT. -/
def execDxt (u : LRw) (s : State) : Out :=
  .next (runUnit (.dxt u) false (some (walkReads u.w.toNat u.a u.b)) (arityReason (shapeOf (.dxt u)) u.w.toNat u.b)
      (dxBody (shapeOf (.dxt u)) (fun e =>
        let p := e.paradigm u.w.toNat
        (p.dxt u.w.toNat (e.reg u.a.toNat).toNat (walkB p u.b e)).map (fun x => LaneOut.ofRegs (splitWords u.d.toNat 2 x)))) s)

/-- DXCMP. -/
def execDxcmp (u : LCmpW) (s : State) : Out :=
  .next (runUnit (.dxcmp u) false (some (walkReads u.w.toNat u.a u.b)) (arityReason (shapeOf (.dxcmp u)) u.w.toNat u.b)
      (dxBody (shapeOf (.dxcmp u)) (fun e =>
        let p := e.paradigm u.w.toNat
        (p.dxcmp u.w.toNat (e.reg u.a.toNat).toNat (walkB p u.b e) u.cond.toNat).map (fun x => LaneOut.ofMask u.k.toNat x))) s)

/-! ### Radix conversions (R257) -/

/-- F(k) and F(k + 1), with F(1) = F(2) = 1. -/
def fibPair : Nat → Nat × Nat
  | 0 => (0, 1)
  | n + 1 => ((fibPair n).2, (fibPair n).1 + (fibPair n).2)
def fib (k : Nat) : Nat := (fibPair k).1

/-- DXVAL of a number of `big` digits, exact. -/
def Paradigm.val (p : Paradigm) (slot x big : Nat) : Except Trap Int :=
  if p.rkind = 0 then .error (digitTrap 2 slot 0 0x7F 0)
  else
    (List.range big).foldl (fun (acc : Except Trap Int) i => match acc with
      | .error t => .error t
      | .ok n =>
        let c := p.digit x i
        if p.rkind = 2 then .ok (n + ((c * fib (i + 2) : Nat) : Int))
        else
          let v : Int := if p.bal then sext c p.wd else (c : Int)
          let out := if p.bal then decide (p.radix - 1 < 2 * (v.natAbs : Int)) else decide ((p.radix.natAbs : Int) - 1 < v)
          if out then .error (digitTrap 2 slot 0 i c) else .ok (n + v * p.radix ^ i)) (.ok 0)

/-- The digits of an integer in a radix, from place `i` on, and what is left of it. -/
def Paradigm.radixDigits (p : Paradigm) : (left i : Nat) → Int → List (Nat × Nat) → List (Nat × Nat) × Int
  | 0, _, x, ds => (ds, x)
  | n + 1, i, x, ds =>
    let h := (p.radix - 1) / 2
    let v := if p.bal then (x + h) % p.radix - h else x % (p.radix.natAbs : Int)
    Paradigm.radixDigits p n (i + 1) ((x - v) / p.radix) (ds ++ [(i, wrapN v p.wd)])

/-- The Zeckendorf digits of a number, from place `left` − 1 down. -/
def zeckendorf : (left : Nat) → Nat → List (Nat × Nat)
  | 0, _ => []
  | n + 1, x => if fib (n + 2) ≤ x then (n, 1) :: zeckendorf n (x - fib (n + 2)) else (n, 0) :: zeckendorf n x

/-- DXENC of an integer into `big` digits. -/
def Paradigm.enc (p : Paradigm) (slot big : Nat) (x : Int) : Except Trap Nat :=
  let bad : Except Trap Nat := .error (digitTrap 3 slot 0 0x7F 0)
  if p.rkind = 0 then bad
  else if p.rkind = 2 then
    if x < 0 ∨ (fib (big + 2) : Int) ≤ x then bad else .ok (p.place (zeckendorf big x.toNat))
  else
    let r := p.radixDigits big 0 x []
    if r.2 ≠ 0 then bad else .ok (p.place r.1)

/-- Words of an operand of DXVAL and DXENC. -/
def dxWords (t : BitVec 3) : Nat := if t = 1 then 2 else 1

/-- DXVAL. -/
def execDxval (u : LDx) (s : State) : Out :=
  .next (runUnit (.dxval u) false none noExtra (dxBody (shapeOf (.dxval u)) (fun e =>
      let p := e.paradigm u.slot.toNat
      let k := dxWords u.t
      (p.val u.slot.toNat (e.val u.a.toNat k) (p.n * k)).map (fun x =>
        LaneOut.ofRegs (splitWords u.d.toNat k (wrapN x (32 * k)))))) s)

/-- DXENC. -/
def execDxenc (u : LDx) (s : State) : Out :=
  .next (runUnit (.dxenc u) false none noExtra (dxBody (shapeOf (.dxenc u)) (fun e =>
      let p := e.paradigm u.slot.toNat
      let k := dxWords u.t
      (p.enc u.slot.toNat (p.n * k) (sext (e.val u.a.toNat k) (32 * k))).map (fun x =>
        LaneOut.ofRegs (splitWords u.d.toNat k x)))) s)

end Sys2Proof.Machine
end

