-- ==== Sys2Proof/Machine/Dispatch.lean ====
section
/-!
DEFINITION. The meaning of every row of the opcode table: one arm for each.
-/
namespace Sys2Proof.Machine
open Sys2Proof

/-- One instruction or event, acting for the issue set where it is a unit. -/
def exec (i : Instr) (s : State) : Host.Outcome State Fault Refusal :=
  match i with
  | .iaddI u => Sys2Proof.Machine.execIaddI u s
  | .iaddN u => Sys2Proof.Machine.execIaddN u s
  | .isubI u => Sys2Proof.Machine.execIsubI u s
  | .isubN u => Sys2Proof.Machine.execIsubN u s
  | .imulI u => Sys2Proof.Machine.execImulI u s
  | .imulN u => Sys2Proof.Machine.execImulN u s
  | .imulhI u => Sys2Proof.Machine.execImulhI u s
  | .imulhN u => Sys2Proof.Machine.execImulhN u s
  | .imulwI u => Sys2Proof.Machine.execImulwI u s
  | .imulwN u => Sys2Proof.Machine.execImulwN u s
  | .imadI u => Sys2Proof.Machine.execImadI u s
  | .imadN u => Sys2Proof.Machine.execImadN u s
  | .iminI u => Sys2Proof.Machine.execIminI u s
  | .iminN u => Sys2Proof.Machine.execIminN u s
  | .imaxI u => Sys2Proof.Machine.execImaxI u s
  | .imaxN u => Sys2Proof.Machine.execImaxN u s
  | .isadI u => Sys2Proof.Machine.execIsadI u s
  | .isadN u => Sys2Proof.Machine.execIsadN u s
  | .icmpI u => Sys2Proof.Machine.execIcmpI u s
  | .icmpN u => Sys2Proof.Machine.execIcmpN u s
  | .iaddI16x2 u => Sys2Proof.Machine.execIaddI16x2 u s
  | .iaddN16x2 u => Sys2Proof.Machine.execIaddN16x2 u s
  | .isubI16x2 u => Sys2Proof.Machine.execIsubI16x2 u s
  | .isubN16x2 u => Sys2Proof.Machine.execIsubN16x2 u s
  | .iminI16x2 u => Sys2Proof.Machine.execIminI16x2 u s
  | .iminN16x2 u => Sys2Proof.Machine.execIminN16x2 u s
  | .imaxI16x2 u => Sys2Proof.Machine.execImaxI16x2 u s
  | .imaxN16x2 u => Sys2Proof.Machine.execImaxN16x2 u s
  | .icmpI16x2 u => Sys2Proof.Machine.execIcmpI16x2 u s
  | .icmpN16x2 u => Sys2Proof.Machine.execIcmpN16x2 u s
  | .and u => Sys2Proof.Machine.execAnd u s
  | .or u => Sys2Proof.Machine.execOr u s
  | .xor u => Sys2Proof.Machine.execXor u s
  | .andn u => Sys2Proof.Machine.execAndn u s
  | .shl u => Sys2Proof.Machine.execShl u s
  | .shr u => Sys2Proof.Machine.execShr u s
  | .sar u => Sys2Proof.Machine.execSar u s
  | .rotl u => Sys2Proof.Machine.execRotl u s
  | .bfxI u => Sys2Proof.Machine.execBfxI u s
  | .bfxN u => Sys2Proof.Machine.execBfxN u s
  | .bfi u => Sys2Proof.Machine.execBfi u s
  | .sel u => Sys2Proof.Machine.execSel u s
  | .fadd u => Sys2Proof.Machine.execFadd u s
  | .fsub u => Sys2Proof.Machine.execFsub u s
  | .fmul u => Sys2Proof.Machine.execFmul u s
  | .ffma u => Sys2Proof.Machine.execFfma u s
  | .fmin u => Sys2Proof.Machine.execFmin u s
  | .fmax u => Sys2Proof.Machine.execFmax u s
  | .fdiv u => Sys2Proof.Machine.execFdiv u s
  | .fcmp u => Sys2Proof.Machine.execFcmp u s
  | .fscale u => Sys2Proof.Machine.execFscale u s
  | .faddBf16x2 u => Sys2Proof.Machine.execFaddBf16x2 u s
  | .fsubBf16x2 u => Sys2Proof.Machine.execFsubBf16x2 u s
  | .fmulBf16x2 u => Sys2Proof.Machine.execFmulBf16x2 u s
  | .ffmaBf16x2 u => Sys2Proof.Machine.execFfmaBf16x2 u s
  | .fminBf16x2 u => Sys2Proof.Machine.execFminBf16x2 u s
  | .fmaxBf16x2 u => Sys2Proof.Machine.execFmaxBf16x2 u s
  | .fcmpBf16x2 u => Sys2Proof.Machine.execFcmpBf16x2 u s
  | .faddFp16x2 u => Sys2Proof.Machine.execFaddFp16x2 u s
  | .fsubFp16x2 u => Sys2Proof.Machine.execFsubFp16x2 u s
  | .fmulFp16x2 u => Sys2Proof.Machine.execFmulFp16x2 u s
  | .ffmaFp16x2 u => Sys2Proof.Machine.execFfmaFp16x2 u s
  | .fminFp16x2 u => Sys2Proof.Machine.execFminFp16x2 u s
  | .fmaxFp16x2 u => Sys2Proof.Machine.execFmaxFp16x2 u s
  | .fcmpFp16x2 u => Sys2Proof.Machine.execFcmpFp16x2 u s
  | .iabs u => Sys2Proof.Machine.execIabs u s
  | .ineg u => Sys2Proof.Machine.execIneg u s
  | .clz u => Sys2Proof.Machine.execClz u s
  | .popc u => Sys2Proof.Machine.execPopc u s
  | .brev u => Sys2Proof.Machine.execBrev u s
  | .fclass u => Sys2Proof.Machine.execFclass u s
  | .frnd u => Sys2Proof.Machine.execFrnd u s
  | .fract u => Sys2Proof.Machine.execFract u s
  | .exp2 u => Sys2Proof.Machine.execExp2 u s
  | .log2 u => Sys2Proof.Machine.execLog2 u s
  | .rcp u => Sys2Proof.Machine.execRcp u s
  | .rsq u => Sys2Proof.Machine.execRsq u s
  | .sqrt u => Sys2Proof.Machine.execSqrt u s
  | .sin u => Sys2Proof.Machine.execSin u s
  | .cos u => Sys2Proof.Machine.execCos u s
  | .tanh u => Sys2Proof.Machine.execTanh u s
  | .cvtFloatSource u => Sys2Proof.Machine.execCvtFloatSource u s
  | .cvtIntegerSource u => Sys2Proof.Machine.execCvtIntegerSource u s
  | .cvts u => Sys2Proof.Machine.execCvts u s
  | .blkenc u => Sys2Proof.Machine.execBlkenc u s
  | .blkdec u => Sys2Proof.Machine.execBlkdec u s
  | .rand u => Sys2Proof.Machine.execRand u s
  | .tidx u => Sys2Proof.Machine.execTidx u s
  | .shfl u => Sys2Proof.Machine.execShfl u s
  | .shflUp u => Sys2Proof.Machine.execShflUp u s
  | .shflDn u => Sys2Proof.Machine.execShflDn u s
  | .shflXor u => Sys2Proof.Machine.execShflXor u s
  | .xperm u => Sys2Proof.Machine.execXperm u s
  | .vote u => Sys2Proof.Machine.execVote u s
  | .reduce u => Sys2Proof.Machine.execReduce u s
  | .scan u => Sys2Proof.Machine.execScan u s
  | .matchLanes u => Sys2Proof.Machine.execMatchLanes u s
  | .elect u => Sys2Proof.Machine.execElect u s
  | .rdlane u => Sys2Proof.Machine.execRdlane u s
  | .mov u => Sys2Proof.Machine.execMov u s
  | .kmov u => Sys2Proof.Machine.execKmov u s
  | .kpop u => Sys2Proof.Machine.execKpop u s
  | .iaddImm u => Sys2Proof.Machine.execIaddImm u s
  | .andImm u => Sys2Proof.Machine.execAndImm u s
  | .orImm u => Sys2Proof.Machine.execOrImm u s
  | .xorImm u => Sys2Proof.Machine.execXorImm u s
  | .shlImm u => Sys2Proof.Machine.execShlImm u s
  | .shrImm u => Sys2Proof.Machine.execShrImm u s
  | .sarImm u => Sys2Proof.Machine.execSarImm u s
  | .rotlImm u => Sys2Proof.Machine.execRotlImm u s
  | .icmpIImm u => Sys2Proof.Machine.execIcmpIImm u s
  | .icmpNImm u => Sys2Proof.Machine.execIcmpNImm u s
  | .movi u => Sys2Proof.Machine.execMovi u s
  | .jmpi u => Sys2Proof.Machine.execJmpi u s
  | .calli u => Sys2Proof.Machine.execCalli u s
  | .ldg u => Sys2Proof.Machine.execLdg u s
  | .stg u => Sys2Proof.Machine.execStg u s
  | .lds u => Sys2Proof.Machine.execLds u s
  | .sts u => Sys2Proof.Machine.execSts u s
  | .ldv u => Sys2Proof.Machine.execLdv u s
  | .stv u => Sys2Proof.Machine.execStv u s
  | .feset u => Sys2Proof.Machine.execFeset u s
  | .feclr u => Sys2Proof.Machine.execFeclr u s
  | .atom u => Sys2Proof.Machine.execAtom u s
  | .atoms u => Sys2Proof.Machine.execAtoms u s
  | .red u => Sys2Proof.Machine.execRed u s
  | .mma u => Sys2Proof.Machine.execMma u s
  | .mread u => Sys2Proof.Machine.execMread u s
  | .kvgather u => Sys2Proof.Machine.execKvgather u s
  | .rotq u => Sys2Proof.Machine.execRotq u s
  | .accept u => Sys2Proof.Machine.execAccept u s
  | .dxt u => Sys2Proof.Machine.execDxt u s
  | .dxcmp u => Sys2Proof.Machine.execDxcmp u s
  | .dxval u => Sys2Proof.Machine.execDxval u s
  | .dxenc u => Sys2Proof.Machine.execDxenc u s
  | .uadd u => Sys2Proof.Machine.execUadd u s
  | .usub u => Sys2Proof.Machine.execUsub u s
  | .umul u => Sys2Proof.Machine.execUmul u s
  | .umulhI u => Sys2Proof.Machine.execUmulhI u s
  | .umulhN u => Sys2Proof.Machine.execUmulhN u s
  | .uand u => Sys2Proof.Machine.execUand u s
  | .uor u => Sys2Proof.Machine.execUor u s
  | .uxor u => Sys2Proof.Machine.execUxor u s
  | .ushl u => Sys2Proof.Machine.execUshl u s
  | .ushr u => Sys2Proof.Machine.execUshr u s
  | .usar u => Sys2Proof.Machine.execUsar u s
  | .uminI u => Sys2Proof.Machine.execUminI u s
  | .uminN u => Sys2Proof.Machine.execUminN u s
  | .umaxI u => Sys2Proof.Machine.execUmaxI u s
  | .umaxN u => Sys2Proof.Machine.execUmaxN u s
  | .umov u => Sys2Proof.Machine.execUmov u s
  | .usel u => Sys2Proof.Machine.execUsel u s
  | .ucmpI u => Sys2Proof.Machine.execUcmpI u s
  | .ucmpN u => Sys2Proof.Machine.execUcmpN u s
  | .uaddImm u => Sys2Proof.Machine.execUaddImm u s
  | .uandImm u => Sys2Proof.Machine.execUandImm u s
  | .uorImm u => Sys2Proof.Machine.execUorImm u s
  | .uxorImm u => Sys2Proof.Machine.execUxorImm u s
  | .ushlImm u => Sys2Proof.Machine.execUshlImm u s
  | .ushrImm u => Sys2Proof.Machine.execUshrImm u s
  | .usarImm u => Sys2Proof.Machine.execUsarImm u s
  | .umovi u => Sys2Proof.Machine.execUmovi u s
  | .uldc u => Sys2Proof.Machine.execUldc u s
  | .rdsys u => Sys2Proof.Machine.execRdsys u s
  | .wrsys u => Sys2Proof.Machine.execWrsys u s
  | .tshape u => Sys2Proof.Machine.execTshape u s
  | .xpld u => Sys2Proof.Machine.execXpld u s
  | .bra u => Sys2Proof.Machine.execBra u s
  | .bru u => Sys2Proof.Machine.execBru u s
  | .brt u => Sys2Proof.Machine.execBrt u s
  | .call u => Sys2Proof.Machine.execCall u s
  | .callq u => Sys2Proof.Machine.execCallq u s
  | .ret u => Sys2Proof.Machine.execRet u s
  | .exit u => Sys2Proof.Machine.execExit u s
  | .nop u => Sys2Proof.Machine.execNop u s
  | .trap u => Sys2Proof.Machine.execTrap u s
  | .trapret u => Sys2Proof.Machine.execTrapret u s
  | .bkpt u => Sys2Proof.Machine.execBkpt u s
  | .yield u => Sys2Proof.Machine.execYield u s
  | .sleepto u => Sys2Proof.Machine.execSleepto u s
  | .rdtime u => Sys2Proof.Machine.execRdtime u s
  | .qload u => Sys2Proof.Machine.execQload u s
  | .qpin u => Sys2Proof.Machine.execQpin u s
  | .qunpin u => Sys2Proof.Machine.execQunpin u s
  | .qstat u => Sys2Proof.Machine.execQstat u s
  | .launch u => Sys2Proof.Machine.execLaunch u s
  | .fetchw u => Sys2Proof.Machine.execFetchw u s
  | .hash u => Sys2Proof.Machine.execHash u s
  | .sign u => Sys2Proof.Machine.execSign u s
  | .mext u => Sys2Proof.Machine.execMext u s
  | .mrd u => Sys2Proof.Machine.execMrd u s
  | .fence u => Sys2Proof.Machine.execFence u s
  | .tierpf u => Sys2Proof.Machine.execTierpf u s
  | .barinit u => Sys2Proof.Machine.execBarinit u s
  | .arrive u => Sys2Proof.Machine.execArrive u s
  | .waitph u => Sys2Proof.Machine.execWaitph u s
  | .testph u => Sys2Proof.Machine.execTestph u s
  | .cminit u => Sys2Proof.Machine.execCminit u s
  | .cmwait u => Sys2Proof.Machine.execCmwait u s
  | .cmtest u => Sys2Proof.Machine.execCmtest u s
  | .strm u => Sys2Proof.Machine.execStrm u s
  | .strmq u => Sys2Proof.Machine.execStrmq u s
  | .mzero u => Sys2Proof.Machine.execMzero u s
  | .mlatb u => Sys2Proof.Machine.execMlatb u s
  | .mstore u => Sys2Proof.Machine.execMstore u s
  | .mstat u => Sys2Proof.Machine.execMstat u s
  | .gseal u => Sys2Proof.Machine.execGseal u s
  | .impose u => Sys2Proof.Machine.execImpose u s
  | .distrib u => Sys2Proof.Machine.execDistrib u s
  | .distribCompact u => Sys2Proof.Machine.execDistribCompact u s
  | .proofw u => Sys2Proof.Machine.execProofw u s
  | .proofpub u => Sys2Proof.Machine.execProofpub u s
  | .prstat u => Sys2Proof.Machine.execPrstat u s
  | .kvappend u => Sys2Proof.Machine.execKvappend u s
  | .specapp u => Sys2Proof.Machine.execSpecapp u s
  | .commit u => Sys2Proof.Machine.execCommit u s
  | .pdload u => Sys2Proof.Machine.execPdload u s
  | .pdinfo u => Sys2Proof.Machine.execPdinfo u s
  | .resultReturn u => Sys2Proof.Machine.execResultReturn u s
  | .sleepWake u => Sys2Proof.Machine.execSleepWake u s
  | .quireLoadComplete u => Sys2Proof.Machine.execQuireLoadComplete u s
  | .pageWalk u => Sys2Proof.Machine.execPageWalk u s
  | .streamerJobCheck u => Sys2Proof.Machine.execStreamerJobCheck u s
  | .chunkWrite u => Sys2Proof.Machine.execChunkWrite u s
  | .tierpfArrival u => Sys2Proof.Machine.execTierpfArrival u s
  | .mlatbLatch u => Sys2Proof.Machine.execMlatbLatch u s
  | .mmaPass u => Sys2Proof.Machine.execMmaPass u s
  | .mstoreWrite u => Sys2Proof.Machine.execMstoreWrite u s
  | .gsealPerform u => Sys2Proof.Machine.execGsealPerform u s
  | .imposePerform u => Sys2Proof.Machine.execImposePerform u s
  | .distribPerform u => Sys2Proof.Machine.execDistribPerform u s
  | .proofpubPerform u => Sys2Proof.Machine.execProofpubPerform u s
  | .kvgatherSnapshot u => Sys2Proof.Machine.execKvgatherSnapshot u s
  | .kvappendPerform u => Sys2Proof.Machine.execKvappendPerform u s
  | .specappPerform u => Sys2Proof.Machine.execSpecappPerform u s
  | .commitPerform u => Sys2Proof.Machine.execCommitPerform u s
  | .launchArrive u => Sys2Proof.Machine.execLaunchArrive u s
  | .recordRead u => Sys2Proof.Machine.execRecordRead u s
  | .placement u => Sys2Proof.Machine.execPlacement u s
  | .workgroupStart u => Sys2Proof.Machine.execWorkgroupStart u s
  | .launchComplete u => Sys2Proof.Machine.execLaunchComplete u s
  | .fetchwDeliver u => Sys2Proof.Machine.execFetchwDeliver u s
  | .preempt u => Sys2Proof.Machine.execPreempt u s
  | .contextSwitch u => Sys2Proof.Machine.execContextSwitch u s
  | .contextSave u => Sys2Proof.Machine.execContextSave u s
  | .contextRestore u => Sys2Proof.Machine.execContextRestore u s
  | .epochEnd u => Sys2Proof.Machine.execEpochEnd u s
  | .clockChange u => Sys2Proof.Machine.execClockChange u s
  | .timeStep u => Sys2Proof.Machine.execTimeStep u s
  | .ppsInput u => Sys2Proof.Machine.execPpsInput u s
  | .ppsOutput u => Sys2Proof.Machine.execPpsOutput u s
  | .powerOn u => Sys2Proof.Machine.execPowerOn u s
  | .partitionSetup u => Sys2Proof.Machine.execPartitionSetup u s
  | .partitionTeardown u => Sys2Proof.Machine.execPartitionTeardown u s
  | .create u => Sys2Proof.Machine.execCreate u s
  | .teardown u => Sys2Proof.Machine.execTeardown u s
  | .contextClosed u => Sys2Proof.Machine.execContextClosed u s
  | .qtailWrite u => Sys2Proof.Machine.execQtailWrite u s
  | .queueDescriptorWrite u => Sys2Proof.Machine.execQueueDescriptorWrite u s
  | .fqheadWrite u => Sys2Proof.Machine.execFqheadWrite u s
  | .fresumeRetry u => Sys2Proof.Machine.execFresumeRetry u s
  | .fresumeAbort u => Sys2Proof.Machine.execFresumeAbort u s
  | .invalidateRange u => Sys2Proof.Machine.execInvalidateRange u s
  | .invalidateAll u => Sys2Proof.Machine.execInvalidateAll u s
  | .invalidateDone u => Sys2Proof.Machine.execInvalidateDone u s
  | .halt u => Sys2Proof.Machine.execHalt u s
  | .resume u => Sys2Proof.Machine.execResume u s
  | .step u => Sys2Proof.Machine.execStep u s
  | .breakpointMatch u => Sys2Proof.Machine.execBreakpointMatch u s
  | .debugStopped u => Sys2Proof.Machine.execDebugStopped u s
  | .drdataRead u => Sys2Proof.Machine.execDrdataRead u s
  | .drdataWrite u => Sys2Proof.Machine.execDrdataWrite u s
  | .steptoWrite u => Sys2Proof.Machine.execSteptoWrite u s
  | .install u => Sys2Proof.Machine.execInstall u s
  | .imageVerified u => Sys2Proof.Machine.execImageVerified u s
  | .enter u => Sys2Proof.Machine.execEnter u s
  | .libsizeWrite u => Sys2Proof.Machine.execLibsizeWrite u s
  | .pfApertureAccess u => Sys2Proof.Machine.execPfApertureAccess u s
  | .vfApertureAccess u => Sys2Proof.Machine.execVfApertureAccess u s
  | .registerWrite u => Sys2Proof.Machine.execRegisterWrite u s
  | .getVersion u => Sys2Proof.Machine.execGetVersion u s
  | .getCapabilities u => Sys2Proof.Machine.execGetCapabilities u s
  | .negotiateAlgorithms u => Sys2Proof.Machine.execNegotiateAlgorithms u s
  | .getDigests u => Sys2Proof.Machine.execGetDigests u s
  | .getCertificate u => Sys2Proof.Machine.execGetCertificate u s
  | .challenge u => Sys2Proof.Machine.execChallenge u s
  | .getMeasurements u => Sys2Proof.Machine.execGetMeasurements u s
  | .spdmOtherRequest u => Sys2Proof.Machine.execSpdmOtherRequest u s
  | .doeAbort u => Sys2Proof.Machine.execDoeAbort u s
  | .linkDown u => Sys2Proof.Machine.execLinkDown u s
  | .linkUp u => Sys2Proof.Machine.execLinkUp u s
  | .peerAccess u => Sys2Proof.Machine.execPeerAccess u s
  | .copyComplete u => Sys2Proof.Machine.execCopyComplete u s
  | .ieee1588Message u => Sys2Proof.Machine.execIeee1588Message u s
  | .launchCancel u => Sys2Proof.Machine.execLaunchCancel u s

end Sys2Proof.Machine
end

