-- ==== Sys2Proof/Machine/Schedule.lean ====
section
/-!
DEFINITION. What the module may do next (R266, R268 to R271, R349, R351, R353, R378): the issue sets that the slots offer,
the events of its own that are due, the fetch of a unit, and how each is carried out.
-/
namespace Sys2Proof.Machine
open Sys2Proof

/-! ### Issue sets (R268 to R270) -/

/-- Whether a core offers units of a workgroup (R266, R349, R351, R353). -/
def State.offers (s : State) (w : Workgroup) : Bool :=
  let r := s.resident w.part w.ctx w.core
  w.started && ! w.retired && (s.context w.part w.ctx).state == .live && r.loc == .active && ! r.quiescing && r.reload.isEmpty

/-- The words at a PC of a workgroup's context: none unless the quire is RESIDENT there. -/
def State.fetch (s : State) (w : Workgroup) (pc : Word) : Option (List Word) :=
  let x := (s.resident w.part w.ctx w.core).quire (pcQuire pc)
  if x.state = .resident then some (x.words (pcOffset pc)) else none

/-- Whether the unit at a PC belongs to the lane slot: its first word is of the L-set (R72). What is no unit is offered in
the uniform slot. -/
def State.laneSlot (s : State) (w : Workgroup) (pc : Word) : Bool :=
  match s.fetch w pc with
  | some (x :: _) => ! wordG x
  | _ => false

/-- The instruction at a PC of a workgroup's context. -/
def State.unitAt (s : State) (w : Workgroup) (pc : Word) : Option Instr := (s.fetch w pc).bind decode

/-- The unit of a list of words carried out by the issue set. -/
def runWords (ws : List Word) (s : State) : Out :=
  match decode ws with
  | some i => exec i s
  | none => .next (illegalUnit ws unitFault s)

/-! ### Waits in the issue stage (R158, R252, R266, R303, R360) -/

/-- The copy that an instruction starts: 0 a shape entry, 1 a pattern table, 2 a paradigm slot, and which. -/
def copyOf (i : Instr) : Option (Nat × Nat) :=
  match i with
  | .tshape u => some (0, u.entry.toNat)
  | .xpld u => some (1, u.table.toNat)
  | .pdload u => some (2, u.slot.toNat)
  | _ => none

/-- The copies that an instruction waits on: their kind, and which of them, or any. -/
def waitsOn (i : Instr) : Option (Nat × Option Nat) :=
  match i with
  | .tidx u => some (0, some u.fn.toNat)
  | .strm _ => some (0, none)
  | .strmq _ => some (0, none)
  | .xperm u => some (1, some u.fn.toNat)
  | .dxt u => some (2, some u.w.toNat)
  | .dxcmp u => some (2, some u.w.toNat)
  | .dxval u => some (2, some u.slot.toNat)
  | .dxenc u => some (2, some u.slot.toNat)
  | .pdinfo u => some (2, some u.slot.toNat)
  | _ => none

/-- Whether a copy is one of those waited on. -/
def awaitedCopy (k : Nat × Option Nat) (c : Nat × Nat) : Bool := k.1 == c.1 && (k.2.getD c.2) == c.2

/-- Whether an instruction of a group waits for a copy: of its own group, or for a paradigm slot of its context on the core;
one in flight, or one whose read has met a translation fault and is still to be made again (R158, R252, R303). -/
def State.copyHeld (s : State) (w : Workgroup) (gi : Nat) (k : Nat × Option Nat) : Bool :=
  let near (p c core wid g : Nat) : Bool := p == w.part && c == w.ctx && core == w.core && (k.1 == 2 || (wid == w.wid && g == gi))
  s.jobs.any (fun j => match j.kind with
    | .copy a b _ => awaitedCopy k (a, b) && near j.part j.ctx j.core j.wid j.gi
    | _ => false)
  || s.wgs.any (fun v => v.groups.zipIdx.any (fun g => near v.part v.ctx v.core v.wid g.2 && g.1.threads.any (fun t => t.run != .exited && t.redo == some t.pc
    && (match (s.unitAt v t.pc).bind copyOf with | some c => awaitedCopy k c | none => false))))

/-- Whether the unit of some threads misses the TLBs of its die: it fills one, or raises a translation fault (R360). -/
def State.walks (s : State) (i : IssueSet) (core : Nat) (ws : List Word) : Bool :=
  match runWords ws { s with issue := i } with
  | .next t =>
    (t.tlb.filter (·.place == 256 + dieOf core)) != (s.tlb.filter (·.place == 256 + dieOf core)) || t.missBuffer.length != s.missBuffer.length
      || i.members.any (fun m => m.2.any (fun ti => match t.thread? i.wid m.1 ti with
        | some x => (match x.run with | .parked (.fault _) _ => true | _ => false)
        | none => false))
  | _ => false

/-- Whether the issue stage holds a group's threads at a PC: a copy that their unit waits on, or a miss that finds the die's
miss buffer full (R158, R252, R303, R360). -/
def State.held (s : State) (w : Workgroup) (gi : Nat) (tis : List Nat) (pc : Word) : Bool :=
  (match (s.unitAt w pc).bind waitsOn with | some k => s.copyHeld w gi k | none => false)
    || (s.missFull (dieOf w.core) && (match s.fetch w pc with
      | some ws => s.walks { wid := w.wid, members := [(gi, tis)], pc := pc } w.core ws
      | none => false))

/-- The threads of a group that would be offered for a slot but for waits in the issue stage: index, age and PC. -/
def State.waitingThreads (s : State) (w : Workgroup) (g : Group) (lane : Bool) : List (Nat × Nat × Word) :=
  g.threads.zipIdx.filterMap (fun t =>
    if t.1.run = .ready ∧ t.1.stopped = false ∧ s.laneSlot w t.1.pc = lane then some (t.2, t.1.age, t.1.pc) else none)

/-- The eligible threads of a group for a slot (R268): index, age and PC. -/
def State.eligible (s : State) (w : Workgroup) (gi : Nat) (g : Group) (lane : Bool) : List (Nat × Nat × Word) :=
  let es := s.waitingThreads w g lane
  let stuck := ((es.map (·.2.2)).eraseDups).filter (fun pc => s.held w gi ((es.filter (fun e => e.2.2 == pc)).map (·.1)) pc)
  es.filter (fun e => ! stuck.contains e.2.2)

/-- Eligible threads without those whose whole set has issued a YIELD in the cycle before (R163). -/
def Group.passing (g : Group) (es : List (Nat × Nat × Word)) : List (Nat × Nat × Word) :=
  let yields (e : Nat × Nat × Word) : Bool := match g.threads[e.1]? with | some t => t.yielded | none => false
  es.filter (fun e => es.any (fun x => x.2.2 == e.2.2 && ! yields x))

/-- The PC that a group proposes (R269): the lowest, or that of its oldest thread once an age is 16 or more.
Log entry 35. -/
def proposedPc (es : List (Nat × Nat × Word)) : Option Word :=
  let lowest (l : List (Nat × Nat × Word)) : Option Word := l.foldl (fun o e => match o with
    | none => some e.2.2
    | some p => if e.2.2.toNat < p.toNat then some e.2.2 else some p) none
  let oldest := es.foldl (fun m e => max m e.2.1) 0
  if 16 ≤ oldest then lowest (es.filter (fun e => e.2.1 == oldest)) else lowest es

/-- What one group proposes for a slot: group, threads, PC, and the age of its oldest thread in the set. -/
structure Proposal where
  wid : Nat
  slot : Nat
  lanebase : Nat
  gi : Nat
  tis : List Nat
  pc : Word
  age : Nat
  deriving DecidableEq, Repr

/-- The proposals of one slot of a core, with the threads that `take` leaves of each group's. -/
def State.proposals (s : State) (core : Nat) (lane : Bool) (take : Group → List (Nat × Nat × Word) → List (Nat × Nat × Word)) : List Proposal :=
  (s.wgs.filter (fun w => w.core == core && s.offers w)).flatMap (fun w =>
    w.groups.zipIdx.filterMap (fun g =>
      let es := take g.1 (s.eligible w g.2 g.1 lane)
      (proposedPc es).map (fun pc =>
        let mine := es.filter (fun e => e.2.2 == pc)
        { wid := w.wid, slot := w.slot, lanebase := g.1.lanebase, gi := g.2, tis := mine.map (·.1), pc := pc,
          age := mine.foldl (fun m e => max m e.2.1) 0 })))

/-- Whether one proposal is chosen before another: the older thread, then the lower slot, then the lower lane base. -/
def Proposal.before (a b : Proposal) : Bool :=
  decide (b.age < a.age ∨ (a.age = b.age ∧ (a.slot < b.slot ∨ (a.slot = b.slot ∧ a.lanebase < b.lanebase))))

/-- The issue set that a list of proposals leads to (R270), its groups in ascending sys.gindex (R365). -/
def setOf (ps : List Proposal) : Option IssueSet :=
  (ps.foldl (fun o p => match o with
    | none => some p
    | some b => if p.before b then some p else some b) none).map (fun b =>
      { wid := b.wid, pc := b.pc
        members := (sortBy (fun x y => decide (x.gi ≤ y.gi)) (ps.filter (fun p => p.wid == b.wid && p.pc == b.pc))).map
          (fun p => (p.gi, p.tis)) })

/-- A set before a breakpoint that only some of its threads may pass: those issue first (R378). -/
def State.narrow (s : State) (i : IssueSet) : IssueSet :=
  let passes (gi ti : Nat) : Bool := match s.thread? i.wid gi ti with | some t => t.pass == some i.pc | none => false
  let ms := (i.members.map (fun m => (m.1, m.2.filter (passes m.1)))).filter (fun m => ! m.2.isEmpty)
  match s.wg? i.wid with
  | none => i
  | some w => if ((s.context w.part w.ctx).breakpoint i.pc).isSome && ! ms.isEmpty then { i with members := ms } else i

/-- The issue set of one slot of a core (R163, R270). -/
def State.slotSet (s : State) (core : Nat) (lane : Bool) : Option IssueSet :=
  (match setOf (s.proposals core lane Group.passing) with
    | some i => some i
    | none => setOf (s.proposals core lane (fun _ es => es))).map s.narrow

/-- The cores on which workgroups stand. -/
def State.workCores (s : State) : List Nat := (s.wgs.map (·.core)).eraseDups

/-- Every issue set that some slot offers. Log entry 4. -/
def State.issueSets (s : State) : List IssueSet :=
  s.workCores.flatMap (fun k => (s.slotSet k true).toList ++ (s.slotSet k false).toList)

/-! ### Issuing a unit -/

/-- The other eligible threads of the slot grow older by the cycle in which they do not issue (R268). Log entry 21. -/
def State.ageOthers (s : State) (i : IssueSet) : State :=
  match s.wg? i.wid with
  | none => s
  | some v =>
    let lane := s.laneSlot v i.pc
    let issues (wid gi ti : Nat) : Bool := wid == i.wid && i.members.any (fun m => m.1 == gi && m.2.contains ti)
    { s with wgs := s.wgs.map (fun (w : Workgroup) =>
        if w.core = v.core ∧ s.offers w = true then
          { w with groups := w.groups.zipIdx.map (fun (g : Group × Nat) =>
              let es := (s.eligible w g.2 g.1 lane).map (·.1)
              { g.1 with threads := g.1.threads.zipIdx.map (fun (t : Thread × Nat) =>
                  if es.contains t.2 = true ∧ issues w.wid g.2 t.2 = false then { t.1 with age := t.1.age + 1 } else t.1) }) }
        else w) }

/-- The cycle after a YIELD of a core is over (R163). -/
def State.endYields (s : State) (wid : Nat) : State :=
  match s.wg? wid with
  | none => s
  | some v => { s with wgs := s.wgs.map (fun (w : Workgroup) => if w.core = v.core then w.mapThreads (fun t => { t with yielded := false }) else w) }

/-- The state in which a set's unit acts. Log entries 4 and 21. -/
def State.beginUnit (s : State) (i : IssueSet) : State := { (s.ageOthers i).endYields i.wid with issue := i }

/-- What follows a unit: the end of a STEP, when it was the unit that one let issue. -/
def settleUnit (steps : Bool) (i : IssueSet) (o : Out) : Out :=
  match o with
  | .next t => .next (if steps then t.settleStep i else t)
  | .fault r => .fault r
  | .refused r => .refused r

/-- An issue set's turn (R270, R351, R378): a breakpoint that it matches, a quire that is not there, or its unit.
Log entry 4. -/
def State.issueUnit (s : State) (i : IssueSet) : Out :=
  let s1 := s.beginUnit i
  if (s.matched i).isSome then execBreakpointMatch {} s1
  else
    match (s.wg? i.wid).bind (fun w => s.fetch w i.pc) with
    | none => settleUnit (s.stepsNow i) i (.next (strandUnit s1))
    | some ws => settleUnit (s.stepsNow i) i (runWords ws s1)

/-! ### Two units of one cycle (R169, R213, R411) -/

/-- A value that the second unit has changed is its own; else it is what the first one left. -/
def merged {α : Type} [DecidableEq α] (old a b : α) : α := if b = old then a else b
/-- Registers by number, each merged. -/
def mergedMap (old a b : SMap Word) : SMap Word :=
  (b.map (·.1) ++ old.map (·.1)).foldl (fun m n =>
    if SMap.get b n 0 = SMap.get old n 0 then m else SMap.set m n (SMap.get b n 0) 0) a
/-- Entries of a list: what both leave, and what either adds. -/
def mergedList {α : Type} [DecidableEq α] (old a b : List α) : List α :=
  a.filter (fun x => ! old.contains x || b.contains x) ++ b.filter (fun x => ! old.contains x && ! a.contains x)

/-- What two units of a cycle leave of a thread, of a group and of the workgroups, the second having found them as they stood
before the cycle (R411). -/
def Thread.mergedWith (b old a : Thread) : Thread :=
  { v := mergedMap old.v a.v b.v, k := merged old.k a.k b.k, pc := merged old.pc a.pc b.pc, stack := merged old.stack a.stack b.stack
    depth := merged old.depth a.depth b.depth, run := merged old.run a.run b.run, stopped := merged old.stopped a.stopped b.stopped
    offered := merged old.offered a.offered b.offered, pass := merged old.pass a.pass b.pass, redo := merged old.redo a.redo b.redo
    unwaited := mergedList old.unwaited a.unwaited b.unwaited, pending := mergedList old.pending a.pending b.pending
    marks := mergedList old.marks a.marks b.marks, stream := merged old.stream a.stream b.stream
    handler := merged old.handler a.handler b.handler, resume := merged old.resume a.resume b.resume, age := merged old.age a.age b.age
    yielded := merged old.yielded a.yielded b.yielded, view := a.view.join b.view, own := mergedList old.own a.own b.own
    rels := joinAll a.rels b.rels, acq := merged old.acq a.acq b.acq, loads := mergedList old.loads a.loads b.loads }
def Group.mergedWith (b old a : Group) : Group :=
  { b with
    g := mergedMap old.g a.g b.g, gPending := mergedList old.gPending a.gPending b.gPending
    gMarks := mergedList old.gMarks a.gMarks b.gMarks, gOld := mergedList old.gOld a.gOld b.gOld
    trapvec := merged old.trapvec a.trapvec b.trapvec, trapcause := merged old.trapcause a.trapcause b.trapcause
    trappc := merged old.trappc a.trappc b.trappc, traplane := merged old.traplane a.traplane b.traplane
    trapaddr := merged old.trapaddr a.trapaddr b.trapaddr, trapinfo := merged old.trapinfo a.trapinfo b.trapinfo
    spill := merged old.spill a.spill b.spill, seed := merged old.seed a.seed b.seed
    shapes := merged old.shapes a.shapes b.shapes
    threads := b.threads.zipIdx.map (fun t => match old.threads[t.2]?, a.threads[t.2]? with
      | some o, some x => t.1.mergedWith o x
      | _, _ => t.1) }
/-- The groups of every workgroup as they stood before the cycle. -/
def State.readAs (s old : State) : State :=
  { s with wgs := s.wgs.map (fun (w : Workgroup) => match old.wg? w.wid with | some o => { w with groups := o.groups } | none => w) }
def State.mergedWith (b old a : State) : State :=
  { b with wgs := b.wgs.map (fun (w : Workgroup) => match old.wg? w.wid, a.wg? w.wid with
      | some o, some x => { w with groups := w.groups.zipIdx.map (fun g => match o.groups[g.2]?, x.groups[g.2]? with
          | some h, some y => g.1.mergedWith h y
          | _, _ => g.1) }
      | _, _ => w) }

/-- The lane slot's unit and the uniform slot's unit issued in one cycle (R411): both find threads and groups as they stood before
it; the lane slot's acts first on what they share; their traps and loads come at the cycle's end. Log entry 4. -/
def State.issuePair (s : State) (l u : IssueSet) (wl wu : List Word) : Out :=
  let s0 : State := { ((s.ageOthers l).ageOthers u).endYields l.wid with holdEnds := true, ends := [] }
  match runWords wl { s0 with issue := l } with
  | .next a =>
    (match runWords wu { a.readAs s0 with issue := u } with
      | .next b => .next ({ b.mergedWith s0 a with holdEnds := false, ends := [] }.settleEnds b.ends)
      | o => o)
  | o => o

/-- Whether a set's unit may share its cycle: no breakpoint stops it, and no STEP lets it issue alone (R378, R380). -/
def State.sharesCycle (s : State) (i : IssueSet) : Bool := (s.matched i).isNone && ! s.stepsNow i

/-- The words of a set's unit. -/
def State.wordsFor (s : State) (i : IssueSet) : Option (List Word) := (s.wg? i.wid).bind (fun w => s.fetch w i.pc)

/-! ### Events of the module's own -/

/-- What the module may do next. -/
inductive Action where
  | unit (i : IssueSet)
  | pair (l u : IssueSet) (wl wu : List Word)
  | resultReturn (u : EvResult)
  | sleepWake (u : EvThread)
  | quireLoadComplete (u : EvQuire)
  | streamerJobCheck (u : EvJob)
  | chunkWrite (u : EvChunk)
  | tierpfArrival (u : EvJob)
  | mlatbLatch (u : EvJob)
  | mmaPass (u : EvJob)
  | mstoreWrite (u : EvJob)
  | gsealPerform (u : EvJob)
  | imposePerform (u : EvJob)
  | distribPerform (u : EvJob)
  | proofpubPerform (u : EvJob)
  | kvgatherSnapshot (u : EvJob)
  | kvappendPerform (u : EvJob)
  | specappPerform (u : EvJob)
  | commitPerform (u : EvJob)
  | launchArrive (u : EvJob)
  | fetchwDeliver (u : EvJob)
  | copyComplete (u : EvJob)
  | recordRead (u : EvQueue)
  | placement (u : EvPlace)
  | workgroupStart (u : EvWg)
  | launchComplete (u : EvLaunch)
  | preempt (u : EvCore)
  | contextSwitch (u : EvCore)
  | contextSave (u : EvCore)
  | contextRestore (u : EvRestore)
  | contextClosed (u : EvCtx)
  | invalidateDone (u : EvCtx)
  | debugStopped (u : EvCtx)
  | epochEnd (u : EvNat)
  | ppsOutput (u : EvNone)
  | powerOn (u : EvNone)
  | imageVerified (u : EvNone)
  deriving DecidableEq, Repr

/-- An action carried out. -/
def Action.run (a : Action) (s : State) : Out :=
  match a with
  | .unit i => s.issueUnit i
  | .pair l u wl wu => s.issuePair l u wl wu
  | .resultReturn u => execResultReturn u s
  | .sleepWake u => execSleepWake u s
  | .quireLoadComplete u => execQuireLoadComplete u s
  | .streamerJobCheck u => execStreamerJobCheck u s
  | .chunkWrite u => execChunkWrite u s
  | .tierpfArrival u => execTierpfArrival u s
  | .mlatbLatch u => execMlatbLatch u s
  | .mmaPass u => execMmaPass u s
  | .mstoreWrite u => execMstoreWrite u s
  | .gsealPerform u => execGsealPerform u s
  | .imposePerform u => execImposePerform u s
  | .distribPerform u => execDistribPerform u s
  | .proofpubPerform u => execProofpubPerform u s
  | .kvgatherSnapshot u => execKvgatherSnapshot u s
  | .kvappendPerform u => execKvappendPerform u s
  | .specappPerform u => execSpecappPerform u s
  | .commitPerform u => execCommitPerform u s
  | .launchArrive u => execLaunchArrive u s
  | .fetchwDeliver u => execFetchwDeliver u s
  | .copyComplete u => execCopyComplete u s
  | .recordRead u => execRecordRead u s
  | .placement u => execPlacement u s
  | .workgroupStart u => execWorkgroupStart u s
  | .launchComplete u => execLaunchComplete u s
  | .preempt u => execPreempt u s
  | .contextSwitch u => execContextSwitch u s
  | .contextSave u => execContextSave u s
  | .contextRestore u => execContextRestore u s
  | .contextClosed u => execContextClosed u s
  | .invalidateDone u => execInvalidateDone u s
  | .debugStopped u => execDebugStopped u s
  | .epochEnd u => execEpochEnd u s
  | .ppsOutput u => execPpsOutput u s
  | .powerOn u => execPowerOn u s
  | .imageVerified u => execImageVerified u s

/-- The two sets that a core's slots may issue in one cycle (R411). -/
def State.pairOn (s : State) (core : Nat) : List Action :=
  match s.slotSet core true, s.slotSet core false with
  | some l, some u =>
    if s.sharesCycle l && s.sharesCycle u then
      (match s.wordsFor l, s.wordsFor u with
        | some wl, some wu => [.pair l u wl wu]
        | _, _ => [])
    else []
  | _, _ => []

/-- Results that may return now. -/
def State.resultActions (s : State) : List Action :=
  (s.wgs.flatMap (fun w => w.groups.zipIdx.flatMap (fun g =>
    g.1.threads.zipIdx.flatMap (fun t => (List.range t.1.pending.length).map (fun i => (⟨w.wid, g.2, t.2, i⟩ : EvResult)))
      ++ (List.range g.1.gPending.length).map (fun i => (⟨w.wid, g.2, g.1.width, i⟩ : EvResult))))).filterMap (fun u =>
    if s.returnable u then some (.resultReturn u) else none)

/-- Sleeps whose deadline has come. -/
def State.sleepActions (s : State) : List Action :=
  s.wgs.flatMap (fun w => w.groups.zipIdx.flatMap (fun g => g.1.threads.zipIdx.filterMap (fun t => match t.1.run with
    | .parked (.sleep dl _) _ => if dl ≤ s.time.toNat then some (.sleepWake ⟨w.wid, g.2, t.2⟩) else none
    | _ => none)))

/-- The event of a forme-unit operation. -/
def formeAction (major : Nat) (u : EvJob) : Action :=
  match major with
  | 0x48 => .gsealPerform u
  | 0x49 => .imposePerform u
  | 0x4A => .distribPerform u
  | 0x4C => .proofpubPerform u
  | 0x4E => .kvappendPerform u
  | 0x4F => .specappPerform u
  | _ => .commitPerform u

/-- What one piece of asynchronous work may do now. -/
def State.jobActions (s : State) (j : Job) : List Action :=
  let u : EvJob := { job := j.id }
  let ready (a : Action) : List Action := if s.jobReady j none then [a] else []
  match j.kind with
  | .stream _ _ none _ => [.streamerJobCheck u]
  | .stream cmd _ (some _) done =>
    ((List.range (smChunks cmd)).filter (fun i => ! done.contains i && s.jobReady j (some i))).map (fun i => .chunkWrite ⟨j.id, i⟩)
  | .tierpf _ _ _ => ready (.tierpfArrival u)
  | .mlatb _ _ _ _ => ready (.mlatbLatch u)
  | .mma _ _ _ _ _ _ => ready (.mmaPass u)
  | .mstore _ _ _ _ _ => ready (.mstoreWrite u)
  | .forme m c cmd _ => if s.jobReady j none && (s.formePerform j m c cmd).isSome then [formeAction m u] else []
  | .gather c v p rows =>
    let stops := (s.resident j.part j.ctx j.core).quiescing
    let acts := if (s.gatherPerform j c v p rows).isSome then ! (j.waited && stops)
      else j.waited != stops || (s.context j.part j.ctx).state == .closing
    if s.jobReady j none && acts then [.kvgatherSnapshot u] else []
  | .launch _ _ _ => [.launchArrive u]
  | .fetchw _ _ _ => [.fetchwDeliver u]
  | .copy _ _ _ => ready (.copyComplete u)
  | .mzero _ _ => []
  | .mread _ _ _ _ _ _ => []
  | .mstat _ => []
  | .proofw _ _ _ _ => []
  | .prstat _ _ _ _ => []

/-- Quire loads in progress. -/
def State.loadActions (s : State) : List Action :=
  s.residents.flatMap (fun r => (r.quires.filter (fun x => x.state == .loading)).map (fun x => .quireLoadComplete ⟨r.part, r.ctx, r.core, x.q⟩))

/-- What the distributor may do for one context: read a record, consider a launch, complete one. -/
def State.launchActions (s : State) (x : Context) : List Action :=
  if x.state ≠ .live then []
  else
    ((x.queues.filter (fun q => q.2.qsize != 0 && q.2.qtail != q.2.qhead && decide ((s.admittedOf x.part x.ctx q.1).length < 8))).map
      (fun q => .recordRead ⟨x.part, x.ctx, q.1, 0⟩))
    ++ (x.launches.filter (fun l => s.considerable x.part x.ctx l)).map (fun l => .placement ⟨x.part, x.ctx, l.queue, l.count, []⟩)
    ++ (x.launches.filter (fun l => s.completable x.part x.ctx l)).map (fun l => .launchComplete ⟨x.part, x.ctx, l.queue, l.count⟩)

/-- The placement whose turn it is in a partition, or the turn that passes. -/
def State.placeActions (s : State) (p : Nat) : List Action :=
  match s.turnFor p with
  | none => []
  | some (c, l, ws, _) => match s.sitesFor p c l ws with
    | some sites => [.placement ⟨p, c, l.queue, l.count, sites⟩]
    | none => (match s.turnPasses p with
      | some _ => [.placement ⟨p, c, l.queue, l.count, []⟩]
      | none => [])

/-- Workgroups that may start, or whose entry quire is to be requested again. -/
def State.startActions (s : State) : List Action :=
  (s.wgs.filter (fun w => ! w.started && s.offers { w with started := true } &&
    ((s.resident w.part w.ctx w.core).quire (pcQuire w.entry)).state != .loading)).map (fun w => .workgroupStart ⟨w.wid⟩)

/-- Whether some other context of a partition needs the place that a SHADOW context has on a core. Log entry 57. -/
def State.crowded (s : State) (p c core : Nat) : Bool :=
  s.contexts.any (fun x => x.part == p && x.ctx != c && x.state == .live && s.wants p x.ctx core && ! s.holdRoom p x.ctx core)

/-- What cores may do with the places of a context (R322, R349, R350, R355). -/
def State.coreActions (s : State) (x : Context) : List Action :=
  if x.state ≠ .live then []
  else
    (s.coresOf x.part).flatMap (fun k =>
      (if s.preempts x.part x.ctx k && (match s.activeAt k with | some r => ! r.quiescing | none => false) then [.preempt ⟨x.part, x.ctx, k⟩] else [])
        ++ (if s.quiesceOver x.part x.ctx k || s.switchable x.part x.ctx k || ! (s.inWay x.part x.ctx k).isEmpty then [.contextSwitch ⟨x.part, x.ctx, k⟩] else [])
        ++ (if (s.gangCores x.part x.ctx k).all (fun k => s.savable x.part x.ctx k) && s.crowded x.part x.ctx k then
            [.contextSave ⟨x.part, x.ctx, k⟩] else []))
    ++ (s.residents.filter (fun r => r.part == x.part && r.ctx == x.ctx && r.loc == .saved)).flatMap (fun r =>
      ((s.coresOf x.part).filter (fun k => s.restorable x.part x.ctx r.core k)).map (fun k => .contextRestore ⟨x.part, x.ctx, r.core, k⟩))

/-- The ends that a context's requests may come to. -/
def State.contextActions (s : State) (x : Context) : List Action :=
  (if s.closable x.part x.ctx then [.contextClosed ⟨x.part, x.ctx⟩] else [])
    ++ (if s.invDone x.part x.ctx then [.invalidateDone ⟨x.part, x.ctx⟩] else [])
    ++ (if x.dstate = 1 ∧ s.allStopped x.part x.ctx = true then [.debugStopped ⟨x.part, x.ctx⟩] else [])

/-- Events of the hub die. -/
def State.hubActions (s : State) : List Action :=
  ((List.range 8).filter s.epochDue).map (fun st => .epochEnd ⟨st⟩)
    ++ (if s.ppsDue then [.ppsOutput {}] else [])
    ++ (if s.rstate = .verifying then [.imageVerified {}] else [])

/-- Everything that the module may do next. Log entry 5. -/
def State.actions (s : State) : List Action :=
  if s.rstate = .booting then (if s.inService then [.powerOn {}] else [])
  else
    s.issueSets.map .unit ++ s.workCores.flatMap s.pairOn ++ s.resultActions ++ s.sleepActions ++ s.jobs.flatMap s.jobActions ++ s.loadActions
      ++ s.contexts.flatMap (fun x => s.launchActions x ++ s.coreActions x ++ s.contextActions x)
      ++ (List.range 9).flatMap s.placeActions ++ s.startActions ++ s.hubActions

/-- The action that comes next: the only one, or the device's choice (R8). Log entry 5. -/
def State.nextAction (s : State) : Option Action :=
  match s.actions with
  | [] => none
  | [a] => some a
  | a :: r => (a :: r)[Config.choose s.draws 0 % (r.length + 1)]?

/-! ### The step's surroundings -/

/-- An uncorrectable error strikes (R228, R369): a granule of device memory, of a vault or of a workgroup's scratch, or an element
of an accumulator tile. Log entry 42. -/
def State.upset (s : State) : State :=
  let n := Config.upsetAt s.draws
  match Config.upset s.draws with
  | 1 => { s with memPoison := SMap.set s.memPoison (n % 2 ^ 47) true false }
  | 2 => { s with vaultPoison := SMap.set s.vaultPoison (n % (193 * 2 ^ 19)) true false }
  | 3 => (match s.wgs[n % s.wgs.length]? with
    | some w => s.modWg w.wid (fun w => { w with scratchPoison := SMap.set w.scratchPoison (n / s.wgs.length % (w.scratchSize / 16)) true false })
    | none => s)
  | 4 => (match s.residents[n % s.residents.length]? with
    | some r => s.modResident r.part r.ctx r.core (fun r => { r with tiles := r.tiles.modify (n / s.residents.length % 4) (fun t =>
        { t with poison := SMap.set t.poison (n / s.residents.length / 4 % 4096) true false }) })
    | none => s)
  | _ => s

/-- What a step adds: what the dies apply of the stores (R293), the count of free values, the time that passes (R383: the count
never decreases), and the errors that strike. Log entries 1, 6 and 42. -/
def State.tick (s : State) : State :=
  { s.withLedger (s.ledger.drift s.draws) with draws := s.draws + 1, time := BitVec.ofNat 64 (min (s.time.toNat + Config.tick s.draws) (2 ^ 64 - 1)) }.upset

/-- The step of an outcome. Log entry 6. -/
def tickOut (o : Out) : Out :=
  match o with
  | .next t => .next t.tick
  | .fault r => .fault r
  | .refused r => .refused r

/-- Whether an entry of the inbox is an event, not a unit's instruction. Log entry 78. -/
def isEvent (i : Instr) : Bool := (encode i).isEmpty

/-- One step: power-on comes first; then what has come from outside, in its order; then the module's own next action; and
with nothing to do, time passes. Log entries 1, 11 and 47. -/
def State.doStep (s : State) : Out :=
  match s.rstate, s.inService with
  | .booting, true => execPowerOn {} s
  | .booting, false => .fault .outOfService
  | _, _ =>
    match s.inbox with
    | i :: r => if isEvent i then exec i { s with inbox := r } else .next { s with inbox := r }
    | [] => match s.nextAction with
      | some a => a.run s
      | none => .next s

end Sys2Proof.Machine
end

