-- ==== Sys2Proof/Machine/Placer.lean ====
section
/-!
DEFINITION. A machine on which one workgroup is about to issue given words: what loading a quire, launching and placing
would lead to, set at once.
-/
namespace Sys2Proof.Machine
open Sys2Proof

/-- The offset at which the words stand: past the quire's entry table (R99). -/
def unitOffset : Nat := 0x80

/-- A quire RESIDENT with the words at that offset. -/
def Quire.holding (bs : List Byte) : Quire :=
  { Quire.fresh 0 with state := .resident, frames := 1, image := SMap.write [] unitOffset bs 0, length := 4096, entered := 1 }

/-- A workgroup of one general group of eight threads with every register of the budget, at the words. -/
def Workgroup.holding : Workgroup :=
  { wid := 1, part := 0, ctx := 0, core := 0, queue := 0, count := 0, wglin := 0, wgx := 0, wgy := 0, wgz := 0, levels := 3,
    lvl := [0, 0, 0, 0, 0], slot := 0, entry := mkPc 0 unitOffset, consts := 0, started := true, retired := false,
    scratchBase := 0, scratchSize := 0, scratch := [], full := [], scratchPoison := [], stores := [], sync := [], vaultBase := 0, vaultSize := 0, handles := [],
    objects := [], patterns := [], work := [], fetched := [], groups := [Group.start 8 0 0 96 0 0 (mkPc 0 unitOffset)] }

/-- The machine in service, with context 0 of partition 0 LIVE and ACTIVE on core 0, and the words before the one workgroup.
Log entry 11. -/
def State.placeUnit (s : State) (bs : List Byte) : State :=
  { s with
    rstate := .running, inService := true, inbox := [], contexts := [{ Context.reset 0 0 with state := .live }]
    residents := [{ Resident.reset 0 0 0 with quires := [Quire.holding bs] }], wgs := [Workgroup.holding], jobs := [], nextId := 2 }

end Sys2Proof.Machine
end

