-- ==== Sys2Proof/Machine/Step.lean ====
section
/-!
DEFINITION. One step of the module, and a machine that stands before a given unit.
-/
namespace Sys2Proof.Machine
open Sys2Proof

/-- One step. -/
def step (s : State) : Host.Outcome State Fault Refusal := tickOut s.doStep

/-- The state with a unit stored where the next step fetches: the one that a loaded program and a launch would lead to.
Log entry 11. -/
def State.withFetchWord (s : State) (nbits w : Nat) : State := s.placeUnit (bytesOf (w % 2 ^ nbits) 12)

end Sys2Proof.Machine
end

