-- ==== Sys2Proof/WellFormed.lean ====
section
/-!
DEFINITION. Well-formed instructions: those of a group with the largest budget that no reason of R92 refuses, whatever the
machine's state. Events are always well formed.
-/
namespace Sys2Proof
open Sys2Proof.Machine

/-- Every selector of the instruction has a value that the table assigns (reason 2). -/
def selectorsOk (i : Instr) : Bool := ((shapeOf i).reasons 96).all (fun r => r.1 != 2)
/-- Every reserved bit is zero (reason 3). -/
def reservedOk (i : Instr) : Bool := ((shapeOf i).reasons 96).all (fun r => r.1 != 3)
/-- Every width and every required pair is one that the instruction accepts (reason 4). -/
def widthsOk (i : Instr) : Bool := ((shapeOf i).reasons 96).all (fun r => r.1 != 4)
/-- Every width group is aligned (reason 5). -/
def groupsAligned (i : Instr) : Bool := ((shapeOf i).reasons 96).all (fun r => r.1 != 5)
/-- No v register stands beyond the budget (reason 6). -/
def withinBudget (i : Instr) : Bool := ((shapeOf i).reasons 96).all (fun r => r.1 != 6)
/-- The prefix carries only what the instruction accepts (reason 7). -/
def prefixOk (i : Instr) : Bool := ((shapeOf i).reasons 96).all (fun r => r.1 != 7)
/-- Only the principal word bears W (reason 9). -/
def waitOk (i : Instr) : Bool := ((shapeOf i).reasons 96).all (fun r => r.1 != 9)

/-- A well-formed instruction: no reason of R92 holds of it in a group whose budget is 96. -/
def WellFormed (i : Instr) : Bool := ((shapeOf i).reasons 96).isEmpty

end Sys2Proof
end

