-- ==== Sys2Proof/Laws/Encoding.lean ====
section
/-!
SUPPORT. The layouts of words: fields of concatenated bit vectors, each record read back from the bits it is written to, and
the decoder on the words that the encoder writes.
-/
namespace Sys2Proof.Laws
open Sys2Proof Sys2Proof.Machine

/-- A field above the low part of a concatenation lies in the high part. -/
theorem extract_high {m n : Nat} (x : BitVec m) (y : BitVec n) (s l : Nat) (h : n ≤ s) :
    BitVec.extractLsb' s l (x ++ y) = BitVec.extractLsb' (s - n) l x := by
  apply BitVec.eq_of_getLsbD_eq
  intro i hi
  simp only [BitVec.getLsbD_extractLsb', BitVec.getLsbD_append]
  have : ¬ s + i < n := by omega
  simp [this, show s + i - n = s - n + i by omega]

/-- A field within the low part of a concatenation. -/
theorem extract_low {m n : Nat} (x : BitVec m) (y : BitVec n) (s l : Nat) (h : s + l ≤ n) :
    BitVec.extractLsb' s l (x ++ y) = BitVec.extractLsb' s l y := by
  apply BitVec.eq_of_getLsbD_eq
  intro i hi
  simp only [BitVec.getLsbD_extractLsb', BitVec.getLsbD_append]
  have : s + i < n := by omega
  simp [this]

/-- A field that is the whole vector. -/
theorem extract_all {n : Nat} (y : BitVec n) : BitVec.extractLsb' 0 n y = y := by
  apply BitVec.eq_of_getLsbD_eq
  intro i hi
  simp [hi]

/-- The two lowest parts of a concatenation. -/
theorem extract_pair {k m n : Nat} (x : BitVec k) (y : BitVec m) (z : BitVec n) :
    BitVec.extractLsb' 0 (m + n) (x ++ y ++ z) = y ++ z := by
  apply BitVec.eq_of_getLsbD_eq
  intro i hi
  have hi2 : i < m + n := hi
  simp only [BitVec.getLsbD_extractLsb', BitVec.getLsbD_append, Nat.zero_add]
  by_cases h : i < n
  · simp [h, hi2]
  · have : i - n < m := by omega
    simp [h, this, hi2]

/-- The bit of a Boolean, read back. -/
theorem ofBool_eq_one (b : Bool) : (BitVec.ofBool b == 1#1) = b := by cases b <;> rfl

@[simp] theorem wordG_packL (h : Bool) (m : BitVec 7) (l : BitVec 23) : wordG (packL h m l) = false := by
  simp (disch := decide) only [wordG, packL, extract_high]; decide
@[simp] theorem wordW_packL (h : Bool) (m : BitVec 7) (l : BitVec 23) : wordW (packL h m l) = h := by
  simp (disch := decide) only [wordW, packL, extract_high, extract_low]
  exact (congrArg (fun x => x == 1#1) (extract_all _)).trans (ofBool_eq_one h)
@[simp] theorem wordMajor_packL (h : Bool) (m : BitVec 7) (l : BitVec 23) : wordMajor (packL h m l) = m.toNat := by
  simp (disch := decide) only [wordMajor, packL, extract_high, extract_low]
  exact congrArg BitVec.toNat (extract_all m)
@[simp] theorem wordLow_packL (h : Bool) (m : BitVec 7) (l : BitVec 23) : wordLow (packL h m l) = l := by
  simp (disch := decide) only [wordLow, packL, extract_low, extract_all]
@[simp] theorem wordG_packG (h : Bool) (m : BitVec 7) (l : BitVec 23) : wordG (packG h m l) = true := by
  simp (disch := decide) only [wordG, packG, extract_high]; decide
@[simp] theorem wordW_packG (h : Bool) (m : BitVec 7) (l : BitVec 23) : wordW (packG h m l) = h := by
  simp (disch := decide) only [wordW, packG, extract_high, extract_low]
  exact (congrArg (fun x => x == 1#1) (extract_all _)).trans (ofBool_eq_one h)
@[simp] theorem wordMajor_packG (h : Bool) (m : BitVec 7) (l : BitVec 23) : wordMajor (packG h m l) = m.toNat := by
  simp (disch := decide) only [wordMajor, packG, extract_high, extract_low]
  exact congrArg BitVec.toNat (extract_all m)
@[simp] theorem wordLow_packG (h : Bool) (m : BitVec 7) (l : BitVec 23) : wordLow (packG h m l) = l := by
  simp (disch := decide) only [wordLow, packG, extract_low, extract_all]

theorem pfx_ofLow_toLow (u : Pfx) : Pfx.ofLow u.h u.toLow = u := by
  obtain ⟨h, k, z, mode, c, cv, sat, na, nb, aa, ab, low⟩ := u
  simp (disch := decide) only [Pfx.ofLow, Pfx.toLow, extract_high, extract_low, Nat.reduceSub, extract_all, ofBool_eq_one]

/-- The PFX of a unit read back, before a principal word or an XIMM. -/
theorem splitPfx_words (p : Option Pfx) (w : Word) (r : List Word) (h : (! wordG w && wordMajor w == 0x7F) = false) :
    splitPfx (pfxWords p ++ w :: r) = (p, w :: r) := by
  cases p with
  | none => simp [splitPfx, pfxWords, h]
  | some u =>
    have e : (! wordG u.word && wordMajor u.word == 0x7F) = true := by simp [Pfx.word]
    simp only [pfxWords, List.cons_append, List.nil_append, splitPfx, e, if_true]
    simp [Pfx.word, pfx_ofLow_toLow]

/-- The XIMM of a unit read back, before a principal word. -/
theorem splitXimm_words (x : Option Ximm) (w : Word) (h : (! wordG w && wordMajor w == 0x7E) = false) :
    splitXimm (ximmWords x ++ [w]) = (x, [w]) := by
  cases x with
  | none => simp [splitXimm, ximmWords, h]
  | some u =>
    have e : (! wordG u.word && wordMajor u.word == 0x7E) = true := by simp [Ximm.word]
    simp only [ximmWords, List.cons_append, List.nil_append, splitXimm, e, if_true]
    simp [Ximm.word]

/-- The decoder on a unit of the L-set without an XIMM. -/
theorem decode_lane (p : Option Pfx) (h : Bool) (m : BitVec 7) (l : BitVec 23) (h1 : m.toNat ≠ 0x7F) (h2 : m.toNat ≠ 0x7E) :
    decode (pfxWords p ++ [packL h m l]) = decodeL p none h m.toNat l := by
  have e := splitPfx_words p (packL h m l) [] (by simp [h1])
  have f : splitXimm [packL h m l] = (none, [packL h m l]) := by simpa [ximmWords] using splitXimm_words none (packL h m l) (by simp [h2])
  simp [decode, e, f, decodePrincipal]

/-- The decoder on a unit of the L-set that may carry an XIMM. -/
theorem decode_ximm (p : Option Pfx) (x : Option Ximm) (h : Bool) (m : BitVec 7) (l : BitVec 23) (h1 : m.toNat ≠ 0x7F)
    (h2 : m.toNat ≠ 0x7E) (h3 : takesXimm m.toNat = true) :
    decode (pfxWords p ++ ximmWords x ++ [packL h m l]) = decodeL p x h m.toNat l := by
  have e : splitPfx (pfxWords p ++ ximmWords x ++ [packL h m l]) = (p, ximmWords x ++ [packL h m l]) := by
    cases x with
    | none => simpa [ximmWords] using splitPfx_words p (packL h m l) [] (by simp [h1])
    | some u => simpa [ximmWords] using splitPfx_words p u.word [packL h m l] (by simp [Ximm.word])
  have f := splitXimm_words x (packL h m l) (by simp [h2])
  unfold decode
  rw [e]
  dsimp only
  rw [f]
  simp [decodePrincipal, h3]

/-- The decoder on a unit of the G-set. -/
theorem decode_uniform (h : Bool) (m : BitVec 7) (l : BitVec 23) : decode [packG h m l] = decodeG h m.toNat l := by
  simp [decode, splitPfx, splitXimm, decodePrincipal]

/-! ### Every record read back -/

set_option linter.unusedSimpArgs false in
theorem lrw_ofLow_toLow (u : LRw) : LRw.ofLow u.p u.h (u.toLow) = u := by
  simp (disch := decide) only [LRw.ofLow, LRw.toLow, extract_high, extract_low, Nat.reduceSub, extract_all]
set_option linter.unusedSimpArgs false in
theorem lr0_ofLow_toLow (u : LR0) (g0 : BitVec 2) : LR0.ofLow u.p u.h (u.toLow g0) = u := by
  simp (disch := decide) only [LR0.ofLow, LR0.toLow, extract_high, extract_low, Nat.reduceSub, extract_all]
set_option linter.unusedSimpArgs false in
theorem lcmpw_ofLow_toLow (u : LCmpW) : LCmpW.ofLow u.p u.h (u.toLow) = u := by
  simp (disch := decide) only [LCmpW.ofLow, LCmpW.toLow, extract_high, extract_low, Nat.reduceSub, extract_all]
set_option linter.unusedSimpArgs false in
theorem lcmp0_ofLow_toLow (u : LCmp0) (g0 : BitVec 2) : LCmp0.ofLow u.p u.h (u.toLow g0) = u := by
  simp (disch := decide) only [LCmp0.ofLow, LCmp0.toLow, extract_high, extract_low, Nat.reduceSub, extract_all]
set_option linter.unusedSimpArgs false in
theorem luw_ofLow_toLow (u : LUw) (g0 : BitVec 4) : LUw.ofLow u.p u.h (u.toLow g0) = u := by
  simp (disch := decide) only [LUw.ofLow, LUw.toLow, extract_high, extract_low, Nat.reduceSub, extract_all]
set_option linter.unusedSimpArgs false in
theorem luf_ofLow_toLow (u : LUf) (g0 : BitVec 2) : LUf.ofLow u.p u.h (u.toLow g0) = u := by
  simp (disch := decide) only [LUf.ofLow, LUf.toLow, extract_high, extract_low, Nat.reduceSub, extract_all]
set_option linter.unusedSimpArgs false in
theorem ldf_ofLow_toLow (u : LDf) (g0 : BitVec 10) (g1 : BitVec 2) : LDf.ofLow u.p u.h (u.toLow g0 g1) = u := by
  simp (disch := decide) only [LDf.ofLow, LDf.toLow, extract_high, extract_low, Nat.reduceSub, extract_all]
set_option linter.unusedSimpArgs false in
theorem lshf_ofLow_toLow (u : LShf) (g0 : BitVec 3) : LShf.ofLow u.p u.h (u.toLow g0) = u := by
  simp (disch := decide) only [LShf.ofLow, LShf.toLow, extract_high, extract_low, Nat.reduceSub, extract_all]
set_option linter.unusedSimpArgs false in
theorem lafw_ofLow_toLow (u : LAfw) (g0 : BitVec 3) : LAfw.ofLow u.p u.h (u.toLow g0) = u := by
  simp (disch := decide) only [LAfw.ofLow, LAfw.toLow, extract_high, extract_low, Nat.reduceSub, extract_all]
set_option linter.unusedSimpArgs false in
theorem laf_ofLow_toLow (u : LAf) (g0 : BitVec 3) (g1 : BitVec 2) : LAf.ofLow u.p u.h (u.toLow g0 g1) = u := by
  simp (disch := decide) only [LAf.ofLow, LAf.toLow, extract_high, extract_low, Nat.reduceSub, extract_all]
set_option linter.unusedSimpArgs false in
theorem lutfw_ofLow_toLow (u : LUtfw) : LUtfw.ofLow u.p u.h (u.toLow) = u := by
  simp (disch := decide) only [LUtfw.ofLow, LUtfw.toLow, extract_high, extract_low, Nat.reduceSub, extract_all]
set_option linter.unusedSimpArgs false in
theorem law_ofLow_toLow (u : LAw) (g0 : BitVec 7) : LAw.ofLow u.p u.h (u.toLow g0) = u := by
  simp (disch := decide) only [LAw.ofLow, LAw.toLow, extract_high, extract_low, Nat.reduceSub, extract_all]
set_option linter.unusedSimpArgs false in
theorem la0_ofLow_toLow (u : LA0) (g0 : BitVec 9) : LA0.ofLow u.p u.h (u.toLow g0) = u := by
  simp (disch := decide) only [LA0.ofLow, LA0.toLow, extract_high, extract_low, Nat.reduceSub, extract_all]
set_option linter.unusedSimpArgs false in
theorem limm_ofLow_toLow (u : LImm) : LImm.ofLow u.p u.x u.h (u.toLow) = u := by
  simp (disch := decide) only [LImm.ofLow, LImm.toLow, extract_high, extract_low, Nat.reduceSub, extract_all]
set_option linter.unusedSimpArgs false in
theorem lsh_ofLow_toLow (u : LSh) (g0 : BitVec 4) : LSh.ofLow u.p u.h (u.toLow g0) = u := by
  simp (disch := decide) only [LSh.ofLow, LSh.toLow, extract_high, extract_low, Nat.reduceSub, extract_all]
set_option linter.unusedSimpArgs false in
theorem lcmpi_ofLow_toLow (u : LCmpI) : LCmpI.ofLow u.p u.x u.h (u.toLow) = u := by
  simp (disch := decide) only [LCmpI.ofLow, LCmpI.toLow, extract_high, extract_low, Nat.reduceSub, extract_all]
set_option linter.unusedSimpArgs false in
theorem lmovi_ofLow_toLow (u : LMovi) (g0 : BitVec 7) : LMovi.ofLow u.p u.x u.h (u.toLow g0) = u := by
  simp (disch := decide) only [LMovi.ofLow, LMovi.toLow, extract_high, extract_low, Nat.reduceSub, extract_all]
set_option linter.unusedSimpArgs false in
theorem ljmp_ofLow_toLow (u : LJmp) (g0 : BitVec 7) (g1 : BitVec 9) : LJmp.ofLow u.p u.h (u.toLow g0 g1) = u := by
  simp (disch := decide) only [LJmp.ofLow, LJmp.toLow, extract_high, extract_low, Nat.reduceSub, extract_all]
set_option linter.unusedSimpArgs false in
theorem lmem_ofLow_toLow (u : LMem) : LMem.ofLow u.p u.h (u.toLow) = u := by
  simp (disch := decide) only [LMem.ofLow, LMem.toLow, extract_high, extract_low, Nat.reduceSub, extract_all]
set_option linter.unusedSimpArgs false in
theorem lfe_ofLow_toLow (u : LFe) (g0 : BitVec 7) (g1 : BitVec 3) (g2 : BitVec 2) : LFe.ofLow u.p u.h (u.toLow g0 g1 g2) = u := by
  simp (disch := decide) only [LFe.ofLow, LFe.toLow, extract_high, extract_low, Nat.reduceSub, extract_all]
set_option linter.unusedSimpArgs false in
theorem lmem0_ofLow_toLow (u : LMem0) (g0 : BitVec 3) : LMem0.ofLow u.p u.h (u.toLow g0) = u := by
  simp (disch := decide) only [LMem0.ofLow, LMem0.toLow, extract_high, extract_low, Nat.reduceSub, extract_all]
set_option linter.unusedSimpArgs false in
theorem lmma_ofLow_toLow (u : LMma) (g0 : BitVec 3) : LMma.ofLow u.p u.h (u.toLow g0) = u := by
  simp (disch := decide) only [LMma.ofLow, LMma.toLow, extract_high, extract_low, Nat.reduceSub, extract_all]
set_option linter.unusedSimpArgs false in
theorem lmread_ofLow_toLow (u : LMread) (g0 : BitVec 4) : LMread.ofLow u.p u.h (u.toLow g0) = u := by
  simp (disch := decide) only [LMread.ofLow, LMread.toLow, extract_high, extract_low, Nat.reduceSub, extract_all]
set_option linter.unusedSimpArgs false in
theorem lgather_ofLow_toLow (u : LGather) (g0 : BitVec 5) (g1 : BitVec 2) : LGather.ofLow u.p u.h (u.toLow g0 g1) = u := by
  simp (disch := decide) only [LGather.ofLow, LGather.toLow, extract_high, extract_low, Nat.reduceSub, extract_all]
set_option linter.unusedSimpArgs false in
theorem laccept_ofLow_toLow (u : LAccept) (g0 : BitVec 4) : LAccept.ofLow u.p u.h (u.toLow g0) = u := by
  simp (disch := decide) only [LAccept.ofLow, LAccept.toLow, extract_high, extract_low, Nat.reduceSub, extract_all]
set_option linter.unusedSimpArgs false in
theorem ldx_ofLow_toLow (u : LDx) (g0 : BitVec 2) (g1 : BitVec 2) : LDx.ofLow u.p u.h (u.toLow g0 g1) = u := by
  simp (disch := decide) only [LDx.ofLow, LDx.toLow, extract_high, extract_low, Nat.reduceSub, extract_all]
set_option linter.unusedSimpArgs false in
theorem gr3_ofLow_toLow (u : GR3) (g0 : BitVec 8) : GR3.ofLow u.h (u.toLow g0) = u := by
  simp (disch := decide) only [GR3.ofLow, GR3.toLow, extract_high, extract_low, Nat.reduceSub, extract_all]
set_option linter.unusedSimpArgs false in
theorem gr2_ofLow_toLow (u : GR2) (g0 : BitVec 13) : GR2.ofLow u.h (u.toLow g0) = u := by
  simp (disch := decide) only [GR2.ofLow, GR2.toLow, extract_high, extract_low, Nat.reduceSub, extract_all]
set_option linter.unusedSimpArgs false in
theorem gcmp_ofLow_toLow (u : GCmp) (g0 : BitVec 5) : GCmp.ofLow u.h (u.toLow g0) = u := by
  simp (disch := decide) only [GCmp.ofLow, GCmp.toLow, extract_high, extract_low, Nat.reduceSub, extract_all]
set_option linter.unusedSimpArgs false in
theorem gimm_ofLow_toLow (u : GImm) : GImm.ofLow u.h (u.toLow) = u := by
  simp (disch := decide) only [GImm.ofLow, GImm.toLow, extract_high, extract_low, Nat.reduceSub, extract_all]
set_option linter.unusedSimpArgs false in
theorem gsh_ofLow_toLow (u : GSh) (g0 : BitVec 8) : GSh.ofLow u.h (u.toLow g0) = u := by
  simp (disch := decide) only [GSh.ofLow, GSh.toLow, extract_high, extract_low, Nat.reduceSub, extract_all]
set_option linter.unusedSimpArgs false in
theorem gmovi_ofLow_toLow (u : GMovi) (g0 : BitVec 5) : GMovi.ofLow u.h (u.toLow g0) = u := by
  simp (disch := decide) only [GMovi.ofLow, GMovi.toLow, extract_high, extract_low, Nat.reduceSub, extract_all]
set_option linter.unusedSimpArgs false in
theorem grd_ofLow_toLow (u : GRd) (g0 : BitVec 10) : GRd.ofLow u.h (u.toLow g0) = u := by
  simp (disch := decide) only [GRd.ofLow, GRd.toLow, extract_high, extract_low, Nat.reduceSub, extract_all]
set_option linter.unusedSimpArgs false in
theorem gwr_ofLow_toLow (u : GWr) (g0 : BitVec 5) (g1 : BitVec 5) : GWr.ofLow u.h (u.toLow g0 g1) = u := by
  simp (disch := decide) only [GWr.ofLow, GWr.toLow, extract_high, extract_low, Nat.reduceSub, extract_all]
set_option linter.unusedSimpArgs false in
theorem gshape_ofLow_toLow (u : GShape) (g0 : BitVec 5) (g1 : BitVec 9) : GShape.ofLow u.h (u.toLow g0 g1) = u := by
  simp (disch := decide) only [GShape.ofLow, GShape.toLow, extract_high, extract_low, Nat.reduceSub, extract_all]
set_option linter.unusedSimpArgs false in
theorem gxpld_ofLow_toLow (u : GXpld) (g0 : BitVec 5) (g1 : BitVec 10) : GXpld.ofLow u.h (u.toLow g0 g1) = u := by
  simp (disch := decide) only [GXpld.ofLow, GXpld.toLow, extract_high, extract_low, Nat.reduceSub, extract_all]
set_option linter.unusedSimpArgs false in
theorem gb_ofLow_toLow (u : GB) : GB.ofLow u.h (u.toLow) = u := by
  simp only [GB.ofLow, GB.toLow, extract_all]
set_option linter.unusedSimpArgs false in
theorem gbru_ofLow_toLow (u : GBru) : GBru.ofLow u.h (u.toLow) = u := by
  simp (disch := decide) only [GBru.ofLow, GBru.toLow, extract_high, extract_low, Nat.reduceSub, extract_all]
set_option linter.unusedSimpArgs false in
theorem gbrt_ofLow_toLow (u : GBrt) (g0 : BitVec 4) : GBrt.ofLow u.h (u.toLow g0) = u := by
  simp (disch := decide) only [GBrt.ofLow, GBrt.toLow, extract_high, extract_low, Nat.reduceSub, extract_all]
set_option linter.unusedSimpArgs false in
theorem gcallq_ofLow_toLow (u : GCallq) (g0 : BitVec 5) : GCallq.ofLow u.h (u.toLow g0) = u := by
  simp (disch := decide) only [GCallq.ofLow, GCallq.toLow, extract_high, extract_low, Nat.reduceSub, extract_all]
theorem g0_ofLow_toLow (u : G0) (l : BitVec 23) : G0.ofLow u.h l = u := rfl
set_option linter.unusedSimpArgs false in
theorem gtrap_ofLow_toLow (u : GTrap) (g0 : BitVec 10) : GTrap.ofLow u.h (u.toLow g0) = u := by
  simp (disch := decide) only [GTrap.ofLow, GTrap.toLow, extract_high, extract_low, Nat.reduceSub, extract_all]
set_option linter.unusedSimpArgs false in
theorem ga_ofLow_toLow (u : GA) (g0 : BitVec 5) (g1 : BitVec 13) : GA.ofLow u.h (u.toLow g0 g1) = u := by
  simp (disch := decide) only [GA.ofLow, GA.toLow, extract_high, extract_low, Nat.reduceSub, extract_all]
set_option linter.unusedSimpArgs false in
theorem gd_ofLow_toLow (u : GD) (g0 : BitVec 18) : GD.ofLow u.h (u.toLow g0) = u := by
  simp (disch := decide) only [GD.ofLow, GD.toLow, extract_high, extract_low, Nat.reduceSub, extract_all]
set_option linter.unusedSimpArgs false in
theorem gquire_ofLow_toLow (u : GQuire) (g0 : BitVec 5) : GQuire.ofLow u.h (u.toLow g0) = u := by
  simp (disch := decide) only [GQuire.ofLow, GQuire.toLow, extract_high, extract_low, Nat.reduceSub, extract_all]
set_option linter.unusedSimpArgs false in
theorem gab_ofLow_toLow (u : GAB) (g0 : BitVec 5) (g1 : BitVec 8) : GAB.ofLow u.h (u.toLow g0 g1) = u := by
  simp (disch := decide) only [GAB.ofLow, GAB.toLow, extract_high, extract_low, Nat.reduceSub, extract_all]
set_option linter.unusedSimpArgs false in
theorem gfence_ofLow_toLow (u : GFence) (g0 : BitVec 18) : GFence.ofLow u.h (u.toLow g0) = u := by
  simp (disch := decide) only [GFence.ofLow, GFence.toLow, extract_high, extract_low, Nat.reduceSub, extract_all]
set_option linter.unusedSimpArgs false in
theorem gmzero_ofLow_toLow (u : GMzero) (g0 : BitVec 20) : GMzero.ofLow u.h (u.toLow g0) = u := by
  simp (disch := decide) only [GMzero.ofLow, GMzero.toLow, extract_high, extract_low, Nat.reduceSub, extract_all]
set_option linter.unusedSimpArgs false in
theorem gmlatb_ofLow_toLow (u : GMlatb) (g0 : BitVec 5) (g1 : BitVec 4) : GMlatb.ofLow u.h (u.toLow g0 g1) = u := by
  simp (disch := decide) only [GMlatb.ofLow, GMlatb.toLow, extract_high, extract_low, Nat.reduceSub, extract_all]
set_option linter.unusedSimpArgs false in
theorem gmstore_ofLow_toLow (u : GMstore) (g0 : BitVec 5) (g1 : BitVec 3) : GMstore.ofLow u.h (u.toLow g0 g1) = u := by
  simp (disch := decide) only [GMstore.ofLow, GMstore.toLow, extract_high, extract_low, Nat.reduceSub, extract_all]
set_option linter.unusedSimpArgs false in
theorem gmstat_ofLow_toLow (u : GMstat) (g0 : BitVec 16) : GMstat.ofLow u.h (u.toLow g0) = u := by
  simp (disch := decide) only [GMstat.ofLow, GMstat.toLow, extract_high, extract_low, Nat.reduceSub, extract_all]
set_option linter.unusedSimpArgs false in
theorem gpd_ofLow_toLow (u : GPd) (g0 : BitVec 5) (g1 : BitVec 11) : GPd.ofLow u.h (u.toLow g0 g1) = u := by
  simp (disch := decide) only [GPd.ofLow, GPd.toLow, extract_high, extract_low, Nat.reduceSub, extract_all]
set_option linter.unusedSimpArgs false in
theorem gpi_ofLow_toLow (u : GPi) (g0 : BitVec 16) : GPi.ofLow u.h (u.toLow g0) = u := by
  simp (disch := decide) only [GPi.ofLow, GPi.toLow, extract_high, extract_low, Nat.reduceSub, extract_all]

end Sys2Proof.Laws
end

