-- ==== Sys2Proof/Laws/PerInstr.lean ====
section
/-!
SUPPORT. The round trip of every instruction: what the decoder makes of the words that the encoder writes. The statement is
about the instruction as syntax; an event has no words.
-/
namespace Sys2Proof.Laws.RoundTrip
open Sys2Proof Sys2Proof.Machine Sys2Proof.Laws

/-- A well-formed instruction has no words, being an event, or is what the decoder reads from its words. -/
def Statement (i : Instr) : Prop := WellFormed i = true → encode i = [] ∨ decode (encode i) = some i

/-- A word that its record fills is kept. -/
theorem keep_same (l : BitVec 23) (i : Instr) : keep (l == l) i = some i := by simp [keep]

/-- The eight values of a three-bit field. -/
theorem cases3 : ∀ c : BitVec 3, c = 0 ∨ c = 1 ∨ c = 2 ∨ c = 3 ∨ c = 4 ∨ c = 5 ∨ c = 6 ∨ c = 7 := by decide

/-- The arms of one major of the decoder. -/
theorem decodeG_alu (h : Bool) (l : BitVec 23) : decodeG h (BitVec.toNat (0x1 : BitVec 7)) l =
    match (l.extractLsb' 0 8).toNat with
    | 0 => keep ((GR3.ofLow h l).toLow 0 == l) (.uadd (GR3.ofLow h l))
    | 1 => keep ((GR3.ofLow h l).toLow 1 == l) (.usub (GR3.ofLow h l))
    | 2 => keep ((GR3.ofLow h l).toLow 2 == l) (.umul (GR3.ofLow h l))
    | 3 => keep ((GR3.ofLow h l).toLow 3 == l) (.umulhI (GR3.ofLow h l))
    | 4 => keep ((GR3.ofLow h l).toLow 4 == l) (.umulhN (GR3.ofLow h l))
    | 5 => keep ((GR3.ofLow h l).toLow 5 == l) (.uand (GR3.ofLow h l))
    | 6 => keep ((GR3.ofLow h l).toLow 6 == l) (.uor (GR3.ofLow h l))
    | 7 => keep ((GR3.ofLow h l).toLow 7 == l) (.uxor (GR3.ofLow h l))
    | 8 => keep ((GR3.ofLow h l).toLow 8 == l) (.ushl (GR3.ofLow h l))
    | 9 => keep ((GR3.ofLow h l).toLow 9 == l) (.ushr (GR3.ofLow h l))
    | 10 => keep ((GR3.ofLow h l).toLow 10 == l) (.usar (GR3.ofLow h l))
    | 11 => keep ((GR3.ofLow h l).toLow 11 == l) (.uminI (GR3.ofLow h l))
    | 12 => keep ((GR3.ofLow h l).toLow 12 == l) (.uminN (GR3.ofLow h l))
    | 13 => keep ((GR3.ofLow h l).toLow 13 == l) (.umaxI (GR3.ofLow h l))
    | 14 => keep ((GR3.ofLow h l).toLow 14 == l) (.umaxN (GR3.ofLow h l))
    | 15 => keep ((GR2.ofLow h l).toLow 15 == l) (.umov (GR2.ofLow h l))
    | 16 => keep ((GR3.ofLow h l).toLow 16 == l) (.usel (GR3.ofLow h l))
    | 32 | 33 | 34 | 35 | 36 | 37 | 38 | 39 => keep ((GCmp.ofLow h l).toLow 4 == l) (.ucmpI (GCmp.ofLow h l))
    | 40 | 41 | 42 | 43 | 44 | 45 | 46 | 47 => keep ((GCmp.ofLow h l).toLow 5 == l) (.ucmpN (GCmp.ofLow h l))
    | _ => none := rfl

/-- The arms of one major of the decoder. -/
theorem decodeG_distrib (h : Bool) (l : BitVec 23) : decodeG h (BitVec.toNat (0x4a : BitVec 7)) l =
    match (l.extractLsb' 0 8).toNat with
    | 0 => keep ((GR2.ofLow h l).toLow 0 == l) (.distrib (GR2.ofLow h l))
    | 1 => keep ((GR2.ofLow h l).toLow 1 == l) (.distribCompact (GR2.ofLow h l))
    | _ => none := rfl

/-- The arms of one major of the decoder. -/
theorem decodeL_iun (p : Option Pfx) (h : Bool) (l : BitVec 23) : decodeL p none h (BitVec.toNat (0x42 : BitVec 7)) l =
    match (l.extractLsb' 2 4).toNat with
    | 0 => keep ((LUw.ofLow p h l).toLow 0 == l) (.iabs (LUw.ofLow p h l))
    | 1 => keep ((LUw.ofLow p h l).toLow 1 == l) (.ineg (LUw.ofLow p h l))
    | 2 => keep ((LUw.ofLow p h l).toLow 2 == l) (.clz (LUw.ofLow p h l))
    | 3 => keep ((LUw.ofLow p h l).toLow 3 == l) (.popc (LUw.ofLow p h l))
    | 4 => keep ((LUw.ofLow p h l).toLow 4 == l) (.brev (LUw.ofLow p h l))
    | _ => none := rfl

/-- The arms of one major of the decoder. -/
theorem decodeL_fun (p : Option Pfx) (h : Bool) (l : BitVec 23) : decodeL p none h (BitVec.toNat (0x43 : BitVec 7)) l =
    match (l.extractLsb' 2 4).toNat with
    | 0 => keep ((LUw.ofLow p h l).toLow 0 == l) (.fclass (LUw.ofLow p h l))
    | 1 => keep ((LUw.ofLow p h l).toLow 1 == l) (.frnd (LUw.ofLow p h l))
    | 2 => keep ((LUw.ofLow p h l).toLow 2 == l) (.fract (LUw.ofLow p h l))
    | _ => none := rfl

/-- The arms of one major of the decoder. -/
theorem decodeL_special (p : Option Pfx) (h : Bool) (l : BitVec 23) : decodeL p none h (BitVec.toNat (0x44 : BitVec 7)) l =
    match (l.extractLsb' 2 4).toNat with
    | 0 => keep ((LUw.ofLow p h l).toLow 0 == l) (.exp2 (LUw.ofLow p h l))
    | 1 => keep ((LUw.ofLow p h l).toLow 1 == l) (.log2 (LUw.ofLow p h l))
    | 2 => keep ((LUw.ofLow p h l).toLow 2 == l) (.rcp (LUw.ofLow p h l))
    | 3 => keep ((LUw.ofLow p h l).toLow 3 == l) (.rsq (LUw.ofLow p h l))
    | 4 => keep ((LUw.ofLow p h l).toLow 4 == l) (.sqrt (LUw.ofLow p h l))
    | 5 => keep ((LUw.ofLow p h l).toLow 5 == l) (.sin (LUw.ofLow p h l))
    | 6 => keep ((LUw.ofLow p h l).toLow 6 == l) (.cos (LUw.ofLow p h l))
    | 7 => keep ((LUw.ofLow p h l).toLow 7 == l) (.tanh (LUw.ofLow p h l))
    | _ => none := rfl

/-- The arms of one major of the decoder. -/
theorem decodeL_shuffle (p : Option Pfx) (h : Bool) (l : BitVec 23) : decodeL p none h (BitVec.toNat (0x4d : BitVec 7)) l =
    match (l.extractLsb' 6 3).toNat with
    | 0 => keep ((LShf.ofLow p h l).toLow 0 == l) (.shflUp (LShf.ofLow p h l))
    | 1 => keep ((LShf.ofLow p h l).toLow 1 == l) (.shflDn (LShf.ofLow p h l))
    | 2 => keep ((LShf.ofLow p h l).toLow 2 == l) (.shflXor (LShf.ofLow p h l))
    | _ => none := rfl

theorem iaddI (u : LRw) : Statement (.iaddI u) := fun _ => .inr (by
  show decode (pfxWords u.p ++ [packL u.h 0x1 (u.toLow)]) = _
  rw [decode_lane _ _ _ _ (by decide) (by decide)]
  exact congrArg (fun x => some (Instr.iaddI x)) (lrw_ofLow_toLow u))
theorem iaddN (u : LRw) : Statement (.iaddN u) := fun _ => .inr (by
  show decode (pfxWords u.p ++ [packL u.h 0x2 (u.toLow)]) = _
  rw [decode_lane _ _ _ _ (by decide) (by decide)]
  exact congrArg (fun x => some (Instr.iaddN x)) (lrw_ofLow_toLow u))
theorem isubI (u : LRw) : Statement (.isubI u) := fun _ => .inr (by
  show decode (pfxWords u.p ++ [packL u.h 0x3 (u.toLow)]) = _
  rw [decode_lane _ _ _ _ (by decide) (by decide)]
  exact congrArg (fun x => some (Instr.isubI x)) (lrw_ofLow_toLow u))
theorem isubN (u : LRw) : Statement (.isubN u) := fun _ => .inr (by
  show decode (pfxWords u.p ++ [packL u.h 0x4 (u.toLow)]) = _
  rw [decode_lane _ _ _ _ (by decide) (by decide)]
  exact congrArg (fun x => some (Instr.isubN x)) (lrw_ofLow_toLow u))
theorem imulI (u : LRw) : Statement (.imulI u) := fun _ => .inr (by
  show decode (pfxWords u.p ++ [packL u.h 0x5 (u.toLow)]) = _
  rw [decode_lane _ _ _ _ (by decide) (by decide)]
  exact congrArg (fun x => some (Instr.imulI x)) (lrw_ofLow_toLow u))
theorem imulN (u : LRw) : Statement (.imulN u) := fun _ => .inr (by
  show decode (pfxWords u.p ++ [packL u.h 0x6 (u.toLow)]) = _
  rw [decode_lane _ _ _ _ (by decide) (by decide)]
  exact congrArg (fun x => some (Instr.imulN x)) (lrw_ofLow_toLow u))
theorem imulhI (u : LRw) : Statement (.imulhI u) := fun _ => .inr (by
  show decode (pfxWords u.p ++ [packL u.h 0x7 (u.toLow)]) = _
  rw [decode_lane _ _ _ _ (by decide) (by decide)]
  exact congrArg (fun x => some (Instr.imulhI x)) (lrw_ofLow_toLow u))
theorem imulhN (u : LRw) : Statement (.imulhN u) := fun _ => .inr (by
  show decode (pfxWords u.p ++ [packL u.h 0x8 (u.toLow)]) = _
  rw [decode_lane _ _ _ _ (by decide) (by decide)]
  exact congrArg (fun x => some (Instr.imulhN x)) (lrw_ofLow_toLow u))
theorem imulwI (u : LR0) : Statement (.imulwI u) := fun _ => .inr (by
  show decode (pfxWords u.p ++ [packL u.h 0x9 (u.toLow 0)]) = _
  rw [decode_lane _ _ _ _ (by decide) (by decide)]
  exact (congrArg (fun x => keep (LR0.toLow x 0 == _) (.imulwI x)) (lr0_ofLow_toLow u 0)).trans (keep_same _ _))
theorem imulwN (u : LR0) : Statement (.imulwN u) := fun _ => .inr (by
  show decode (pfxWords u.p ++ [packL u.h 0xa (u.toLow 0)]) = _
  rw [decode_lane _ _ _ _ (by decide) (by decide)]
  exact (congrArg (fun x => keep (LR0.toLow x 0 == _) (.imulwN x)) (lr0_ofLow_toLow u 0)).trans (keep_same _ _))
theorem imadI (u : LRw) : Statement (.imadI u) := fun _ => .inr (by
  show decode (pfxWords u.p ++ [packL u.h 0xb (u.toLow)]) = _
  rw [decode_lane _ _ _ _ (by decide) (by decide)]
  exact congrArg (fun x => some (Instr.imadI x)) (lrw_ofLow_toLow u))
theorem imadN (u : LRw) : Statement (.imadN u) := fun _ => .inr (by
  show decode (pfxWords u.p ++ [packL u.h 0xc (u.toLow)]) = _
  rw [decode_lane _ _ _ _ (by decide) (by decide)]
  exact congrArg (fun x => some (Instr.imadN x)) (lrw_ofLow_toLow u))
theorem iminI (u : LRw) : Statement (.iminI u) := fun _ => .inr (by
  show decode (pfxWords u.p ++ [packL u.h 0xd (u.toLow)]) = _
  rw [decode_lane _ _ _ _ (by decide) (by decide)]
  exact congrArg (fun x => some (Instr.iminI x)) (lrw_ofLow_toLow u))
theorem iminN (u : LRw) : Statement (.iminN u) := fun _ => .inr (by
  show decode (pfxWords u.p ++ [packL u.h 0xe (u.toLow)]) = _
  rw [decode_lane _ _ _ _ (by decide) (by decide)]
  exact congrArg (fun x => some (Instr.iminN x)) (lrw_ofLow_toLow u))
theorem imaxI (u : LRw) : Statement (.imaxI u) := fun _ => .inr (by
  show decode (pfxWords u.p ++ [packL u.h 0xf (u.toLow)]) = _
  rw [decode_lane _ _ _ _ (by decide) (by decide)]
  exact congrArg (fun x => some (Instr.imaxI x)) (lrw_ofLow_toLow u))
theorem imaxN (u : LRw) : Statement (.imaxN u) := fun _ => .inr (by
  show decode (pfxWords u.p ++ [packL u.h 0x10 (u.toLow)]) = _
  rw [decode_lane _ _ _ _ (by decide) (by decide)]
  exact congrArg (fun x => some (Instr.imaxN x)) (lrw_ofLow_toLow u))
theorem isadI (u : LRw) : Statement (.isadI u) := fun _ => .inr (by
  show decode (pfxWords u.p ++ [packL u.h 0x11 (u.toLow)]) = _
  rw [decode_lane _ _ _ _ (by decide) (by decide)]
  exact congrArg (fun x => some (Instr.isadI x)) (lrw_ofLow_toLow u))
theorem isadN (u : LRw) : Statement (.isadN u) := fun _ => .inr (by
  show decode (pfxWords u.p ++ [packL u.h 0x12 (u.toLow)]) = _
  rw [decode_lane _ _ _ _ (by decide) (by decide)]
  exact congrArg (fun x => some (Instr.isadN x)) (lrw_ofLow_toLow u))
theorem icmpI (u : LCmpW) : Statement (.icmpI u) := fun _ => .inr (by
  show decode (pfxWords u.p ++ [packL u.h 0x13 (u.toLow)]) = _
  rw [decode_lane _ _ _ _ (by decide) (by decide)]
  exact congrArg (fun x => some (Instr.icmpI x)) (lcmpw_ofLow_toLow u))
theorem icmpN (u : LCmpW) : Statement (.icmpN u) := fun _ => .inr (by
  show decode (pfxWords u.p ++ [packL u.h 0x14 (u.toLow)]) = _
  rw [decode_lane _ _ _ _ (by decide) (by decide)]
  exact congrArg (fun x => some (Instr.icmpN x)) (lcmpw_ofLow_toLow u))
theorem iaddI16x2 (u : LR0) : Statement (.iaddI16x2 u) := fun _ => .inr (by
  show decode (pfxWords u.p ++ [packL u.h 0x15 (u.toLow 0)]) = _
  rw [decode_lane _ _ _ _ (by decide) (by decide)]
  exact (congrArg (fun x => keep (LR0.toLow x 0 == _) (.iaddI16x2 x)) (lr0_ofLow_toLow u 0)).trans (keep_same _ _))
theorem iaddN16x2 (u : LR0) : Statement (.iaddN16x2 u) := fun _ => .inr (by
  show decode (pfxWords u.p ++ [packL u.h 0x16 (u.toLow 0)]) = _
  rw [decode_lane _ _ _ _ (by decide) (by decide)]
  exact (congrArg (fun x => keep (LR0.toLow x 0 == _) (.iaddN16x2 x)) (lr0_ofLow_toLow u 0)).trans (keep_same _ _))
theorem isubI16x2 (u : LR0) : Statement (.isubI16x2 u) := fun _ => .inr (by
  show decode (pfxWords u.p ++ [packL u.h 0x17 (u.toLow 0)]) = _
  rw [decode_lane _ _ _ _ (by decide) (by decide)]
  exact (congrArg (fun x => keep (LR0.toLow x 0 == _) (.isubI16x2 x)) (lr0_ofLow_toLow u 0)).trans (keep_same _ _))
theorem isubN16x2 (u : LR0) : Statement (.isubN16x2 u) := fun _ => .inr (by
  show decode (pfxWords u.p ++ [packL u.h 0x18 (u.toLow 0)]) = _
  rw [decode_lane _ _ _ _ (by decide) (by decide)]
  exact (congrArg (fun x => keep (LR0.toLow x 0 == _) (.isubN16x2 x)) (lr0_ofLow_toLow u 0)).trans (keep_same _ _))
theorem iminI16x2 (u : LR0) : Statement (.iminI16x2 u) := fun _ => .inr (by
  show decode (pfxWords u.p ++ [packL u.h 0x19 (u.toLow 0)]) = _
  rw [decode_lane _ _ _ _ (by decide) (by decide)]
  exact (congrArg (fun x => keep (LR0.toLow x 0 == _) (.iminI16x2 x)) (lr0_ofLow_toLow u 0)).trans (keep_same _ _))
theorem iminN16x2 (u : LR0) : Statement (.iminN16x2 u) := fun _ => .inr (by
  show decode (pfxWords u.p ++ [packL u.h 0x1a (u.toLow 0)]) = _
  rw [decode_lane _ _ _ _ (by decide) (by decide)]
  exact (congrArg (fun x => keep (LR0.toLow x 0 == _) (.iminN16x2 x)) (lr0_ofLow_toLow u 0)).trans (keep_same _ _))
theorem imaxI16x2 (u : LR0) : Statement (.imaxI16x2 u) := fun _ => .inr (by
  show decode (pfxWords u.p ++ [packL u.h 0x1b (u.toLow 0)]) = _
  rw [decode_lane _ _ _ _ (by decide) (by decide)]
  exact (congrArg (fun x => keep (LR0.toLow x 0 == _) (.imaxI16x2 x)) (lr0_ofLow_toLow u 0)).trans (keep_same _ _))
theorem imaxN16x2 (u : LR0) : Statement (.imaxN16x2 u) := fun _ => .inr (by
  show decode (pfxWords u.p ++ [packL u.h 0x1c (u.toLow 0)]) = _
  rw [decode_lane _ _ _ _ (by decide) (by decide)]
  exact (congrArg (fun x => keep (LR0.toLow x 0 == _) (.imaxN16x2 x)) (lr0_ofLow_toLow u 0)).trans (keep_same _ _))
theorem icmpI16x2 (u : LCmp0) : Statement (.icmpI16x2 u) := fun _ => .inr (by
  show decode (pfxWords u.p ++ [packL u.h 0x1d (u.toLow 0)]) = _
  rw [decode_lane _ _ _ _ (by decide) (by decide)]
  exact (congrArg (fun x => keep (LCmp0.toLow x 0 == _) (.icmpI16x2 x)) (lcmp0_ofLow_toLow u 0)).trans (keep_same _ _))
theorem icmpN16x2 (u : LCmp0) : Statement (.icmpN16x2 u) := fun _ => .inr (by
  show decode (pfxWords u.p ++ [packL u.h 0x1e (u.toLow 0)]) = _
  rw [decode_lane _ _ _ _ (by decide) (by decide)]
  exact (congrArg (fun x => keep (LCmp0.toLow x 0 == _) (.icmpN16x2 x)) (lcmp0_ofLow_toLow u 0)).trans (keep_same _ _))
theorem and (u : LRw) : Statement (.and u) := fun _ => .inr (by
  show decode (pfxWords u.p ++ [packL u.h 0x1f (u.toLow)]) = _
  rw [decode_lane _ _ _ _ (by decide) (by decide)]
  exact congrArg (fun x => some (Instr.and x)) (lrw_ofLow_toLow u))
theorem or (u : LRw) : Statement (.or u) := fun _ => .inr (by
  show decode (pfxWords u.p ++ [packL u.h 0x20 (u.toLow)]) = _
  rw [decode_lane _ _ _ _ (by decide) (by decide)]
  exact congrArg (fun x => some (Instr.or x)) (lrw_ofLow_toLow u))
theorem xor (u : LRw) : Statement (.xor u) := fun _ => .inr (by
  show decode (pfxWords u.p ++ [packL u.h 0x21 (u.toLow)]) = _
  rw [decode_lane _ _ _ _ (by decide) (by decide)]
  exact congrArg (fun x => some (Instr.xor x)) (lrw_ofLow_toLow u))
theorem andn (u : LRw) : Statement (.andn u) := fun _ => .inr (by
  show decode (pfxWords u.p ++ [packL u.h 0x22 (u.toLow)]) = _
  rw [decode_lane _ _ _ _ (by decide) (by decide)]
  exact congrArg (fun x => some (Instr.andn x)) (lrw_ofLow_toLow u))
theorem shl (u : LRw) : Statement (.shl u) := fun _ => .inr (by
  show decode (pfxWords u.p ++ [packL u.h 0x23 (u.toLow)]) = _
  rw [decode_lane _ _ _ _ (by decide) (by decide)]
  exact congrArg (fun x => some (Instr.shl x)) (lrw_ofLow_toLow u))
theorem shr (u : LRw) : Statement (.shr u) := fun _ => .inr (by
  show decode (pfxWords u.p ++ [packL u.h 0x24 (u.toLow)]) = _
  rw [decode_lane _ _ _ _ (by decide) (by decide)]
  exact congrArg (fun x => some (Instr.shr x)) (lrw_ofLow_toLow u))
theorem sar (u : LRw) : Statement (.sar u) := fun _ => .inr (by
  show decode (pfxWords u.p ++ [packL u.h 0x25 (u.toLow)]) = _
  rw [decode_lane _ _ _ _ (by decide) (by decide)]
  exact congrArg (fun x => some (Instr.sar x)) (lrw_ofLow_toLow u))
theorem rotl (u : LRw) : Statement (.rotl u) := fun _ => .inr (by
  show decode (pfxWords u.p ++ [packL u.h 0x26 (u.toLow)]) = _
  rw [decode_lane _ _ _ _ (by decide) (by decide)]
  exact congrArg (fun x => some (Instr.rotl x)) (lrw_ofLow_toLow u))
theorem bfxI (u : LRw) : Statement (.bfxI u) := fun _ => .inr (by
  show decode (pfxWords u.p ++ [packL u.h 0x27 (u.toLow)]) = _
  rw [decode_lane _ _ _ _ (by decide) (by decide)]
  exact congrArg (fun x => some (Instr.bfxI x)) (lrw_ofLow_toLow u))
theorem bfxN (u : LRw) : Statement (.bfxN u) := fun _ => .inr (by
  show decode (pfxWords u.p ++ [packL u.h 0x28 (u.toLow)]) = _
  rw [decode_lane _ _ _ _ (by decide) (by decide)]
  exact congrArg (fun x => some (Instr.bfxN x)) (lrw_ofLow_toLow u))
theorem bfi (u : LRw) : Statement (.bfi u) := fun _ => .inr (by
  show decode (pfxWords u.p ++ [packL u.h 0x29 (u.toLow)]) = _
  rw [decode_lane _ _ _ _ (by decide) (by decide)]
  exact congrArg (fun x => some (Instr.bfi x)) (lrw_ofLow_toLow u))
theorem sel (u : LRw) : Statement (.sel u) := fun _ => .inr (by
  show decode (pfxWords u.p ++ [packL u.h 0x2a (u.toLow)]) = _
  rw [decode_lane _ _ _ _ (by decide) (by decide)]
  exact congrArg (fun x => some (Instr.sel x)) (lrw_ofLow_toLow u))
theorem fadd (u : LRw) : Statement (.fadd u) := fun _ => .inr (by
  show decode (pfxWords u.p ++ [packL u.h 0x2b (u.toLow)]) = _
  rw [decode_lane _ _ _ _ (by decide) (by decide)]
  exact congrArg (fun x => some (Instr.fadd x)) (lrw_ofLow_toLow u))
theorem fsub (u : LRw) : Statement (.fsub u) := fun _ => .inr (by
  show decode (pfxWords u.p ++ [packL u.h 0x2c (u.toLow)]) = _
  rw [decode_lane _ _ _ _ (by decide) (by decide)]
  exact congrArg (fun x => some (Instr.fsub x)) (lrw_ofLow_toLow u))
theorem fmul (u : LRw) : Statement (.fmul u) := fun _ => .inr (by
  show decode (pfxWords u.p ++ [packL u.h 0x2d (u.toLow)]) = _
  rw [decode_lane _ _ _ _ (by decide) (by decide)]
  exact congrArg (fun x => some (Instr.fmul x)) (lrw_ofLow_toLow u))
theorem ffma (u : LRw) : Statement (.ffma u) := fun _ => .inr (by
  show decode (pfxWords u.p ++ [packL u.h 0x2e (u.toLow)]) = _
  rw [decode_lane _ _ _ _ (by decide) (by decide)]
  exact congrArg (fun x => some (Instr.ffma x)) (lrw_ofLow_toLow u))
theorem fmin (u : LRw) : Statement (.fmin u) := fun _ => .inr (by
  show decode (pfxWords u.p ++ [packL u.h 0x2f (u.toLow)]) = _
  rw [decode_lane _ _ _ _ (by decide) (by decide)]
  exact congrArg (fun x => some (Instr.fmin x)) (lrw_ofLow_toLow u))
theorem fmax (u : LRw) : Statement (.fmax u) := fun _ => .inr (by
  show decode (pfxWords u.p ++ [packL u.h 0x30 (u.toLow)]) = _
  rw [decode_lane _ _ _ _ (by decide) (by decide)]
  exact congrArg (fun x => some (Instr.fmax x)) (lrw_ofLow_toLow u))
theorem fdiv (u : LRw) : Statement (.fdiv u) := fun _ => .inr (by
  show decode (pfxWords u.p ++ [packL u.h 0x31 (u.toLow)]) = _
  rw [decode_lane _ _ _ _ (by decide) (by decide)]
  exact congrArg (fun x => some (Instr.fdiv x)) (lrw_ofLow_toLow u))
theorem fcmp (u : LCmpW) : Statement (.fcmp u) := fun _ => .inr (by
  show decode (pfxWords u.p ++ [packL u.h 0x32 (u.toLow)]) = _
  rw [decode_lane _ _ _ _ (by decide) (by decide)]
  exact congrArg (fun x => some (Instr.fcmp x)) (lcmpw_ofLow_toLow u))
theorem fscale (u : LRw) : Statement (.fscale u) := fun _ => .inr (by
  show decode (pfxWords u.p ++ [packL u.h 0x33 (u.toLow)]) = _
  rw [decode_lane _ _ _ _ (by decide) (by decide)]
  exact congrArg (fun x => some (Instr.fscale x)) (lrw_ofLow_toLow u))
theorem faddBf16x2 (u : LR0) : Statement (.faddBf16x2 u) := fun _ => .inr (by
  show decode (pfxWords u.p ++ [packL u.h 0x34 (u.toLow 0)]) = _
  rw [decode_lane _ _ _ _ (by decide) (by decide)]
  exact (congrArg (fun x => keep (LR0.toLow x 0 == _) (.faddBf16x2 x)) (lr0_ofLow_toLow u 0)).trans (keep_same _ _))
theorem fsubBf16x2 (u : LR0) : Statement (.fsubBf16x2 u) := fun _ => .inr (by
  show decode (pfxWords u.p ++ [packL u.h 0x35 (u.toLow 0)]) = _
  rw [decode_lane _ _ _ _ (by decide) (by decide)]
  exact (congrArg (fun x => keep (LR0.toLow x 0 == _) (.fsubBf16x2 x)) (lr0_ofLow_toLow u 0)).trans (keep_same _ _))
theorem fmulBf16x2 (u : LR0) : Statement (.fmulBf16x2 u) := fun _ => .inr (by
  show decode (pfxWords u.p ++ [packL u.h 0x36 (u.toLow 0)]) = _
  rw [decode_lane _ _ _ _ (by decide) (by decide)]
  exact (congrArg (fun x => keep (LR0.toLow x 0 == _) (.fmulBf16x2 x)) (lr0_ofLow_toLow u 0)).trans (keep_same _ _))
theorem ffmaBf16x2 (u : LR0) : Statement (.ffmaBf16x2 u) := fun _ => .inr (by
  show decode (pfxWords u.p ++ [packL u.h 0x37 (u.toLow 0)]) = _
  rw [decode_lane _ _ _ _ (by decide) (by decide)]
  exact (congrArg (fun x => keep (LR0.toLow x 0 == _) (.ffmaBf16x2 x)) (lr0_ofLow_toLow u 0)).trans (keep_same _ _))
theorem fminBf16x2 (u : LR0) : Statement (.fminBf16x2 u) := fun _ => .inr (by
  show decode (pfxWords u.p ++ [packL u.h 0x38 (u.toLow 0)]) = _
  rw [decode_lane _ _ _ _ (by decide) (by decide)]
  exact (congrArg (fun x => keep (LR0.toLow x 0 == _) (.fminBf16x2 x)) (lr0_ofLow_toLow u 0)).trans (keep_same _ _))
theorem fmaxBf16x2 (u : LR0) : Statement (.fmaxBf16x2 u) := fun _ => .inr (by
  show decode (pfxWords u.p ++ [packL u.h 0x39 (u.toLow 0)]) = _
  rw [decode_lane _ _ _ _ (by decide) (by decide)]
  exact (congrArg (fun x => keep (LR0.toLow x 0 == _) (.fmaxBf16x2 x)) (lr0_ofLow_toLow u 0)).trans (keep_same _ _))
theorem fcmpBf16x2 (u : LCmp0) : Statement (.fcmpBf16x2 u) := fun _ => .inr (by
  show decode (pfxWords u.p ++ [packL u.h 0x3a (u.toLow 0)]) = _
  rw [decode_lane _ _ _ _ (by decide) (by decide)]
  exact (congrArg (fun x => keep (LCmp0.toLow x 0 == _) (.fcmpBf16x2 x)) (lcmp0_ofLow_toLow u 0)).trans (keep_same _ _))
theorem faddFp16x2 (u : LR0) : Statement (.faddFp16x2 u) := fun _ => .inr (by
  show decode (pfxWords u.p ++ [packL u.h 0x3b (u.toLow 0)]) = _
  rw [decode_lane _ _ _ _ (by decide) (by decide)]
  exact (congrArg (fun x => keep (LR0.toLow x 0 == _) (.faddFp16x2 x)) (lr0_ofLow_toLow u 0)).trans (keep_same _ _))
theorem fsubFp16x2 (u : LR0) : Statement (.fsubFp16x2 u) := fun _ => .inr (by
  show decode (pfxWords u.p ++ [packL u.h 0x3c (u.toLow 0)]) = _
  rw [decode_lane _ _ _ _ (by decide) (by decide)]
  exact (congrArg (fun x => keep (LR0.toLow x 0 == _) (.fsubFp16x2 x)) (lr0_ofLow_toLow u 0)).trans (keep_same _ _))
theorem fmulFp16x2 (u : LR0) : Statement (.fmulFp16x2 u) := fun _ => .inr (by
  show decode (pfxWords u.p ++ [packL u.h 0x3d (u.toLow 0)]) = _
  rw [decode_lane _ _ _ _ (by decide) (by decide)]
  exact (congrArg (fun x => keep (LR0.toLow x 0 == _) (.fmulFp16x2 x)) (lr0_ofLow_toLow u 0)).trans (keep_same _ _))
theorem ffmaFp16x2 (u : LR0) : Statement (.ffmaFp16x2 u) := fun _ => .inr (by
  show decode (pfxWords u.p ++ [packL u.h 0x3e (u.toLow 0)]) = _
  rw [decode_lane _ _ _ _ (by decide) (by decide)]
  exact (congrArg (fun x => keep (LR0.toLow x 0 == _) (.ffmaFp16x2 x)) (lr0_ofLow_toLow u 0)).trans (keep_same _ _))
theorem fminFp16x2 (u : LR0) : Statement (.fminFp16x2 u) := fun _ => .inr (by
  show decode (pfxWords u.p ++ [packL u.h 0x3f (u.toLow 0)]) = _
  rw [decode_lane _ _ _ _ (by decide) (by decide)]
  exact (congrArg (fun x => keep (LR0.toLow x 0 == _) (.fminFp16x2 x)) (lr0_ofLow_toLow u 0)).trans (keep_same _ _))
theorem fmaxFp16x2 (u : LR0) : Statement (.fmaxFp16x2 u) := fun _ => .inr (by
  show decode (pfxWords u.p ++ [packL u.h 0x40 (u.toLow 0)]) = _
  rw [decode_lane _ _ _ _ (by decide) (by decide)]
  exact (congrArg (fun x => keep (LR0.toLow x 0 == _) (.fmaxFp16x2 x)) (lr0_ofLow_toLow u 0)).trans (keep_same _ _))
theorem fcmpFp16x2 (u : LCmp0) : Statement (.fcmpFp16x2 u) := fun _ => .inr (by
  show decode (pfxWords u.p ++ [packL u.h 0x41 (u.toLow 0)]) = _
  rw [decode_lane _ _ _ _ (by decide) (by decide)]
  exact (congrArg (fun x => keep (LCmp0.toLow x 0 == _) (.fcmpFp16x2 x)) (lcmp0_ofLow_toLow u 0)).trans (keep_same _ _))
set_option linter.unusedSimpArgs false in
theorem iabs (u : LUw) : Statement (.iabs u) := fun _ => .inr (by
  show decode (pfxWords u.p ++ [packL u.h 0x42 (u.toLow 0)]) = _
  rw [decode_lane _ _ _ _ (by decide) (by decide)]
  have e : BitVec.extractLsb' 2 4 (u.toLow 0) = 0 := by
    simp (disch := decide) only [LUw.toLow, extract_high, extract_low, Nat.reduceSub, extract_all]
  have h := luw_ofLow_toLow u 0
  refine (decodeL_iun _ _ _).trans ?_
  rw [e]
  exact (congrArg (fun x => keep (LUw.toLow x 0 == _) (.iabs x)) h).trans (keep_same _ _))
set_option linter.unusedSimpArgs false in
theorem ineg (u : LUw) : Statement (.ineg u) := fun _ => .inr (by
  show decode (pfxWords u.p ++ [packL u.h 0x42 (u.toLow 1)]) = _
  rw [decode_lane _ _ _ _ (by decide) (by decide)]
  have e : BitVec.extractLsb' 2 4 (u.toLow 1) = 1 := by
    simp (disch := decide) only [LUw.toLow, extract_high, extract_low, Nat.reduceSub, extract_all]
  have h := luw_ofLow_toLow u 1
  refine (decodeL_iun _ _ _).trans ?_
  rw [e]
  exact (congrArg (fun x => keep (LUw.toLow x 1 == _) (.ineg x)) h).trans (keep_same _ _))
set_option linter.unusedSimpArgs false in
theorem clz (u : LUw) : Statement (.clz u) := fun _ => .inr (by
  show decode (pfxWords u.p ++ [packL u.h 0x42 (u.toLow 2)]) = _
  rw [decode_lane _ _ _ _ (by decide) (by decide)]
  have e : BitVec.extractLsb' 2 4 (u.toLow 2) = 2 := by
    simp (disch := decide) only [LUw.toLow, extract_high, extract_low, Nat.reduceSub, extract_all]
  have h := luw_ofLow_toLow u 2
  refine (decodeL_iun _ _ _).trans ?_
  rw [e]
  exact (congrArg (fun x => keep (LUw.toLow x 2 == _) (.clz x)) h).trans (keep_same _ _))
set_option linter.unusedSimpArgs false in
theorem popc (u : LUw) : Statement (.popc u) := fun _ => .inr (by
  show decode (pfxWords u.p ++ [packL u.h 0x42 (u.toLow 3)]) = _
  rw [decode_lane _ _ _ _ (by decide) (by decide)]
  have e : BitVec.extractLsb' 2 4 (u.toLow 3) = 3 := by
    simp (disch := decide) only [LUw.toLow, extract_high, extract_low, Nat.reduceSub, extract_all]
  have h := luw_ofLow_toLow u 3
  refine (decodeL_iun _ _ _).trans ?_
  rw [e]
  exact (congrArg (fun x => keep (LUw.toLow x 3 == _) (.popc x)) h).trans (keep_same _ _))
set_option linter.unusedSimpArgs false in
theorem brev (u : LUw) : Statement (.brev u) := fun _ => .inr (by
  show decode (pfxWords u.p ++ [packL u.h 0x42 (u.toLow 4)]) = _
  rw [decode_lane _ _ _ _ (by decide) (by decide)]
  have e : BitVec.extractLsb' 2 4 (u.toLow 4) = 4 := by
    simp (disch := decide) only [LUw.toLow, extract_high, extract_low, Nat.reduceSub, extract_all]
  have h := luw_ofLow_toLow u 4
  refine (decodeL_iun _ _ _).trans ?_
  rw [e]
  exact (congrArg (fun x => keep (LUw.toLow x 4 == _) (.brev x)) h).trans (keep_same _ _))
set_option linter.unusedSimpArgs false in
theorem fclass (u : LUw) : Statement (.fclass u) := fun _ => .inr (by
  show decode (pfxWords u.p ++ [packL u.h 0x43 (u.toLow 0)]) = _
  rw [decode_lane _ _ _ _ (by decide) (by decide)]
  have e : BitVec.extractLsb' 2 4 (u.toLow 0) = 0 := by
    simp (disch := decide) only [LUw.toLow, extract_high, extract_low, Nat.reduceSub, extract_all]
  have h := luw_ofLow_toLow u 0
  refine (decodeL_fun _ _ _).trans ?_
  rw [e]
  exact (congrArg (fun x => keep (LUw.toLow x 0 == _) (.fclass x)) h).trans (keep_same _ _))
set_option linter.unusedSimpArgs false in
theorem frnd (u : LUw) : Statement (.frnd u) := fun _ => .inr (by
  show decode (pfxWords u.p ++ [packL u.h 0x43 (u.toLow 1)]) = _
  rw [decode_lane _ _ _ _ (by decide) (by decide)]
  have e : BitVec.extractLsb' 2 4 (u.toLow 1) = 1 := by
    simp (disch := decide) only [LUw.toLow, extract_high, extract_low, Nat.reduceSub, extract_all]
  have h := luw_ofLow_toLow u 1
  refine (decodeL_fun _ _ _).trans ?_
  rw [e]
  exact (congrArg (fun x => keep (LUw.toLow x 1 == _) (.frnd x)) h).trans (keep_same _ _))
set_option linter.unusedSimpArgs false in
theorem fract (u : LUw) : Statement (.fract u) := fun _ => .inr (by
  show decode (pfxWords u.p ++ [packL u.h 0x43 (u.toLow 2)]) = _
  rw [decode_lane _ _ _ _ (by decide) (by decide)]
  have e : BitVec.extractLsb' 2 4 (u.toLow 2) = 2 := by
    simp (disch := decide) only [LUw.toLow, extract_high, extract_low, Nat.reduceSub, extract_all]
  have h := luw_ofLow_toLow u 2
  refine (decodeL_fun _ _ _).trans ?_
  rw [e]
  exact (congrArg (fun x => keep (LUw.toLow x 2 == _) (.fract x)) h).trans (keep_same _ _))
set_option linter.unusedSimpArgs false in
theorem exp2 (u : LUw) : Statement (.exp2 u) := fun _ => .inr (by
  show decode (pfxWords u.p ++ [packL u.h 0x44 (u.toLow 0)]) = _
  rw [decode_lane _ _ _ _ (by decide) (by decide)]
  have e : BitVec.extractLsb' 2 4 (u.toLow 0) = 0 := by
    simp (disch := decide) only [LUw.toLow, extract_high, extract_low, Nat.reduceSub, extract_all]
  have h := luw_ofLow_toLow u 0
  refine (decodeL_special _ _ _).trans ?_
  rw [e]
  exact (congrArg (fun x => keep (LUw.toLow x 0 == _) (.exp2 x)) h).trans (keep_same _ _))
set_option linter.unusedSimpArgs false in
theorem log2 (u : LUw) : Statement (.log2 u) := fun _ => .inr (by
  show decode (pfxWords u.p ++ [packL u.h 0x44 (u.toLow 1)]) = _
  rw [decode_lane _ _ _ _ (by decide) (by decide)]
  have e : BitVec.extractLsb' 2 4 (u.toLow 1) = 1 := by
    simp (disch := decide) only [LUw.toLow, extract_high, extract_low, Nat.reduceSub, extract_all]
  have h := luw_ofLow_toLow u 1
  refine (decodeL_special _ _ _).trans ?_
  rw [e]
  exact (congrArg (fun x => keep (LUw.toLow x 1 == _) (.log2 x)) h).trans (keep_same _ _))
set_option linter.unusedSimpArgs false in
theorem rcp (u : LUw) : Statement (.rcp u) := fun _ => .inr (by
  show decode (pfxWords u.p ++ [packL u.h 0x44 (u.toLow 2)]) = _
  rw [decode_lane _ _ _ _ (by decide) (by decide)]
  have e : BitVec.extractLsb' 2 4 (u.toLow 2) = 2 := by
    simp (disch := decide) only [LUw.toLow, extract_high, extract_low, Nat.reduceSub, extract_all]
  have h := luw_ofLow_toLow u 2
  refine (decodeL_special _ _ _).trans ?_
  rw [e]
  exact (congrArg (fun x => keep (LUw.toLow x 2 == _) (.rcp x)) h).trans (keep_same _ _))
set_option linter.unusedSimpArgs false in
theorem rsq (u : LUw) : Statement (.rsq u) := fun _ => .inr (by
  show decode (pfxWords u.p ++ [packL u.h 0x44 (u.toLow 3)]) = _
  rw [decode_lane _ _ _ _ (by decide) (by decide)]
  have e : BitVec.extractLsb' 2 4 (u.toLow 3) = 3 := by
    simp (disch := decide) only [LUw.toLow, extract_high, extract_low, Nat.reduceSub, extract_all]
  have h := luw_ofLow_toLow u 3
  refine (decodeL_special _ _ _).trans ?_
  rw [e]
  exact (congrArg (fun x => keep (LUw.toLow x 3 == _) (.rsq x)) h).trans (keep_same _ _))
set_option linter.unusedSimpArgs false in
theorem sqrt (u : LUw) : Statement (.sqrt u) := fun _ => .inr (by
  show decode (pfxWords u.p ++ [packL u.h 0x44 (u.toLow 4)]) = _
  rw [decode_lane _ _ _ _ (by decide) (by decide)]
  have e : BitVec.extractLsb' 2 4 (u.toLow 4) = 4 := by
    simp (disch := decide) only [LUw.toLow, extract_high, extract_low, Nat.reduceSub, extract_all]
  have h := luw_ofLow_toLow u 4
  refine (decodeL_special _ _ _).trans ?_
  rw [e]
  exact (congrArg (fun x => keep (LUw.toLow x 4 == _) (.sqrt x)) h).trans (keep_same _ _))
set_option linter.unusedSimpArgs false in
theorem sin (u : LUw) : Statement (.sin u) := fun _ => .inr (by
  show decode (pfxWords u.p ++ [packL u.h 0x44 (u.toLow 5)]) = _
  rw [decode_lane _ _ _ _ (by decide) (by decide)]
  have e : BitVec.extractLsb' 2 4 (u.toLow 5) = 5 := by
    simp (disch := decide) only [LUw.toLow, extract_high, extract_low, Nat.reduceSub, extract_all]
  have h := luw_ofLow_toLow u 5
  refine (decodeL_special _ _ _).trans ?_
  rw [e]
  exact (congrArg (fun x => keep (LUw.toLow x 5 == _) (.sin x)) h).trans (keep_same _ _))
set_option linter.unusedSimpArgs false in
theorem cos (u : LUw) : Statement (.cos u) := fun _ => .inr (by
  show decode (pfxWords u.p ++ [packL u.h 0x44 (u.toLow 6)]) = _
  rw [decode_lane _ _ _ _ (by decide) (by decide)]
  have e : BitVec.extractLsb' 2 4 (u.toLow 6) = 6 := by
    simp (disch := decide) only [LUw.toLow, extract_high, extract_low, Nat.reduceSub, extract_all]
  have h := luw_ofLow_toLow u 6
  refine (decodeL_special _ _ _).trans ?_
  rw [e]
  exact (congrArg (fun x => keep (LUw.toLow x 6 == _) (.cos x)) h).trans (keep_same _ _))
set_option linter.unusedSimpArgs false in
theorem tanh (u : LUw) : Statement (.tanh u) := fun _ => .inr (by
  show decode (pfxWords u.p ++ [packL u.h 0x44 (u.toLow 7)]) = _
  rw [decode_lane _ _ _ _ (by decide) (by decide)]
  have e : BitVec.extractLsb' 2 4 (u.toLow 7) = 7 := by
    simp (disch := decide) only [LUw.toLow, extract_high, extract_low, Nat.reduceSub, extract_all]
  have h := luw_ofLow_toLow u 7
  refine (decodeL_special _ _ _).trans ?_
  rw [e]
  exact (congrArg (fun x => keep (LUw.toLow x 7 == _) (.tanh x)) h).trans (keep_same _ _))
theorem cvtFloatSource (u : LUf) : Statement (.cvtFloatSource u) := fun _ => .inr (by
  show decode (pfxWords u.p ++ [packL u.h 0x45 (u.toLow 0)]) = _
  rw [decode_lane _ _ _ _ (by decide) (by decide)]
  exact (congrArg (fun x => keep (LUf.toLow x 0 == _) (.cvtFloatSource x)) (luf_ofLow_toLow u 0)).trans (keep_same _ _))
theorem cvtIntegerSource (u : LUf) : Statement (.cvtIntegerSource u) := fun _ => .inr (by
  show decode (pfxWords u.p ++ [packL u.h 0x46 (u.toLow 0)]) = _
  rw [decode_lane _ _ _ _ (by decide) (by decide)]
  exact (congrArg (fun x => keep (LUf.toLow x 0 == _) (.cvtIntegerSource x)) (luf_ofLow_toLow u 0)).trans (keep_same _ _))
theorem cvts (u : LUf) : Statement (.cvts u) := fun _ => .inr (by
  show decode (pfxWords u.p ++ [packL u.h 0x47 (u.toLow 0)]) = _
  rw [decode_lane _ _ _ _ (by decide) (by decide)]
  exact (congrArg (fun x => keep (LUf.toLow x 0 == _) (.cvts x)) (luf_ofLow_toLow u 0)).trans (keep_same _ _))
theorem blkenc (u : LUf) : Statement (.blkenc u) := fun _ => .inr (by
  show decode (pfxWords u.p ++ [packL u.h 0x48 (u.toLow 0)]) = _
  rw [decode_lane _ _ _ _ (by decide) (by decide)]
  exact (congrArg (fun x => keep (LUf.toLow x 0 == _) (.blkenc x)) (luf_ofLow_toLow u 0)).trans (keep_same _ _))
theorem blkdec (u : LUf) : Statement (.blkdec u) := fun _ => .inr (by
  show decode (pfxWords u.p ++ [packL u.h 0x49 (u.toLow 0)]) = _
  rw [decode_lane _ _ _ _ (by decide) (by decide)]
  exact (congrArg (fun x => keep (LUf.toLow x 0 == _) (.blkdec x)) (luf_ofLow_toLow u 0)).trans (keep_same _ _))
theorem rand (u : LDf) : Statement (.rand u) := fun _ => .inr (by
  show decode (pfxWords u.p ++ [packL u.h 0x4a (u.toLow 0 0)]) = _
  rw [decode_lane _ _ _ _ (by decide) (by decide)]
  exact (congrArg (fun x => keep (LDf.toLow x 0 0 == _) (.rand x)) (ldf_ofLow_toLow u 0 0)).trans (keep_same _ _))
theorem tidx (u : LUf) : Statement (.tidx u) := fun _ => .inr (by
  show decode (pfxWords u.p ++ [packL u.h 0x4b (u.toLow 0)]) = _
  rw [decode_lane _ _ _ _ (by decide) (by decide)]
  exact (congrArg (fun x => keep (LUf.toLow x 0 == _) (.tidx x)) (luf_ofLow_toLow u 0)).trans (keep_same _ _))
theorem shfl (u : LRw) : Statement (.shfl u) := fun _ => .inr (by
  show decode (pfxWords u.p ++ [packL u.h 0x4c (u.toLow)]) = _
  rw [decode_lane _ _ _ _ (by decide) (by decide)]
  exact congrArg (fun x => some (Instr.shfl x)) (lrw_ofLow_toLow u))
set_option linter.unusedSimpArgs false in
theorem shflUp (u : LShf) : Statement (.shflUp u) := fun _ => .inr (by
  show decode (pfxWords u.p ++ [packL u.h 0x4d (u.toLow 0)]) = _
  rw [decode_lane _ _ _ _ (by decide) (by decide)]
  have e : BitVec.extractLsb' 6 3 (u.toLow 0) = 0 := by
    simp (disch := decide) only [LShf.toLow, extract_high, extract_low, Nat.reduceSub, extract_all]
  have h := lshf_ofLow_toLow u 0
  refine (decodeL_shuffle _ _ _).trans ?_
  rw [e]
  exact (congrArg (fun x => keep (LShf.toLow x 0 == _) (.shflUp x)) h).trans (keep_same _ _))
set_option linter.unusedSimpArgs false in
theorem shflDn (u : LShf) : Statement (.shflDn u) := fun _ => .inr (by
  show decode (pfxWords u.p ++ [packL u.h 0x4d (u.toLow 1)]) = _
  rw [decode_lane _ _ _ _ (by decide) (by decide)]
  have e : BitVec.extractLsb' 6 3 (u.toLow 1) = 1 := by
    simp (disch := decide) only [LShf.toLow, extract_high, extract_low, Nat.reduceSub, extract_all]
  have h := lshf_ofLow_toLow u 1
  refine (decodeL_shuffle _ _ _).trans ?_
  rw [e]
  exact (congrArg (fun x => keep (LShf.toLow x 1 == _) (.shflDn x)) h).trans (keep_same _ _))
set_option linter.unusedSimpArgs false in
theorem shflXor (u : LShf) : Statement (.shflXor u) := fun _ => .inr (by
  show decode (pfxWords u.p ++ [packL u.h 0x4d (u.toLow 2)]) = _
  rw [decode_lane _ _ _ _ (by decide) (by decide)]
  have e : BitVec.extractLsb' 6 3 (u.toLow 2) = 2 := by
    simp (disch := decide) only [LShf.toLow, extract_high, extract_low, Nat.reduceSub, extract_all]
  have h := lshf_ofLow_toLow u 2
  refine (decodeL_shuffle _ _ _).trans ?_
  rw [e]
  exact (congrArg (fun x => keep (LShf.toLow x 2 == _) (.shflXor x)) h).trans (keep_same _ _))
theorem xperm (u : LAfw) : Statement (.xperm u) := fun _ => .inr (by
  show decode (pfxWords u.p ++ [packL u.h 0x4e (u.toLow 0)]) = _
  rw [decode_lane _ _ _ _ (by decide) (by decide)]
  exact (congrArg (fun x => keep (LAfw.toLow x 0 == _) (.xperm x)) (lafw_ofLow_toLow u 0)).trans (keep_same _ _))
theorem vote (u : LAf) : Statement (.vote u) := fun _ => .inr (by
  show decode (pfxWords u.p ++ [packL u.h 0x4f (u.toLow 0 0)]) = _
  rw [decode_lane _ _ _ _ (by decide) (by decide)]
  exact (congrArg (fun x => keep (LAf.toLow x 0 0 == _) (.vote x)) (laf_ofLow_toLow u 0 0)).trans (keep_same _ _))
theorem reduce (u : LUtfw) : Statement (.reduce u) := fun _ => .inr (by
  show decode (pfxWords u.p ++ [packL u.h 0x50 (u.toLow)]) = _
  rw [decode_lane _ _ _ _ (by decide) (by decide)]
  exact congrArg (fun x => some (Instr.reduce x)) (lutfw_ofLow_toLow u))
theorem scan (u : LUtfw) : Statement (.scan u) := fun _ => .inr (by
  show decode (pfxWords u.p ++ [packL u.h 0x51 (u.toLow)]) = _
  rw [decode_lane _ _ _ _ (by decide) (by decide)]
  exact congrArg (fun x => some (Instr.scan x)) (lutfw_ofLow_toLow u))
theorem matchLanes (u : LUw) : Statement (.matchLanes u) := fun _ => .inr (by
  show decode (pfxWords u.p ++ [packL u.h 0x52 (u.toLow 0)]) = _
  rw [decode_lane _ _ _ _ (by decide) (by decide)]
  exact (congrArg (fun x => keep (LUw.toLow x 0 == _) (.matchLanes x)) (luw_ofLow_toLow u 0)).trans (keep_same _ _))
theorem elect (u : LDf) : Statement (.elect u) := fun _ => .inr (by
  show decode (pfxWords u.p ++ [packL u.h 0x53 (u.toLow 0 0)]) = _
  rw [decode_lane _ _ _ _ (by decide) (by decide)]
  exact (congrArg (fun x => keep (LDf.toLow x 0 0 == _) (.elect x)) (ldf_ofLow_toLow u 0 0)).trans (keep_same _ _))
theorem rdlane (u : LRw) : Statement (.rdlane u) := fun _ => .inr (by
  show decode (pfxWords u.p ++ [packL u.h 0x54 (u.toLow)]) = _
  rw [decode_lane _ _ _ _ (by decide) (by decide)]
  exact congrArg (fun x => some (Instr.rdlane x)) (lrw_ofLow_toLow u))
theorem mov (u : LAw) : Statement (.mov u) := fun _ => .inr (by
  show decode (pfxWords u.p ++ [packL u.h 0x55 (u.toLow 0)]) = _
  rw [decode_lane _ _ _ _ (by decide) (by decide)]
  exact (congrArg (fun x => keep (LAw.toLow x 0 == _) (.mov x)) (law_ofLow_toLow u 0)).trans (keep_same _ _))
theorem kmov (u : LAf) : Statement (.kmov u) := fun _ => .inr (by
  show decode (pfxWords u.p ++ [packL u.h 0x56 (u.toLow 0 0)]) = _
  rw [decode_lane _ _ _ _ (by decide) (by decide)]
  exact (congrArg (fun x => keep (LAf.toLow x 0 0 == _) (.kmov x)) (laf_ofLow_toLow u 0 0)).trans (keep_same _ _))
theorem kpop (u : LA0) : Statement (.kpop u) := fun _ => .inr (by
  show decode (pfxWords u.p ++ [packL u.h 0x57 (u.toLow 0)]) = _
  rw [decode_lane _ _ _ _ (by decide) (by decide)]
  exact (congrArg (fun x => keep (LA0.toLow x 0 == _) (.kpop x)) (la0_ofLow_toLow u 0)).trans (keep_same _ _))
theorem iaddImm (u : LImm) : Statement (.iaddImm u) := fun _ => .inr (by
  show decode (pfxWords u.p ++ ximmWords u.x ++ [packL u.h 0x58 (u.toLow)]) = _
  rw [decode_ximm _ _ _ _ _ (by decide) (by decide) (by decide)]
  exact congrArg (fun x => some (Instr.iaddImm x)) (limm_ofLow_toLow u))
theorem andImm (u : LImm) : Statement (.andImm u) := fun _ => .inr (by
  show decode (pfxWords u.p ++ ximmWords u.x ++ [packL u.h 0x59 (u.toLow)]) = _
  rw [decode_ximm _ _ _ _ _ (by decide) (by decide) (by decide)]
  exact congrArg (fun x => some (Instr.andImm x)) (limm_ofLow_toLow u))
theorem orImm (u : LImm) : Statement (.orImm u) := fun _ => .inr (by
  show decode (pfxWords u.p ++ ximmWords u.x ++ [packL u.h 0x5a (u.toLow)]) = _
  rw [decode_ximm _ _ _ _ _ (by decide) (by decide) (by decide)]
  exact congrArg (fun x => some (Instr.orImm x)) (limm_ofLow_toLow u))
theorem xorImm (u : LImm) : Statement (.xorImm u) := fun _ => .inr (by
  show decode (pfxWords u.p ++ ximmWords u.x ++ [packL u.h 0x5b (u.toLow)]) = _
  rw [decode_ximm _ _ _ _ _ (by decide) (by decide) (by decide)]
  exact congrArg (fun x => some (Instr.xorImm x)) (limm_ofLow_toLow u))
theorem shlImm (u : LSh) : Statement (.shlImm u) := fun _ => .inr (by
  show decode (pfxWords u.p ++ [packL u.h 0x5c (u.toLow 0)]) = _
  rw [decode_lane _ _ _ _ (by decide) (by decide)]
  exact (congrArg (fun x => keep (LSh.toLow x 0 == _) (.shlImm x)) (lsh_ofLow_toLow u 0)).trans (keep_same _ _))
theorem shrImm (u : LSh) : Statement (.shrImm u) := fun _ => .inr (by
  show decode (pfxWords u.p ++ [packL u.h 0x5d (u.toLow 0)]) = _
  rw [decode_lane _ _ _ _ (by decide) (by decide)]
  exact (congrArg (fun x => keep (LSh.toLow x 0 == _) (.shrImm x)) (lsh_ofLow_toLow u 0)).trans (keep_same _ _))
theorem sarImm (u : LSh) : Statement (.sarImm u) := fun _ => .inr (by
  show decode (pfxWords u.p ++ [packL u.h 0x5e (u.toLow 0)]) = _
  rw [decode_lane _ _ _ _ (by decide) (by decide)]
  exact (congrArg (fun x => keep (LSh.toLow x 0 == _) (.sarImm x)) (lsh_ofLow_toLow u 0)).trans (keep_same _ _))
theorem rotlImm (u : LSh) : Statement (.rotlImm u) := fun _ => .inr (by
  show decode (pfxWords u.p ++ [packL u.h 0x5f (u.toLow 0)]) = _
  rw [decode_lane _ _ _ _ (by decide) (by decide)]
  exact (congrArg (fun x => keep (LSh.toLow x 0 == _) (.rotlImm x)) (lsh_ofLow_toLow u 0)).trans (keep_same _ _))
theorem icmpIImm (u : LCmpI) : Statement (.icmpIImm u) := fun _ => .inr (by
  show decode (pfxWords u.p ++ ximmWords u.x ++ [packL u.h 0x60 (u.toLow)]) = _
  rw [decode_ximm _ _ _ _ _ (by decide) (by decide) (by decide)]
  exact congrArg (fun x => some (Instr.icmpIImm x)) (lcmpi_ofLow_toLow u))
theorem icmpNImm (u : LCmpI) : Statement (.icmpNImm u) := fun _ => .inr (by
  show decode (pfxWords u.p ++ ximmWords u.x ++ [packL u.h 0x61 (u.toLow)]) = _
  rw [decode_ximm _ _ _ _ _ (by decide) (by decide) (by decide)]
  exact congrArg (fun x => some (Instr.icmpNImm x)) (lcmpi_ofLow_toLow u))
theorem movi (u : LMovi) : Statement (.movi u) := fun _ => .inr (by
  show decode (pfxWords u.p ++ ximmWords u.x ++ [packL u.h 0x62 (u.toLow 0)]) = _
  rw [decode_ximm _ _ _ _ _ (by decide) (by decide) (by decide)]
  exact (congrArg (fun x => keep (LMovi.toLow x 0 == _) (.movi x)) (lmovi_ofLow_toLow u 0)).trans (keep_same _ _))
theorem jmpi (u : LJmp) : Statement (.jmpi u) := fun _ => .inr (by
  show decode (pfxWords u.p ++ [packL u.h 0x63 (u.toLow 0 0)]) = _
  rw [decode_lane _ _ _ _ (by decide) (by decide)]
  exact (congrArg (fun x => keep (LJmp.toLow x 0 0 == _) (.jmpi x)) (ljmp_ofLow_toLow u 0 0)).trans (keep_same _ _))
theorem calli (u : LJmp) : Statement (.calli u) := fun _ => .inr (by
  show decode (pfxWords u.p ++ [packL u.h 0x64 (u.toLow 0 0)]) = _
  rw [decode_lane _ _ _ _ (by decide) (by decide)]
  exact (congrArg (fun x => keep (LJmp.toLow x 0 0 == _) (.calli x)) (ljmp_ofLow_toLow u 0 0)).trans (keep_same _ _))
theorem ldg (u : LMem) : Statement (.ldg u) := fun _ => .inr (by
  show decode (pfxWords u.p ++ [packL u.h 0x65 (u.toLow)]) = _
  rw [decode_lane _ _ _ _ (by decide) (by decide)]
  exact congrArg (fun x => some (Instr.ldg x)) (lmem_ofLow_toLow u))
theorem stg (u : LMem) : Statement (.stg u) := fun _ => .inr (by
  show decode (pfxWords u.p ++ [packL u.h 0x66 (u.toLow)]) = _
  rw [decode_lane _ _ _ _ (by decide) (by decide)]
  exact congrArg (fun x => some (Instr.stg x)) (lmem_ofLow_toLow u))
theorem lds (u : LMem) : Statement (.lds u) := fun _ => .inr (by
  show decode (pfxWords u.p ++ [packL u.h 0x67 (u.toLow)]) = _
  rw [decode_lane _ _ _ _ (by decide) (by decide)]
  exact congrArg (fun x => some (Instr.lds x)) (lmem_ofLow_toLow u))
theorem sts (u : LMem) : Statement (.sts u) := fun _ => .inr (by
  show decode (pfxWords u.p ++ [packL u.h 0x68 (u.toLow)]) = _
  rw [decode_lane _ _ _ _ (by decide) (by decide)]
  exact congrArg (fun x => some (Instr.sts x)) (lmem_ofLow_toLow u))
theorem ldv (u : LMem) : Statement (.ldv u) := fun _ => .inr (by
  show decode (pfxWords u.p ++ [packL u.h 0x69 (u.toLow)]) = _
  rw [decode_lane _ _ _ _ (by decide) (by decide)]
  exact congrArg (fun x => some (Instr.ldv x)) (lmem_ofLow_toLow u))
theorem stv (u : LMem) : Statement (.stv u) := fun _ => .inr (by
  show decode (pfxWords u.p ++ [packL u.h 0x6a (u.toLow)]) = _
  rw [decode_lane _ _ _ _ (by decide) (by decide)]
  exact congrArg (fun x => some (Instr.stv x)) (lmem_ofLow_toLow u))
theorem feset (u : LFe) : Statement (.feset u) := fun _ => .inr (by
  show decode (pfxWords u.p ++ [packL u.h 0x6b (u.toLow 0 0 0)]) = _
  rw [decode_lane _ _ _ _ (by decide) (by decide)]
  exact (congrArg (fun x => keep (LFe.toLow x 0 0 0 == _) (.feset x)) (lfe_ofLow_toLow u 0 0 0)).trans (keep_same _ _))
theorem feclr (u : LFe) : Statement (.feclr u) := fun _ => .inr (by
  show decode (pfxWords u.p ++ [packL u.h 0x6c (u.toLow 0 0 0)]) = _
  rw [decode_lane _ _ _ _ (by decide) (by decide)]
  exact (congrArg (fun x => keep (LFe.toLow x 0 0 0 == _) (.feclr x)) (lfe_ofLow_toLow u 0 0 0)).trans (keep_same _ _))
theorem atom (u : LMem) : Statement (.atom u) := fun _ => .inr (by
  show decode (pfxWords u.p ++ [packL u.h 0x6d (u.toLow)]) = _
  rw [decode_lane _ _ _ _ (by decide) (by decide)]
  exact congrArg (fun x => some (Instr.atom x)) (lmem_ofLow_toLow u))
theorem atoms (u : LMem0) : Statement (.atoms u) := fun _ => .inr (by
  show decode (pfxWords u.p ++ [packL u.h 0x6e (u.toLow 2)]) = _
  rw [decode_lane _ _ _ _ (by decide) (by decide)]
  exact (congrArg (fun x => keep (LMem0.toLow x 2 == _) (.atoms x)) (lmem0_ofLow_toLow u 2)).trans (keep_same _ _))
theorem red (u : LMem) : Statement (.red u) := fun _ => .inr (by
  show decode (pfxWords u.p ++ [packL u.h 0x6f (u.toLow)]) = _
  rw [decode_lane _ _ _ _ (by decide) (by decide)]
  exact congrArg (fun x => some (Instr.red x)) (lmem_ofLow_toLow u))
theorem mma (u : LMma) : Statement (.mma u) := fun _ => .inr (by
  show decode (pfxWords u.p ++ [packL u.h 0x70 (u.toLow 0)]) = _
  rw [decode_lane _ _ _ _ (by decide) (by decide)]
  exact (congrArg (fun x => keep (LMma.toLow x 0 == _) (.mma x)) (lmma_ofLow_toLow u 0)).trans (keep_same _ _))
theorem mread (u : LMread) : Statement (.mread u) := fun _ => .inr (by
  show decode (pfxWords u.p ++ [packL u.h 0x71 (u.toLow 0)]) = _
  rw [decode_lane _ _ _ _ (by decide) (by decide)]
  exact (congrArg (fun x => keep (LMread.toLow x 0 == _) (.mread x)) (lmread_ofLow_toLow u 0)).trans (keep_same _ _))
theorem kvgather (u : LGather) : Statement (.kvgather u) := fun _ => .inr (by
  show decode (pfxWords u.p ++ [packL u.h 0x72 (u.toLow 0 0)]) = _
  rw [decode_lane _ _ _ _ (by decide) (by decide)]
  exact (congrArg (fun x => keep (LGather.toLow x 0 0 == _) (.kvgather x)) (lgather_ofLow_toLow u 0 0)).trans (keep_same _ _))
theorem rotq (u : LRw) : Statement (.rotq u) := fun _ => .inr (by
  show decode (pfxWords u.p ++ [packL u.h 0x73 (u.toLow)]) = _
  rw [decode_lane _ _ _ _ (by decide) (by decide)]
  exact congrArg (fun x => some (Instr.rotq x)) (lrw_ofLow_toLow u))
theorem accept (u : LAccept) : Statement (.accept u) := fun _ => .inr (by
  show decode (pfxWords u.p ++ [packL u.h 0x74 (u.toLow 0)]) = _
  rw [decode_lane _ _ _ _ (by decide) (by decide)]
  exact (congrArg (fun x => keep (LAccept.toLow x 0 == _) (.accept x)) (laccept_ofLow_toLow u 0)).trans (keep_same _ _))
theorem dxt (u : LRw) : Statement (.dxt u) := fun _ => .inr (by
  show decode (pfxWords u.p ++ [packL u.h 0x75 (u.toLow)]) = _
  rw [decode_lane _ _ _ _ (by decide) (by decide)]
  exact congrArg (fun x => some (Instr.dxt x)) (lrw_ofLow_toLow u))
theorem dxcmp (u : LCmpW) : Statement (.dxcmp u) := fun _ => .inr (by
  show decode (pfxWords u.p ++ [packL u.h 0x76 (u.toLow)]) = _
  rw [decode_lane _ _ _ _ (by decide) (by decide)]
  exact congrArg (fun x => some (Instr.dxcmp x)) (lcmpw_ofLow_toLow u))
theorem dxval (u : LDx) : Statement (.dxval u) := fun _ => .inr (by
  show decode (pfxWords u.p ++ [packL u.h 0x77 (u.toLow 0 0)]) = _
  rw [decode_lane _ _ _ _ (by decide) (by decide)]
  exact (congrArg (fun x => keep (LDx.toLow x 0 0 == _) (.dxval x)) (ldx_ofLow_toLow u 0 0)).trans (keep_same _ _))
theorem dxenc (u : LDx) : Statement (.dxenc u) := fun _ => .inr (by
  show decode (pfxWords u.p ++ [packL u.h 0x78 (u.toLow 0 0)]) = _
  rw [decode_lane _ _ _ _ (by decide) (by decide)]
  exact (congrArg (fun x => keep (LDx.toLow x 0 0 == _) (.dxenc x)) (ldx_ofLow_toLow u 0 0)).trans (keep_same _ _))
set_option linter.unusedSimpArgs false in
theorem uadd (u : GR3) : Statement (.uadd u) := fun _ => .inr (by
  show decode ([packG u.h 0x1 (u.toLow 0)]) = _
  rw [decode_uniform]
  have e : BitVec.extractLsb' 0 8 (u.toLow 0) = 0 := by
    simp (disch := decide) only [GR3.toLow, extract_high, extract_low, Nat.reduceSub, extract_all]
  have h := gr3_ofLow_toLow u 0
  refine (decodeG_alu _ _).trans ?_
  rw [e]
  exact (congrArg (fun x => keep (GR3.toLow x 0 == _) (.uadd x)) h).trans (keep_same _ _))
set_option linter.unusedSimpArgs false in
theorem usub (u : GR3) : Statement (.usub u) := fun _ => .inr (by
  show decode ([packG u.h 0x1 (u.toLow 1)]) = _
  rw [decode_uniform]
  have e : BitVec.extractLsb' 0 8 (u.toLow 1) = 1 := by
    simp (disch := decide) only [GR3.toLow, extract_high, extract_low, Nat.reduceSub, extract_all]
  have h := gr3_ofLow_toLow u 1
  refine (decodeG_alu _ _).trans ?_
  rw [e]
  exact (congrArg (fun x => keep (GR3.toLow x 1 == _) (.usub x)) h).trans (keep_same _ _))
set_option linter.unusedSimpArgs false in
theorem umul (u : GR3) : Statement (.umul u) := fun _ => .inr (by
  show decode ([packG u.h 0x1 (u.toLow 2)]) = _
  rw [decode_uniform]
  have e : BitVec.extractLsb' 0 8 (u.toLow 2) = 2 := by
    simp (disch := decide) only [GR3.toLow, extract_high, extract_low, Nat.reduceSub, extract_all]
  have h := gr3_ofLow_toLow u 2
  refine (decodeG_alu _ _).trans ?_
  rw [e]
  exact (congrArg (fun x => keep (GR3.toLow x 2 == _) (.umul x)) h).trans (keep_same _ _))
set_option linter.unusedSimpArgs false in
theorem umulhI (u : GR3) : Statement (.umulhI u) := fun _ => .inr (by
  show decode ([packG u.h 0x1 (u.toLow 3)]) = _
  rw [decode_uniform]
  have e : BitVec.extractLsb' 0 8 (u.toLow 3) = 3 := by
    simp (disch := decide) only [GR3.toLow, extract_high, extract_low, Nat.reduceSub, extract_all]
  have h := gr3_ofLow_toLow u 3
  refine (decodeG_alu _ _).trans ?_
  rw [e]
  exact (congrArg (fun x => keep (GR3.toLow x 3 == _) (.umulhI x)) h).trans (keep_same _ _))
set_option linter.unusedSimpArgs false in
theorem umulhN (u : GR3) : Statement (.umulhN u) := fun _ => .inr (by
  show decode ([packG u.h 0x1 (u.toLow 4)]) = _
  rw [decode_uniform]
  have e : BitVec.extractLsb' 0 8 (u.toLow 4) = 4 := by
    simp (disch := decide) only [GR3.toLow, extract_high, extract_low, Nat.reduceSub, extract_all]
  have h := gr3_ofLow_toLow u 4
  refine (decodeG_alu _ _).trans ?_
  rw [e]
  exact (congrArg (fun x => keep (GR3.toLow x 4 == _) (.umulhN x)) h).trans (keep_same _ _))
set_option linter.unusedSimpArgs false in
theorem uand (u : GR3) : Statement (.uand u) := fun _ => .inr (by
  show decode ([packG u.h 0x1 (u.toLow 5)]) = _
  rw [decode_uniform]
  have e : BitVec.extractLsb' 0 8 (u.toLow 5) = 5 := by
    simp (disch := decide) only [GR3.toLow, extract_high, extract_low, Nat.reduceSub, extract_all]
  have h := gr3_ofLow_toLow u 5
  refine (decodeG_alu _ _).trans ?_
  rw [e]
  exact (congrArg (fun x => keep (GR3.toLow x 5 == _) (.uand x)) h).trans (keep_same _ _))
set_option linter.unusedSimpArgs false in
theorem uor (u : GR3) : Statement (.uor u) := fun _ => .inr (by
  show decode ([packG u.h 0x1 (u.toLow 6)]) = _
  rw [decode_uniform]
  have e : BitVec.extractLsb' 0 8 (u.toLow 6) = 6 := by
    simp (disch := decide) only [GR3.toLow, extract_high, extract_low, Nat.reduceSub, extract_all]
  have h := gr3_ofLow_toLow u 6
  refine (decodeG_alu _ _).trans ?_
  rw [e]
  exact (congrArg (fun x => keep (GR3.toLow x 6 == _) (.uor x)) h).trans (keep_same _ _))
set_option linter.unusedSimpArgs false in
theorem uxor (u : GR3) : Statement (.uxor u) := fun _ => .inr (by
  show decode ([packG u.h 0x1 (u.toLow 7)]) = _
  rw [decode_uniform]
  have e : BitVec.extractLsb' 0 8 (u.toLow 7) = 7 := by
    simp (disch := decide) only [GR3.toLow, extract_high, extract_low, Nat.reduceSub, extract_all]
  have h := gr3_ofLow_toLow u 7
  refine (decodeG_alu _ _).trans ?_
  rw [e]
  exact (congrArg (fun x => keep (GR3.toLow x 7 == _) (.uxor x)) h).trans (keep_same _ _))
set_option linter.unusedSimpArgs false in
theorem ushl (u : GR3) : Statement (.ushl u) := fun _ => .inr (by
  show decode ([packG u.h 0x1 (u.toLow 8)]) = _
  rw [decode_uniform]
  have e : BitVec.extractLsb' 0 8 (u.toLow 8) = 8 := by
    simp (disch := decide) only [GR3.toLow, extract_high, extract_low, Nat.reduceSub, extract_all]
  have h := gr3_ofLow_toLow u 8
  refine (decodeG_alu _ _).trans ?_
  rw [e]
  exact (congrArg (fun x => keep (GR3.toLow x 8 == _) (.ushl x)) h).trans (keep_same _ _))
set_option linter.unusedSimpArgs false in
theorem ushr (u : GR3) : Statement (.ushr u) := fun _ => .inr (by
  show decode ([packG u.h 0x1 (u.toLow 9)]) = _
  rw [decode_uniform]
  have e : BitVec.extractLsb' 0 8 (u.toLow 9) = 9 := by
    simp (disch := decide) only [GR3.toLow, extract_high, extract_low, Nat.reduceSub, extract_all]
  have h := gr3_ofLow_toLow u 9
  refine (decodeG_alu _ _).trans ?_
  rw [e]
  exact (congrArg (fun x => keep (GR3.toLow x 9 == _) (.ushr x)) h).trans (keep_same _ _))
set_option linter.unusedSimpArgs false in
theorem usar (u : GR3) : Statement (.usar u) := fun _ => .inr (by
  show decode ([packG u.h 0x1 (u.toLow 10)]) = _
  rw [decode_uniform]
  have e : BitVec.extractLsb' 0 8 (u.toLow 10) = 10 := by
    simp (disch := decide) only [GR3.toLow, extract_high, extract_low, Nat.reduceSub, extract_all]
  have h := gr3_ofLow_toLow u 10
  refine (decodeG_alu _ _).trans ?_
  rw [e]
  exact (congrArg (fun x => keep (GR3.toLow x 10 == _) (.usar x)) h).trans (keep_same _ _))
set_option linter.unusedSimpArgs false in
theorem uminI (u : GR3) : Statement (.uminI u) := fun _ => .inr (by
  show decode ([packG u.h 0x1 (u.toLow 11)]) = _
  rw [decode_uniform]
  have e : BitVec.extractLsb' 0 8 (u.toLow 11) = 11 := by
    simp (disch := decide) only [GR3.toLow, extract_high, extract_low, Nat.reduceSub, extract_all]
  have h := gr3_ofLow_toLow u 11
  refine (decodeG_alu _ _).trans ?_
  rw [e]
  exact (congrArg (fun x => keep (GR3.toLow x 11 == _) (.uminI x)) h).trans (keep_same _ _))
set_option linter.unusedSimpArgs false in
theorem uminN (u : GR3) : Statement (.uminN u) := fun _ => .inr (by
  show decode ([packG u.h 0x1 (u.toLow 12)]) = _
  rw [decode_uniform]
  have e : BitVec.extractLsb' 0 8 (u.toLow 12) = 12 := by
    simp (disch := decide) only [GR3.toLow, extract_high, extract_low, Nat.reduceSub, extract_all]
  have h := gr3_ofLow_toLow u 12
  refine (decodeG_alu _ _).trans ?_
  rw [e]
  exact (congrArg (fun x => keep (GR3.toLow x 12 == _) (.uminN x)) h).trans (keep_same _ _))
set_option linter.unusedSimpArgs false in
theorem umaxI (u : GR3) : Statement (.umaxI u) := fun _ => .inr (by
  show decode ([packG u.h 0x1 (u.toLow 13)]) = _
  rw [decode_uniform]
  have e : BitVec.extractLsb' 0 8 (u.toLow 13) = 13 := by
    simp (disch := decide) only [GR3.toLow, extract_high, extract_low, Nat.reduceSub, extract_all]
  have h := gr3_ofLow_toLow u 13
  refine (decodeG_alu _ _).trans ?_
  rw [e]
  exact (congrArg (fun x => keep (GR3.toLow x 13 == _) (.umaxI x)) h).trans (keep_same _ _))
set_option linter.unusedSimpArgs false in
theorem umaxN (u : GR3) : Statement (.umaxN u) := fun _ => .inr (by
  show decode ([packG u.h 0x1 (u.toLow 14)]) = _
  rw [decode_uniform]
  have e : BitVec.extractLsb' 0 8 (u.toLow 14) = 14 := by
    simp (disch := decide) only [GR3.toLow, extract_high, extract_low, Nat.reduceSub, extract_all]
  have h := gr3_ofLow_toLow u 14
  refine (decodeG_alu _ _).trans ?_
  rw [e]
  exact (congrArg (fun x => keep (GR3.toLow x 14 == _) (.umaxN x)) h).trans (keep_same _ _))
set_option linter.unusedSimpArgs false in
theorem umov (u : GR2) : Statement (.umov u) := fun _ => .inr (by
  show decode ([packG u.h 0x1 (u.toLow 15)]) = _
  rw [decode_uniform]
  have e : BitVec.extractLsb' 0 8 (u.toLow 15) = 15 := by
    simp (disch := decide) only [GR2.toLow, extract_low]
    decide
  have h := gr2_ofLow_toLow u 15
  refine (decodeG_alu _ _).trans ?_
  rw [e]
  exact (congrArg (fun x => keep (GR2.toLow x 15 == _) (.umov x)) h).trans (keep_same _ _))
set_option linter.unusedSimpArgs false in
theorem usel (u : GR3) : Statement (.usel u) := fun _ => .inr (by
  show decode ([packG u.h 0x1 (u.toLow 16)]) = _
  rw [decode_uniform]
  have e : BitVec.extractLsb' 0 8 (u.toLow 16) = 16 := by
    simp (disch := decide) only [GR3.toLow, extract_high, extract_low, Nat.reduceSub, extract_all]
  have h := gr3_ofLow_toLow u 16
  refine (decodeG_alu _ _).trans ?_
  rw [e]
  exact (congrArg (fun x => keep (GR3.toLow x 16 == _) (.usel x)) h).trans (keep_same _ _))
set_option linter.unusedSimpArgs false in
theorem ucmpI (u : GCmp) : Statement (.ucmpI u) := fun _ => .inr (by
  show decode ([packG u.h 0x1 (u.toLow 4)]) = _
  rw [decode_uniform]
  have h := gcmp_ofLow_toLow u 4
  have e : BitVec.extractLsb' 0 8 (u.toLow 4) = (4#5 ++ u.cond : BitVec 8) := by
    exact extract_pair (u.d ++ u.a ++ u.b) (4 : BitVec 5) u.cond
  refine (decodeG_alu _ _).trans ?_
  simp only [h, e, keep_same]
  rcases cases3 u.cond with h | h | h | h | h | h | h | h <;> rw [h] <;> rfl)
set_option linter.unusedSimpArgs false in
theorem ucmpN (u : GCmp) : Statement (.ucmpN u) := fun _ => .inr (by
  show decode ([packG u.h 0x1 (u.toLow 5)]) = _
  rw [decode_uniform]
  have h := gcmp_ofLow_toLow u 5
  have e : BitVec.extractLsb' 0 8 (u.toLow 5) = (5#5 ++ u.cond : BitVec 8) := by
    exact extract_pair (u.d ++ u.a ++ u.b) (5 : BitVec 5) u.cond
  refine (decodeG_alu _ _).trans ?_
  simp only [h, e, keep_same]
  rcases cases3 u.cond with h | h | h | h | h | h | h | h <;> rw [h] <;> rfl)
theorem uaddImm (u : GImm) : Statement (.uaddImm u) := fun _ => .inr (by
  show decode ([packG u.h 0x2 (u.toLow)]) = _
  rw [decode_uniform]
  exact congrArg (fun x => some (Instr.uaddImm x)) (gimm_ofLow_toLow u))
theorem uandImm (u : GImm) : Statement (.uandImm u) := fun _ => .inr (by
  show decode ([packG u.h 0x3 (u.toLow)]) = _
  rw [decode_uniform]
  exact congrArg (fun x => some (Instr.uandImm x)) (gimm_ofLow_toLow u))
theorem uorImm (u : GImm) : Statement (.uorImm u) := fun _ => .inr (by
  show decode ([packG u.h 0x4 (u.toLow)]) = _
  rw [decode_uniform]
  exact congrArg (fun x => some (Instr.uorImm x)) (gimm_ofLow_toLow u))
theorem uxorImm (u : GImm) : Statement (.uxorImm u) := fun _ => .inr (by
  show decode ([packG u.h 0x5 (u.toLow)]) = _
  rw [decode_uniform]
  exact congrArg (fun x => some (Instr.uxorImm x)) (gimm_ofLow_toLow u))
theorem ushlImm (u : GSh) : Statement (.ushlImm u) := fun _ => .inr (by
  show decode ([packG u.h 0x6 (u.toLow 0)]) = _
  rw [decode_uniform]
  exact (congrArg (fun x => keep (GSh.toLow x 0 == _) (.ushlImm x)) (gsh_ofLow_toLow u 0)).trans (keep_same _ _))
theorem ushrImm (u : GSh) : Statement (.ushrImm u) := fun _ => .inr (by
  show decode ([packG u.h 0x7 (u.toLow 0)]) = _
  rw [decode_uniform]
  exact (congrArg (fun x => keep (GSh.toLow x 0 == _) (.ushrImm x)) (gsh_ofLow_toLow u 0)).trans (keep_same _ _))
theorem usarImm (u : GSh) : Statement (.usarImm u) := fun _ => .inr (by
  show decode ([packG u.h 0x8 (u.toLow 0)]) = _
  rw [decode_uniform]
  exact (congrArg (fun x => keep (GSh.toLow x 0 == _) (.usarImm x)) (gsh_ofLow_toLow u 0)).trans (keep_same _ _))
theorem umovi (u : GMovi) : Statement (.umovi u) := fun _ => .inr (by
  show decode ([packG u.h 0x9 (u.toLow 0)]) = _
  rw [decode_uniform]
  exact (congrArg (fun x => keep (GMovi.toLow x 0 == _) (.umovi x)) (gmovi_ofLow_toLow u 0)).trans (keep_same _ _))
theorem uldc (u : GImm) : Statement (.uldc u) := fun _ => .inr (by
  show decode ([packG u.h 0xa (u.toLow)]) = _
  rw [decode_uniform]
  exact congrArg (fun x => some (Instr.uldc x)) (gimm_ofLow_toLow u))
theorem rdsys (u : GRd) : Statement (.rdsys u) := fun _ => .inr (by
  show decode ([packG u.h 0xb (u.toLow 0)]) = _
  rw [decode_uniform]
  exact (congrArg (fun x => keep (GRd.toLow x 0 == _) (.rdsys x)) (grd_ofLow_toLow u 0)).trans (keep_same _ _))
theorem wrsys (u : GWr) : Statement (.wrsys u) := fun _ => .inr (by
  show decode ([packG u.h 0xc (u.toLow 0 0)]) = _
  rw [decode_uniform]
  exact (congrArg (fun x => keep (GWr.toLow x 0 0 == _) (.wrsys x)) (gwr_ofLow_toLow u 0 0)).trans (keep_same _ _))
theorem tshape (u : GShape) : Statement (.tshape u) := fun _ => .inr (by
  show decode ([packG u.h 0xd (u.toLow 0 0)]) = _
  rw [decode_uniform]
  exact (congrArg (fun x => keep (GShape.toLow x 0 0 == _) (.tshape x)) (gshape_ofLow_toLow u 0 0)).trans (keep_same _ _))
theorem xpld (u : GXpld) : Statement (.xpld u) := fun _ => .inr (by
  show decode ([packG u.h 0xe (u.toLow 0 0)]) = _
  rw [decode_uniform]
  exact (congrArg (fun x => keep (GXpld.toLow x 0 0 == _) (.xpld x)) (gxpld_ofLow_toLow u 0 0)).trans (keep_same _ _))
theorem bra (u : GB) : Statement (.bra u) := fun _ => .inr (by
  show decode ([packG u.h 0x10 (u.toLow)]) = _
  rw [decode_uniform]
  exact congrArg (fun x => some (Instr.bra x)) (gb_ofLow_toLow u))
theorem bru (u : GBru) : Statement (.bru u) := fun _ => .inr (by
  show decode ([packG u.h 0x11 (u.toLow)]) = _
  rw [decode_uniform]
  exact congrArg (fun x => some (Instr.bru x)) (gbru_ofLow_toLow u))
theorem brt (u : GBrt) : Statement (.brt u) := fun _ => .inr (by
  show decode ([packG u.h 0x12 (u.toLow 0)]) = _
  rw [decode_uniform]
  exact (congrArg (fun x => keep (GBrt.toLow x 0 == _) (.brt x)) (gbrt_ofLow_toLow u 0)).trans (keep_same _ _))
theorem call (u : GB) : Statement (.call u) := fun _ => .inr (by
  show decode ([packG u.h 0x13 (u.toLow)]) = _
  rw [decode_uniform]
  exact congrArg (fun x => some (Instr.call x)) (gb_ofLow_toLow u))
theorem callq (u : GCallq) : Statement (.callq u) := fun _ => .inr (by
  show decode ([packG u.h 0x14 (u.toLow 0)]) = _
  rw [decode_uniform]
  exact (congrArg (fun x => keep (GCallq.toLow x 0 == _) (.callq x)) (gcallq_ofLow_toLow u 0)).trans (keep_same _ _))
theorem ret (u : G0) : Statement (.ret u) := fun _ => .inr (by
  show decode ([packG u.h 0x15 (u.toLow 0)]) = _
  rw [decode_uniform]
  exact (congrArg (fun x => keep (G0.toLow x 0 == _) (.ret x)) (g0_ofLow_toLow u _)).trans (keep_same _ _))
theorem exit (u : G0) : Statement (.exit u) := fun _ => .inr (by
  show decode ([packG u.h 0x16 (u.toLow 0)]) = _
  rw [decode_uniform]
  exact (congrArg (fun x => keep (G0.toLow x 0 == _) (.exit x)) (g0_ofLow_toLow u _)).trans (keep_same _ _))
theorem nop (u : G0) : Statement (.nop u) := fun _ => .inr (by
  show decode ([packG u.h 0x17 (u.toLow 0)]) = _
  rw [decode_uniform]
  exact (congrArg (fun x => keep (G0.toLow x 0 == _) (.nop x)) (g0_ofLow_toLow u _)).trans (keep_same _ _))
theorem trap (u : GTrap) : Statement (.trap u) := fun _ => .inr (by
  show decode ([packG u.h 0x18 (u.toLow 0)]) = _
  rw [decode_uniform]
  exact (congrArg (fun x => keep (GTrap.toLow x 0 == _) (.trap x)) (gtrap_ofLow_toLow u 0)).trans (keep_same _ _))
theorem trapret (u : G0) : Statement (.trapret u) := fun _ => .inr (by
  show decode ([packG u.h 0x19 (u.toLow 0)]) = _
  rw [decode_uniform]
  exact (congrArg (fun x => keep (G0.toLow x 0 == _) (.trapret x)) (g0_ofLow_toLow u _)).trans (keep_same _ _))
theorem bkpt (u : GTrap) : Statement (.bkpt u) := fun _ => .inr (by
  show decode ([packG u.h 0x1a (u.toLow 0)]) = _
  rw [decode_uniform]
  exact (congrArg (fun x => keep (GTrap.toLow x 0 == _) (.bkpt x)) (gtrap_ofLow_toLow u 0)).trans (keep_same _ _))
theorem yield (u : G0) : Statement (.yield u) := fun _ => .inr (by
  show decode ([packG u.h 0x1b (u.toLow 0)]) = _
  rw [decode_uniform]
  exact (congrArg (fun x => keep (G0.toLow x 0 == _) (.yield x)) (g0_ofLow_toLow u _)).trans (keep_same _ _))
theorem sleepto (u : GA) : Statement (.sleepto u) := fun _ => .inr (by
  show decode ([packG u.h 0x1c (u.toLow 0 0)]) = _
  rw [decode_uniform]
  exact (congrArg (fun x => keep (GA.toLow x 0 0 == _) (.sleepto x)) (ga_ofLow_toLow u 0 0)).trans (keep_same _ _))
theorem rdtime (u : GD) : Statement (.rdtime u) := fun _ => .inr (by
  show decode ([packG u.h 0x1d (u.toLow 0)]) = _
  rw [decode_uniform]
  exact (congrArg (fun x => keep (GD.toLow x 0 == _) (.rdtime x)) (gd_ofLow_toLow u 0)).trans (keep_same _ _))
theorem qload (u : GQuire) : Statement (.qload u) := fun _ => .inr (by
  show decode ([packG u.h 0x1e (u.toLow 0)]) = _
  rw [decode_uniform]
  exact (congrArg (fun x => keep (GQuire.toLow x 0 == _) (.qload x)) (gquire_ofLow_toLow u 0)).trans (keep_same _ _))
theorem qpin (u : GQuire) : Statement (.qpin u) := fun _ => .inr (by
  show decode ([packG u.h 0x1f (u.toLow 0)]) = _
  rw [decode_uniform]
  exact (congrArg (fun x => keep (GQuire.toLow x 0 == _) (.qpin x)) (gquire_ofLow_toLow u 0)).trans (keep_same _ _))
theorem qunpin (u : GQuire) : Statement (.qunpin u) := fun _ => .inr (by
  show decode ([packG u.h 0x20 (u.toLow 0)]) = _
  rw [decode_uniform]
  exact (congrArg (fun x => keep (GQuire.toLow x 0 == _) (.qunpin x)) (gquire_ofLow_toLow u 0)).trans (keep_same _ _))
theorem qstat (u : GQuire) : Statement (.qstat u) := fun _ => .inr (by
  show decode ([packG u.h 0x21 (u.toLow 0)]) = _
  rw [decode_uniform]
  exact (congrArg (fun x => keep (GQuire.toLow x 0 == _) (.qstat x)) (gquire_ofLow_toLow u 0)).trans (keep_same _ _))
theorem launch (u : GR3) : Statement (.launch u) := fun _ => .inr (by
  show decode ([packG u.h 0x22 (u.toLow 0)]) = _
  rw [decode_uniform]
  exact (congrArg (fun x => keep (GR3.toLow x 0 == _) (.launch x)) (gr3_ofLow_toLow u 0)).trans (keep_same _ _))
theorem fetchw (u : GAB) : Statement (.fetchw u) := fun _ => .inr (by
  show decode ([packG u.h 0x23 (u.toLow 0 0)]) = _
  rw [decode_uniform]
  exact (congrArg (fun x => keep (GAB.toLow x 0 0 == _) (.fetchw x)) (gab_ofLow_toLow u 0 0)).trans (keep_same _ _))
theorem hash (u : GR2) : Statement (.hash u) := fun _ => .inr (by
  show decode ([packG u.h 0x24 (u.toLow 0)]) = _
  rw [decode_uniform]
  exact (congrArg (fun x => keep (GR2.toLow x 0 == _) (.hash x)) (gr2_ofLow_toLow u 0)).trans (keep_same _ _))
theorem sign (u : GR2) : Statement (.sign u) := fun _ => .inr (by
  show decode ([packG u.h 0x25 (u.toLow 0)]) = _
  rw [decode_uniform]
  exact (congrArg (fun x => keep (GR2.toLow x 0 == _) (.sign x)) (gr2_ofLow_toLow u 0)).trans (keep_same _ _))
theorem mext (u : GR2) : Statement (.mext u) := fun _ => .inr (by
  show decode ([packG u.h 0x26 (u.toLow 0)]) = _
  rw [decode_uniform]
  exact (congrArg (fun x => keep (GR2.toLow x 0 == _) (.mext x)) (gr2_ofLow_toLow u 0)).trans (keep_same _ _))
theorem mrd (u : GR2) : Statement (.mrd u) := fun _ => .inr (by
  show decode ([packG u.h 0x27 (u.toLow 0)]) = _
  rw [decode_uniform]
  exact (congrArg (fun x => keep (GR2.toLow x 0 == _) (.mrd x)) (gr2_ofLow_toLow u 0)).trans (keep_same _ _))
theorem fence (u : GFence) : Statement (.fence u) := fun _ => .inr (by
  show decode ([packG u.h 0x30 (u.toLow 0)]) = _
  rw [decode_uniform]
  exact (congrArg (fun x => keep (GFence.toLow x 0 == _) (.fence x)) (gfence_ofLow_toLow u 0)).trans (keep_same _ _))
theorem tierpf (u : GR3) : Statement (.tierpf u) := fun _ => .inr (by
  show decode ([packG u.h 0x31 (u.toLow 0)]) = _
  rw [decode_uniform]
  exact (congrArg (fun x => keep (GR3.toLow x 0 == _) (.tierpf x)) (gr3_ofLow_toLow u 0)).trans (keep_same _ _))
theorem barinit (u : GR3) : Statement (.barinit u) := fun _ => .inr (by
  show decode ([packG u.h 0x32 (u.toLow 0)]) = _
  rw [decode_uniform]
  exact (congrArg (fun x => keep (GR3.toLow x 0 == _) (.barinit x)) (gr3_ofLow_toLow u 0)).trans (keep_same _ _))
theorem arrive (u : GR3) : Statement (.arrive u) := fun _ => .inr (by
  show decode ([packG u.h 0x33 (u.toLow 0)]) = _
  rw [decode_uniform]
  exact (congrArg (fun x => keep (GR3.toLow x 0 == _) (.arrive x)) (gr3_ofLow_toLow u 0)).trans (keep_same _ _))
theorem waitph (u : GAB) : Statement (.waitph u) := fun _ => .inr (by
  show decode ([packG u.h 0x34 (u.toLow 0 0)]) = _
  rw [decode_uniform]
  exact (congrArg (fun x => keep (GAB.toLow x 0 0 == _) (.waitph x)) (gab_ofLow_toLow u 0 0)).trans (keep_same _ _))
theorem testph (u : GR2) : Statement (.testph u) := fun _ => .inr (by
  show decode ([packG u.h 0x35 (u.toLow 0)]) = _
  rw [decode_uniform]
  exact (congrArg (fun x => keep (GR2.toLow x 0 == _) (.testph x)) (gr2_ofLow_toLow u 0)).trans (keep_same _ _))
theorem cminit (u : GR3) : Statement (.cminit u) := fun _ => .inr (by
  show decode ([packG u.h 0x36 (u.toLow 0)]) = _
  rw [decode_uniform]
  exact (congrArg (fun x => keep (GR3.toLow x 0 == _) (.cminit x)) (gr3_ofLow_toLow u 0)).trans (keep_same _ _))
theorem cmwait (u : GAB) : Statement (.cmwait u) := fun _ => .inr (by
  show decode ([packG u.h 0x37 (u.toLow 0 0)]) = _
  rw [decode_uniform]
  exact (congrArg (fun x => keep (GAB.toLow x 0 0 == _) (.cmwait x)) (gab_ofLow_toLow u 0 0)).trans (keep_same _ _))
theorem cmtest (u : GR3) : Statement (.cmtest u) := fun _ => .inr (by
  show decode ([packG u.h 0x38 (u.toLow 0)]) = _
  rw [decode_uniform]
  exact (congrArg (fun x => keep (GR3.toLow x 0 == _) (.cmtest x)) (gr3_ofLow_toLow u 0)).trans (keep_same _ _))
theorem strm (u : GA) : Statement (.strm u) := fun _ => .inr (by
  show decode ([packG u.h 0x39 (u.toLow 0 0)]) = _
  rw [decode_uniform]
  exact (congrArg (fun x => keep (GA.toLow x 0 0 == _) (.strm x)) (ga_ofLow_toLow u 0 0)).trans (keep_same _ _))
theorem strmq (u : GAB) : Statement (.strmq u) := fun _ => .inr (by
  show decode ([packG u.h 0x3a (u.toLow 0 0)]) = _
  rw [decode_uniform]
  exact (congrArg (fun x => keep (GAB.toLow x 0 0 == _) (.strmq x)) (gab_ofLow_toLow u 0 0)).trans (keep_same _ _))
theorem mzero (u : GMzero) : Statement (.mzero u) := fun _ => .inr (by
  show decode ([packG u.h 0x40 (u.toLow 0)]) = _
  rw [decode_uniform]
  exact (congrArg (fun x => keep (GMzero.toLow x 0 == _) (.mzero x)) (gmzero_ofLow_toLow u 0)).trans (keep_same _ _))
theorem mlatb (u : GMlatb) : Statement (.mlatb u) := fun _ => .inr (by
  show decode ([packG u.h 0x41 (u.toLow 0 0)]) = _
  rw [decode_uniform]
  exact (congrArg (fun x => keep (GMlatb.toLow x 0 0 == _) (.mlatb x)) (gmlatb_ofLow_toLow u 0 0)).trans (keep_same _ _))
theorem mstore (u : GMstore) : Statement (.mstore u) := fun _ => .inr (by
  show decode ([packG u.h 0x42 (u.toLow 0 0)]) = _
  rw [decode_uniform]
  exact (congrArg (fun x => keep (GMstore.toLow x 0 0 == _) (.mstore x)) (gmstore_ofLow_toLow u 0 0)).trans (keep_same _ _))
theorem mstat (u : GMstat) : Statement (.mstat u) := fun _ => .inr (by
  show decode ([packG u.h 0x43 (u.toLow 0)]) = _
  rw [decode_uniform]
  exact (congrArg (fun x => keep (GMstat.toLow x 0 == _) (.mstat x)) (gmstat_ofLow_toLow u 0)).trans (keep_same _ _))
theorem gseal (u : GR2) : Statement (.gseal u) := fun _ => .inr (by
  show decode ([packG u.h 0x48 (u.toLow 0)]) = _
  rw [decode_uniform]
  exact (congrArg (fun x => keep (GR2.toLow x 0 == _) (.gseal x)) (gr2_ofLow_toLow u 0)).trans (keep_same _ _))
theorem impose (u : GR2) : Statement (.impose u) := fun _ => .inr (by
  show decode ([packG u.h 0x49 (u.toLow 0)]) = _
  rw [decode_uniform]
  exact (congrArg (fun x => keep (GR2.toLow x 0 == _) (.impose x)) (gr2_ofLow_toLow u 0)).trans (keep_same _ _))
set_option linter.unusedSimpArgs false in
theorem distrib (u : GR2) : Statement (.distrib u) := fun _ => .inr (by
  show decode ([packG u.h 0x4a (u.toLow 0)]) = _
  rw [decode_uniform]
  have e : BitVec.extractLsb' 0 8 (u.toLow 0) = 0 := by
    simp (disch := decide) only [GR2.toLow, extract_low]
    decide
  have h := gr2_ofLow_toLow u 0
  refine (decodeG_distrib _ _).trans ?_
  rw [e]
  exact (congrArg (fun x => keep (GR2.toLow x 0 == _) (.distrib x)) h).trans (keep_same _ _))
set_option linter.unusedSimpArgs false in
theorem distribCompact (u : GR2) : Statement (.distribCompact u) := fun _ => .inr (by
  show decode ([packG u.h 0x4a (u.toLow 1)]) = _
  rw [decode_uniform]
  have e : BitVec.extractLsb' 0 8 (u.toLow 1) = 1 := by
    simp (disch := decide) only [GR2.toLow, extract_low]
    decide
  have h := gr2_ofLow_toLow u 1
  refine (decodeG_distrib _ _).trans ?_
  rw [e]
  exact (congrArg (fun x => keep (GR2.toLow x 1 == _) (.distribCompact x)) h).trans (keep_same _ _))
theorem proofw (u : GR2) : Statement (.proofw u) := fun _ => .inr (by
  show decode ([packG u.h 0x4b (u.toLow 0)]) = _
  rw [decode_uniform]
  exact (congrArg (fun x => keep (GR2.toLow x 0 == _) (.proofw x)) (gr2_ofLow_toLow u 0)).trans (keep_same _ _))
theorem proofpub (u : GR2) : Statement (.proofpub u) := fun _ => .inr (by
  show decode ([packG u.h 0x4c (u.toLow 0)]) = _
  rw [decode_uniform]
  exact (congrArg (fun x => keep (GR2.toLow x 0 == _) (.proofpub x)) (gr2_ofLow_toLow u 0)).trans (keep_same _ _))
theorem prstat (u : GR3) : Statement (.prstat u) := fun _ => .inr (by
  show decode ([packG u.h 0x4d (u.toLow 0)]) = _
  rw [decode_uniform]
  exact (congrArg (fun x => keep (GR3.toLow x 0 == _) (.prstat x)) (gr3_ofLow_toLow u 0)).trans (keep_same _ _))
theorem kvappend (u : GR2) : Statement (.kvappend u) := fun _ => .inr (by
  show decode ([packG u.h 0x4e (u.toLow 0)]) = _
  rw [decode_uniform]
  exact (congrArg (fun x => keep (GR2.toLow x 0 == _) (.kvappend x)) (gr2_ofLow_toLow u 0)).trans (keep_same _ _))
theorem specapp (u : GR2) : Statement (.specapp u) := fun _ => .inr (by
  show decode ([packG u.h 0x4f (u.toLow 0)]) = _
  rw [decode_uniform]
  exact (congrArg (fun x => keep (GR2.toLow x 0 == _) (.specapp x)) (gr2_ofLow_toLow u 0)).trans (keep_same _ _))
theorem commit (u : GR2) : Statement (.commit u) := fun _ => .inr (by
  show decode ([packG u.h 0x50 (u.toLow 0)]) = _
  rw [decode_uniform]
  exact (congrArg (fun x => keep (GR2.toLow x 0 == _) (.commit x)) (gr2_ofLow_toLow u 0)).trans (keep_same _ _))
theorem pdload (u : GPd) : Statement (.pdload u) := fun _ => .inr (by
  show decode ([packG u.h 0x58 (u.toLow 0 0)]) = _
  rw [decode_uniform]
  exact (congrArg (fun x => keep (GPd.toLow x 0 0 == _) (.pdload x)) (gpd_ofLow_toLow u 0 0)).trans (keep_same _ _))
theorem pdinfo (u : GPi) : Statement (.pdinfo u) := fun _ => .inr (by
  show decode ([packG u.h 0x59 (u.toLow 0)]) = _
  rw [decode_uniform]
  exact (congrArg (fun x => keep (GPi.toLow x 0 == _) (.pdinfo x)) (gpi_ofLow_toLow u 0)).trans (keep_same _ _))
theorem resultReturn (u : EvResult) : Statement (.resultReturn u) := fun _ => .inl rfl
theorem sleepWake (u : EvThread) : Statement (.sleepWake u) := fun _ => .inl rfl
theorem quireLoadComplete (u : EvQuire) : Statement (.quireLoadComplete u) := fun _ => .inl rfl
theorem pageWalk (u : EvWalk) : Statement (.pageWalk u) := fun _ => .inl rfl
theorem streamerJobCheck (u : EvJob) : Statement (.streamerJobCheck u) := fun _ => .inl rfl
theorem chunkWrite (u : EvChunk) : Statement (.chunkWrite u) := fun _ => .inl rfl
theorem tierpfArrival (u : EvJob) : Statement (.tierpfArrival u) := fun _ => .inl rfl
theorem mlatbLatch (u : EvJob) : Statement (.mlatbLatch u) := fun _ => .inl rfl
theorem mmaPass (u : EvJob) : Statement (.mmaPass u) := fun _ => .inl rfl
theorem mstoreWrite (u : EvJob) : Statement (.mstoreWrite u) := fun _ => .inl rfl
theorem gsealPerform (u : EvJob) : Statement (.gsealPerform u) := fun _ => .inl rfl
theorem imposePerform (u : EvJob) : Statement (.imposePerform u) := fun _ => .inl rfl
theorem distribPerform (u : EvJob) : Statement (.distribPerform u) := fun _ => .inl rfl
theorem proofpubPerform (u : EvJob) : Statement (.proofpubPerform u) := fun _ => .inl rfl
theorem kvgatherSnapshot (u : EvJob) : Statement (.kvgatherSnapshot u) := fun _ => .inl rfl
theorem kvappendPerform (u : EvJob) : Statement (.kvappendPerform u) := fun _ => .inl rfl
theorem specappPerform (u : EvJob) : Statement (.specappPerform u) := fun _ => .inl rfl
theorem commitPerform (u : EvJob) : Statement (.commitPerform u) := fun _ => .inl rfl
theorem launchArrive (u : EvJob) : Statement (.launchArrive u) := fun _ => .inl rfl
theorem recordRead (u : EvQueue) : Statement (.recordRead u) := fun _ => .inl rfl
theorem placement (u : EvPlace) : Statement (.placement u) := fun _ => .inl rfl
theorem workgroupStart (u : EvWg) : Statement (.workgroupStart u) := fun _ => .inl rfl
theorem launchComplete (u : EvLaunch) : Statement (.launchComplete u) := fun _ => .inl rfl
theorem fetchwDeliver (u : EvJob) : Statement (.fetchwDeliver u) := fun _ => .inl rfl
theorem preempt (u : EvCore) : Statement (.preempt u) := fun _ => .inl rfl
theorem contextSwitch (u : EvCore) : Statement (.contextSwitch u) := fun _ => .inl rfl
theorem contextSave (u : EvCore) : Statement (.contextSave u) := fun _ => .inl rfl
theorem contextRestore (u : EvRestore) : Statement (.contextRestore u) := fun _ => .inl rfl
theorem epochEnd (u : EvNat) : Statement (.epochEnd u) := fun _ => .inl rfl
theorem clockChange (u : EvNat) : Statement (.clockChange u) := fun _ => .inl rfl
theorem timeStep (u : EvNat) : Statement (.timeStep u) := fun _ => .inl rfl
theorem ppsInput (u : EvNone) : Statement (.ppsInput u) := fun _ => .inl rfl
theorem ppsOutput (u : EvNone) : Statement (.ppsOutput u) := fun _ => .inl rfl
theorem powerOn (u : EvNone) : Statement (.powerOn u) := fun _ => .inl rfl
theorem partitionSetup (u : EvNat) : Statement (.partitionSetup u) := fun _ => .inl rfl
theorem partitionTeardown (u : EvNat) : Statement (.partitionTeardown u) := fun _ => .inl rfl
theorem create (u : EvCtx) : Statement (.create u) := fun _ => .inl rfl
theorem teardown (u : EvCtx) : Statement (.teardown u) := fun _ => .inl rfl
theorem contextClosed (u : EvCtx) : Statement (.contextClosed u) := fun _ => .inl rfl
theorem qtailWrite (u : EvQueue) : Statement (.qtailWrite u) := fun _ => .inl rfl
theorem queueDescriptorWrite (u : EvDesc) : Statement (.queueDescriptorWrite u) := fun _ => .inl rfl
theorem fqheadWrite (u : EvCtxN) : Statement (.fqheadWrite u) := fun _ => .inl rfl
theorem fresumeRetry (u : EvCtxN) : Statement (.fresumeRetry u) := fun _ => .inl rfl
theorem fresumeAbort (u : EvCtxN) : Statement (.fresumeAbort u) := fun _ => .inl rfl
theorem invalidateRange (u : EvCtx) : Statement (.invalidateRange u) := fun _ => .inl rfl
theorem invalidateAll (u : EvCtx) : Statement (.invalidateAll u) := fun _ => .inl rfl
theorem invalidateDone (u : EvCtx) : Statement (.invalidateDone u) := fun _ => .inl rfl
theorem halt (u : EvCtx) : Statement (.halt u) := fun _ => .inl rfl
theorem resume (u : EvCtx) : Statement (.resume u) := fun _ => .inl rfl
theorem step (u : EvCtx) : Statement (.step u) := fun _ => .inl rfl
theorem breakpointMatch (u : EvNone) : Statement (.breakpointMatch u) := fun _ => .inl rfl
theorem debugStopped (u : EvCtx) : Statement (.debugStopped u) := fun _ => .inl rfl
theorem drdataRead (u : EvCtx) : Statement (.drdataRead u) := fun _ => .inl rfl
theorem drdataWrite (u : EvCtxN) : Statement (.drdataWrite u) := fun _ => .inl rfl
theorem steptoWrite (u : EvNat) : Statement (.steptoWrite u) := fun _ => .inl rfl
theorem install (u : EvNone) : Statement (.install u) := fun _ => .inl rfl
theorem imageVerified (u : EvNone) : Statement (.imageVerified u) := fun _ => .inl rfl
theorem enter (u : EvNone) : Statement (.enter u) := fun _ => .inl rfl
theorem libsizeWrite (u : EvNat) : Statement (.libsizeWrite u) := fun _ => .inl rfl
theorem pfApertureAccess (u : EvAper) : Statement (.pfApertureAccess u) := fun _ => .inl rfl
theorem vfApertureAccess (u : EvAper) : Statement (.vfApertureAccess u) := fun _ => .inl rfl
theorem registerWrite (u : EvReg) : Statement (.registerWrite u) := fun _ => .inl rfl
theorem getVersion (u : EvSpdm) : Statement (.getVersion u) := fun _ => .inl rfl
theorem getCapabilities (u : EvSpdm) : Statement (.getCapabilities u) := fun _ => .inl rfl
theorem negotiateAlgorithms (u : EvSpdm) : Statement (.negotiateAlgorithms u) := fun _ => .inl rfl
theorem getDigests (u : EvSpdm) : Statement (.getDigests u) := fun _ => .inl rfl
theorem getCertificate (u : EvSpdm) : Statement (.getCertificate u) := fun _ => .inl rfl
theorem challenge (u : EvSpdm) : Statement (.challenge u) := fun _ => .inl rfl
theorem getMeasurements (u : EvSpdm) : Statement (.getMeasurements u) := fun _ => .inl rfl
theorem spdmOtherRequest (u : EvSpdm) : Statement (.spdmOtherRequest u) := fun _ => .inl rfl
theorem doeAbort (u : EvNat) : Statement (.doeAbort u) := fun _ => .inl rfl
theorem linkDown (u : EvNat) : Statement (.linkDown u) := fun _ => .inl rfl
theorem linkUp (u : EvNat) : Statement (.linkUp u) := fun _ => .inl rfl
theorem peerAccess (u : EvPeer) : Statement (.peerAccess u) := fun _ => .inl rfl
theorem copyComplete (u : EvJob) : Statement (.copyComplete u) := fun _ => .inl rfl
theorem ieee1588Message (u : EvPtp) : Statement (.ieee1588Message u) := fun _ => .inl rfl
theorem launchCancel (u : EvLaunch) : Statement (.launchCancel u) := fun _ => .inl rfl

end Sys2Proof.Laws.RoundTrip
end

