-- ==== Sys2Proof/Safety.lean ====
section
/-!
DEFINITION. What counts as a safe run, the invariants of the module's state that statements rest on, and the words in
which statements say what a unit leaves behind.
-/
namespace Sys2Proof.Machine
open Sys2Proof

/-- A step that does not stop the machine. -/
def Goes (s : State) : Prop := ∃ t, step s = .next t

/-- The module has not been kept out of service by its self-test (R9): the one condition under which a step stops. -/
def InService (s : State) : Prop := s.inService = true ∨ s.rstate ≠ .booting

/-- Device memory is in its canonical form. -/
def MemWf (s : State) : Prop := SMap.wf s.mem (0 : Byte) = true

/-- The arithmetic clock stands at one of the four steps of R20. -/
def ClockLegal (s : State) : Prop := s.clock = 1400 ∨ s.clock = 1200 ∨ s.clock = 1000 ∨ s.clock = 800

/-- MR5 to MR7 are zero (R402). -/
def MeasurementsLegal (s : State) : Prop := ∀ i, 5 ≤ i → i ≤ 7 → (s.mrs[i]?).getD 0 = 0

/-- The vaults are in their canonical form. -/
def VaultsWf (s : State) : Prop := SMap.wf s.vault (0 : Byte) = true

/-- The common library's base and size are whole 512 MiB blocks, and it is at most 96 GB long (R387). -/
def LibraryLegal (s : State) : Prop := s.libBase % 2 ^ 29 = 0 ∧ s.libSize % 2 ^ 29 = 0 ∧ s.libSize ≤ 96 * 10 ^ 9

/-- What every step keeps. -/
structure Legal (s : State) : Prop where
  mem : MemWf s
  vault : VaultsWf s
  library : LibraryLegal s
  clock : ClockLegal s
  mrs : MeasurementsLegal s

/-! ### A unit that completes -/

/-- Whether the issue set holds a thread. -/
def State.issuing (s : State) (gi ti : Nat) : Bool := s.issue.members.any (fun m => m.1 == gi && m.2.contains ti)

/-- A workgroup with every thread changed, by group and index. -/
def Workgroup.mapEach (w : Workgroup) (f : Nat → Nat → Thread → Thread) : Workgroup :=
  { w with groups := w.groups.mapIdx (fun gi g => { g with threads := g.threads.mapIdx (fun ti t => f gi ti t) }) }

/-- The issuing threads of a workgroup that are READY. -/
def State.readyIssuers (s : State) (w : Workgroup) : List (Nat × Nat) :=
  w.groups.zipIdx.flatMap (fun g => g.1.threads.zipIdx.filterMap (fun t =>
    if s.issuing g.2 t.2 = true ∧ t.1.run = .ready then some (g.2, t.2) else none))

/-- Whether the threads of the issue set have results still to come. -/
def State.awaits (s : State) : Bool :=
  match s.wg? s.issue.wid with
  | none => false
  | some w => (s.readyIssuers w).any (fun x => ! w.returned x.1 x.2)

/-- A thread past its unit: behind the unit's last word, or where the unit has put it. -/
def Thread.beyond (t : Thread) (sh : Shape) (jump : Bool) : Thread :=
  { t with pc := if jump then t.pc else t.pc + BitVec.ofNat 32 (4 * sh.len), age := 0, pass := none, redo := none }

/-- The issue set past its unit (R85): each of its threads is past it, and when the unit bears W and results are still
to come, its threads are parked together. -/
def State.pastUnit (s : State) (sh : Shape) (jump : Bool) : State :=
  { s.modWg s.issue.wid (fun w => w.mapEach (fun gi ti t =>
      if s.issuing gi ti then
        if sh.h && s.awaits && t.run == .ready then (t.beyond sh jump).park (.wait s.issue.pc false) s.nextId
        else t.beyond sh jump
      else t)) with nextId := s.nextId + 1 }

/-- A thread and its group with nothing outstanding and no mark. -/
def Quiet (g : Group) (t : Thread) : Prop :=
  g.gPending = [] ∧ g.gMarks = [] ∧ t.pending = [] ∧ t.unwaited = [] ∧ t.marks = []

/-- No thread of a set has had its park's condition met (R267). -/
def Workgroup.NoneMet (w : Workgroup) (set : Nat) : Prop :=
  ∀ g ∈ w.groups, ∀ t ∈ g.threads, ∀ past h q, t.run ≠ .parked (.met past h q) set

/-- A set of waiting threads that stays parked: some thread of it waits for its condition, or none has had its condition met and
some result is still to come (R267). -/
def Workgroup.Rests (w : Workgroup) (set : Nat) : Prop := w.unmet set = true ∨ (w.NoneMet set ∧ w.due set = false)

/-- A state whose issue set can go on: its workgroup stands in the module under a number of its own, the set names each
group and thread once, its threads are READY or at their end, every set of waiting threads of the workgroup stays parked, and no
parked thread bears the next number. -/
structure Calm (s : State) : Prop where
  found : ∃ w, s.wg? s.issue.wid = some w
  single : ∀ w ∈ s.wgs, w.wid = s.issue.wid → s.wg? s.issue.wid = some w
  groups : (s.issue.members.map (·.1)).Nodup
  threads : ∀ m ∈ s.issue.members, m.2.Nodup
  ready : ∀ gi ti t, s.issuing gi ti = true → s.thread? s.issue.wid gi ti = some t → t.run = .ready ∨ t.run = .exited
  fresh : ∀ w, s.wg? s.issue.wid = some w → ∀ g ∈ w.groups, ∀ t ∈ g.threads, ∀ k set, t.run = .parked k set → set < s.nextId
  resting : ∀ w, s.wg? s.issue.wid = some w → ∀ set ∈ w.waitingSets, w.Rests set

/-- Where a unit bears W: its threads have results still to come, or nothing outstanding at all (R85). -/
def Waits (sh : Shape) (s : State) : Prop :=
  sh.h = true → s.awaits = true ∨ ∀ gi ti g t, s.issuing gi ti = true → s.group? s.issue.wid gi = some g →
    g.threads[ti]? = some t → Quiet g t

/-- Every thread that the issue set names exists and is READY. -/
def Present (s : State) : Prop :=
  ∀ m ∈ s.issue.members, ∃ g, s.group? s.issue.wid m.1 = some g ∧ ∀ ti ∈ m.2, ∃ t, g.threads[ti]? = some t ∧ t.run = .ready

/-- No cause of R368's prologue stands against a thread of the issue set: its encoding is legal for its group, its role
may issue it, and in strict mode no register it names is outstanding. -/
def Passes (i : Instr) (cross : Option CrossReads) (extra : State → Workgroup → List (Nat × Nat)) (s : State) : Prop :=
  ∀ e ∈ s.issueLanes (shapeOf i), prologue (shapeOf i) cross (extra s e.wg) e = none

/-- An issue set that stands before an instruction, which nothing stops: the state is calm, its threads exist and pass
the prologue, and a W finds them as `Waits` says. -/
structure Clear (i : Instr) (cross : Option CrossReads) (extra : State → Workgroup → List (Nat × Nat)) (s : State) : Prop where
  calm : Calm s
  here : Present s
  passes : Passes i cross extra s
  waits : Waits (shapeOf i) s

/-- A workgroup with lanes changed: each of their threads by `f`, each of their groups by `g` for its lanes in turn. -/
def Workgroup.eachLane (es : List LaneEnv) (f : LaneEnv → Thread → Thread) (g : LaneEnv → Group → Group) (w : Workgroup) : Workgroup :=
  { w with groups := w.groups.mapIdx (fun gi x =>
    let mine := es.filter (fun e => e.gi == gi)
    { mine.foldl (fun y e => g e y) x with
      threads := x.threads.mapIdx (fun ti t => match mine.find? (fun e => e.ti == ti) with
        | some e => f e t
        | none => t) }) }

/-- A state with the lanes of a unit changed. -/
def State.eachLane (s : State) (sh : Shape) (f : LaneEnv → Thread → Thread) (g : LaneEnv → Group → Group) : State :=
  s.modWg s.issue.wid (Workgroup.eachLane (s.issueLanes sh) f g)

/-- A state with the groups of a unit changed, each once, by its first lane (R153). -/
def State.eachGroup (s : State) (sh : Shape) (g : LaneEnv → Group → Group) : State :=
  s.modWg s.issue.wid (Workgroup.eachLane (groupLanes (s.issueLanes sh)) (fun _ t => t) g)

/-- The v and k registers of a thread and its random stream after a lane's results (R29, R33, R115, R140). -/
def Thread.takes (t : Thread) (o : Option LaneOut) : Thread :=
  match o with
  | none => t
  | some o =>
    let u := o.masks.foldl (fun t k => t.writeK k.1 k.2) (o.regs.foldl (fun t w => if w.1 < 96 then t.writeV w.1 w.2 else t) t)
    if o.draws = 0 then u else { u with stream := (u.stream + o.draws) % 2 ^ 64 }

/-- The g registers of a group after a lane's results, where the instruction may write them (R33). -/
def Group.takes (g : Group) (gDst : Bool) (o : Option LaneOut) : Group :=
  match o with
  | none => g
  | some o => o.regs.foldl (fun g w => if w.1 < 96 then g else if gDst then g.writeG (w.1 - 96) w.2 else g) g

/-- What a per-lane instruction of fixed latency writes: every lane's results, computed before any is written. -/
def State.lanesWritten (s : State) (i : Instr) (f : LaneEnv → LaneOut) : State :=
  let sh := shapeOf i
  s.eachLane sh (fun e t => t.takes (laneResult sh f e)) (fun e g => g.takes sh.gDst (laneResult sh f e))

/-- A per-lane instruction of fixed latency that computes `f`, done. -/
def State.lanesDone (s : State) (i : Instr) (f : LaneEnv → LaneOut) : State :=
  (s.lanesWritten i f).pastUnit (shapeOf i) false

/-- The results of a lane that become outstanding (R85): those to v registers and to k registers other than k0. -/
def LaneOut.owed (o : LaneOut) (ord : Nat) (pc : Word) : List Pending :=
  (o.regs.filter (fun w => decide (w.1 < 96))).map (fun w => Pending.now ord w.1 w.2 false pc 0)
    ++ (o.masks.filter (fun k => k.1 ≠ 0)).map (fun k => Pending.now ord (128 + k.1) (if k.2 then 1 else 0) false pc 0)

/-- A thread to which a lane's results are outstanding: its registers stand as they were (R85). -/
def Thread.owes (t : Thread) (ord : Nat) (pc : Word) (o : Option LaneOut) : Thread :=
  match o with
  | none => t
  | some o =>
    { t with
      pending := t.pending ++ o.owed ord pc, unwaited := t.unwaited ++ (o.owed ord pc).map (·.reg)
      stream := if o.draws = 0 then t.stream else (t.stream + o.draws) % 2 ^ 64 }

/-- A per-lane instruction of V class that computes `f`, issued: its results are outstanding. -/
def State.lanesOwed (s : State) (i : Instr) (f : LaneEnv → LaneOut) : State :=
  (s.eachLane (shapeOf i) (fun e t => t.owes s.nextId s.issue.pc (laneResult (shapeOf i) f e)) (fun _ g => g)).pastUnit
    (shapeOf i) false

/-- A uniform instruction that computes `f`, done: each group's registers written once. -/
def State.groupsDone (s : State) (i : Instr) (f : State → LaneEnv → List (Nat × Word)) : State :=
  (s.eachGroup (shapeOf i) (fun e g => (f s e).foldl (fun g w => g.writeG w.1 w.2) g)).pastUnit (shapeOf i) false

/-- An issue set that may complete an instruction on whose unit nothing stands but R368's common prologue. -/
abbrev Issues (i : Instr) (s : State) : Prop := Clear i none noExtra s

/-- `i` completes from every issue set that may issue it, and each lane's results are those of `f`. -/
def Computes (i : Instr) (f : LaneEnv → LaneOut) : Prop := ∀ s, Issues i s → exec i s = .next (s.lanesDone i f)

/-- The same of a cross-lane instruction, whose sources `c` lists. -/
def ComputesAcross (i : Instr) (c : CrossReads) (f : LaneEnv → LaneOut) : Prop :=
  ∀ s, Clear i (some c) noExtra s → exec i s = .next (s.lanesDone i f)

/-- `i` completes from every issue set that may issue it, and the results of `f` are outstanding (R85). -/
def Leaves (i : Instr) (f : LaneEnv → LaneOut) : Prop := ∀ s, Issues i s → exec i s = .next (s.lanesOwed i f)

/-- The same of a cross-lane instruction. -/
def LeavesAcross (i : Instr) (c : CrossReads) (f : LaneEnv → LaneOut) : Prop :=
  ∀ s, Clear i (some c) noExtra s → exec i s = .next (s.lanesOwed i f)

/-- `i` completes from every issue set that may issue it, and each group's g registers receive what `f` gives. -/
def ComputesOnce (i : Instr) (f : State → LaneEnv → List (Nat × Word)) : Prop :=
  ∀ s, Issues i s → exec i s = .next (s.groupsDone i f)

/-- An issue set of one group, with its first lane. -/
structure Lone (i : Instr) (s : State) (e : LaneEnv) : Prop where
  first : (s.issueLanes (shapeOf i)).head? = some e
  group : ∀ x ∈ s.issueLanes (shapeOf i), x.gi = e.gi

/-- An issue set of one group, with its lane of the lowest number. -/
structure Lowest (i : Instr) (s : State) (e : LaneEnv) : Prop where
  mem : e ∈ s.issueLanes (shapeOf i)
  least : ∀ x ∈ s.issueLanes (shapeOf i), x.gi = e.gi ∧ e.ti ≤ x.ti

/-- A state on which each group of a unit has acted in turn, by its first lane (R153). -/
def State.eachTurn (s : State) (i : Instr) (g : State → LaneEnv → State) : State :=
  (groupLanes (s.issueLanes (shapeOf i))).foldl g s

/-- `i` completes from every issue set that may issue it, and each of its groups acts in turn as `g` says. -/
def Acts (i : Instr) (g : State → LaneEnv → State) : Prop :=
  ∀ s, Issues i s → exec i s = .next ((s.eachTurn i g).pastUnit (shapeOf i) false)

/-- No thread of a workgroup waits on the object at a scratch offset. -/
def Workgroup.NobodyAt (w : Workgroup) (o : Nat) : Prop :=
  ∀ g ∈ w.groups, ∀ t ∈ g.threads, ∀ k set, t.run = .parked k set → (∀ b h, k ≠ .phase o b h) ∧ ∀ m h, k ≠ .chunk o m h

/-- An offset that can name an object: a multiple of 16 whose 16 bytes lie in the workgroup's scratch (R200). -/
abbrev Workgroup.Holds (w : Workgroup) (o : Nat) : Prop := o % 16 = 0 ∧ o + 16 ≤ w.scratchSize

/-- A PC that a lane may be sent to at once (R34, R160): a unit's address within its RESIDENT quire, which is at most 64 KiB long. -/
abbrev State.Reaches (s : State) (e : LaneEnv) (pc : Word) : Prop :=
  pc.toNat % 4 = 0 ∧ pcOffset pc < 0x10000 ∧ ((s.resident e.wg.part e.wg.ctx e.wg.core).quire (pcQuire pc)).state = .resident ∧
    pcOffset pc < ((s.resident e.wg.part e.wg.ctx e.wg.core).quire (pcQuire pc)).length

/-- A state on which every lane of a unit has acted in turn. -/
def State.eachOf (s : State) (i : Instr) (g : State → LaneEnv → State) : State := (s.issueLanes (shapeOf i)).foldl g s

/-- A lane whose trap can be delivered at once (R174): its unit has its cycle to itself, its group has no thread in handler
state, and its trap vector names a unit's address within a RESIDENT quire. -/
abbrev State.Delivers (s : State) (e : LaneEnv) : Prop :=
  s.holdEnds = false ∧ (∀ t ∈ e.g.threads, t.handler = false) ∧ e.g.trapvec ≠ 0 ∧ s.Reaches e e.g.trapvec

/-- What a delivered trap leaves (R43, R174): the group's trap registers describe it, and the lane's thread is in handler
state at the trap vector, with the PC to resume at recorded. -/
def State.Entered (t : State) (e : LaneEnv) (pc resume : Word) (cause info addr : Nat) : Prop :=
  (∃ g, t.group? e.wg.wid e.gi = some g ∧ g.trapcause = BitVec.ofNat 8 cause ∧ g.trappc = pc ∧
    g.traplane = BitVec.ofNat 6 (e.g.lanebase + e.ti) ∧ g.trapaddr = BitVec.ofNat 64 addr ∧ g.trapinfo = BitVec.ofNat 32 info) ∧
  ∃ x, t.thread? e.wg.wid e.gi e.ti = some x ∧ x.pc = e.g.trapvec ∧ x.handler = true ∧ x.resume = resume

/-- A unit that some thread of its set may not issue: the state is calm and its threads are there. -/
structure Stands (s : State) : Prop where
  calm : Calm s
  here : Present s

/-- What a unit has left alone: device memory, the vaults, the work in hand, the proof items and the contexts; every workgroup's
scratch with its full-empty bits and objects; every thread's return stack; and the registers of threads and groups with nothing
outstanding, for what is outstanding reaches its registers before a handler begins (R88). -/
structure State.Untouched (t s : State) : Prop where
  mem : t.mem = s.mem
  vault : t.vault = s.vault
  jobs : t.jobs = s.jobs
  items : t.items = s.items
  contexts : t.contexts = s.contexts
  scratch : ∀ wid w, s.wg? wid = some w → ∃ v, t.wg? wid = some v ∧ v.scratch = w.scratch ∧ v.full = w.full ∧ v.objects = w.objects
  groups : ∀ wid gi g, s.group? wid gi = some g → ∃ h, t.group? wid gi = some h ∧ (g.gPending = [] → h.g = g.g)
  threads : ∀ wid gi ti x, s.thread? wid gi ti = some x → ∃ y, t.thread? wid gi ti = some y ∧ y.stack = x.stack ∧ y.depth = x.depth ∧
    (x.pending = [] → y.v = x.v ∧ y.k = x.k)

/-- What each cross-lane instruction reads of other threads in place of its operands a and b (R86, R116). -/
def crossOf (i : Instr) : Option CrossReads :=
  match i with
  | .shfl u => some (fun e => [(shflSource u e, u.a.toNat, grp u.w), (e.ti, u.b.toNat, grp u.w)])
  | .shflUp u => some (shflReads u (upSource u))
  | .shflDn u => some (shflReads u (dnSource u))
  | .shflXor u => some (shflReads u (xorSource u))
  | .xperm u => some (xpermReads u)
  | .vote u => some (allReads (128 + u.a.toNat % 8) 1)
  | .reduce u => some (allReads u.a.toNat (typeGroup u.t))
  | .scan u => some (allReads u.a.toNat (typeGroup u.t))
  | .matchLanes u => some (allReads u.a.toNat (typeGroup u.t))
  | .rdlane u => some (rdlaneReads u)
  | .kpop u => some (fun e => e.issued.map (fun i => (i, 128 + u.a.toNat % 8, 1)))
  | .cvtFloatSource u => some (cvtReads u)
  | .cvts u => some (cvtsReads u)
  | .blkenc u => some (blkencReads u)
  | .dxt u => some (walkReads u.w.toNat u.a u.b)
  | .dxcmp u => some (walkReads u.w.toNat u.a u.b)
  | _ => none

/-- The reasons of R92 that stand against a unit of a lane's group: those of its words, those of the machine, and that of a
walk's second operand (R254). -/
def reasonsAt (i : Instr) (s : State) (e : LaneEnv) : List (Nat × Nat) :=
  (shapeOf i).reasons e.g.budget ++ machineReasons s e.wg (shapeOf i) ++
    (match i with
      | .dxt u => arityReason (shapeOf (.dxt u)) u.w.toNat u.b s e.wg
      | .dxcmp u => arityReason (shapeOf (.dxcmp u)) u.w.toNat u.b s e.wg
      | _ => [])

/-- The first premature register of a lane at a unit (R86, R87): one that does not take part touches its destinations under
zeroing and its mask alone. -/
def prematureAt (i : Instr) (e : LaneEnv) : Option Nat :=
  if (shapeOf i).masks && ! e.parts.contains e.ti then maskPremature e (shapeOf i)
  else firstPremature e (shapeOf i) ((crossOf i).map (· e))

/-- The issue set parked at its unit, each lane for its own condition, in one set (R266, R267). -/
def State.parkedAt (s : State) (i : Instr) (k : LaneEnv → ParkKind) : State :=
  { s.eachLane (shapeOf i) (fun e t => t.park (k e) s.nextId) (fun _ g => g) with nextId := s.nextId + 1 }

/-! ### Events -/

/-- `i` answers a next state, of which `P` holds. -/
def Ends (i : Instr) (s : State) (P : State → Prop) : Prop := ∃ t, exec i s = .next t ∧ P t

/-- Bytes of a page at whose locations no overwritten store is kept: every read of them finds the newest (R281). -/
def Settled (s : State) (g : Page) (va n : Nat) : Prop :=
  ∀ i < n, (s.stores.get (locKey 0 (g.phys (va + i) / 8)) Versions.none).older = []

/-- A state in which every thread is READY or at its end, and no workgroup has retired. -/
abbrev Resting (s : State) : Prop :=
  ∀ w ∈ s.wgs, w.retired = false ∧ ∀ g ∈ w.groups, ∀ t ∈ g.threads, t.run = .ready ∨ t.run = .exited

/-- No thread of a workgroup waits for results, or for the rest of a set of which its own park is met. -/
def State.NobodyWaits (s : State) (wid : Nat) : Prop := ∀ w, s.wg? wid = some w → w.waitingSets = []

/-- A set of a workgroup that alone waits there, with one thread, for its results. -/
def Workgroup.WaitsAlone (w : Workgroup) (gi ti : Nat) (pc : Word) (set : Nat) : Prop :=
  w.waitingSets = [set] ∧ w.waiters set = [(gi, ti, pc, false)] ∧
  ∀ g i, w.groups[i]? = some g → ∀ x j, g.threads[j]? = some x → (∃ k, x.run = .parked k set) → i = gi ∧ j = ti

/-- A piece of work that an event may carry out now: it is in hand, of this kind, and nothing of earlier work stands before it. -/
structure Due (s : State) (id : Nat) (j : Job) (k : JobKind) : Prop where
  found : s.job? id = some j
  kind : j.kind = k
  ready : s.jobReady j none = true

/-- An operation of the forme unit that runs through from `s`: it gives `a` and leaves `t`. -/
def Gives {α : Type} (m : FM α) (s : State) (a : α) (t : State) : Prop := m.run s = (.ok a, t)

/-- A workgroup to which the completion of work has made known what a wake on part k of an object acquires (R297). -/
def Workgroup.told (w : Workgroup) (a k : Nat) (v : View) : Workgroup := if v.isEmpty then w else w.joinSync a k v

/-- A workgroup after an arrival: where the phase flips, the releases of its arrivals are what the wakes from it acquire (R199,
R279). -/
def Workgroup.arrived (w : Workgroup) (a n status : Nat) : Workgroup :=
  if (w.arrive a n status).2 then (w.arrive a n status).1.flipSync a else (w.arrive a n status).1

/-- A workgroup once work of its own has ended, which orders `v` (R297, R315). -/
def Workgroup.worked (w : Workgroup) (v : View) : Workgroup := if v.isEmpty then w else { w with work := w.work.join v }

/-- Work that has ended: it is no longer in hand, and the barrier that it names has counted one arrival with its status. What the
completion orders is known there and to the workgroup (R297, R315). -/
def JobOver (j : Job) (status : Nat) (w : Workgroup) (t : State) : Prop :=
  t.job? j.id = none ∧ ∃ v : View, t.wg? j.wid = some ((match j.kind.object with
    | some (a, false) => (w.told a 0 v).arrived a 1 status
    | _ => w).worked v)

/-- A chunk map after chunk i has been delivered (R208). -/
def Workgroup.chunkDone (w : Workgroup) (map i : Nat) : Workgroup :=
  if w.isChunkMap map then
    w.putObject map (bytesOf (w.bitmapOf map ||| 2 ^ i) 8 ++ bytesOf (w.mapStatus map) 4 ++ bytesOf (w.delivered map + 1) 4)
  else w

/-- A chunk map after a report with a status: the first nonzero one is kept (R202). -/
def Workgroup.mapTold (w : Workgroup) (map status : Nat) : Workgroup :=
  if w.isChunkMap map && decide (w.mapStatus map = 0) then
    w.putObject map (bytesOf (w.bitmapOf map) 8 ++ bytesOf status 4 ++ bytesOf (w.delivered map) 4)
  else w

/-- A workgroup after an engine has written bytes to its scratch, which carry what the work had to follow. -/
def Workgroup.received (w : Workgroup) (a : Nat) (bs : List Byte) (v : View) : Workgroup := (w.engineWrite (cellsAt a bs) v).1

end Sys2Proof.Machine
end

