-- ==== Sys2Proof/Certificates/Slice0/Obligations.lean ====
section
/-!
DEFINITION. The statements about the module that are to be proved.
-/
section
open Sys2Proof Sys2Proof.Machine

/-! ### What the lanes compute -/

/-- R119 to R122: integer arithmetic on 32 or 64 bits: the exact result, wrapped, or clamped under S; the high halves rounded
toward −∞; IMULW's whole product, and reason 4 for an odd d; IMAD's third source c or d; ISAD's z read from d; the packed forms
on the two 16-bit elements of each register apart; the one-source operations on the type's bits; and the sum with an
immediate. -/
def Obligations.IntegerArithmetic : Prop :=
  (∀ (u : LRw),
    let n := widthBits u.w
    let x (sg : Bool) (e : LaneEnv) : Int := readInt sg (e.val u.a.toNat (grp u.w)) n
    let y (sg : Bool) (e : LaneEnv) : Int := readInt sg (e.val u.b.toNat (grp u.w)) n
    let d (sg : Bool) (e : LaneEnv) : Int := readInt sg (e.val u.d.toNat (grp u.w)) n
    let c (sg : Bool) (e : LaneEnv) : Int := if cvOf u.p then readInt sg (e.val (cOf u.p) (grp u.w)) n else d sg e
    let put (sg : Bool) (v : LaneEnv → Int) (e : LaneEnv) : LaneOut :=
      .ofRegs (splitWords u.d.toNat (grp u.w) (fitInt n sg e.sat (v e)))
    Computes (.iaddI u) (put true (fun e => x true e + y true e)) ∧
    Computes (.iaddN u) (put false (fun e => x false e + y false e)) ∧
    Computes (.isubI u) (put true (fun e => x true e - y true e)) ∧
    Computes (.isubN u) (put false (fun e => x false e - y false e)) ∧
    Computes (.imulI u) (put true (fun e => x true e * y true e)) ∧
    Computes (.imulN u) (put false (fun e => x false e * y false e)) ∧
    Computes (.imulhI u) (put true (fun e => x true e * y true e / (2 ^ n : Nat))) ∧
    Computes (.imulhN u) (put false (fun e => x false e * y false e / (2 ^ n : Nat))) ∧
    Computes (.imadI u) (put true (fun e => x true e * y true e + c true e)) ∧
    Computes (.imadN u) (put false (fun e => x false e * y false e + c false e)) ∧
    Computes (.iminI u) (put true (fun e => min (x true e) (y true e))) ∧
    Computes (.iminN u) (put false (fun e => min (x false e) (y false e))) ∧
    Computes (.imaxI u) (put true (fun e => max (x true e) (y true e))) ∧
    Computes (.imaxN u) (put false (fun e => max (x false e) (y false e))) ∧
    Computes (.isadI u) (put true (fun e => ((x true e - y true e).natAbs : Int) + d true e)) ∧
    Computes (.isadN u) (put false (fun e => ((x false e - y false e).natAbs : Int) + d false e))) ∧
  (∀ (u : LR0),
    let x (sg : Bool) (e : LaneEnv) : Int := readInt sg (e.reg u.a.toNat).toNat 32
    let y (sg : Bool) (e : LaneEnv) : Int := readInt sg (e.reg u.b.toNat).toNat 32
    let put (v : LaneEnv → Int) (e : LaneEnv) : LaneOut := .ofRegs (splitWords u.d.toNat 2 (wrapN (v e) 64))
    Computes (.imulwI u) (put (fun e => x true e * y true e)) ∧
    Computes (.imulwN u) (put (fun e => x false e * y false e)) ∧
    (u.d.toNat % 2 = 1 → ∀ budget, (∃ r ∈ (shapeOf (.imulwI u)).reasons budget, r.1 = 4) ∧
      ∃ r ∈ (shapeOf (.imulwN u)).reasons budget, r.1 = 4)) ∧
  (∀ (u : LR0),
      let x (sg : Bool) (e : LaneEnv) (i : Nat) : Int := readInt sg ((e.reg u.a.toNat).toNat / 2 ^ (16 * i) % 2 ^ 16) 16
      let y (sg : Bool) (e : LaneEnv) (i : Nat) : Int := readInt sg ((e.reg u.b.toNat).toNat / 2 ^ (16 * i) % 2 ^ 16) 16
      let put (sg : Bool) (v : LaneEnv → Nat → Int) (e : LaneEnv) : LaneOut :=
        .ofRegs [(u.d.toNat, BitVec.ofNat 32 (packElems 16 [fitInt 16 sg e.sat (v e 0), fitInt 16 sg e.sat (v e 1)]))]
      Computes (.iaddI16x2 u) (put true (fun e i => x true e i + y true e i)) ∧
      Computes (.iaddN16x2 u) (put false (fun e i => x false e i + y false e i)) ∧
      Computes (.isubI16x2 u) (put true (fun e i => x true e i - y true e i)) ∧
      Computes (.isubN16x2 u) (put false (fun e i => x false e i - y false e i)) ∧
      Computes (.iminI16x2 u) (put true (fun e i => min (x true e i) (y true e i))) ∧
      Computes (.iminN16x2 u) (put false (fun e i => min (x false e i) (y false e i))) ∧
      Computes (.imaxI16x2 u) (put true (fun e i => max (x true e i) (y true e i))) ∧
      Computes (.imaxN16x2 u) (put false (fun e i => max (x false e i) (y false e i)))) ∧
  (∀ (u : LUw),
    let t := u.t.toNat
    let n := elemBits t
    let sg : Bool := t % 2 == 0
    let x (e : LaneEnv) : Nat := e.val u.a.toNat (typeGroup u.t)
    let put (v : LaneEnv → Nat) (e : LaneEnv) : LaneOut := .ofRegs (splitWords u.d.toNat (typeGroup u.t) (v e))
    Computes (.iabs u) (put (fun e => fitInt n sg e.sat ((readInt sg (x e) n).natAbs : Int))) ∧
    Computes (.ineg u) (put (fun e => fitInt n sg e.sat (- readInt sg (x e) n))) ∧
    Computes (.clz u) (put (fun e => if x e = 0 then n else n - 1 - Nat.log2 (x e))) ∧
    Computes (.popc u) (put (fun e => (List.range n).foldl (fun r i => r + x e / 2 ^ i % 2) 0)) ∧
    Computes (.brev u) (put (fun e => (List.range n).foldl (fun r i => 2 * r + x e / 2 ^ i % 2) 0))) ∧
  (∀ (u : LImm), Computes (.iaddImm u) (fun e => .ofRegs [(u.d.toNat, BitVec.ofNat 32
    (fitInt 32 true e.sat ((e.reg u.a.toNat).toInt + (immOf u.x u.imm9).toInt)))]))

/-- R80 and R126: a compare writes its k register, a packed one the pair; the conditions on integers, and on floating
patterns, where a NaN holds only NE and UN. -/
def Obligations.ComparesWriteMasks : Prop :=
  (∀ (u : LCmpW),
    let n := widthBits u.w
    let x (sg : Bool) (e : LaneEnv) : Int := readInt sg (e.val u.a.toNat (grp u.w)) n
    let y (sg : Bool) (e : LaneEnv) : Int := readInt sg (e.val u.b.toNat (grp u.w)) n
    let f : Fmt := if u.w = 0 then fp32 else fp64
    let p (e : LaneEnv) : Nat := f.negAbs e.negA e.absA (e.val u.a.toNat (grp u.w) % 2 ^ elemBits (widthType u.w))
    let q (e : LaneEnv) : Nat := f.negAbs e.negB e.absB (e.val u.b.toNat (grp u.w) % 2 ^ elemBits (widthType u.w))
    Computes (.icmpI u) (fun e => .ofMask u.k.toNat (intCond u.cond.toNat (x true e) (y true e))) ∧
    Computes (.icmpN u) (fun e => .ofMask u.k.toNat (intCond u.cond.toNat (x false e) (y false e))) ∧
    Computes (.fcmp u) (fun e => .ofMask u.k.toNat (floatCond f u.cond.toNat (p e) (q e)))) ∧
  (∀ (u : LCmp0),
    let x (e : LaneEnv) (i : Nat) : Nat := (e.reg u.a.toNat).toNat / 2 ^ (16 * i) % 2 ^ 16
    let y (e : LaneEnv) (i : Nat) : Nat := (e.reg u.b.toNat).toNat / 2 ^ (16 * i) % 2 ^ 16
    let put (r : LaneEnv → Nat → Bool) (e : LaneEnv) : LaneOut :=
      { regs := [], masks := [(u.k.toNat, r e 0), (u.k.toNat + 1, r e 1)], draws := 0 }
    let fl (f : Fmt) (e : LaneEnv) (i : Nat) : Bool :=
      floatCond f u.cond.toNat (f.negAbs e.negA e.absA (x e i)) (f.negAbs e.negB e.absB (y e i))
    Computes (.icmpI16x2 u) (put (fun e i => intCond u.cond.toNat (readInt true (x e i) 16) (readInt true (y e i) 16))) ∧
    Computes (.icmpN16x2 u) (put (fun e i => intCond u.cond.toNat (readInt false (x e i) 16) (readInt false (y e i) 16))) ∧
    Computes (.fcmpBf16x2 u) (put (fl bf16)) ∧
    Computes (.fcmpFp16x2 u) (put (fl fp16))) ∧
  (∀ (u : LCmpI),
    let x (sg : Bool) (e : LaneEnv) : Int := readInt sg (e.reg u.a.toNat).toNat 32
    let y (sg : Bool) : Int := readInt sg (immOf u.x u.imm9).toNat 32
    Computes (.icmpIImm u) (fun e => .ofMask u.k.toNat (intCond u.cond.toNat (x true e) (y true))) ∧
    Computes (.icmpNImm u) (fun e => .ofMask u.k.toNat (intCond u.cond.toNat (x false e) (y false))))

/-- R122 to R124: the bitwise operations, register by register of a width group, and with an immediate; shifts and rotation of
n bits: a count of n or more gives 0, or the sign bit for SAR, and a rotation takes it modulo n; the count of a register is
in its low 8 bits. -/
def Obligations.BitwiseAndShifts : Prop :=
  (∀ (u : LRw),
    let put (f : Word → Word → Word) (e : LaneEnv) : LaneOut :=
      .ofRegs ((List.range (grp u.w)).map (fun i => (u.d.toNat + i, f (e.reg (u.a.toNat + i)) (e.reg (u.b.toNat + i)))))
    Computes (.and u) (put (fun x y => x &&& y)) ∧
    Computes (.or u) (put (fun x y => x ||| y)) ∧
    Computes (.xor u) (put (fun x y => x ^^^ y)) ∧
    Computes (.andn u) (put (fun x y => x &&& ~~~ y))) ∧
  (∀ (u : LImm),
    let put (f : Word → Word → Word) (e : LaneEnv) : LaneOut := .ofRegs [(u.d.toNat, f (e.reg u.a.toNat) (immOf u.x u.imm9))]
    Computes (.andImm u) (put (fun x y => x &&& y)) ∧
    Computes (.orImm u) (put (fun x y => x ||| y)) ∧
    Computes (.xorImm u) (put (fun x y => x ^^^ y))) ∧
  (∀ (u : LRw),
    let n := widthBits u.w
    let x (e : LaneEnv) : Nat := e.val u.a.toNat (grp u.w)
    let c (e : LaneEnv) : Nat := (e.reg u.b.toNat).toNat % 256
    let put (v : LaneEnv → Nat) (e : LaneEnv) : LaneOut := .ofRegs (splitWords u.d.toNat (grp u.w) (v e))
    Computes (.shl u) (put (fun e => if c e < n then x e * 2 ^ c e % 2 ^ n else 0)) ∧
    Computes (.shr u) (put (fun e => if c e < n then x e / 2 ^ c e else 0)) ∧
    Computes (.sar u) (put (fun e => wrapN (sext (x e) n / (2 ^ min (c e) n : Nat)) n)) ∧
    Computes (.rotl u) (put (fun e => x e * 2 ^ (c e % n) % 2 ^ n + x e / 2 ^ (n - c e % n)))) ∧
  (∀ (u : LSh),
    let x (e : LaneEnv) : Nat := (e.reg u.a.toNat).toNat
    let c := u.count.toNat
    let put (v : LaneEnv → Nat) (e : LaneEnv) : LaneOut := .ofRegs [(u.d.toNat, BitVec.ofNat 32 (v e))]
    Computes (.shlImm u) (put (fun e => if c < 32 then x e * 2 ^ c % 2 ^ 32 else 0)) ∧
    Computes (.shrImm u) (put (fun e => if c < 32 then x e / 2 ^ c else 0)) ∧
    Computes (.sarImm u) (put (fun e => wrapN (sext (x e) 32 / (2 ^ min c 32 : Nat)) 32)) ∧
    Computes (.rotlImm u) (put (fun e => x e * 2 ^ (c % 32) % 2 ^ 32 + x e / 2 ^ (32 - c % 32))))

/-- R122, R125, R126 and R152: bit fields, selection, moves. -/
def Obligations.FieldsSelectionMoves : Prop :=
  (∀ (u : LRw),
    let n := widthBits u.w
    let p (e : LaneEnv) : Nat := (e.reg u.b.toNat).toNat % 256
    let l (e : LaneEnv) : Nat := if p e < n then min ((e.reg u.b.toNat).toNat / 256 % 256) (n - p e) else 0
    let a (e : LaneEnv) : Nat := e.val u.a.toNat (grp u.w)
    let x (e : LaneEnv) : Nat := e.val u.d.toNat (grp u.w)
    let put (v : LaneEnv → Nat) (e : LaneEnv) : LaneOut := .ofRegs (splitWords u.d.toNat (grp u.w) (v e))
    let k := match u.p with | some q => q.k.toNat | none => 0
    Computes (.bfxI u) (put (fun e => wrapN (sext (a e / 2 ^ p e % 2 ^ l e) (l e)) n)) ∧
    Computes (.bfxN u) (put (fun e => a e / 2 ^ p e % 2 ^ l e)) ∧
    Computes (.bfi u) (put (fun e =>
      if l e = 0 then x e else x e - (x e / 2 ^ p e % 2 ^ l e) * 2 ^ p e + (a e % 2 ^ l e) * 2 ^ p e)) ∧
    Computes (.sel u) (fun e => .ofRegs ((List.range (grp u.w)).map (fun i =>
      (u.d.toNat + i, if e.mask k then e.reg (u.a.toNat + i) else e.reg (u.b.toNat + i)))))) ∧
  (∀ (u : LMovi), Computes (.movi u) (fun _ => .ofRegs [(u.d.toNat, immOf u.x u.imm9)])) ∧
  (∀ (u : LAw), Computes (.mov u) (fun e =>
    .ofRegs ((List.range (grp u.w)).map (fun i => (u.d.toNat + i, e.reg (u.a.toNat + i)))))) ∧
  (∀ (u : LAf),
    (u.fn = 0 → Computes (.kmov u) (fun e => .ofMask (u.d.toNat % 8) (e.mask (u.a.toNat % 8)))) ∧
    (u.fn = 1 → Computes (.kmov u) (fun e => .ofMask (u.d.toNat % 8) ((e.reg u.a.toNat).getLsbD 0))) ∧
    (u.fn = 2 → Computes (.kmov u) (fun e => .ofRegs [(u.d.toNat, if e.mask (u.a.toNat % 8) then 1 else 0)])))

/-- R127 to R130: floating arithmetic element by element: the exact result, FDIV's quotient among them, rounded once under the
unit's rounding code, saturated under S, its operands a and b with the N items applied; min and max round nothing; FSCALE's power of
two is b read as an integer. A lane takes one word of its random stream for each element it rounds under rsto. -/
def Obligations.FloatArithmetic : Prop :=
  (∀ (u : LRw),
    let t := widthType u.w
    let m := fmtOf t
    let x (e : LaneEnv) : Nat := m.negAbs e.negA e.absA (elemAt (e.val u.a.toNat (grp u.w)) (elemBits t) 0)
    let y (e : LaneEnv) : Nat := m.negAbs e.negB e.absB (elemAt (e.val u.b.toNat (grp u.w)) (elemBits t) 0)
    let z (e : LaneEnv) : Nat := elemAt (e.val (if cvOf u.p then cOf u.p else u.d.toNat) (grp u.w)) (elemBits t) 0
    let put (n : Nat) (v : LaneEnv → Nat) (e : LaneEnv) : LaneOut :=
      { regs := splitWords u.d.toNat (grp u.w) (packElems (elemBits t) [v e]), masks := [], draws := if e.mode = 5 then n else 0 }
    let rounded (v : LaneEnv → FVal) (e : LaneEnv) : Nat := m.round e.mode e.sat (e.draw 0) (v e)
    Computes (.fadd u) (put 1 (rounded (fun e => fAdd e.mode (m.value (x e)) (m.value (y e))))) ∧
    Computes (.fsub u) (put 1 (rounded (fun e => fSub e.mode (m.value (x e)) (m.value (y e))))) ∧
    Computes (.fmul u) (put 1 (rounded (fun e => fMul e.mode (m.value (x e)) (m.value (y e))))) ∧
    Computes (.ffma u) (put 1 (rounded (fun e => fFma e.mode (m.value (x e)) (m.value (y e)) (m.value (z e))))) ∧
    Leaves (.fdiv u) (put 1 (rounded (fun e => fDiv e.mode (m.value (x e)) (m.value (y e))))) ∧
    Computes (.fmin u) (put 0 (fun e => m.minMax false (x e) (y e))) ∧
    Computes (.fmax u) (put 0 (fun e => m.minMax true (x e) (y e))) ∧
    Computes (.fscale u) (fun e =>
      { regs := splitWords u.d.toNat (grp u.w) (m.round e.mode e.sat (e.draw 0)
          (scaleVal (m.value (m.negAbs e.negA e.absA (e.val u.a.toNat (grp u.w)))) (e.reg u.b.toNat).toInt))
        masks := [], draws := if e.mode = 5 then 1 else 0 })) ∧
  (∀ (u : LR0),
    let x (m : Fmt) (e : LaneEnv) (i : Nat) : Nat := m.negAbs e.negA e.absA ((e.reg u.a.toNat).toNat / 2 ^ (16 * i) % 2 ^ 16)
    let y (m : Fmt) (e : LaneEnv) (i : Nat) : Nat := m.negAbs e.negB e.absB ((e.reg u.b.toNat).toNat / 2 ^ (16 * i) % 2 ^ 16)
    let z (e : LaneEnv) (i : Nat) : Nat := (e.reg (if cvOf u.p then cOf u.p else u.d.toNat)).toNat / 2 ^ (16 * i) % 2 ^ 16
    let put (n : Nat) (v : LaneEnv → Nat → Nat) (e : LaneEnv) : LaneOut :=
      { regs := [(u.d.toNat, BitVec.ofNat 32 (packElems 16 [v e 0, v e 1]))], masks := [], draws := if e.mode = 5 then n else 0 }
    let two (m : Fmt) (f : Nat → FVal → FVal → FVal) (e : LaneEnv) (i : Nat) : Nat :=
      m.round e.mode e.sat (e.draw i) (f e.mode (m.value (x m e i)) (m.value (y m e i)))
    let three (m : Fmt) (e : LaneEnv) (i : Nat) : Nat :=
      m.round e.mode e.sat (e.draw i) (fFma e.mode (m.value (x m e i)) (m.value (y m e i)) (m.value (z e i)))
    let pick (m : Fmt) (g : Bool) (e : LaneEnv) (i : Nat) : Nat := m.minMax g (x m e i) (y m e i)
    Computes (.faddBf16x2 u) (put 2 (two bf16 fAdd)) ∧ Computes (.faddFp16x2 u) (put 2 (two fp16 fAdd)) ∧
    Computes (.fsubBf16x2 u) (put 2 (two bf16 fSub)) ∧ Computes (.fsubFp16x2 u) (put 2 (two fp16 fSub)) ∧
    Computes (.fmulBf16x2 u) (put 2 (two bf16 fMul)) ∧ Computes (.fmulFp16x2 u) (put 2 (two fp16 fMul)) ∧
    Computes (.ffmaBf16x2 u) (put 2 (three bf16)) ∧ Computes (.ffmaFp16x2 u) (put 2 (three fp16)) ∧
    Computes (.fminBf16x2 u) (put 0 (pick bf16 false)) ∧ Computes (.fminFp16x2 u) (put 0 (pick fp16 false)) ∧
    Computes (.fmaxBf16x2 u) (put 0 (pick bf16 true)) ∧ Computes (.fmaxFp16x2 u) (put 0 (pick fp16 true)))

/-- R131 to R133: the one-source floating operations, element by element; the special functions are V class, and each
element's pattern is the one that R133's bound allows and the device settles on. -/
def Obligations.FloatOneSource : Prop :=
  ∀ (u : LUw),
    let t := u.t.toNat
    let m := fmtOf t
    let put (rounds : Bool) (f : Nat → Nat → Nat → Nat) (e : LaneEnv) : LaneOut :=
      { regs := splitWords u.d.toNat (typeGroup u.t) (packElems (elemBits t) ((List.range (elemsOf t)).map (fun i =>
          f e.mode (e.draw i) (m.negAbs e.negA e.absA (elemAt (e.val u.a.toNat (typeGroup u.t)) (elemBits t) i)))))
        masks := [], draws := if rounds then (if e.mode = 5 then elemsOf t else 0) else 0 }
    let special (fn : Nat) : LaneEnv → LaneOut := put false (fun _ _ x => specialElem fn t x)
    Computes (.fclass u) (put false (fun _ _ x => m.classMask x)) ∧
    Computes (.frnd u) (put true (fun mode r x => m.round 0 false 0 (fRnd mode r (m.value x)))) ∧
    Computes (.fract u) (put true (fun mode r x => m.round mode false r (fFract (m.value x)))) ∧
    Leaves (.exp2 u) (special 0) ∧ Leaves (.log2 u) (special 1) ∧ Leaves (.rcp u) (special 2) ∧ Leaves (.rsq u) (special 3) ∧
    Leaves (.sqrt u) (special 4) ∧ Leaves (.sin u) (special 5) ∧ Leaves (.cos u) (special 6) ∧ Leaves (.tanh u) (special 7)

/-- R134 to R139: conversions. CVT and CVTS write at once, BLKENC and BLKDEC leave their results outstanding. When a conversion
takes words of the random stream is the model's reading (log entry 32): CVT to a float format takes n only where its formats
round, CVTS always n, and a block takes none for the NaN block. No source read may be outstanding in strict mode: where a lane makes
a block, those of every participant of its block, with the masks that say who they are (R86, R87). -/
def Obligations.Conversions : Prop :=
  ∀ (u : LUf),
    let t := u.t.toNat
    let fn := u.fn.toNat
    let sources (block : Bool) (size : Nat) (c : List Nat) : CrossReads := fun e =>
      let mates := if block then e.parts.filter (fun i => i / 8 == e.ti / 8) else [e.ti]
      mates.map (fun i => (i, u.a.toNat, size)) ++ c.flatMap (fun n => mates.map (fun i => (i, n, 1)))
        ++ (if block then e.maskReads (e.issued.filter (fun i => i / 8 == e.ti / 8)) else [])
    let size := cvtSrcGroup false t fn
    let scaled (e : LaneEnv) (i : Nat) : List FVal :=
      (floatElems e t fn u.a.toNat i).map (fun v => fMul 0 v (fp32.value (e.regOf i (cOf u.p)).toNat))
    let one (draws : LaneEnv → Nat) (src : LaneEnv → List FVal) (e : LaneEnv) : LaneOut :=
      { regs := splitWords u.d.toNat (cvtDstGroup false t fn) (packElems (dstBits fn)
          ((src e).zipIdx.map (fun v => toDst fn e.mode e.sat (e.draw v.2) v.1)))
        masks := [], draws := draws e }
    let n := cvtElems (floatBits t) (dstBits fn)
    let stoch (k : Nat) (e : LaneEnv) : Nat := if e.mode = 5 then k else 0
    let intElem (e : LaneEnv) (i : Nat) : Nat :=
      let y := elemAt (e.val u.a.toNat (cvtSrcGroup true t fn)) (intBits t) i
      if 8 ≤ fn then intToInt t (fn - 8) e.sat y
      else toDst fn e.mode e.sat (e.draw i) (.ofInt (readInt (t % 2 == 0) y (intBits t)))
    let blk (e : LaneEnv) (i : Nat) : List FVal := (List.range 4).map (fun k =>
      (fmtOf t).value (elemAt (e.valOf i u.a.toNat (blkGroup t)) (fmtOf t).width k))
    let dec (x : Dx) (e : LaneEnv) : LaneOut :=
      let lo := (e.reg u.a.toNat).toNat
      let hi := (e.reg (u.a.toNat + 1)).toNat
      { regs := splitWords u.d.toNat (blkGroup t) (packElems (fmtOf t).width ((List.range 4).map (fun i =>
          (fmtOf t).round e.mode e.sat (e.draw i) (x.value (hi % 256) (hi / 256 % 256) (elemAt lo x.bits i)))))
        masks := [], draws := stoch 4 e }
    (fn ≠ 6 → fn ≠ 7 → ComputesAcross (.cvtFloatSource u) (sources false size [])
      (one (fun e => if 8 ≤ fn ∨ cvtRounds (cvtFmt t) (cvtFmt fn) = true then stoch n e else 0) (fun e => floatElems e t fn u.a.toNat e.ti))) ∧
    (fn = 6 → ComputesAcross (.cvtFloatSource u) (sources true size []) (fun e => blockLane .dx8 (floatElems e t fn u.a.toNat) u.d.toNat e)) ∧
    (fn = 7 → ComputesAcross (.cvtFloatSource u) (sources true size []) (fun e => blockLane .dx4 (floatElems e t fn u.a.toNat) u.d.toNat e)) ∧
    Computes (.cvtIntegerSource u) (fun e =>
      { regs := splitWords u.d.toNat (cvtDstGroup true t fn) (packElems (dstBits fn)
          ((List.range (cvtElems (intBits t) (dstBits fn))).map (intElem e)))
        masks := [], draws := if fn < 8 then stoch (cvtElems (intBits t) (dstBits fn)) e else 0 }) ∧
    (fn ≠ 6 → fn ≠ 7 → ComputesAcross (.cvts u) (sources false size [cOf u.p]) (one (stoch n) (fun e => scaled e e.ti))) ∧
    (fn = 6 → ComputesAcross (.cvts u) (sources true size [cOf u.p]) (fun e => blockLane .dx8 (scaled e) u.d.toNat e)) ∧
    (fn = 7 → ComputesAcross (.cvts u) (sources true size [cOf u.p]) (fun e => blockLane .dx4 (scaled e) u.d.toNat e)) ∧
    (fn = 0 → LeavesAcross (.blkenc u) (sources true (blkGroup t) []) (fun e => blockLane .dx8 (blk e) u.d.toNat e)) ∧
    (fn = 1 → LeavesAcross (.blkenc u) (sources true (blkGroup t) []) (fun e => blockLane .dx4 (blk e) u.d.toNat e)) ∧
    (fn = 0 → Leaves (.blkdec u) (dec .dx8)) ∧ (fn = 1 → Leaves (.blkdec u) (dec .dx4))

/-- R141 and R246: RAND takes the next word of the lane's stream, as a word, as a number in [0, 1) or as 32 bits; ACCEPT
compares u × q with p, without q where w says so, and gives 0 and 1 for a NaN. -/
def Obligations.RandomAndAccept : Prop :=
  (∀ (u : LDf),
    Computes (.rand u) (fun e =>
      { regs := [(u.d.toNat, BitVec.ofNat 32 (if u.fn = 1 then
          fp32.round 0 false 0 (.fin false (e.word 0 / 2 ^ 8) (2 ^ 24)) else e.word 0))]
        masks := [], draws := 1 })) ∧
  (∀ (u : LAccept),
    let p (e : LaneEnv) : Nat := (e.reg u.a.toNat).toNat
    let q (e : LaneEnv) : Nat := if u.w = 1 then (e.reg (u.a.toNat + 1)).toNat else 0x3F800000
    let x (e : LaneEnv) : Nat := (e.reg u.b.toNat).toNat
    Computes (.accept u) (fun e =>
      { regs := [], masks := [(u.k.toNat, (acceptOf (p e) (q e) (x e)).1), (u.k.toNat + 1, (acceptOf (p e) (q e) (x e)).2)], draws := 0 }))

/-- R144, R146 to R152 and R48: what a lane receives from the other threads of its group. REDUCE and SCAN combine every lane's
value, a lane that does not take part giving the identity, in the tree and the steps that the section fixes; what SCAN gives
is quietened as a conversion to its own format quietens a NaN, for thread 0's element is combined with nothing. That KPOP
writes a v register of every thread of the set is log entry 86. -/
def Obligations.CrossLane : Prop :=
  (∀ (u : LRw),
    let src (e : LaneEnv) : Nat := (e.reg u.b.toNat).toNat % 64 % e.g.width
    let lead (e : LaneEnv) : Nat := (e.issued.head?).getD e.ti
    let idx (e : LaneEnv) : Nat := (if isG u.b then e.reg u.b.toNat else e.regOf (lead e) u.b.toNat).toNat % e.g.width
    let put (i : LaneEnv → Nat) (e : LaneEnv) : LaneOut :=
      .ofRegs ((List.range (grp u.w)).map (fun k => (u.d.toNat + k, e.regOf (i e) (u.a.toNat + k))))
    ComputesAcross (.shfl u) (fun e => [(src e, u.a.toNat, grp u.w), (e.ti, u.b.toNat, grp u.w)]) (put src) ∧
    ComputesAcross (.rdlane u) (fun e => (idx e, u.a.toNat, grp u.w) ::
      (if isG u.b then e.issued.map (fun i => (i, u.b.toNat, 1)) else [(lead e, u.b.toNat, 1)])) (put idx)) ∧
  (∀ (u : LShf),
    let δ := u.delta.toNat
    let put (i : LaneEnv → Nat) (e : LaneEnv) : LaneOut := .ofRegs [(u.d.toNat, e.regOf (i e) u.a.toNat)]
    let up (e : LaneEnv) : Nat := if e.ti < δ then e.ti else e.ti - δ
    let dn (e : LaneEnv) : Nat := if e.g.width ≤ e.ti + δ then e.ti else e.ti + δ
    let xo (e : LaneEnv) : Nat := e.ti ^^^ (δ % e.g.width)
    ComputesAcross (.shflUp u) (fun e => [(up e, u.a.toNat, 1)]) (put up) ∧
    ComputesAcross (.shflDn u) (fun e => [(dn e, u.a.toNat, 1)]) (put dn) ∧
    ComputesAcross (.shflXor u) (fun e => [(xo e, u.a.toNat, 1)]) (put xo)) ∧
  (∀ (u : LAf),
    let k := u.a.toNat % 8
    let all (e : LaneEnv) : Bool := (e.parts.map (fun i => e.maskOf i k)).all id
    let any (e : LaneEnv) : Bool := (e.parts.map (fun i => e.maskOf i k)).any id
    let reads : CrossReads := fun e => e.parts.map (fun i => (i, 128 + k, 1)) ++ e.maskReads e.issued
    (u.fn = 0 → ComputesAcross (.vote u) reads (fun e => .ofMask (u.d.toNat % 8) (all e))) ∧
    (u.fn = 1 → ComputesAcross (.vote u) reads (fun e => .ofMask (u.d.toNat % 8) (any e))) ∧
    (u.fn = 2 → ComputesAcross (.vote u) reads (fun e => .ofMask (u.d.toNat % 8) (all e || ! any e))) ∧
    (u.fn = 3 → ComputesAcross (.vote u) reads (fun e => .ofRegs (splitWords u.d.toNat 2
      (e.parts.foldl (fun n i => n + (if e.maskOf i k then 2 ^ i else 0)) 0))))) ∧
  (∀ (u : LDf),
    let first (e : LaneEnv) : Nat := (e.parts.head?).getD e.ti
    (u.fn = 0 → Computes (.elect u) (fun e => .ofMask (u.d.toNat % 8) (first e == e.ti))) ∧
    (u.fn = 1 → Computes (.elect u) (fun e => .ofRegs [(u.d.toNat, BitVec.ofNat 32 (first e))]))) ∧
  (∀ (u : LA0),
    ComputesAcross (.kpop u) (fun e => e.issued.map (fun i => (i, 128 + u.a.toNat % 8, 1))) (fun e =>
      .ofRegs [(u.d.toNat, BitVec.ofNat 32 (e.issued.filter (fun i => e.maskOf i (u.a.toNat % 8))).length)])) ∧
  (∀ (u : LUw),
    let size := typeGroup u.t
    LeavesAcross (.matchLanes u) (fun e => e.parts.map (fun i => (i, u.a.toNat, size)) ++ e.maskReads e.issued) (fun e =>
      .ofRegs (splitWords u.d.toNat size
        ((e.parts.find? (fun i => e.valOf i u.a.toNat size == e.val u.a.toNat size)).getD e.ti)))) ∧
  (∀ (u : LUtfw),
    let t := u.t.toNat
    let fn := u.fn.toNat
    let size := typeGroup u.t
    let xs (e : LaneEnv) (k : Nat) : List Nat := (List.range e.g.width).map (fun i =>
      if e.parts.contains i then elemAt (e.valOf i u.a.toNat size) (elemBits t) k else identityOf t fn)
    let reads : CrossReads := fun e => e.parts.map (fun i => (i, u.a.toNat, size)) ++ e.maskReads e.issued
    let put (f : LaneEnv → List Nat → Nat) (e : LaneEnv) : LaneOut :=
      .ofRegs (splitWords u.d.toNat size (packElems (elemBits t) ((List.range (elemsOf t)).map (fun k => f e (xs e k)))))
    LeavesAcross (.reduce u) reads (put (fun e l => ((reduceSteps (combine t fn) e.g.width 7 1 l)[0]?).getD 0)) ∧
    LeavesAcross (.scan u) reads (put (fun e l =>
      let y := ((scanSteps (combine t fn) e.g.width 7 1 l)[e.ti]?).getD 0
      if t < 4 then cvtFloat (fmtOf t) (fmtOf t) 0 false 0 y else y)))

/-! ### What the uniform instructions compute -/

/-- R153 to R155, R41, R42, R171, R177 and R253: the uniform instructions, once for each group of the set: arithmetic, and those
that read the machine: a system register, the time, a quire's record with its shared bit, a paradigm's summary. -/
def Obligations.UniformInstructions : Prop :=
  (∀ (u : GR3),
    let put (f : Word → Word → Word) (_ : State) (e : LaneEnv) : List (Nat × Word) := [(u.d.toNat, f (e.greg u.a) (e.greg u.b))]
    let n (b : Word) : Nat := b.toNat % 256
    ComputesOnce (.uadd u) (put (fun a b => a + b)) ∧
    ComputesOnce (.usub u) (put (fun a b => a - b)) ∧
    ComputesOnce (.umul u) (put (fun a b => a * b)) ∧
    ComputesOnce (.umulhI u) (put (fun a b => BitVec.ofInt 32 (a.toInt * b.toInt / 2 ^ 32))) ∧
    ComputesOnce (.umulhN u) (put (fun a b => BitVec.ofNat 32 (a.toNat * b.toNat / 2 ^ 32))) ∧
    ComputesOnce (.uand u) (put (fun a b => a &&& b)) ∧
    ComputesOnce (.uor u) (put (fun a b => a ||| b)) ∧
    ComputesOnce (.uxor u) (put (fun a b => a ^^^ b)) ∧
    ComputesOnce (.ushl u) (put (fun a b => if n b < 32 then BitVec.ofNat 32 (a.toNat * 2 ^ n b) else 0)) ∧
    ComputesOnce (.ushr u) (put (fun a b => if n b < 32 then BitVec.ofNat 32 (a.toNat / 2 ^ n b) else 0)) ∧
    ComputesOnce (.usar u) (put (fun a b => BitVec.ofNat 32 (wrapN (sext a.toNat 32 / (2 ^ min (n b) 32 : Nat)) 32))) ∧
    ComputesOnce (.uminI u) (put (fun a b => if a.toInt ≤ b.toInt then a else b)) ∧
    ComputesOnce (.uminN u) (put (fun a b => if a.toNat ≤ b.toNat then a else b)) ∧
    ComputesOnce (.umaxI u) (put (fun a b => if a.toInt ≤ b.toInt then b else a)) ∧
    ComputesOnce (.umaxN u) (put (fun a b => if a.toNat ≤ b.toNat then b else a)) ∧
    ComputesOnce (.usel u) (fun _ e => [(u.d.toNat, if e.greg u.d ≠ 0 then e.greg u.a else e.greg u.b)])) ∧
  (∀ (u : GCmp),
    ComputesOnce (.ucmpI u) (fun _ e =>
      [(u.d.toNat, if intCond u.cond.toNat (e.greg u.a).toInt (e.greg u.b).toInt then 1 else 0)]) ∧
    ComputesOnce (.ucmpN u) (fun _ e =>
      [(u.d.toNat, if intCond u.cond.toNat (e.greg u.a).toNat (e.greg u.b).toNat then 1 else 0)])) ∧
  (∀ (u : GImm),
    let put (f : Word → Word → Word) (_ : State) (e : LaneEnv) : List (Nat × Word) :=
      [(u.d.toNat, f (e.greg u.a) (u.imm13.signExtend 32))]
    ComputesOnce (.uaddImm u) (put (fun a b => a + b)) ∧
    ComputesOnce (.uandImm u) (put (fun a b => a &&& b)) ∧
    ComputesOnce (.uorImm u) (put (fun a b => a ||| b)) ∧
    ComputesOnce (.uxorImm u) (put (fun a b => a ^^^ b))) ∧
  (∀ (u : GSh),
    let c := u.count.toNat
    let put (f : Nat → Nat) (_ : State) (e : LaneEnv) : List (Nat × Word) := [(u.d.toNat, BitVec.ofNat 32 (f (e.greg u.a).toNat))]
    ComputesOnce (.ushlImm u) (put (fun a => if c < 32 then a * 2 ^ c % 2 ^ 32 else 0)) ∧
    ComputesOnce (.ushrImm u) (put (fun a => if c < 32 then a / 2 ^ c else 0)) ∧
    ComputesOnce (.usarImm u) (put (fun a => wrapN (sext a 32 / (2 ^ min c 32 : Nat)) 32))) ∧
  (∀ (u : GR2), ComputesOnce (.umov u) (fun _ e => [(u.d.toNat, e.greg u.a)])) ∧
  (∀ (u : GMovi), ComputesOnce (.umovi u) (fun _ _ => [(u.d.toNat, u.imm13.signExtend 32)])) ∧
  (∀ (u : GRd), ComputesOnce (.rdsys u) (fun s e => splitWords u.d.toNat (sysGroup u.idx.toNat) (sysRead s e u.idx.toNat))) ∧
  (∀ (u : GD), ComputesOnce (.rdtime u) (fun s _ =>
    [(u.d.toNat, BitVec.ofNat 32 s.time.toNat), (u.d.toNat + 1, BitVec.ofNat 32 (s.time.toNat / 2 ^ 32))])) ∧
  (∀ (u : GQuire), ComputesOnce (.qstat u) (fun s e =>
    let q := if u.a = 0 then u.quire.toNat else (e.greg u.a).toNat % 256
    let x := (s.resident e.wg.part e.wg.ctx e.wg.core).quire q
    [(u.d.toNat, BitVec.ofNat 32 (min (s.occupancy e.wg.part e.wg.ctx e.wg.core q) 0x7FFF * 2 ^ 17 + x.tokens % 256 * 2 ^ 9
      + x.frames % 32 * 2 ^ 4 + (if s.quireShared e.wg.part e.wg.ctx e.wg.core q then 2 ^ 3 else 0) + x.state.code))])) ∧
  (∀ (u : GPi), ComputesOnce (.pdinfo u) (fun _ e => [(u.d.toNat, BitVec.ofNat 32 (e.paradigm u.slot.toNat).info)]))

/-! ### Units that only go on -/

/-- R160, R163, R178, R196, R199 and R203: NOP only goes on; YIELD marks its threads as passed over in the next cycle; FENCE changes
only what its threads must see of earlier stores and what their later stores carry, which is how the model orders accesses (log
entry 1); and SLEEPTO once its deadline is reached, WAITPH once the phase bit differs from the parity observed and CMWAIT once its wait is
over go on, the last two with what the object's releases have ordered. The forms that park are in `UnitsThatPark`. -/
def Obligations.UnitsThatOnlyGoOn : Prop :=
  (∀ (u : G0) (s : State), Issues (.nop u) s → exec (.nop u) s = .next (s.pastUnit (shapeOf (.nop u)) false)) ∧
  (∀ (u : G0) (s : State), Issues (.yield u) s →
    exec (.yield u) s = .next ((s.eachOf (.yield u) (fun t e =>
      t.modThread e.wg.wid e.gi e.ti (fun x => { x with yielded := true }))).pastUnit (shapeOf (.yield u)) false)) ∧
  (∀ (u : GFence) (s : State), Issues (.fence u) s →
    exec (.fence u) s = .next ((s.eachOf (.fence u) (fun t e =>
      t.modThread e.wg.wid e.gi e.ti (fun x => x.fence u.kind.toNat u.scope.toNat))).pastUnit (shapeOf (.fence u)) false)) ∧
  (∀ (u : GA) (s : State), Issues (.sleepto u) s →
    (∀ e ∈ s.issueLanes (shapeOf (.sleepto u)), e.gpair u.a ≤ s.time.toNat) →
    exec (.sleepto u) s = .next (s.pastUnit (shapeOf (.sleepto u)) false)) ∧
  (∀ (u : GAB) (s : State), Issues (.waitph u) s →
    (∀ e ∈ s.issueLanes (shapeOf (.waitph u)), e.wg.Holds (e.greg u.a).toNat ∧ e.wg.isBarrier (e.greg u.a).toNat = true ∧
      e.wg.phaseBit (e.greg u.a).toNat ≠ (e.greg u.b).getLsbD 0) →
    exec (.waitph u) s = .next ((s.eachOf (.waitph u) (fun t e => t.modThread e.wg.wid e.gi e.ti (fun x =>
      x.learn (e.wg.sync.get (syncKey (e.greg u.a).toNat 1) [])))).pastUnit (shapeOf (.waitph u)) false)) ∧
  (∀ (u : GAB) (s : State), Issues (.cmwait u) s →
    (∀ e ∈ s.issueLanes (shapeOf (.cmwait u)), e.wg.Holds (e.greg u.a).toNat ∧ e.wg.isChunkMap (e.greg u.a).toNat = true ∧
      e.wg.mapDone (e.greg u.a).toNat (e.gpair u.b) = true) →
    exec (.cmwait u) s = .next ((s.eachOf (.cmwait u) (fun t e => t.modThread e.wg.wid e.gi e.ti (fun x =>
      x.learn (e.wg.mapSync (e.greg u.a).toNat (e.gpair u.b))))).pastUnit (shapeOf (.cmwait u)) false)) ∧
  (∀ (t : Thread) (kind scope : Nat), let u := t.fence kind scope
    u.v = t.v ∧ u.k = t.k ∧ u.pc = t.pc ∧ u.run = t.run ∧ u.pending = t.pending ∧ u.stack = t.stack ∧ (t.loads = [] → u.own = t.own))

/-! ### Control -/

/-- R160 and R161: a branch sends each lane to its target, or on; the target lies in a RESIDENT quire, within its length. -/
def Obligations.Branches : Prop :=
  let rel (s : State) (words : Int) : Word :=
    mkPc (pcQuire s.issue.pc) (((pcOffset s.issue.pc : Int) + 4 * words) % 2 ^ 24).toNat
  let inside (s : State) (words : Int) : Prop :=
    0 ≤ (pcOffset s.issue.pc : Int) + 4 * words ∧ (pcOffset s.issue.pc : Int) + 4 * words < 2 ^ 24
  let go (i : Instr) (s : State) (go : LaneEnv → Bool) (target : LaneEnv → Word) : State :=
    (s.eachOf i (fun t e => if go e then t.setPc e.wg.wid e.gi e.ti (target e)
      else t.modThread e.wg.wid e.gi e.ti (fun x => { x with pc := s.issue.pc + BitVec.ofNat 32 (4 * (shapeOf i).len) }))).pastUnit
        (shapeOf i) true
  (∀ (u : GB) (s : State), Issues (.bra u) s → inside s u.off23.toInt →
    (∀ e ∈ s.issueLanes (shapeOf (.bra u)), s.Reaches e (rel s u.off23.toInt)) →
    exec (.bra u) s = .next (go (.bra u) s (fun _ => true) (fun _ => rel s u.off23.toInt))) ∧
  (∀ (u : GBru) (s : State), Issues (.bru u) s → inside s u.off15.toInt →
    (∀ e ∈ s.issueLanes (shapeOf (.bru u)), zeroCond u.cond.toNat (e.greg u.a) = true → s.Reaches e (rel s u.off15.toInt)) →
    exec (.bru u) s = .next (go (.bru u) s (fun e => zeroCond u.cond.toNat (e.greg u.a)) (fun _ => rel s u.off15.toInt))) ∧
  (∀ (u : GBrt) (s : State), Issues (.brt u) s → inside s u.off15.toInt →
    (∀ e ∈ s.issueLanes (shapeOf (.brt u)), e.mask u.k.toNat = (u.pol == 1) → s.Reaches e (rel s u.off15.toInt)) →
    exec (.brt u) s = .next (go (.brt u) s (fun e => e.mask u.k.toNat == (u.pol == 1)) (fun _ => rel s u.off15.toInt))) ∧
  (∀ (u : LJmp) (s : State), Issues (.jmpi u) s →
    (∀ e ∈ s.issueLanes (shapeOf (.jmpi u)), e.takes = true → s.Reaches e (e.reg u.a.toNat)) →
    exec (.jmpi u) s = .next (go (.jmpi u) s (fun e => e.takes) (fun e => e.reg u.a.toNat)))

/-- R36, R160, R161 and R172: a call pushes the PC after its unit and goes to its target; CALLQ's comes from the quire's entry table;
RET pops the PC it goes to. -/
def Obligations.CallsAndReturns : Prop :=
  let rel (s : State) (words : Int) : Word :=
    mkPc (pcQuire s.issue.pc) (((pcOffset s.issue.pc : Int) + 4 * words) % 2 ^ 24).toNat
  let inside (s : State) (words : Int) : Prop :=
    0 ≤ (pcOffset s.issue.pc : Int) + 4 * words ∧ (pcOffset s.issue.pc : Int) + 4 * words < 2 ^ 24
  let room (e : LaneEnv) : Prop := e.t.depth < 80 ∧ (e.t.depth < 16 ∨ e.g.spill ≠ 0)
  let call (i : Instr) (s : State) (go : LaneEnv → Bool) (target : LaneEnv → Word) : State :=
    let next := s.issue.pc + BitVec.ofNat 32 (4 * (shapeOf i).len)
    (s.eachOf i (fun t e => if go e then (t.push e next).setPc e.wg.wid e.gi e.ti (target e)
      else t.modThread e.wg.wid e.gi e.ti (fun x => { x with pc := next }))).pastUnit (shapeOf i) true
  let quire (u : GCallq) (e : LaneEnv) : Nat := if u.a = 0 then u.quire.toNat else (e.greg u.a).toNat % 256
  let entry (u : GCallq) (s : State) (e : LaneEnv) : Nat :=
    natOfBytes (SMap.read ((s.resident e.wg.part e.wg.ctx e.wg.core).quire (quire u e)).image (4 * u.entry.toNat) 4 0)
  (∀ (u : GB) (s : State), Issues (.call u) s → inside s u.off23.toInt →
    (∀ e ∈ s.issueLanes (shapeOf (.call u)), room e ∧ s.Reaches e (rel s u.off23.toInt)) →
    exec (.call u) s = .next (call (.call u) s (fun _ => true) (fun _ => rel s u.off23.toInt))) ∧
  (∀ (u : LJmp) (s : State), Issues (.calli u) s →
    (∀ e ∈ s.issueLanes (shapeOf (.calli u)), e.takes = true → room e ∧ s.Reaches e (e.reg u.a.toNat)) →
    exec (.calli u) s = .next (call (.calli u) s (fun e => e.takes) (fun e => e.reg u.a.toNat))) ∧
  (∀ (u : GCallq) (s : State), Issues (.callq u) s →
    (∀ e ∈ s.issueLanes (shapeOf (.callq u)), room e ∧ entry u s e ≠ 0xFFFFFFFF ∧
      ((s.resident e.wg.part e.wg.ctx e.wg.core).quire (quire u e)).state = .resident ∧
      entry u s e < ((s.resident e.wg.part e.wg.ctx e.wg.core).quire (quire u e)).length ∧
      entry u s e < 0x10000 ∧ entry u s e % 4 = 0) →
    exec (.callq u) s = .next (call (.callq u) s (fun _ => true) (fun e => mkPc (quire u e) (entry u s e)))) ∧
  (∀ (u : G0) (s : State), Issues (.ret u) s →
    (∀ e ∈ s.issueLanes (shapeOf (.ret u)), ∃ pc rest, e.t.stack = pc :: rest ∧ s.Reaches e pc) →
    exec (.ret u) s = .next ((s.eachOf (.ret u) (fun t e =>
      (t.pop e).setPc e.wg.wid e.gi e.ti ((e.t.stack.head?).getD 0))).pastUnit (shapeOf (.ret u)) true))

/-- R37 and R162: EXIT ends its threads, and so does RET of an empty return stack; here while another thread of the workgroup
goes on and no asynchronous work is left. -/
def Obligations.ThreadsEnd : Prop :=
  let goesOn (s : State) : Prop := s.jobs = [] ∧
    ∃ gi ti t, s.thread? s.issue.wid gi ti = some t ∧ t.run ≠ .exited ∧ s.issuing gi ti = false
  let ended (i : Instr) (s : State) : State :=
    ((s.eachOf i (fun t e => t.exitThread e.wg.wid e.gi e.ti)).endGroups s.issue.wid).pastUnit (shapeOf i) true
  (∀ (u : G0) (s : State), Issues (.exit u) s → goesOn s → s.issueLanes (shapeOf (.exit u)) ≠ [] →
    exec (.exit u) s = .next (ended (.exit u) s)) ∧
  (∀ (u : G0) (s : State), Issues (.ret u) s → goesOn s → s.issueLanes (shapeOf (.ret u)) ≠ [] → (∀ e ∈ s.issueLanes (shapeOf (.ret u)), e.t.stack = []) →
    exec (.ret u) s = .next (ended (.ret u) s))

/-! ### Taking a trap and returning from one -/

/-- R43, R173 and R174: TRAP, and BKPT while breakpoints are not captured, enter the handler: the group's trap registers
describe the trap, the lowest lane's thread goes to the trap vector in handler state, to resume after the unit. -/
def Obligations.SoftwareTrapsEnterTheHandler : Prop :=
  (∀ (u : GTrap) (s : State) (e : LaneEnv), Issues (.trap u) s → Lowest (.trap u) s e → s.Delivers e →
    ∃ t, exec (.trap u) s = .next t ∧ t.Entered e s.issue.pc (s.issue.pc + 4) 0x08 u.imm13.toNat 0 ∧ t.Untouched s) ∧
  (∀ (u : GTrap) (s : State) (e : LaneEnv), Issues (.bkpt u) s → Lowest (.bkpt u) s e → s.Delivers e →
    (s.context e.wg.part e.wg.ctx).capture = false →
    ∃ t, exec (.bkpt u) s = .next t ∧ t.Entered e s.issue.pc (s.issue.pc + 4) 0x09 u.imm13.toNat 0 ∧ t.Untouched s)

/-- R176, R43 and R174: TRAPRET of threads in handler state takes each to its resume PC and clears its handler state; outside
handler state it traps with cause 8. That this trap resumes at the word after the unit, as TRAP does, is the model's choice
(log entry 58). -/
def Obligations.TrapReturn : Prop :=
  (∀ (u : G0) (s : State), Issues (.trapret u) s →
    (∀ e ∈ s.issueLanes (shapeOf (.trapret u)), e.t.handler = true ∧ s.Reaches e e.t.resume) →
    exec (.trapret u) s = .next ((s.eachOf (.trapret u) (fun t e => t.trapReturn e.wg.wid e.gi e.ti)).pastUnit
      (shapeOf (.trapret u)) true)) ∧
  (∀ (u : G0) (s : State) (e : LaneEnv), Issues (.trapret u) s → Lowest (.trapret u) s e → s.Delivers e →
    ∃ t, exec (.trapret u) s = .next t ∧ t.Entered e s.issue.pc (s.issue.pc + 4) 0x08 0x10000 0 ∧ t.Untouched s)

/-- R92, R204, R212 and R368: a unit that its threads may not issue, whichever instruction it is, has none of its effect and
enters the handler at the unit: ILLEGAL_INSTRUCTION with the lowest reason and its word, whatever the group's role and
whatever is outstanding; ROLE_VIOLATION with the group's role where the encoding is legal, whatever is outstanding; and HAZARD
with the lane's first premature register where both pass, in strict mode. The order shows where two causes stand: an IADD
whose destination is beyond the budget is ILLEGAL though its source is premature, and STRM in no producer group is a
ROLE_VIOLATION though its source is premature; which word a reason names where the section leaves it open is log entry 84;
UMOV's HAZARD names g[a] where g[d] is not outstanding. -/
def Obligations.UnitsThatMayNotIssueTrap : Prop :=
  let traps (i : Instr) (s : State) (e : LaneEnv) (cause info : Nat) : Prop :=
    ∃ t, exec i s = .next t ∧ t.Entered e s.issue.pc s.issue.pc cause info 0 ∧ t.Untouched s
  (∀ (i : Instr) (s : State) (e : LaneEnv), encode i ≠ [] → Stands s → Lowest i s e → s.Delivers e →
    (∀ r, leastReason (reasonsAt i s e) = some r → traps i s e 0x01 (r.1 + 256 * r.2)) ∧
    (reasonsAt i s e = [] → roleOk (shapeOf i).role e.g.role = false → traps i s e 0x02 e.g.role) ∧
    (∀ n, reasonsAt i s e = [] → roleOk (shapeOf i).role e.g.role = true → (s.context e.wg.part e.wg.ctx).strict = true →
      (∀ x ∈ s.issueLanes (shapeOf i), (prematureAt i x).isSome = true) → prematureAt i e = some n →
      traps i s e 0x07 (if n < 128 then n else 0x80 + (n - 128)))) ∧
  (∀ (u : LRw) (s : State) (e : LaneEnv), Stands s → Lowest (.iaddI u) s e → s.Delivers e → u.p = none → u.w = 0 →
    e.g.budget ≤ u.d.toNat → u.d.toNat < 96 → (s.context e.wg.part e.wg.ctx).strict = true →
    e.t.unwaited.contains u.a.toNat = true → traps (.iaddI u) s e 0x01 6) ∧
  (∀ (u : GMzero) (s : State) (e : LaneEnv), Stands s → Lowest (.mzero u) s e → s.Delivers e → e.g.role ≠ 2 →
    traps (.mzero u) s e 0x02 e.g.role) ∧
  (∀ (u : GA) (s : State) (e : LaneEnv), Stands s → Lowest (.strm u) s e → s.Delivers e → e.g.role ≠ 1 →
    (s.context e.wg.part e.wg.ctx).strict = true → e.t.unwaited.contains (96 + u.a.toNat) = true → traps (.strm u) s e 0x02 e.g.role) ∧
  (∀ (u : GR2) (s : State) (e : LaneEnv), Stands s → Lowest (.hash u) s e → s.Delivers e → u.a.toNat % 2 = 0 → e.wg.part ≠ rootPart →
    traps (.hash u) s e 0x01 10) ∧
  (∀ (u : GR2) (s : State) (e : LaneEnv), Stands s → Lowest (.umov u) s e → s.Delivers e → (s.context e.wg.part e.wg.ctx).strict = true →
    (∀ x ∈ s.issueLanes (shapeOf (.umov u)),
      x.t.unwaited.contains (96 + u.d.toNat) = false ∧ x.t.unwaited.contains (96 + u.a.toNat) = true) →
    traps (.umov u) s e 0x07 (96 + u.a.toNat))

/-- R35, R37, R38, R172, R183, R200, R202, R260 and R368: where every lane of a set meets the same trap of its own, none has an effect and
the lowest enters the handler at the unit: ALIGNMENT of a load, store or atomic whose address is not a multiple of its size or
lies beyond the space, and of a store to a protected range; of a jump to a PC that is no unit's address or is beyond its quire;
of an object that is not registered, before anything is done to it; STACK_OVERFLOW of a call at full depth, and of one that would
spill with no spill area; QUIRE_ABSENT of a CALLQ to a quire with no entry, and of one that is not RESIDENT nor loaded by itself;
DIGIT_UNDEFINED of a walk and of a conversion. Which lane is described is R43's. That an address is the exact sum of its base and
offset, without wrapping, and the order of two causes in one lane are the model's readings (log entries 29 and 30). -/
def Obligations.DataTraps : Prop :=
  let traps (i : Instr) (s : State) (e : LaneEnv) (cause info addr : Nat) : Prop :=
    ∃ t, exec i s = .next t ∧ t.Entered e s.issue.pc s.issue.pc cause info addr ∧ t.Untouched s
  let ready (i : Instr) (s : State) (e : LaneEnv) : Prop := Issues i s ∧ Lowest i s e ∧ s.Delivers e
  let taken (i : Instr) (s : State) (e : LaneEnv) : Prop := ready i s e ∧ ∀ x ∈ s.issueLanes (shapeOf i), x.takes = true
  let all (i : Instr) (s : State) (P : LaneEnv → Prop) : Prop := ∀ x ∈ s.issueLanes (shapeOf i), P x
  (∀ (u : LMem) (s : State) (e : LaneEnv),
    let n := 4 * grp u.w
    let a (x : LaneEnv) : Nat := x.val u.a.toNat 2 + u.off4.toNat * n
    (∀ i ∈ [Instr.ldg u, .stg u], taken i s e →
      (all i s (fun x => a x % n ≠ 0) → traps i s e 0x03 0x6 (a e % 2 ^ 64)) ∧
      (all i s (fun x => a x % n = 0 ∧ 2 ^ 58 ≤ a x) → traps i s e 0x03 0x8 (a e % 2 ^ 64))) ∧
    let b (x : LaneEnv) : Nat := (x.reg u.a.toNat).toNat + u.off4.toNat * n
    (∀ i ∈ [Instr.lds u, .sts u, .ldv u, .stv u], taken i s e → all i s (fun x => b x % n ≠ 0) → traps i s e 0x03 0x6 (b e)) ∧
    (∀ i ∈ [Instr.lds u, .sts u], taken i s e → all i s (fun x => b x % n = 0 ∧ x.wg.scratchSize < b x + n) → traps i s e 0x03 0x7 (b e)) ∧
    (∀ i ∈ [Instr.ldv u, .stv u], taken i s e → all i s (fun x => b x % n = 0 ∧ b x < 2 ^ 23 ∧ x.wg.vaultSize < b x + n) →
      traps i s e 0x03 0x7 (b e)) ∧
    (∀ c, taken (.sts u) s e → all (.sts u) s (fun x => b x % n = 0 ∧ b x + n ≤ x.wg.scratchSize ∧ x.wg.protectedCode (b x) n = some c) →
      traps (.sts u) s e 0x03 c (b e)) ∧
    let m := 4 * (if u.off4 = 9 then grp u.w / 2 else grp u.w)
    (∀ i ∈ [Instr.atom u, .red u], taken i s e → all i s (fun x => x.val u.a.toNat 2 % m ≠ 0) →
      traps i s e 0x03 0x6 (e.val u.a.toNat 2 % 2 ^ 64))) ∧
  (∀ (u : LMem0) (s : State) (e : LaneEnv), taken (.atoms u) s e →
    let m := 4 * (if u.off4 = 9 then grp u.w / 2 else grp u.w)
    all (.atoms u) s (fun x => (x.reg u.a.toNat).toNat % m ≠ 0) → traps (.atoms u) s e 0x03 0x6 (e.reg u.a.toNat).toNat) ∧
  (∀ (u : LFe) (s : State) (e : LaneEnv), ∀ i ∈ [Instr.feset u, .feclr u], taken i s e →
    let a (x : LaneEnv) : Nat := (x.reg u.a.toNat).toNat + 4 * u.off4.toNat
    all i s (fun x => a x % 4 ≠ 0) → traps i s e 0x03 0x6 (a e)) ∧
  (∀ (u : LJmp) (s : State) (e : LaneEnv), ∀ i ∈ [Instr.jmpi u, .calli u], taken i s e →
    all i s (fun x => let pc := x.reg u.a.toNat
      pc.toNat % 4 ≠ 0 ∨ (((s.resident x.wg.part x.wg.ctx x.wg.core).quire (pcQuire pc)).state = .resident ∧
        ((s.resident x.wg.part x.wg.ctx x.wg.core).quire (pcQuire pc)).length ≤ pcOffset pc)) →
    traps i s e 0x03 0 (e.reg u.a.toNat).toNat) ∧
  (∀ (u : GR3) (v : GR2) (w : GAB) (s : State) (e : LaneEnv),
    (ready (.arrive u) s e → e.wg.isBarrier (e.greg u.a).toNat = false → traps (.arrive u) s e 0x03 0x9 (e.greg u.a).toNat) ∧
    (ready (.testph v) s e → e.wg.isBarrier (e.greg v.a).toNat = false → traps (.testph v) s e 0x03 0x9 (e.greg v.a).toNat) ∧
    (ready (.waitph w) s e → e.wg.isBarrier (e.greg w.a).toNat = false → traps (.waitph w) s e 0x03 0x9 (e.greg w.a).toNat) ∧
    (ready (.cmwait w) s e → e.wg.isChunkMap (e.greg w.a).toNat = false → traps (.cmwait w) s e 0x03 0x9 (e.greg w.a).toNat) ∧
    (ready (.cmtest u) s e → e.wg.isChunkMap (e.greg u.a).toNat = false → traps (.cmtest u) s e 0x03 0x9 (e.greg u.a).toNat) ∧
    (∀ i ∈ [Instr.barinit u, .cminit u], ready i s e → (e.greg u.a).toNat % 16 ≠ 0 → traps i s e 0x03 0x9 (e.greg u.a).toNat)) ∧
  (∀ (u : LJmp) (s : State) (e : LaneEnv), taken (.calli u) s e → all (.calli u) s (fun x => s.Reaches x (x.reg u.a.toNat)) →
    (all (.calli u) s (fun x => 80 ≤ x.t.depth) → traps (.calli u) s e 0x04 0 0) ∧
    (all (.calli u) s (fun x => 16 ≤ x.t.depth ∧ x.t.depth < 80 ∧ x.g.spill = 0) → traps (.calli u) s e 0x04 3 0)) ∧
  (∀ (u : GCallq) (s s1 : State) (e : LaneEnv), ready (.callq u) s e → s.issueLanes (shapeOf (.callq u)) = [e] →
    let q := if u.a = 0 then u.quire.toNat else (e.greg u.a).toNat % 256
    let z := ((s.resident e.wg.part e.wg.ctx e.wg.core).quire q).state
    e.t.depth < 16 → z ≠ .resident → z ≠ .loading →
    (∀ a, s.quireEntry e.wg.part e.wg.ctx e.wg.core q e.t.code = (s1, none, a) → traps (.callq u) s e 0x06 (q + 256) a) ∧
    (∀ y a, s.quireEntry e.wg.part e.wg.ctx e.wg.core q e.t.code = (s1, some y, a) → y.autoload = false →
      traps (.callq u) s e 0x06 (q + 512) 0)) ∧
  (∀ (u : LRw) (s : State) (e : LaneEnv) (c : Trap),
    Clear (.dxt u) (some (walkReads u.w.toNat u.a u.b)) (arityReason (shapeOf (.dxt u)) u.w.toNat u.b) s → Lowest (.dxt u) s e →
    s.Delivers e → all (.dxt u) s (fun x => x.takes = true ∧
      ∃ d, (x.paradigm u.w.toNat).dxt u.w.toNat (x.reg u.a.toNat).toNat (walkB (x.paradigm u.w.toNat) u.b x) = .error d) →
    (e.paradigm u.w.toNat).dxt u.w.toNat (e.reg u.a.toNat).toNat (walkB (e.paradigm u.w.toNat) u.b e) = .error c →
    c.cause = 0x05 ∧ c.addr = 0 ∧ traps (.dxt u) s e 0x05 c.info 0) ∧
  (∀ (u : LDx) (s : State) (e : LaneEnv), taken (.dxval u) s e → all (.dxval u) s (fun x => (x.paradigm u.slot.toNat).rkind = 0) →
    traps (.dxval u) s e 0x05 (2 * 2 ^ 22 + 0x7F * 2 ^ 7 + u.slot.toNat) 0)

/-- R178, R190, R199, R203, R205, R214 and R266: where a unit's condition does not hold yet, its threads park at the unit with it, and
nothing else changes: SLEEPTO before its deadline; WAITPH while the phase bit is the parity observed, its group marked as a
waiter; CMWAIT while bits of its mask are clear and the status is 0; LDS.FE and LDS.FEC of granules that are not full; STRM and
STRMQ while the streamer's port has no room for their jobs, and the matrix engine's instructions while it holds sixteen. That
MREAD and MSTAT park there as the others do, though R213 has them wait for no earlier work, is the model's reading (log
entry 43). -/
def Obligations.UnitsThatPark : Prop :=
  (∀ (u : GA) (s : State), Issues (.sleepto u) s →
    (∀ e ∈ s.issueLanes (shapeOf (.sleepto u)), s.time.toNat < e.gpair u.a) →
    exec (.sleepto u) s = .next (s.parkedAt (.sleepto u) (fun e => .sleep (e.gpair u.a) u.h))) ∧
  (∀ (u : GAB) (s : State) (e : LaneEnv) (code : Word) (errors : Nat) (waiters : BitVec 16), Issues (.waitph u) s → Lone (.waitph u) s e →
    let o := (e.greg u.a).toNat
    e.wg.Holds o → e.wg.obj? o = some (.barrier code errors waiters) → e.wg.phaseBit o = (e.greg u.b).getLsbD 0 →
    exec (.waitph u) s = .next ((s.modWg e.wg.wid (fun w =>
      w.setObj o (some (.barrier code errors (waiters ||| BitVec.ofNat 16 (2 ^ e.gi)))))).parkedAt
        (.waitph u) (fun _ => .phase o (e.wg.phaseBit o) u.h))) ∧
  (∀ (u : GAB) (s : State) (e : LaneEnv), Issues (.cmwait u) s → Lone (.cmwait u) s e →
    let o := (e.greg u.a).toNat
    e.wg.Holds o → e.wg.isChunkMap o = true → e.wg.bitmapOf o &&& e.gpair u.b ≠ e.gpair u.b → statusCode (e.wg.mapStatus o) = 0 →
    exec (.cmwait u) s = .next (s.parkedAt (.cmwait u) (fun _ => .chunk o (e.gpair u.b) u.h))) ∧
  (∀ (u : LMem) (s : State), Issues (.lds u) s → u.q = 1 ∨ u.q = 2 →
    let n := 4 * grp u.w
    let a (e : LaneEnv) : Nat := (e.reg u.a.toNat).toNat + u.off4.toNat * n
    (∀ e ∈ s.issueLanes (shapeOf (.lds u)), e.takes = true ∧ a e % n = 0 ∧ a e + n ≤ e.wg.scratchSize ∧
      e.wg.allFull (a e / 16) ((a e + n - 1) / 16) = false) →
    exec (.lds u) s = .next (s.parkedAt (.lds u) (fun e => .fullEmpty (a e / 16) ((a e + n - 1) / 16)))) ∧
  (∀ (u : GA) (s : State) (e : LaneEnv), Issues (.strm u) s → Lone (.strm u) s e →
    let a := (e.greg u.a).toNat
    a % 64 = 0 → a + 64 ≤ e.wg.scratchSize → e.wg.isChunkMap (natOfBytes (((e.wg.readScratch a 64).1.drop 12).take 4)) = true →
    16 ≤ s.jobsOn e.wg.core JobKind.isStream →
    exec (.strm u) s = .next (s.parkedAt (.strm u) (fun _ => .port true 1))) ∧
  (∀ (u : GAB) (s : State) (e : LaneEnv), Issues (.strmq u) s → Lone (.strmq u) s e →
    let a := (e.greg u.a).toNat
    let n := (e.greg u.b).toNat
    n ≤ 16 → (∀ k < n, (a + 64 * k) % 64 = 0 ∧ a + 64 * k + 64 ≤ e.wg.scratchSize ∧
      e.wg.isChunkMap (natOfBytes (((e.wg.readScratch (a + 64 * k) 64).1.drop 12).take 4)) = true) →
    16 < s.jobsOn e.wg.core JobKind.isStream + n →
    exec (.strmq u) s = .next (s.parkedAt (.strmq u) (fun _ => .port true n))) ∧
  (∀ (s : State) (e : LaneEnv), 16 ≤ s.jobsOn e.wg.core JobKind.isMatrix →
    (∀ u : GMzero, Issues (.mzero u) s → Lone (.mzero u) s e →
      exec (.mzero u) s = .next (s.parkedAt (.mzero u) (fun _ => .port false 1))) ∧
    (∀ u : GMstat, Issues (.mstat u) s → Lone (.mstat u) s e →
      exec (.mstat u) s = .next (s.parkedAt (.mstat u) (fun _ => .port false 1))) ∧
    (∀ u : GMlatb, Issues (.mlatb u) s → Lone (.mlatb u) s e → (e.greg u.a).toNat % 16 = 0 →
      (e.greg u.a).toNat + 64 * mmRow u.fmt.toNat ≤ e.wg.scratchSize → e.wg.isBarrier (e.greg u.b).toNat = true →
      exec (.mlatb u) s = .next (s.parkedAt (.mlatb u) (fun _ => .port false 1))) ∧
    (∀ u : LMread, Issues (.mread u) s → Lone (.mread u) s e → ((s.issueLanes (shapeOf (.mread u))).filter LaneEnv.takes) ≠ [] →
      exec (.mread u) s = .next (s.parkedAt (.mread u) (fun _ => .port false 1))) ∧
    (∀ u : LMma, Issues (.mma u) s → Lone (.mma u) s e →
      (∀ x ∈ s.issueLanes (shapeOf (.mma u)), (x.reg u.a.toNat).toNat % 16 = 0 ∧
        (x.reg u.a.toNat).toNat + mmRow u.t.toNat ≤ e.wg.scratchSize) →
      e.wg.isBarrier (16 * bitsOf (e.reg u.d.toNat).toNat 18 4) = true →
      exec (.mma u) s = .next (s.parkedAt (.mma u) (fun _ => .port false 1))) ∧
    (∀ u : GMstore, Issues (.mstore u) s → Lone (.mstore u) s e → (e.greg u.a).toNat % 16 = 0 →
      (e.greg u.a).toNat + msLen u.ty.toNat (e.reg (97 + u.b.toNat)) ≤ e.wg.scratchSize →
      e.wg.isBarrier (16 * bitsOf (e.greg u.b).toNat 18 4) = true →
      exec (.mstore u) s = .next (s.parkedAt (.mstore u) (fun _ => .port false 1))))

/-! ### Registers of the machine, constants and quires -/

/-- R40, R42 and R157: WRSYS writes sys.trapvec, sys.spill (bits 18 to 8 of the word, when its area is free and no return
entry is spilled) and sys.seed, which starts the group's random streams again; a write to another register is ignored. The groups
of one unit reserve their areas one after another, each checked against those that the earlier ones have reserved (R40, log
entry 82). -/
def Obligations.SystemRegisterWrites : Prop :=
  (∀ (u : GWr), u.idx.toNat = 0x30 → Acts (.wrsys u) (fun t e =>
    t.modGroup e.wg.wid e.gi (fun g => { g with trapvec := e.greg u.a }))) ∧
  (∀ (u : GWr), u.idx.toNat = 0x3A → Acts (.wrsys u) (fun t e =>
    t.modGroup e.wg.wid e.gi (fun g =>
      { g with seed := BitVec.ofNat 64 (e.gpair u.a), threads := g.threads.map (fun x => { x with stream := 0 }) }))) ∧
  (∀ (u : GWr) (s : State), u.idx.toNat = 0x38 → Issues (.wrsys u) s →
    let value (e : LaneEnv) : Nat := bitsOf (e.greg u.a).toNat 18 8 * 256
    let reserve (t : State) (e : LaneEnv) : State :=
      t.modGroup e.wg.wid e.gi (fun g => { g with spill := BitVec.ofNat 32 (value e) })
    (∀ l e rest, groupLanes (s.issueLanes (shapeOf (.wrsys u))) = l ++ e :: rest → e.g.spilled = false ∧
      (value e = 0 ∨ ∀ w, (l.foldl reserve s).wg? e.wg.wid = some w → spillBad w e.gi e.g.width (value e) = none)) →
    exec (.wrsys u) s = .next ((s.eachTurn (.wrsys u) reserve).pastUnit (shapeOf (.wrsys u)) false)) ∧
  (∀ (u : GWr) (s : State), u.idx.toNat ≠ 0x30 → u.idx.toNat ≠ 0x38 → u.idx.toNat ≠ 0x3A → Issues (.wrsys u) s →
    exec (.wrsys u) s = .next (s.pastUnit (shapeOf (.wrsys u)) false))

/-- R156, R158, R251 and R252: a word of the constant block, outstanding with its poison; a copy to a shape entry, a pattern table
or a paradigm slot, in flight with the bytes read at issue; PDLOAD of address 0 empties its slot. That such a PDLOAD stands behind
the copies that are in flight to its slot is the model's reading (log entry 38), and that ULDC reads the newest word is its choice
(log entry 90). -/
def Obligations.ConstantsAndCopies : Prop :=
  (∀ (u : GImm) (s s1 : State) (e : LaneEnv) (g : Page), Issues (.uldc u) s → Lone (.uldc u) s e →
    let o := 4 * u.imm13.toNat + (e.greg u.a).toNat
    let va := e.wg.consts + o
    o % 4 = 0 → s.translate e.wg.part e.wg.ctx e.wg.core va 0 = (s1, .page g) →
    exec (.uldc u) s = .next (((s1.touchPage g va).addGPending e.wg.wid e.gi
      [Pending.now s.nextId (96 + u.d.toNat) (BitVec.ofNat 32 (natOfBytes (s1.readPage g va 4).1)) (s1.readPage g va 4).2 s.issue.pc
        (va % 2 ^ 64)]).pastUnit (shapeOf (.uldc u)) false)) ∧
  (∀ (u : GShape) (s s1 : State) (e : LaneEnv) (bs : List Byte), Issues (.tshape u) s → Lone (.tshape u) s e →
    (e.greg u.a).toNat % 8 = 0 →
    s.readVirt e.wg.part e.wg.ctx e.wg.core (e.wg.consts + (e.greg u.a).toNat) 96 = (s1, .bytes bs none) →
    exec (.tshape u) s = .next ((s1.addJob e (.copy 0 u.entry.toNat bs)).1.pastUnit (shapeOf (.tshape u)) false)) ∧
  (∀ (u : GXpld) (s s1 : State) (e : LaneEnv) (bs : List Byte), Issues (.xpld u) s → Lone (.xpld u) s e →
    (e.greg u.a).toNat % 8 = 0 →
    s.readVirt e.wg.part e.wg.ctx e.wg.core (e.wg.consts + (e.greg u.a).toNat) 256 = (s1, .bytes bs none) →
    exec (.xpld u) s = .next ((s1.addJob e (.copy 1 u.table.toNat bs)).1.pastUnit (shapeOf (.xpld u)) false)) ∧
  (∀ (u : GPd) (s : State) (e : LaneEnv), Issues (.pdload u) s → Lone (.pdload u) s e → e.gpair u.a = 0 →
    s.slotBusy e u.slot.toNat = false →
    exec (.pdload u) s = .next ((s.modResident e.wg.part e.wg.ctx e.wg.core (fun r =>
      { r with paradigms := r.paradigms.set u.slot.toNat none })).pastUnit (shapeOf (.pdload u)) false)) ∧
  (∀ (u : GPd) (s : State) (e : LaneEnv), Issues (.pdload u) s → Lone (.pdload u) s e → e.gpair u.a = 0 →
    s.slotBusy e u.slot.toNat = true →
    exec (.pdload u) s = .next ((s.addJob e (.copy 2 u.slot.toNat [])).1.pastUnit (shapeOf (.pdload u)) false)) ∧
  (∀ (u : GPd) (s s1 s2 : State) (e : LaneEnv) (h bs : List Byte), Issues (.pdload u) s → Lone (.pdload u) s e →
    let a := e.gpair u.a
    let n := (Paradigm.of (SMap.write [] 0 h 0)).len
    a ≠ 0 → a % 128 = 0 → a + 64 ≤ 2 ^ 58 → a + n ≤ 2 ^ 58 →
    s.readVirt e.wg.part e.wg.ctx e.wg.core a 64 = (s1, .bytes h none) → headerFault h = none →
    s1.readVirt e.wg.part e.wg.ctx e.wg.core a n = (s2, .bytes bs none) →
    exec (.pdload u) s = .next ((s2.addJob e (.copy 2 u.slot.toNat bs)).1.pastUnit (shapeOf (.pdload u)) false))

/-- R165, R169, R171 and R172: QLOAD, QPIN and QUNPIN of each group, with the code that g[d] receives: the groups of a unit take
their tokens first, then the choices of its loads are made group by group, then every load starts, and a token taken for a quire
whose entry cannot be used is given back. In a cycle in which both slots issue the requests wait for its end. -/
def Obligations.QuireRequests : Prop :=
  ∀ (u : GQuire),
    let q (e : LaneEnv) : Nat := if u.a = 0 then u.quire.toNat else (e.greg u.a).toNat % 256
    let at_ (t : State) (e : LaneEnv) : Quire := (t.resident e.wg.part e.wg.ctx e.wg.core).quire (q e)
    let view (i : Instr) (s : State) (e : LaneEnv) : View :=
      ((s.issueLanes (shapeOf i)).filter (fun x => x.gi == e.gi)).foldl (fun (v : View) x => v.join x.t.code) []
    let choose (i : Instr) (s t : State) (es : List LaneEnv) : State × List (LaneEnv × LoadAnswer) :=
      es.foldl (fun r e => let x := r.1.requestLoad e.wg.part e.wg.ctx e.wg.core (q e) (view i s e); (x.1, r.2 ++ [(e, x.2)])) (t, [])
    let start (r : State × List (LaneEnv × LoadAnswer)) : State :=
      r.2.foldl (fun t a => if a.2 = .started then t.startLoad a.1.wg.part a.1.wg.ctx a.1.wg.core (q a.1) else t) r.1
    let pin (t : State) (e : LaneEnv) (f : Nat → Nat) : State :=
      t.modResident e.wg.part e.wg.ctx e.wg.core (·.modQuire (q e) (fun x => { x with tokens := f x.tokens }))
    let put (t : State) (e : LaneEnv) (x : Nat) : State := t.modGroup e.wg.wid e.gi (·.writeG u.d.toNat (BitVec.ofNat 32 x))
    let pinned (s : State) : State × List LaneEnv := (groupLanes (s.issueLanes (shapeOf (.qpin u)))).foldl (fun (r : State × List LaneEnv) e =>
      if 255 ≤ (at_ r.1 e).tokens then (put r.1 e 2, r.2) else (pin r.1 e (· + 1), r.2 ++ [e])) (s, [])
    let kept (i : Instr) (pin : Bool) (s t : State) (es : List LaneEnv) : State :=
      { t with ends := s.ends ++ (if es = [] then [] else [{
          wid := s.issue.wid, pc := s.issue.pc, len := (shapeOf i).len, vecs := s.vecsOf s.issue.wid, traps := []
          loads := es.map (fun e => { wid := s.issue.wid, q := q e, pc := s.issue.pc, asker := .status e.gi u.d.toNat pin
                                      view := view i s e }) }]) }
    (∀ s, Issues (.qload u) s →
      let es := groupLanes (s.issueLanes (shapeOf (.qload u)))
      let t := s.pastUnit (shapeOf (.qload u)) false
      (s.holdEnds = false → let r := choose (.qload u) s t es
        exec (.qload u) s = .next (r.2.foldl (fun t a => put t a.1
          (match a.2 with | .started => 0 | .already => 1 | .noFrames => 2 | .badEntry => 3)) (start r))) ∧
      (s.holdEnds = true → exec (.qload u) s = .next (kept (.qload u) false s t es))) ∧
    (∀ s, Issues (.qpin u) s →
      let es := (pinned s).2
      let t := (pinned s).1.pastUnit (shapeOf (.qpin u)) false
      (s.holdEnds = false → let r := choose (.qpin u) s t es
        exec (.qpin u) s = .next (r.2.foldl (fun t a => match a.2 with
          | .badEntry => put (pin t a.1 (· - 1)) a.1 3
          | .noFrames => put t a.1 4
          | _ => put t a.1 (if (at_ t a.1).state = .resident then 0 else 1)) (start r))) ∧
      (s.holdEnds = true → exec (.qpin u) s = .next (kept (.qpin u) true s t es))) ∧
    Acts (.qunpin u) (fun t e =>
      if (at_ t e).tokens = 0 then put t e 1 else put (pin t e (· - 1)) e 0)

/-- R181 and R402: the root context's instructions with a control block that reads: its source hashed or signed to its
destination, a measurement register extended, or stored; the status is outstanding. That they complete whatever bytes 28 to 31 of
the block hold is the model's reading (log entry 34). -/
def Obligations.RootInstructions : Prop :=
  let block (s : State) (e : LaneEnv) (a : Nat) (c : RootCmd) (s1 : State) : Prop :=
    a % 32 = 0 ∧ ∃ bs, s.readVirt e.wg.part e.wg.ctx e.wg.core a 32 = (s1, .bytes bs none) ∧
      c.src = natOfBytes (bs.take 8) ∧ c.len = natOfBytes ((bs.drop 8).take 8) ∧ c.dst = natOfBytes ((bs.drop 16).take 8) ∧
      c.idx = natOfBytes ((bs.drop 24).take 4)
  let done (i : Instr) (s : State) (e : LaneEnv) (d : BitVec 5) (st : Nat) : State := (s.laterG e d st).pastUnit (shapeOf i) false
  (∀ (u : GR2) (s s1 s2 s3 : State) (e : LaneEnv) (c : RootCmd) (bs : List Byte), Issues (.hash u) s → Lone (.hash u) s e →
    block s e (e.gpair u.a) c s1 → c.len < 2 ^ 32 → s1.readVirt e.wg.part e.wg.ctx e.wg.core c.src c.len = (s2, .bytes bs none) →
    s2.writeVirt e.wg.part e.wg.ctx e.wg.core c.dst (sha256 bs) = (s3, none) →
    exec (.hash u) s = .next (done (.hash u) s3 e u.d 0)) ∧
  (∀ (u : GR2) (s s1 s2 s3 : State) (e : LaneEnv) (c : RootCmd) (bs : List Byte), Issues (.sign u) s → Lone (.sign u) s e →
    block s e (e.gpair u.a) c s1 → c.len = 32 → s1.readVirt e.wg.part e.wg.ctx e.wg.core c.src 32 = (s2, .bytes bs none) →
    s2.writeVirt e.wg.part e.wg.ctx e.wg.core c.dst (bytesBig (Config.sign (natOfBig bs)) 384) = (s3, none) →
    exec (.sign u) s = .next (done (.sign u) s3 e u.d 0)) ∧
  (∀ (u : GR2) (s s1 s2 : State) (e : LaneEnv) (c : RootCmd) (bs : List Byte), Issues (.mext u) s → Lone (.mext u) s e →
    block s e (e.gpair u.a) c s1 → c.len = 32 → 8 ≤ c.idx → c.idx ≤ 15 →
    s1.readVirt e.wg.part e.wg.ctx e.wg.core c.src 32 = (s2, .bytes bs none) →
    exec (.mext u) s = .next (done (.mext u)
      { s2 with mrs := s2.mrs.modify c.idx (fun x => BitVec.ofNat 256 (natOfBytes (sha256 (bytesOf x.toNat 32 ++ bs)))) } e u.d 0)) ∧
  (∀ (u : GR2) (s s1 s2 : State) (e : LaneEnv) (c : RootCmd), Issues (.mrd u) s → Lone (.mrd u) s e →
    block s e (e.gpair u.a) c s1 → c.idx ≤ 15 →
    s1.writeVirt e.wg.part e.wg.ctx e.wg.core c.dst (bytesOf ((s1.mrs[c.idx]?).getD 0).toNat 32) = (s2, none) →
    exec (.mrd u) s = .next (done (.mrd u) s2 e u.d 0))

/-! ### Synchronisation objects -/

/-- R199, R201 and R203: BARINIT and CMINIT of an offset that no thread waits on and no work in flight names: registered with
the words that the section gives, with no release to acquire from, and 0 in g[d], released with 2, refused with 1 when the context's 64 slots on the core are
taken, and 3 when there was nothing to release. -/
def Obligations.RegisteringObjects : Prop :=
  let free (s : State) (e : LaneEnv) (o : Nat) : Prop :=
    e.wg.Holds o ∧ e.wg.NobodyAt o ∧ s.inFlight e.wg.wid o = false ∧ e.wg.inSpill o 16 = false
  let put (i : Instr) (s : State) (e : LaneEnv) (d : BitVec 5) (x : Nat) (f : Workgroup → Workgroup) : State :=
    ((s.modWg e.wg.wid f).setG e d x).pastUnit (shapeOf i) false
  let cases_ (i : Instr) (d : BitVec 5) (s : State) (e : LaneEnv) (o n : Nat) (bs : List Byte) (x : Obj) : Prop :=
    (n = 0 → (e.wg.obj? o).isSome = true → exec i s = .next (put i s e d 2 (fun w => w.setObj o none))) ∧
    (n = 0 → (e.wg.obj? o).isSome = false → exec i s = .next (put i s e d 3 (fun w => w))) ∧
    (n ≠ 0 → (e.wg.obj? o).isSome = false → 64 ≤ s.slotsTaken e.wg → exec i s = .next (put i s e d 1 (fun w => w))) ∧
    (n ≠ 0 → ((e.wg.obj? o).isSome = true ∨ s.slotsTaken e.wg < 64) →
      exec i s = .next (put i s e d 0 (fun w => ((w.putObject o bs).clearSync o).setObj o (some x))))
  (∀ (u : GR3) (s : State) (e : LaneEnv), Issues (.barinit u) s → Lone (.barinit u) s e →
    let o := (e.greg u.a).toNat
    let n := (e.greg u.b).toNat
    free s e o → e.wg.isChunkMap o = false → n ≤ 65535 →
    cases_ (.barinit u) u.d s e o n (bytesOf n 4 ++ bytesOf n 4 ++ List.replicate 8 0) (.barrier 0 0 0)) ∧
  (∀ (u : GR3) (s : State) (e : LaneEnv), Issues (.cminit u) s → Lone (.cminit u) s e →
    let o := (e.greg u.a).toNat
    let n := (e.greg u.b).toNat
    free s e o → e.wg.isBarrier o = false → n ≤ 1 →
    cases_ (.cminit u) u.d s e o n (List.replicate 16 0) .chunkMap)

/-- R199: an arrival of n: nothing for n = 0; counted while more is pending; otherwise the phase flips, the expected count is
pending again, and the status and error words are written. -/
def Obligations.ArrivalsCount : Prop :=
  ∀ (w : Workgroup) (o n status : Nat) (code : Word) (errors : Nat) (waiters : BitVec 16),
    w.obj? o = some (.barrier code errors waiters) →
    let c : Nat := if code = 0 ∧ statusCode status ≠ 0 then status else code.toNat
    let k := errors + (if statusCode status = 0 then 0 else 1)
    (n = 0 → w.arrive o n status = (w, false)) ∧
    (0 < n → n < w.pendingOf o → w.arrive o n status =
      ((w.putObject o (barrierBytes (w.phaseBit o) (w.pendingOf o - n) (w.expectedOf o) (w.scratchWord (o + 8)) (w.scratchWord (o + 12)))).setObj o
        (some (.barrier (BitVec.ofNat 32 c) k waiters)), false)) ∧
    (0 < n → n = w.pendingOf o → w.arrive o n status =
      ((w.putObject o (barrierBytes (! w.phaseBit o) (w.expectedOf o) (w.expectedOf o) c k)).setObj o (some (.barrier 0 0 0)), true)) ∧
    (w.pendingOf o < n → w.arrive o n status =
      ((w.putObject o (barrierBytes (! w.phaseBit o) (w.expectedOf o) (w.expectedOf o) (if c = 0 then overArrive else c) k)).setObj o
        (some (.barrier 0 0 0)), true))

/-- R199, R203 and R287: ARRIVE on a barrier that nobody waits on is a release at .wg of what each thread of the issue set has done,
which the waits that its phase ends acquire; it counts its arrival and gives the phase bit before it, and an arrival of 0 changes
nothing; TESTPH and CMTEST leave the state of a barrier and of a chunk map outstanding to g[d]. How a release is held is the
model's (log entry 1). -/
def Obligations.UsingObjects : Prop :=
  (∀ (u : GR3) (s : State) (e : LaneEnv), Issues (.arrive u) s → Lone (.arrive u) s e →
    let o := (e.greg u.a).toNat
    let n := (e.greg u.b).toNat
    let lanes := s.issueLanes (shapeOf (.arrive u))
    let done := lanes.foldl (fun (v : View) x => v.join (x.t.released 2)) []
    e.wg.Holds o → e.wg.isBarrier o = true → e.wg.NobodyAt o →
    exec (.arrive u) s = .next ((((lanes.foldl (fun t x => t.modThread x.wg.wid x.gi x.ti (·.release 2)) s).modWg e.wg.wid
      (fun w => if n = 0 then w else (w.joinSync o 0 done).arrived o n 0)).setG e u.d
        (if e.wg.phaseBit o then 1 else 0)).pastUnit (shapeOf (.arrive u)) false)) ∧
  (∀ (u : GR2) (s : State) (e : LaneEnv), Issues (.testph u) s → Lone (.testph u) s e →
    let o := (e.greg u.a).toNat
    e.wg.Holds o → e.wg.isBarrier o = true →
    exec (.testph u) s = .next ((s.laterG e u.d (e.wg.scratchWord o)).pastUnit (shapeOf (.testph u)) false)) ∧
  (∀ (u : GR3) (s : State) (e : LaneEnv), Issues (.cmtest u) s → Lone (.cmtest u) s e →
    let o := (e.greg u.a).toNat
    e.wg.Holds o → e.wg.isChunkMap o = true →
    exec (.cmtest u) s = .next ((s.laterG e u.d (if statusCode (e.wg.mapStatus o) ≠ 0 then 2
      else if e.wg.bitmapOf o &&& e.gpair u.b = e.gpair u.b then 1 else 0)).pastUnit (shapeOf (.cmtest u)) false))

/-! ### Loads, stores and atomics -/

/-- R85, R182 to R190, R281, R389: the loads. No participant traps, faults or parks; each one's bytes, of the stores that it may
see, are outstanding to its registers and its thread has seen those stores; a lane that does not take part receives zero under
zeroing; LDG counts its requests, and LDS.FEC empties the granules that it reads. Which of the permitted stores a load sees, and
whether a plain load is performed at once or when its result returns, is a free choice (log entry 1). That LDS.FE and LDS.FEC read
spill areas and registered objects as other loads do, and that LDS.FEC leaves the bits of an object's granules, is the model's
reading (log entry 31). -/
def Obligations.Loads : Prop :=
  (∀ (u : LMem) (s : State), Issues (.ldg u) s →
    let es := s.issueLanes (shapeOf (.ldg u))
    let n := 4 * grp u.w
    let r := s.globalAccess 0 n (fun e => e.val u.a.toNat 2 + u.off4.toNat * n) es
    r.2.2 = [] →
    exec (.ldg u) s = .next ((zeroRest (shapeOf (.ldg u)).zero u.d.toNat (grp u.w)
      (r.2.1.foldl (fun t x => (t.loadResult x.e u.d.toNat (r.1.returnGlobal x n u.q.toNat) (x.addr % 2 ^ 64)).observeGlobal r.1 x
        u.d.toNat n u.q.toNat) (r.1.touchRequests r.2.1)) es).pastUnit
        (shapeOf (.ldg u)) false)) ∧
  (∀ (u : LMem) (s : State), Issues (.lds u) s →
    let es := s.issueLanes (shapeOf (.lds u))
    let n := 4 * grp u.w
    let r := scratchAccess n false (fun e => (e.reg u.a.toNat).toNat + u.off4.toNat * n) es
    r.2 = [] → (u.q = 1 ∨ u.q = 2 → ∀ x ∈ r.1, x.1.wg.allFull (x.2 / 16) ((x.2 + n - 1) / 16) = true) →
    (u.q = 2 → r.1.Pairwise (fun x y => (x.2 + n - 1) / 16 < y.2 / 16 ∨ (y.2 + n - 1) / 16 < x.2 / 16)) →
    let fresh := u.q == 1 || u.q == 2
    let read := r.1.foldl (fun t x => (t.loadResult x.1 u.d.toNat (x.1.returnScratch x.1.wg fresh x.2 n) x.2).observeScratch
      x.1 x.1.wg fresh (u.q.toNat ≠ 0) u.d.toNat x.2 n) s
    let emptied := if u.q = 2 then
        read.modWg s.issue.wid (fun w => r.1.foldl (fun w x =>
          ((granulesIn x.2 n).filter (fun g => (w.obj? (16 * g)).isNone)).foldl (fun w g => w.setFull g g false) w) w)
      else read
    exec (.lds u) s = .next ((zeroRest (shapeOf (.lds u)).zero u.d.toNat (grp u.w) emptied es).pastUnit (shapeOf (.lds u)) false)) ∧
  (∀ (u : LMem) (s : State), Issues (.ldv u) s →
    let es := s.issueLanes (shapeOf (.ldv u))
    let n := 4 * grp u.w
    let r := vaultAccess n (fun e => (e.reg u.a.toNat).toNat + u.off4.toNat * n) es
    r.2 = [] →
    exec (.ldv u) s = .next ((zeroRest (shapeOf (.ldv u)).zero u.d.toNat (grp u.w)
      (r.1.foldl (fun t x => (t.loadResult x.1 u.d.toNat (s.loadVault x.1 x.2.1 x.2.2 n u.q.toNat) x.2.1).observeVault s x.1 u.d.toNat
        x.2.1 x.2.2 n u.q.toNat) s) es).pastUnit (shapeOf (.ldv u)) false))

/-- R182 to R189, R369: the stores, and FESET and FECLR. No participant traps or faults; the bytes of the lanes go to their
addresses in ascending lane order, and STG counts its requests (R389). -/
def Obligations.Stores : Prop :=
  let bytes (d : BitVec 7) (w : BitVec 2) (e : LaneEnv) : List Byte := bytesOf (e.val d.toNat (grp w)) (4 * grp w)
  (∀ (u : LMem) (s : State), Issues (.stg u) s →
    let n := 4 * grp u.w
    let r := s.globalAccess 1 n (fun e => e.val u.a.toNat 2 + u.off4.toNat * n) (s.issueLanes (shapeOf (.stg u)))
    r.2.2 = [] →
    exec (.stg u) s = .next (((r.1.touchRequests r.2.1).storeGlobal u.q.toNat false (r.2.1.map (fun x => (x, bytes u.d u.w x.e)))).pastUnit
      (shapeOf (.stg u)) false)) ∧
  (∀ (u : LMem) (s : State), Issues (.sts u) s →
    let n := 4 * grp u.w
    let r := scratchAccess n true (fun e => (e.reg u.a.toNat).toNat + u.off4.toNat * n) (s.issueLanes (shapeOf (.sts u)))
    r.2 = [] →
    exec (.sts u) s = .next ((s.storeScratch 2 (u.q == 1 || u.q == 3) (u.q == 2 || u.q == 3) false
      (r.1.map (fun x => (x.1, x.2, bytes u.d u.w x.1)))).pastUnit
      (shapeOf (.sts u)) false)) ∧
  (∀ (u : LMem) (s : State), Issues (.stv u) s →
    let n := 4 * grp u.w
    let r := vaultAccess n (fun e => (e.reg u.a.toNat).toNat + u.off4.toNat * n) (s.issueLanes (shapeOf (.stv u)))
    r.2 = [] →
    exec (.stv u) s = .next ((s.storeVault u.q.toNat (r.1.map (fun x => (x.1, x.2.1, x.2.2, bytes u.d u.w x.1)))).pastUnit
      (shapeOf (.stv u)) false)) ∧
  (∀ (u : LFe) (s : State), Issues (.feset u) s →
    let r := scratchAccess 4 true (fun e => (e.reg u.a.toNat).toNat + 4 * u.off4.toNat) (s.issueLanes (shapeOf (.feset u)))
    r.2 = [] → r.1 ≠ [] →
    exec (.feset u) s = .next (((s.modWg s.issue.wid (fun w =>
      r.1.foldl (fun w x => w.setFull (x.2 / 16) (x.2 / 16) true) w)).wakeFull s.issue.wid).pastUnit (shapeOf (.feset u)) false)) ∧
  (∀ (u : LFe) (s : State), Issues (.feclr u) s →
    let r := scratchAccess 4 true (fun e => (e.reg u.a.toNat).toNat + 4 * u.off4.toNat) (s.issueLanes (shapeOf (.feclr u)))
    r.2 = [] → r.1 ≠ [] →
    exec (.feclr u) s = .next ((s.modWg s.issue.wid (fun w =>
      r.1.foldl (fun w x => w.setFull (x.2 / 16) (x.2 / 16) false) w)).pastUnit (shapeOf (.feclr u)) false))

/-- R192 to R195: the atomics of module memory and scratch, lane after lane in ascending order; ATOM and ATOMS leave the old
value outstanding, and a poisoned old value leaves memory as it is. That a compare and swap zeroes the low half alone, where
it zeroes, is log entry 80. -/
def Obligations.Atomics : Prop :=
  (∀ (u : LMem) (s : State), Issues (.atom u) s →
    let es := s.issueLanes (shapeOf (.atom u))
    let n := if u.off4 = 9 then grp u.w / 2 else grp u.w
    let r := s.globalAccess 2 (4 * n) (fun e => e.val u.a.toNat 2) es
    r.2.2 = [] → (∀ x ∈ r.2.1, x.page.host = false) →
    exec (.atom u) s = .next ((zeroRest (shapeOf (.atom u)).zero u.d.toNat n (r.2.1.foldl (fun t x =>
      let y := t.atomicGlobal u.off4.toNat u.w u.d.toNat u.q.toNat x
      y.1.loadResult x.e u.d.toNat y.2 (x.addr % 2 ^ 64)) r.1) es).pastUnit (shapeOf (.atom u)) false)) ∧
  (∀ (u : LMem) (s : State), Issues (.red u) s →
    let n := if u.off4 = 9 then grp u.w / 2 else grp u.w
    let r := s.globalAccess 2 (4 * n) (fun e => e.val u.a.toNat 2) (s.issueLanes (shapeOf (.red u)))
    r.2.2 = [] → (∀ x ∈ r.2.1, x.page.host = false) →
    exec (.red u) s = .next ((r.2.1.foldl (fun t x =>
      let y := t.atomicGlobal u.off4.toNat u.w u.d.toNat u.q.toNat x
      if y.2.any (·.2) then y.1.logPoison x.e (x.addr / 32 * 32) else y.1) r.1).pastUnit (shapeOf (.red u)) false)) ∧
  (∀ (u : LMem0) (s : State), Issues (.atoms u) s →
    let es := s.issueLanes (shapeOf (.atoms u))
    let n := if u.off4 = 9 then grp u.w / 2 else grp u.w
    let r := scratchAccess (4 * n) true (fun e => (e.reg u.a.toNat).toNat) es
    r.2 = [] →
    exec (.atoms u) s = .next ((zeroRest (shapeOf (.atoms u)).zero u.d.toNat n (r.1.foldl (fun t x =>
      let w := t.wgOf x.1
      let old := w.loadScratch x.2 (4 * n)
      let o := atomicOperands u.off4.toNat u.d.toNat u.w x.1
      if old.any (·.2) then t.loadResult x.1 u.d.toNat (old.map (fun y => (y.1, true))) x.2
      else ((t.observeScratch x.1 w true false u.d.toNat x.2 (4 * n)).storeScratch 2 false false true [(x.1, x.2, bytesOf (atomicNew u.off4.toNat (32 * n) (natOfBytes (w.readScratch x.2 (4 * n)).1) o.1 o.2)
        (4 * n))]).loadResult x.1 u.d.toNat old x.2) s) es).pastUnit (shapeOf (.atoms u)) false))

/-! ### Asynchronous work -/

/-- R204, R205 and R211: STRM and STRMQ put their jobs into the streamer's port, each with its command block and shape entry as
they read at issue; TIERPF puts its range with the tier engine. -/
def Obligations.StreamerJobs : Prop :=
  let jobs (i : Instr) (s : State) (e : LaneEnv) (base n : Nat) : State :=
    ((List.range n).foldl (fun t k =>
      let cmd := (e.wg.readScratch (base + 64 * k) 64).1
      ((t.traceIssue e 1).addJob e (.stream cmd (SMap.read e.g.shapes (96 * (natOfBytes ((cmd.drop 57).take 1) % 16)) 96 0) none [])).1) s).pastUnit
        (shapeOf i) false
  let ready (s : State) (e : LaneEnv) (base n : Nat) : Prop :=
    (∀ k < n, (base + 64 * k) % 64 = 0 ∧ base + 64 * k + 64 ≤ e.wg.scratchSize ∧
      e.wg.isChunkMap (natOfBytes (((e.wg.readScratch (base + 64 * k) 64).1.drop 12).take 4)) = true) ∧
    s.jobsOn e.wg.core JobKind.isStream + n ≤ 16
  (∀ (u : GA) (s : State) (e : LaneEnv), Issues (.strm u) s → Lone (.strm u) s e → ready s e (e.greg u.a).toNat 1 →
    exec (.strm u) s = .next (jobs (.strm u) s e (e.greg u.a).toNat 1)) ∧
  (∀ (u : GAB) (s : State) (e : LaneEnv), Issues (.strmq u) s → Lone (.strmq u) s e →
    (e.greg u.b).toNat ≤ 16 → ready s e (e.greg u.a).toNat (e.greg u.b).toNat →
    exec (.strmq u) s = .next (jobs (.strmq u) s e (e.greg u.a).toNat (e.greg u.b).toNat)) ∧
  (∀ (u : GR3) (s : State) (e : LaneEnv), Issues (.tierpf u) s → Lone (.tierpf u) s e →
    (u.d ≠ 0 → e.wg.Holds (e.greg u.d).toNat ∧ e.wg.isBarrier (e.greg u.d).toNat = true) →
    exec (.tierpf u) s = .next (((s.traceIssue e 2).addJob e (.tierpf (e.gpair u.a) (e.greg u.b).toNat
      (if u.d = 0 then none else some (e.greg u.d).toNat))).1.pastUnit (shapeOf (.tierpf u)) false))

/-- R213 to R226: the matrix engine's instructions while it has a place: the operation waits in the engine with what it
was issued with; MREAD and MSTAT leave their results outstanding on it; MZERO of an engine with no work acts at once. -/
def Obligations.MatrixOperations : Prop :=
  let place (s : State) (e : LaneEnv) : Prop := s.jobsOn e.wg.core JobKind.isMatrix < 16
  let inScratch (e : LaneEnv) (a n : Nat) : Prop := a % 16 = 0 ∧ a + n ≤ e.wg.scratchSize
  (∀ (u : GMlatb) (s : State) (e : LaneEnv), Issues (.mlatb u) s → Lone (.mlatb u) s e → place s e →
    inScratch e (e.greg u.a).toNat (64 * mmRow u.fmt.toNat) → e.wg.isBarrier (e.greg u.b).toNat = true →
    exec (.mlatb u) s = .next (((s.traceIssue e 4).addJob e
      (.mlatb (e.greg u.a).toNat (e.greg u.b).toNat u.fmt.toNat u.plane.toNat)).1.pastUnit (shapeOf (.mlatb u)) false)) ∧
  (∀ (u : LMma) (s : State) (e : LaneEnv), Issues (.mma u) s → Lone (.mma u) s e → place s e →
    let ctl := (e.reg u.d.toNat).toNat
    let rows := (byLane (s.issueLanes (shapeOf (.mma u)))).map (fun x => (x.ti, (x.reg u.a.toNat).toNat))
    (∀ r ∈ rows, inScratch e r.2 (mmRow u.t.toNat)) → e.wg.isBarrier (16 * bitsOf ctl 18 4) = true →
    exec (.mma u) s = .next (((s.traceIssue e 4).addJob e
      (.mma u.t.toNat u.tile.toNat u.plane.toNat (ctl % 8) (16 * bitsOf ctl 18 4) rows)).1.pastUnit (shapeOf (.mma u)) false)) ∧
  (∀ (u : GMstore) (s : State) (e : LaneEnv), Issues (.mstore u) s → Lone (.mstore u) s e → place s e →
    let c0 : Word := e.greg u.b
    let c1 : Word := e.reg (97 + u.b.toNat)
    inScratch e (e.greg u.a).toNat (msLen u.ty.toNat c1) → e.wg.isBarrier (16 * bitsOf c0.toNat 18 4) = true →
    exec (.mstore u) s = .next (((s.traceIssue e 4).addJob e
      (.mstore u.tile.toNat u.ty.toNat (e.greg u.a).toNat c0 c1)).1.pastUnit (shapeOf (.mstore u)) false)) ∧
  (∀ (u : GMzero) (s : State) (e : LaneEnv), Issues (.mzero u) s → Lone (.mzero u) s e → s.jobs = [] → e.wg.retired = false →
    (∀ w ∈ s.wgs, ∀ g ∈ w.groups, ∀ t ∈ g.threads, t.run = .ready ∨ t.run = .exited) →
    exec (.mzero u) s = .next ({ s.clearTile e.wg.part e.wg.ctx e.wg.core u.tile.toNat (u.mode == 1) with
      nextId := s.nextId + 1 }.pastUnit (shapeOf (.mzero u)) false)) ∧
  (∀ (u : GMstat) (s : State) (e : LaneEnv), Issues (.mstat u) s → Lone (.mstat u) s e → place s e → u.d ≠ 0 →
    exec (.mstat u) s = .next (((s.addJob e (.mstat u.tile.toNat)).1.addGPending e.wg.wid e.gi
      [Pending.later s.nextId (96 + u.d.toNat) s.issue.pc s.nextId]).pastUnit (shapeOf (.mstat u)) false)) ∧
  (∀ (u : LMread) (s : State) (e : LaneEnv), Issues (.mread u) s → Lone (.mread u) s e → place s e → u.d.toNat < 94 →
    let ls := s.issueLanes (shapeOf (.mread u))
    let ps := ls.filter LaneEnv.takes
    let size := if u.t = 7 then 2 else 1
    let n (x : LaneEnv) : Nat := mreadDraws s u x
    ps ≠ [] →
    exec (.mread u) s = .next ((zeroRest (shapeOf (.mread u)).zero u.d.toNat size
      (ps.foldl (fun t x =>
        (t.addPending x.wg.wid x.gi x.ti ((List.range size).map (fun k => Pending.later s.nextId (u.d.toNat + k) s.issue.pc s.nextId))).modThread
          x.wg.wid x.gi x.ti (fun h => { h with stream := (h.stream + n x) % 2 ^ 64 }))
        (s.addJob e (.mread u.d.toNat u.tile.toNat u.t.toNat e.mode e.sat
          (ps.map (fun x => (x.ti, x.reg u.a.toNat, (List.range (n x)).map x.draw))))).1) ls).pastUnit (shapeOf (.mread u)) false))

/-- R229, R240 and R180: the forme unit's asynchronous instructions, KVGATHER and FETCHW start their work with the command
block or mailbox that they name; FETCHW's mailbox empties at issue, and what was withdrawn earlier from its feed is done, which
is a release at the launch's completion scope. What a FETCHW that issued earlier and is still to be answered withdraws is done at its
delivery, with what this one releases: the model's reading (log entry 90). -/
def Obligations.FormeWork : Prop :=
  let starts (i : Instr) (u : GR2) (major : Nat) (compact : Bool) : Prop :=
    ∀ (s : State) (e : LaneEnv), Issues i s → Lone i s e →
      let a := (e.greg u.a).toNat
      let bar := (e.greg u.d).toNat
      a % 32 = 0 → a + 32 ≤ e.wg.scratchSize → (u.d ≠ 0 → e.wg.isBarrier bar = true) →
      exec i s = .next (((s.traceIssue e 6).addJob e (.forme major compact (e.wg.readScratch a 32).1
        (if u.d = 0 then none else some bar))).1.pastUnit (shapeOf i) false)
  (∀ u, starts (.gseal u) u 0x48 false) ∧ (∀ u, starts (.impose u) u 0x49 false) ∧ (∀ u, starts (.distrib u) u 0x4A false) ∧
  (∀ u, starts (.distribCompact u) u 0x4A true) ∧ (∀ u, starts (.proofpub u) u 0x4C false) ∧
  (∀ u, starts (.kvappend u) u 0x4E false) ∧ (∀ u, starts (.specapp u) u 0x4F false) ∧ (∀ u, starts (.commit u) u 0x50 false) ∧
  (∀ (u : LGather) (s : State) (e : LaneEnv), Issues (.kvgather u) s → Lone (.kvgather u) s e →
    let a := (e.reg u.d.toNat).toNat
    let c := (e.wg.readScratch a 32).1
    a % 32 = 0 → a + 32 ≤ e.wg.scratchSize → e.wg.isChunkMap (natOfBytes ((c.drop 12).take 4)) = true →
    exec (.kvgather u) s = .next (((s.traceIssue e 5).addJob e (.gather c (u.v == 1) (u.proofed == 1)
      (((s.issueLanes (shapeOf (.kvgather u))).filter LaneEnv.takes).map (fun x => (x.ti, x.reg u.a.toNat))))).1.pastUnit
        (shapeOf (.kvgather u)) false)) ∧
  (∀ (u : GAB) (s : State) (e : LaneEnv), Issues (.fetchw u) s → Lone (.fetchw u) s e →
    let a := (e.greg u.a).toNat
    let feed (f : Nat × Nat × Nat) : Bool := f.1 == (e.greg u.b).toNat / 2 ^ 24 && f.2.1 % 2 ^ 24 == (e.greg u.b).toNat % 2 ^ 24
    let scope := ((s.launchOf e.wg.part e.wg.ctx (e.greg u.b).toNat).map Launch.cscope).getD 5
    let passed (t : State) : State := { t with jobs := t.jobs.map (fun j =>
      if j.wid = e.wg.wid ∧ (s.job? j.id).isSome = true then { j with kind := j.kind.passed (e.greg u.b) (e.releases scope) } else j) }
    a % 32 = 0 → a + 32 ≤ e.wg.scratchSize →
    exec (.fetchw u) s = .next (((passed (((e.wg.fetched.filter feed).foldl (fun t f =>
      t.markDone e.wg.part e.wg.ctx f.1 f.2.1 f.2.2 scope (e.releases scope))
        (s.modWg e.wg.wid (fun w => w.setFull (a / 16) (a / 16 + 1) false))).modWg e.wg.wid (fun w =>
          { w with fetched := e.wg.fetched.filter (fun f => ! feed f) }))).addJob e (.fetchw a (e.greg u.b) none)).1.pastUnit
            (shapeOf (.fetchw u)) false))

/-- R179, R237 and R239: LAUNCH sends its record to the distributor with what its check found, as work that follows a release of its
threads (`State.addJob`, log entry 1); PROOFW whose fetch takes effect at once and PRSTAT leave their words outstanding, and PROOFW of an empty ring parks its
threads. That LAUNCH's record is read and checked at its issue is the model's choice (log entry 75). -/
def Obligations.LaunchAndProofReads : Prop :=
  (∀ (u : GR3) (s s1 : State) (e : LaneEnv) (bs : List Byte), Issues (.launch u) s → Lone (.launch u) s e →
    e.gpair u.a % 256 = 0 → e.gpair u.a < 2 ^ 52 →
    let sent (s1 : State) (record : List Byte) (code : Nat) : Prop :=
      exec (.launch u) s = .next (((s1.addJob e (.launch record (e.greg u.b).toNat code)).1.addGPending e.wg.wid e.gi [Pending.later s1.nextId (96 + u.d.toNat) s.issue.pc s1.nextId,
          Pending.later s1.nextId (97 + u.d.toNat) s.issue.pc s1.nextId]).pastUnit (shapeOf (.launch u)) false)
    let read := s.readVirt e.wg.part e.wg.ctx e.wg.core (e.gpair u.a) 256
    (read = (s1, .bytes bs none) → s.recordBad e.wg.part e.wg.ctx bs = none → sent s1 bs 0) ∧
    (read = (s1, .bytes bs none) → (s.recordBad e.wg.part e.wg.ctx bs).isSome = true → sent s1 bs 3) ∧
    (∀ a, read = (s1, .bytes bs (some a)) → sent s1 [] 4) ∧ (∀ c a, read = (s1, .fault c a) → sent s1 [] 4)) ∧
  (∀ (u : GR2) (s s1 s2 : State) (e : LaneEnv) (runs : List (Nat × Nat × Page)) (x : Nat × Nat), Issues (.proofw u) s →
    Lone (.proofw u) s e →
    let va := e.gpair u.a
    va < 2 ^ 58 → s.translateRuns e.wg.part e.wg.ctx e.wg.core 1 (pageRuns va 8576 4) = (s1, runs, none) → s1.jobs = [] →
    let j := s1.asJob e (.proofw va (s1.formeKey e.wg.part e.wg.ctx e.wg.core va) u.d.toNat u.h)
    (fmFetch j va).run s1 = (.ok (some x), s2) →
    exec (.proofw u) s = .next (((s1.markBy s2 (formeAgent (s1.formeKey e.wg.part e.wg.ctx e.wg.core va))).giveItem j u.d.toNat x false
      va).pastUnit (shapeOf (.proofw u)) false)) ∧
  (∀ (u : GR2) (s s1 s2 : State) (e : LaneEnv) (runs : List (Nat × Nat × Page)), Issues (.proofw u) s → Lone (.proofw u) s e →
    let va := e.gpair u.a
    va < 2 ^ 58 → s.translateRuns e.wg.part e.wg.ctx e.wg.core 1 (pageRuns va 8576 4) = (s1, runs, none) → s1.jobs = [] →
    let k : JobKind := .proofw va (s1.formeKey e.wg.part e.wg.ctx e.wg.core va) u.d.toNat u.h
    (fmFetch (s1.asJob e k) va).run s1 = (.ok none, s2) →
    exec (.proofw u) s = .next ((s1.addJob e k).1.parkedAt (.proofw u) (fun _ => .proofw s1.nextId))) ∧
  (∀ (u : GR3) (s s1 : State) (e : LaneEnv) (runs : List (Nat × Nat × Page)), Issues (.prstat u) s → Lone (.prstat u) s e →
    let va := e.gpair u.a
    let n := (e.greg u.b).toNat % 256
    va < 2 ^ 58 → u.d ≠ 0 →
    s.translateRuns e.wg.part e.wg.ctx e.wg.core 0 (pageRuns va 128 2 ++ pageRuns (va + 128 + 32 * n) 32 2) = (s1, runs, none) →
    exec (.prstat u) s = .next (((s1.addJob e (.prstat va (s1.formeKey e.wg.part e.wg.ctx e.wg.core va) n runs)).1.addGPending
      e.wg.wid e.gi [Pending.later s1.nextId (96 + u.d.toNat) s.issue.pc s1.nextId]).pastUnit (shapeOf (.prstat u)) false))

/-! ### The lanes that read tables: rotations, patterns, tensor indices, transducers -/

/-- R143 and R145: TIDX and XPERM, by the shape entry and the pattern table that they use; the issue stage holds them while a copy
to it is in flight (R158). TIDX writes, and zeroes, the registers of its coordinates and no other of the covering group. -/
def Obligations.TableLanes : Prop :=
  (∀ (u : LUf) (s : State), Issues (.tidx u) s →
    let coords (e : LaneEnv) : List (Nat × Word) :=
      (tidxCoords e.g.shapes (96 * u.fn.toNat) (SMap.get e.g.shapes (96 * u.fn.toNat) 0).toNat u.t.toNat 0
        (e.reg u.a.toNat).toNat).zipIdx.map (fun c => (u.d.toNat + c.2, BitVec.ofNat 32 c.1))
    let zeros : List (Nat × Word) := (List.range (u.t.toNat + 1)).map (fun r => (u.d.toNat + r, 0))
    exec (.tidx u) s = .next ((s.eachLane (shapeOf (.tidx u)) (fun e t => t.takes
      (if e.takes then some (.ofRegs (coords e)) else if (shapeOf (.tidx u)).zero then some (.ofRegs zeros) else none))
        (fun _ g => g)).pastUnit (shapeOf (.tidx u)) false)) ∧
  (∀ (u : LAfw) (s : State),
    let steer (e : LaneEnv) (b : Nat) : Nat := (SMap.get e.wg.patterns (256 * u.fn.toNat + 4 * e.ti + b) 0).toNat
    Clear (.xperm u) (some (fun e => (List.range 4).map (fun b => (steer e b / 4 % e.g.width, u.a.toNat, grp u.w)))) noExtra s →
    exec (.xperm u) s = .next (s.lanesDone (.xperm u) (fun e =>
      .ofRegs ((List.range (grp u.w)).map (fun r => (u.d.toNat + r, BitVec.ofNat 32 (packElems 8 ((List.range 4).map (fun b =>
        (e.regOf (steer e b / 4 % e.g.width) (u.a.toNat + r)).toNat / 256 ^ (steer e b % 4) % 256)))))))))

/-- R243: ROTQ of a group whose participants' reads all give bytes: each pair of a's elements rotated by the rates of the
descriptor that b names, at the position in d, outstanding with the poison of what was read. -/
def Obligations.Rotations : Prop :=
  ∀ (u : LRw) (s s1 : State) (e : LaneEnv) (rs : List (LaneEnv × Nat × Option Nat)), Issues (.rotq u) s → Lone (.rotq u) s e →
    let ls := s.issueLanes (shapeOf (.rotq u))
    let a := (e.reg u.b.toNat).toNat
    let c := (e.wg.readScratch a 16).1
    let fmt := natOfBytes ((c.drop 9).take 1)
    a % 16 = 0 → a + 16 ≤ e.wg.scratchSize → (∀ i, 10 ≤ i → i < 16 → (c)[i]? = some 0) → fmt ≤ 1 → (fmt = 0 → grp u.w % 2 = 0) →
    (byLane (ls.filter LaneEnv.takes)).foldl (fun (acc : State × List (LaneEnv × RotqOut)) x =>
      let y := rotqLane acc.1 x u (natOfBytes (c.take 8)) (natOfBytes ((c.drop 8).take 1)) (fmt == 1)
      (y.1, acc.2 ++ [(x, y.2)])) (zeroRest (shapeOf (.rotq u)).zero u.d.toNat (grp u.w) s ls, [])
        = (s1, rs.map (fun r => (r.1, .result r.2.1 r.2.2))) →
    exec (.rotq u) s = .next ((rs.foldl (fun t r =>
      t.loadResult r.1 u.d.toNat ((splitWords 0 (grp u.w) r.2.1).map (fun y => (y.2, r.2.2.isSome))) (r.2.2.getD 0)) s1).pastUnit
        (shapeOf (.rotq u)) false)

/-- R254 to R257: the transducer lanes: where every participant's walk or conversion is defined, its result is outstanding. -/
def Obligations.Transducers : Prop :=
  (∀ (u : LRw) (s : State) (x : LaneEnv → Nat),
    Clear (.dxt u) (some (walkReads u.w.toNat u.a u.b)) (arityReason (shapeOf (.dxt u)) u.w.toNat u.b) s →
    (∀ e ∈ s.issueLanes (shapeOf (.dxt u)), e.takes = true →
      (e.paradigm u.w.toNat).dxt u.w.toNat (e.reg u.a.toNat).toNat (walkB (e.paradigm u.w.toNat) u.b e) = .ok (x e)) →
    exec (.dxt u) s = .next (s.lanesOwed (.dxt u) (fun e => .ofRegs (splitWords u.d.toNat 2 (x e))))) ∧
  (∀ (u : LCmpW) (s : State) (x : LaneEnv → Bool),
    Clear (.dxcmp u) (some (walkReads u.w.toNat u.a u.b)) (arityReason (shapeOf (.dxcmp u)) u.w.toNat u.b) s →
    (∀ e ∈ s.issueLanes (shapeOf (.dxcmp u)), e.takes = true →
      (e.paradigm u.w.toNat).dxcmp u.w.toNat (e.reg u.a.toNat).toNat (walkB (e.paradigm u.w.toNat) u.b e) u.cond.toNat = .ok (x e)) →
    exec (.dxcmp u) s = .next (s.lanesOwed (.dxcmp u) (fun e => .ofMask u.k.toNat (x e)))) ∧
  (∀ (u : LDx) (s : State) (x : LaneEnv → Int), Issues (.dxval u) s →
    (∀ e ∈ s.issueLanes (shapeOf (.dxval u)), e.takes = true →
      (e.paradigm u.slot.toNat).val u.slot.toNat (e.val u.a.toNat (dxWords u.t)) ((e.paradigm u.slot.toNat).n * dxWords u.t) = .ok (x e)) →
    exec (.dxval u) s = .next (s.lanesOwed (.dxval u) (fun e =>
      .ofRegs (splitWords u.d.toNat (dxWords u.t) (wrapN (x e) (32 * dxWords u.t)))))) ∧
  (∀ (u : LDx) (s : State) (x : LaneEnv → Nat), Issues (.dxenc u) s →
    (∀ e ∈ s.issueLanes (shapeOf (.dxenc u)), e.takes = true →
      (e.paradigm u.slot.toNat).enc u.slot.toNat ((e.paradigm u.slot.toNat).n * dxWords u.t)
        (sext (e.val u.a.toNat (dxWords u.t)) (32 * dxWords u.t)) = .ok (x e)) →
    exec (.dxenc u) s = .next (s.lanesOwed (.dxenc u) (fun e => .ofRegs (splitWords u.d.toNat (dxWords u.t) (x e)))))

/-! ### Results, waits and copies -/

/-- R85, R158, R178, R252, R267 and R370: a result returns, and makes the last wait for it end with the register written, or, where
it comes poisoned, with the thread in its handler at DATA_POISON, described by the unit that bore W and the instruction that
left the mark; the threads of a set sleep until the last of their deadlines, and go on past their unit together; a copy puts its
bytes in place. A result of a load that has still to be performed is performed as it returns, and may bring another value than
the one found at issue: the model's choice of when a plain load takes place (log entry 1). -/
def Obligations.ResultsWakesCopies : Prop :=
  (∀ (u : EvResult) (s : State) (p : Pending), s.result? u = some p → p.known = true → p.returned = false → s.NobodyWaits u.wid →
    Ends (.resultReturn u) s (fun t => ∃ v, t.result? u = some { p with value := v, returned := true }) ∧
    ((∀ x, s.thread? u.wid u.gi u.ti = some x → ∀ l ∈ x.loads, l.ord ≠ p.ord) →
      Ends (.resultReturn u) s (fun t => t.result? u = some { p with returned := true }))) ∧
  (∀ (u : EvResult) (s : State) (w : Workgroup) (g : Group) (x : Thread) (p : Pending) (pc : Word) (set : Nat),
    s.wg? u.wid = some w → w.groups[u.gi]? = some g → u.ti < g.width → g.threads[u.ti]? = some x →
    w.WaitsAlone u.gi u.ti pc set → x.run = .parked (.wait pc false) set →
    x.pending = [p] → x.loads = [] → u.idx = 0 → p.known = true → p.returned = false → p.late = false → p.reg < 96 →
    x.marks = [] → g.gPending = [] → g.gMarks = [] →
    (p.poison = false → Ends (.resultReturn u) s (fun t => ∃ y, t.thread? u.wid u.gi u.ti = some y ∧ y.run = .ready ∧
      y.pending = [] ∧ y.unwaited = [] ∧ SMap.get y.v p.reg 0 = p.value)) ∧
    (p.poison = true → s.holdEnds = false → (∀ y ∈ g.threads, y.handler = false) → g.trapvec ≠ 0 → g.trapvec.toNat % 4 = 0 →
      ((s.resident w.part w.ctx w.core).quire (pcQuire g.trapvec)).state = .resident →
      pcOffset g.trapvec < ((s.resident w.part w.ctx w.core).quire (pcQuire g.trapvec)).length →
      Ends (.resultReturn u) s (fun t =>
        (∃ h, t.group? u.wid u.gi = some h ∧ h.trapcause = 0x0A ∧ h.trappc = pc ∧ h.trapinfo = p.pc ∧ h.trapaddr = BitVec.ofNat 64 p.addr ∧
          h.traplane = BitVec.ofNat 6 (g.lanebase + u.ti)) ∧
        ∃ y, t.thread? u.wid u.gi u.ti = some y ∧ y.handler = true ∧ y.run = .ready ∧ y.pc = g.trapvec ∧ y.resume = pc ∧
          y.pending = [] ∧ y.marks = [] ∧ SMap.get y.v p.reg 0 = p.value))) ∧
  (∀ (u : EvThread) (s : State) (x : Thread) (dl set : Nat), s.thread? u.wid u.gi u.ti = some x → x.run = .parked (.sleep dl false) set →
    dl ≤ s.time.toNat → s.NobodyWaits u.wid →
    (∀ gi ti y k, s.thread? u.wid gi ti = some y → y.run = .parked k set → ∃ d, k = .sleep d false) →
    let asleep (gi ti : Nat) (y : Thread) (d : Nat) : Prop := s.thread? u.wid gi ti = some y ∧ y.run = .parked (.sleep d false) set
    ((∀ gi ti y d, asleep gi ti y d → d ≤ s.time.toNat) → Ends (.sleepWake u) s (fun t => ∀ gi ti y d, asleep gi ti y d →
      ∃ z, t.thread? u.wid gi ti = some z ∧ z.run = .ready ∧ z.pc = y.pc + 4)) ∧
    ((∃ gi ti y d, asleep gi ti y d ∧ s.time.toNat < d) → Ends (.sleepWake u) s (fun t => ∃ z, t.thread? u.wid u.gi u.ti = some z ∧
      z.run = .parked (.met true false none) set ∧ z.pc = x.pc))) ∧
  (∀ (u : EvJob) (s : State) (j : Job) (what i : Nat) (bs : List Byte), Due s u.job j (.copy what i bs) → Resting s →
    Ends (.copyComplete u) s (fun t => t.job? u.job = none ∧
      (what = 0 → ∀ g, s.group? j.wid j.gi = some g → ∃ h, t.group? j.wid j.gi = some h ∧ h.shapes = SMap.write g.shapes (96 * i) bs 0) ∧
      (what = 1 → ∀ w, s.wg? j.wid = some w → ∃ v, t.wg? j.wid = some v ∧ v.patterns = SMap.write w.patterns (256 * i) bs 0) ∧
      (what = 2 → bs ≠ [] → (t.resident j.part j.ctx j.core).paradigms =
        (s.resident j.part j.ctx j.core).paradigms.set i (some (SMap.write [] 0 bs 0)))))

/-- R165, R172, R358 and R360: a load whose image reads and matches its digest makes the quire RESIDENT, one whose digest does not
match makes it FAILED with reason 3; a walk puts its page into the TLBs. -/
def Obligations.QuireLoadsAndWalks : Prop :=
  (∀ (u : EvQuire) (s s1 : State) (bs : List Byte), Resting s →
    let x := (s.resident u.part u.ctx u.core).quire u.quire
    x.state = .loading → s.readCode u.part u.ctx u.core x.source x.length x.view = (s1, .bytes bs none) →
    s1.residents = s.residents → s1.wgs = s.wgs →
    (natOfBytes (sha256 bs) = x.digest → Ends (.quireLoadComplete u) s (fun t =>
      ((t.resident u.part u.ctx u.core).quire u.quire).state = .resident ∧
      ((t.resident u.part u.ctx u.core).quire u.quire).image = SMap.write [] 0 bs 0 ∧ t.wgs = s.wgs)) ∧
    (natOfBytes (sha256 bs) ≠ x.digest → (∀ w ∈ s.wgs, w.started = true) → Ends (.quireLoadComplete u) s (fun t =>
      let y := (t.resident u.part u.ctx u.core).quire u.quire
      y.state = .failed ∧ y.frames = 0 ∧ y.why = (3, 0) ∧ t.wgs = s.wgs))) ∧
  (∀ (u : EvWalk) (s : State) (g : Page), s.tlbHit u.core u.part u.ctx (u.va % 2 ^ 52) = none →
    s.walk (Agent.unit u.core).reader u.part (u.va % 2 ^ 52) 3 (s.context u.part u.ctx).ptroot.toNat = .page g →
    g.base ≤ u.va % 2 ^ 52 → u.va % 2 ^ 52 < g.base + g.size →
    Ends (.pageWalk u) s (fun t => ∃ e, t.tlbHit u.core u.part u.ctx (u.va % 2 ^ 52) = some e ∧ e.page = g ∧ t.mem = s.mem))

/-! ### The engines -/

/-- R208, R209 and R211: a streamer job that passes its checks holds its translations; a chunk's bytes arrive in scratch, its bit
is set and the delivered count grows, and the last chunk ends the job; what a chunk's bit and the job's end order is known to the
waits on them (R297, as the model holds it: log entry 1). That the bytes, the bit and the count come in one step is log entry 89. A
prefetch of pages that translate gives their blocks its hint, moves them into HBM and ends with status 0 once every one is there
(R390, log entry 25). -/
def Obligations.StreamerAndTierEvents : Prop :=
  (∀ (u : EvJob) (s s1 : State) (j : Job) (w : Workgroup) (cmd shape : List Byte) (done : List Nat) (f : Nat × Nat)
    (runs : List (Nat × Nat × Page)), s.job? u.job = some j → j.kind = .stream cmd shape none done → s.wg? j.wid = some w →
    (s.resident j.part j.ctx j.core).loc ≠ .saved → lowest (smDecode w cmd shape) = none → smVaultSrc cmd = false →
    smFootprint cmd shape = some f → f.1 + f.2 ≤ 2 ^ 58 → (smVaultDst cmd = false → w.protectedCode (smDst cmd) (smLen cmd) = none) →
    s.translateRuns j.part j.ctx j.core 0 (pageRuns f.1 f.2 (f.2 / 2 ^ 14 + 2)) = (s1, runs, none) →
    Ends (.streamerJobCheck u) s (fun t => t.job? u.job = some { j with kind := .stream cmd shape (some runs) [] })) ∧
  (∀ (u : EvChunk) (s : State) (j : Job) (w : Workgroup) (cmd shape : List Byte) (runs : List (Nat × Nat × Page)) (done : List Nat)
    (bs : List Byte), s.job? u.job = some j → j.kind = .stream cmd shape (some runs) done → s.wg? j.wid = some w → Resting s →
    (s.resident j.part j.ctx j.core).loc ≠ .saved → u.chunk < smChunks cmd → u.chunk ∉ done → s.jobReady j (some u.chunk) = true →
    smVaultDst cmd = false → s.smChunk w j.view cmd shape runs u.chunk = (bs, none) →
    let v (a : View) : Workgroup :=
      ((w.received (smDst cmd + 512 * u.chunk) bs j.view).told (smMap cmd) (2 + u.chunk) a).chunkDone (smMap cmd) u.chunk
    (done.length + 1 < smChunks cmd → Ends (.chunkWrite u) s (fun t => (∃ a, t.wg? j.wid = some (v a)) ∧
      ∃ b, t.job? u.job = some { j with kind := .stream cmd shape (some runs) (done ++ [u.chunk]), wrote := b })) ∧
    (smChunks cmd = done.length + 1 → Ends (.chunkWrite u) s (fun t => t.job? u.job = none ∧
      ∃ a, t.wg? j.wid = some ((((v a).told (smMap cmd) 1 a).mapTold (smMap cmd) 0).worked a)))) ∧
  (∀ (u : EvJob) (s s1 : State) (j : Job) (w : Workgroup) (b n : Nat) (bar : Option Nat) (runs : List (Nat × Nat × Page)),
    Due s u.job j (.tierpf b n bar) → s.wg? j.wid = some w → Resting s → (s.resident j.part j.ctx j.core).loc ≠ .saved →
    (n = 0 → Ends (.tierpfArrival u) s (JobOver j 0 w)) ∧
    (n ≠ 0 → b + n ≤ 2 ^ 58 → s.translateRuns j.part j.ctx j.core 0 (pageRuns b n (n / 2 ^ 14 + 2)) = (s1, runs, none) →
      let named := runs.filterMap (fun q => if q.2.2.host then none else some (q.2.2.phys q.1 / 2 ^ 14))
      let hinted := runs.foldl (fun t q => if q.2.2.host then t else t.hintBlock (q.2.2.phys q.1 / 2 ^ 14) q.2.2.hint) s1
      let moved := named.foldl (fun t x => t.prefetchBlock named x) hinted
      if named.any moved.prefetches then exec (.tierpfArrival u) s = .next moved else Ends (.tierpfArrival u) s (JobOver j 0 w)))

/-- R213 to R228: a latch makes the scratch image its plane; a pass adds its rows' products to the tile when formats agree and
nothing is poisoned, but for the rows that a parity error reaches, which keep their elements; MSTORE writes its converted rows.
Each ends with code 0, agent 4 and the count of corrected errors, and a pass that lost rows with UNCORRECTABLE and the lowest of them; which
errors arise is a free choice (log entry 42). -/
def Obligations.MatrixEvents : Prop :=
  let clean (n : Nat) : Nat := statusWord 0 4 (mmDetail none n)
  (∀ (u : EvJob) (s : State) (j : Job) (w : Workgroup) (image bar fmt plane : Nat) (bs : List Byte),
    Due s u.job j (.mlatb image bar fmt plane) → s.wg? j.wid = some w → Resting s → s.jobs = [j] →
    w.readScratch image (64 * mmRow fmt) = (bs, false) → plane < (s.resident j.part j.ctx j.core).planes.length →
    Ends (.mlatbLatch u) s (fun t => JobOver j (clean (Config.corrected s.draws j.id)) w t ∧
      t.plane j.part j.ctx j.core plane = { fmt := fmt, bytes := SMap.write [] 0 bs 0, bad := false })) ∧
  (∀ (u : EvJob) (s : State) (j : Job) (w : Workgroup) (fmt tile plane rb bar : Nat) (rows : List (Nat × Nat)),
    Due s u.job j (.mma fmt tile plane rb bar rows) → s.wg? j.wid = some w → Resting s → s.jobs = [j] →
    let t0 := s.tile j.part j.ctx j.core tile
    let p := s.plane j.part j.ctx j.core plane
    mmWidth fmt = mmWidth p.fmt → mmInteger fmt = mmInteger p.fmt → mmInteger fmt = t0.integer → p.bad = false →
    (∀ r ∈ rows, (w.readScratch r.2 (mmRow fmt)).2 = false) → tile < (s.resident j.part j.ctx j.core).tiles.length →
    let n := Config.corrected s.draws j.id
    let row (i : Nat) : Nat := 8 * ((rb + i / 8) % 8) + i % 8
    let lost := (rows.map (fun r => row r.1)).filter (Config.parity s.draws)
    Ends (.mmaPass u) s (fun t =>
      (lost = [] → JobOver j (clean n) w t) ∧
      (∀ x ∈ lost, (∀ y ∈ lost, x ≤ y) → JobOver j (statusWord 0x12 4 (mmDetail (some x) n)) w t) ∧
      t.tile j.part j.ctx j.core tile = ((rows.filter (fun r => ! Config.parity s.draws (row r.1))).foldl (fun x r =>
        x.step s.draws (64 * j.id + r.1) (row r.1) fmt (w.readScratch r.2 (mmRow fmt)).1 p) t0).correct n)) ∧
  (∀ (u : EvJob) (s : State) (j : Job) (w : Workgroup) (tile ty dst : Nat) (c0 c1 : Word),
    Due s u.job j (.mstore tile ty dst c0 c1) → s.wg? j.wid = some w → Resting s → s.jobs = [j] →
    let t0 := s.tile j.part j.ctx j.core tile
    let first := bitsOf c1.toNat 5 0
    let cnt := bitsOf c1.toNat 13 8
    let rows := (List.range (cnt + 1)).map (first + ·)
    bitsOf c0.toNat 2 0 ≤ 4 → first + cnt ≤ 63 → bitsOf c1.toNat 25 24 ≠ 3 → (bitsOf c1.toNat 25 24 ≠ 0 → ty = 0) → tile < (s.resident j.part j.ctx j.core).tiles.length → w.protectedCode dst (msLen ty c1) = none →
    (∀ r ∈ rows, ∀ n < 64, SMap.get t0.poison (64 * r + n) false = false) →
    let n := Config.corrected s.draws j.id
    Ends (.mstoreWrite u) s (fun t => JobOver j (clean n) (w.received dst (rows.flatMap (fun r => t0.storeRow r ty c0 c1)) j.view) t ∧
      t.tile j.part j.ctx j.core tile = t0.correct n))

/-- R229 to R245: an operation of the forme unit at its point. Where its own operation runs through, it leaves memory as that
operation left it, ends with status 0 and makes one arrival on its barrier; a gather writes its mask, its rows and its
chunk bits, in one action (log entry 23). What the issue of each has ordered is in place before it acts (`State.settleJob`), a
gather's wakes acquire what the PROOFPUBs of its entries have released (R241), and what a completion orders is known to the waits
on it (R297): as the model holds it, log entry 1. -/
def Obligations.FormeEvents : Prop :=
  let op (m : Nat) (compact : Bool) (j : Job) (w : Workgroup) (c : List Byte) : FM Unit := match m with
    | 0x48 => fmGseal j c
    | 0x49 => fmImpose j c
    | 0x4A => fmDistrib j compact c
    | 0x4C => fmPub j w c
    | 0x4E => fmAppend j true w c
    | 0x4F => fmAppend j false w c
    | _ => fmCommit j c
  let acts (i : EvJob → Instr) (m : Nat) : Prop :=
    ∀ (u : EvJob) (s s1 : State) (j : Job) (w : Workgroup) (compact : Bool) (c : List Byte) (bar : Option Nat),
      Due s u.job j (.forme m compact c bar) → s.wg? j.wid = some w → (op m compact j w c).run (s.settleJob j) = (.ok (), s1) →
      s1.jobs = [j] → s1.wgs = s.wgs → Resting s → (s1.context j.part j.ctx).trmask = 0 →
      Ends (i u) s (fun t => JobOver j 0 w t ∧ t.mem = s1.mem ∧ t.items = s1.items)
  acts .gsealPerform 0x48 ∧ acts .imposePerform 0x49 ∧ acts .distribPerform 0x4A ∧ acts .proofpubPerform 0x4C ∧
  acts .kvappendPerform 0x4E ∧ acts .specappPerform 0x4F ∧ acts .commitPerform 0x50 ∧
  (∀ (u : EvJob) (s s1 : State) (j : Job) (w : Workgroup) (c : List Byte) (v p : Bool) (rows : List (Nat × Word)) (len o : Nat)
    (out : List (Nat × Bool × List Byte)), Due s u.job j (.gather c v p rows) → s.wg? j.wid = some w → Resting s →
    (fmSnapshot j w c v p rows).run s = (.ok (len, o, out), s1) → s1.wgs = s.wgs → s1.jobs = [j] →
    (j.waited && (s.resident j.part j.ctx j.core).quiescing) = false →
    let map := natOfBytes ((c.drop 12).take 4)
    let sees := j.view.join (s.gatherLearns j c rows)
    let masked := w.received (natOfBytes ((c.drop 16).take 4)) (bytesOf (out.foldl (fun m r => m + (if r.2.1 then 2 ^ r.1 else 0)) 0) 16)
      sees
    let filled := out.foldl (fun x r => x.received (natOfBytes ((c.drop 8).take 4) + r.1 * o) r.2.2 sees) masked
    let done (a : View) : Workgroup := (List.range ((len + 511) / 512)).foldl (fun x i => (x.told map (2 + i) a).chunkDone map i) filled
    Ends (.kvgatherSnapshot u) s (fun t => t.job? u.job = none ∧
      ∃ a, t.wg? j.wid = some ((((done a).told map 1 a).mapTold map 0).worked a)))

/-- R233 to R238, R244, R332 to R335, R363 and R395: what the operations of the forme unit write, once the ranges they name
translate and their checks are passed. GSEAL writes the header; IMPOSE counts the galley's reference, begins a generation with
bitmaps cleared, the proof set's words and layer 0 released, or the entry PROOFED at once; DISTRIB advances the generation,
takes an unfetched item out of the ring or sets one in flight draining, and gives the reference back with the entry CANCELLED;
its compact form, of an entry that drains already, moves what lies above down, where a moved live entry begins again; PROOFPUB
writes rows and bits, publishes the item and releases the next layer, and discards what drains; KVAPPEND and SPECAPP write
slots with their bits; COMMIT copies every layer of its slots, which all hold rows, to the tail, empties every slot and
counts; PROOFW takes the byte at qhead and sets the item in flight. What counts as BADFORME where an area lies in a host page,
in which order checks are made, and that a KVAPPEND whose COMMIT may not go has written its rows, are log entries 67 to 69. -/
def Obligations.FormeWrites : Prop :=
  (∀ (j : Job) (c h : List Byte) (s s1 s2 s3 s4 : State) (rs rr rk : Runs),
    let hdr := cmdNat c 0 8
    let rows := cmdNat c 8 8
    let n := cmdNat c 24 3
    let fmt := cmdNat c 27 1
    let layers := cmdNat c 28 2
    let hdim := (cmdNat c 31 1 + 1) * 8
    hdr % 64 = 0 → s.inHost j hdr = false → rows % 16 = 0 → n ≠ 0 → fmt ≤ 2 → 1 ≤ layers → layers ≤ 1024 → hdim ≤ 256 →
    (fmt = 2 → hdim % 32 = 0) →
    Gives (fmReach j (some (0x02, 0)) 1 hdr 64) s rs s1 →
    Gives (fmReach j none 0 rows (2 * n * layers * (cmdNat c 30 1 + 1) * rowLen fmt hdim)) s1 rr s2 →
    Gives (fmReach j none 0 (cmdNat c 16 8) n) s2 rk s3 →
    Gives (fmRead j (some (0x02, 0)) hdr 64) s3 h s4 →
    (¬ ((cmdNat h 28 1).testBit 0 = true ∧ cmdNat h 24 4 ≠ 0) →
      Gives (fmGseal j c) s () (s4.putRuns j rs (cellsAt hdr (bytesOf rows 8 ++ bytesOf (cmdNat c 16 8) 8 ++ (c.drop 24).take 8
        ++ [0, 0, 0, 0] ++ [1] ++ List.replicate 35 0)))) ∧
    ((cmdNat h 28 1).testBit 0 = true → cmdNat h 24 4 ≠ 0 → (fmGseal j c).run s = (.error (.status 0x21 0), s4))) ∧
  (∀ (j : Job) (c g : List Byte) (s s1 s2 s3 s4 s5 s6 s7 s8 : State) (w w1 w2 : FWork) (p : List Nat) (ra rr rg : Runs),
    let galley := cmdNat c 8 8
    let base := cmdNat c 16 3
    let e := cmdNat c 19 1
    let len := if cmdNat c 20 3 = 0 then cmdNat g 16 3 else cmdNat c 20 3
    let x := w.entry e
    let y : FEntry := { x with gen := (x.gen + 1) % 2 ^ 16, galley := galley, base := base, noproof := cmdNat c 23 1 == 1, keep := false, len := len }
    galley % 64 = 0 → cmdNat c 23 1 ≤ 1 → (∀ i < 8, cmdNat c (24 + i) 1 = 0) →
    Gives (fmLoad j (cmdNat c 0 8) (some e) e) s w s1 →
    Gives (fmRead j (some (0x28, e)) galley 64) s1 g s2 →
    (cmdNat g 28 1).testBit 0 = true → cmdNat g 24 4 ≠ 0xFFFFFFFF →
    cmdNat g 19 1 = w.f.fmt → cmdNat g 20 2 = w.f.layers → cmdNat g 22 1 + 1 = w.f.heads → (cmdNat g 23 1 + 1) * 8 = w.f.hdim →
    len ≤ cmdNat g 16 3 → (x.state = 0 ∨ x.state = 4) →
    Gives (fmAll j w e) s2 w1 s3 →
    base + len ≤ w.f.tailbase → (∀ z ∈ w1.es, z.1 ≠ e → z.2.holds = true → rangesMeet base len z.2.base z.2.len = false) →
    Gives (fmRing j w1 e) s3 w2 s4 → s4.genClash w2 e = false → w2.entry e = x →
    Gives (fmProof j w.f galley base len (cmdNat c 23 1 == 1)) s4 p s5 →
    Gives (fmArmReach j w.f e p e) s5 ra s6 →
    Gives (fmRecord j w2 [e] true e) s6 rr s7 →
    Gives (fmRefsReach j (some (0x28, e)) galley) s7 rg s8 →
    let t := (s8.putRefs j rg galley true).putRuns j ra (cellsAt (w.f.bitmap e 0) (List.replicate (32 * w.f.layers) 0)
      ++ cellsAt (w.f.table e) (p.flatMap (fun k => bytesOf k 4)))
    (p = [] → Gives (fmImpose j c) s () (t.putRuns j rr (w2.changes
      (w2.setEntry e { y with state := 2, done := w.f.layers, psize := 0, flight := false, rel := false })))) ∧
    (p ≠ [] → Gives (fmImpose j c) s () (t.putRuns j rr (w2.changes
      ((w2.setEntry e { y with state := 1, done := 0, psize := p.length, flight := false }).release e))))) ∧
  (∀ (j : Job) (c : List Byte) (s s1 s2 s3 s4 : State) (w w2 : FWork) (rr rg : Runs),
    let e := cmdNat c 8 1
    let x := w.entry e
    let gone : Bool := decide (x.state ≠ 3) && ! x.flight && decide (x.drain = 0)
    let z : FEntry := if x.rel then { x with rel := false } else if x.flight then { x with flight := false, drain := x.drain + 1 } else x
    let y : FEntry := { z with gen := (x.gen + 1) % 2 ^ 16, keep := if x.state = 3 then x.keep else true, state := if gone then 4 else 3 }
    let items (t : State) : State := if x.flight && ! x.rel then { t with items := t.items.map (fun i =>
      if i.forme = w.f.key ∧ i.entry = e then { i with draining := true } else i) } else t
    let done (t : State) : State := t.putRuns j rr (w2.changes ((if x.rel then w2.unring e else w2).setEntry e y))
    (∀ i < 23, cmdNat c (9 + i) 1 = 0) →
    Gives (fmLoad j (cmdNat c 0 8) (some e) e) s w s1 → x.state ≠ 0 → x.state ≠ 4 →
    Gives (fmRing j w e) s1 w2 s2 → s2.genClash w2 e = false →
    (gone = true → Gives (fmRefsReach j none x.galley) s2 rg s3 → Gives (fmRecord j w2 [e] true e) s3 rr s4 →
      Gives (fmDistrib j false c) s () (done ((items s4).putRefs j rg x.galley false))) ∧
    (gone = false → Gives (fmRecord j w2 [e] true e) s2 rr s4 → Gives (fmDistrib j false c) s () (done (items s4)))) ∧
  (∀ (j : Job) (c : List Byte) (s s1 s2 s3 s4 s5 : State) (w w1 w2 : FWork) (rr : Runs),
    let e := cmdNat c 8 1
    let x := w.entry e
    let above := (w2.es.filter (fun y => y.1 ≠ e && y.2.holds && decide (x.base < y.2.base))).map (·.1)
    let y : FEntry := { x with gen := (x.gen + 1) % 2 ^ 16, keep := false }
    (∀ i < 23, cmdNat c (9 + i) 1 = 0) →
    Gives (fmLoad j (cmdNat c 0 8) (some e) e) s w s1 → x.state = 3 → x.flight = false → x.rel = false →
    Gives (fmAll j w e) s1 w1 s2 → Gives (fmRing j w1 e) s2 w2 s3 → w2.entry e = x → s3.genClash w2 e = false →
    (x.keep = false → Gives (fmRecord j w2 [e] true e) s3 rr s4 →
      Gives (fmDistrib j true c) s () (s4.putRuns j rr (w2.changes (w2.setEntry e y)))) ∧
    (x.keep = true → (∀ m ∈ above, (w2.entry m).live = false) → Gives (fmRecord j w2 (e :: above) true e) s3 rr s4 →
      Gives (fmDistrib j true c) s () (s4.putRuns j rr (w2.changes
        { w2 with f := { w2.f with tailbase := w2.f.tailbase - x.len }
                  es := w2.es.map (fun q => if q.1 = e then (e, y)
                    else if above.contains q.1 then (q.1, { w2.entry q.1 with base := (w2.entry q.1).base - x.len }) else q) }))) ∧
    (∀ (m : Nat) (p : List Nat) (ra : Runs),
      let z : FEntry := { w2.entry m with base := (w2.entry m).base - x.len, gen := ((w2.entry m).gen + 1) % 2 ^ 16 }
      let v := w2.setEntry e y
      let low (v : FWork) : FWork := { v with f := { v.f with tailbase := v.f.tailbase - x.len } }
      x.keep = true → above = [m] → (w2.entry m).live = true → (w2.entry m).flight = false → (w2.entry m).rel = false →
      s3.genClash w2 m = false →
      Gives (do let p ← fmProof j w2.f (w2.entry m).galley ((w2.entry m).base - x.len) (w2.entry m).len (w2.entry m).noproof
                return (p, ← fmArmReach j w2.f m p e)) s3 (p, ra) s4 →
      Gives (fmRecord j w2 [e, m] true e) s4 rr s5 →
      let t := s5.putRuns j ra (cellsAt (w2.f.bitmap m 0) (List.replicate (32 * w2.f.layers) 0)
        ++ cellsAt (w2.f.table m) (p.flatMap (fun k => bytesOf k 4)))
      (p = [] → Gives (fmDistrib j true c) s () (t.putRuns j rr (w2.changes
        (low (v.setEntry m { z with state := 2, done := w2.f.layers, psize := 0 }))))) ∧
      (p ≠ [] → Gives (fmDistrib j true c) s () (t.putRuns j rr (w2.changes
        (low ((v.setEntry m { z with state := 1, done := 0, psize := p.length }).release m))))))) ∧
  (∀ (j : Job) (wg : Workgroup) (c : List Byte) (s s1 : State) (w : FWork) (i : ProofItem),
    let e := cmdNat c 8 1
    let f := cmdNat c 9 1
    let k := cmdNat c 10 1 + 1
    let l := cmdNat c 12 2
    let src := cmdNat c 16 4
    let det := e + 256 * (l % 1024)
    let x := w.entry e
    let size := k * w.f.heads * (2 * w.f.row)
    let named (i : ProofItem) : Bool := i.gen == cmdNat c 14 2 && i.layer == l && i.wid == wg.wid
    cmdNat c 11 1 = 0 → src % 16 = 0 → (∀ i < 12, cmdNat c (20 + i) 1 = 0) →
    Gives (fmLoad j (cmdNat c 0 8) (some e) det) s w s1 → src + size ≤ wg.scratchSize →
    ((s1.drains w.f.key e).find? named = some i → ∀ (s2 s3 : State) (rr rg : Runs), Gives (fmRecord j w [e] false det) s1 rr s2 →
      let gone (t : State) : State := { t with items := t.items.erase i }
      (¬ (x.state = 3 ∧ x.drain ≤ 1) → (fmPub j wg c).run s = (.error (.status 0x26 det),
        (gone s2).putRuns j rr (w.changes (w.setEntry e { x with drain := x.drain - 1 })))) ∧
      (x.state = 3 → x.drain ≤ 1 → Gives (fmRefsReach j none x.galley) s2 rg s3 →
        (fmPub j wg c).run s = (.error (.status 0x26 det), ((gone s3).putRefs j rg x.galley false).putRuns j rr
          (w.changes (w.setEntry e { x with drain := x.drain - 1, state := 4 }))))) ∧
    ((s1.drains w.f.key e).find? named = none →
      (x.flight = false → (fmPub j wg c).run s = (.error (.status 0x25 det), s1)) ∧
      (s1.item? w.f.key e = some i → x.flight = true → named i = true → i.gen = x.gen →
        (x.psize < f + k → (fmPub j wg c).run s = (.error (.status 0x25 det), s1)) ∧
        (∀ (s2 s3 s4 s5 s6 : State) (old : List Byte) (w1 : FWork) (rr rc rb : Runs), f + k ≤ x.psize →
          Gives (fmRead j (some (badForme det)) (w.f.bitmap e l) 32) s1 old s2 →
          (natOfBytes old &&& (2 ^ k - 1) * 2 ^ f ≠ 0 → (fmPub j wg c).run s = (.error (.status 0x25 det), s2)) ∧
          (natOfBytes old &&& (2 ^ k - 1) * 2 ^ f = 0 → (wg.readScratch src size).2 = false →
            Gives (fmRing j w det) s2 w1 s3 → Gives (fmRecord j w1 [e] true det) s3 rr s4 →
            Gives (fmReach j (some (badForme det)) 1 (w.f.corrRow e l f 0) size) s4 rc s5 →
            Gives (fmReach j (some (badForme det)) 1 (w.f.bitmap e l) 32) s5 rb s6 →
            let new := natOfBytes old ||| (2 ^ k - 1) * 2 ^ f
            let t := (s6.putRuns j rc (cellsAt (w.f.corrRow e l f 0) (wg.readScratch src size).1)).putRuns j rb
              (cellsAt (w.f.bitmap e l) (bytesOf new 32))
            let y : FEntry := { x with flight := false, done := x.done + 1 }
            (new &&& (2 ^ x.psize - 1) ≠ 2 ^ x.psize - 1 → Gives (fmPub j wg c) s () t) ∧
            (new &&& (2 ^ x.psize - 1) = 2 ^ x.psize - 1 →
              (w.f.layers ≤ x.done + 1 → Gives (fmPub j wg c) s () (({ t with items := t.items.erase i } : State).putRuns j rr
                (w1.changes (w1.setEntry e { y with state := 2 })))) ∧
              (x.done + 1 < w.f.layers → Gives (fmPub j wg c) s () (({ t with items := t.items.erase i } : State).putRuns j rr
                (w1.changes ((w1.setEntry e y).release e)))))))))) ∧
  (∀ (j : Job) (append : Bool) (wg : Workgroup) (c : List Byte) (s s1 : State) (w : FWork),
    let src := cmdNat c 8 4
    let l := cmdNat c 12 2
    let k := cmdNat c 14 1 + 1
    let b := cmdNat c 15 1
    let det := 256 * (l % 1024)
    let block := 2 * w.f.row * w.f.heads
    let first := if append then 0 else b
    let data := (List.range k).map (fun i => ((wg.readScratch src (k * block)).1.drop (block * i)).take block)
    src % 16 = 0 → k ≤ 16 → (append = true → b ≤ 1) → (∀ i < 16, cmdNat c (16 + i) 1 = 0) →
    Gives (fmLoad j (cmdNat c 0 8) none det) s w s1 → src + k * block ≤ wg.scratchSize → l < w.f.layers →
    (16 < first + k → (fmAppend j append wg c).run s = (.error (.status 0x27 det), s1)) ∧
    (∀ (s2 s3 s4 : State) (fills : List (Nat × Nat)) (rs : Runs), first + k ≤ 16 → (wg.readScratch src (k * block)).2 = false →
      Gives (((List.range k).map (first + ·)).mapM (fun sl => (do
        return (sl, natOfBytes (← fmRead j (some (badForme det)) (w.f.fillMap sl) 128)) : FM (Nat × Nat)))) s1 fills s2 →
      Gives (fmSlotReach j w.f l det ((List.range k).map (first + ·))) s2 rs s3 →
      let put (t : State) : State := t.putRuns j rs
        ((((List.range k).map (first + ·)).zip data).flatMap (fun x => cellsAt (w.f.ovrRow x.1 l 0) x.2)
          ++ fills.flatMap (fun x => cellsAt (w.f.fillMap x.1) (bytesOf (x.2 ||| 2 ^ l) 128)))
      ((append = false ∨ b = 0) → Gives (fmAppend j append wg c) s () (put s3)) ∧
      (append = true → b = 1 →
        (Gives (fmCommitPlan j w k l det data) s3 none s4 → (fmAppend j append wg c).run s = (.error (.status 0x27 det), put s4)) ∧
        (∀ plan : Runs × List (Nat × Byte), Gives (fmCommitPlan j w k l det data) s3 (some plan) s4 →
          Gives (fmAppend j append wg c) s () ((((put s4).putRuns j plan.1 plan.2).putRuns j plan.1
            ((List.range 16).flatMap (fun sl => cellsAt (w.f.fillMap sl) (List.replicate 128 0)))).putRuns j plan.1
              (w.changes { w with f := { w.f with count := w.f.count + k } })))))) ∧
  (∀ (j : Job) (c : List Byte) (s s1 s2 : State) (w : FWork),
    let n := cmdNat c 8 1
    n ≤ 16 → (∀ i < 23, cmdNat c (9 + i) 1 = 0) → Gives (fmLoad j (cmdNat c 0 8) none 0) s w s1 →
    (Gives (fmCommitPlan j w n 0 0 []) s1 none s2 → (fmCommit j c).run s = (.error (.status 0x27 0), s2)) ∧
    (∀ plan : Runs × List (Nat × Byte), Gives (fmCommitPlan j w n 0 0 []) s1 (some plan) s2 →
      Gives (fmCommit j c) s () (((s2.putRuns j plan.1 plan.2).putRuns j plan.1
        ((List.range 16).flatMap (fun sl => cellsAt (w.f.fillMap sl) (List.replicate 128 0)))).putRuns j plan.1
          (w.changes { w with f := { w.f with count := w.f.count + n } })))) ∧
  (∀ (j : Job) (w : FWork) (n l det : Nat) (inst : List (List Byte)) (s t : State) (plan : Runs × List (Nat × Byte)),
    let f := w.f
    let given (sl y : Nat) : Prop := y = l ∧ sl < inst.length
    let holds (a n : Nat) (bs : List Byte) : Prop := ∃ s1 s2, s1.mem = s.mem ∧ Gives (fmRead j (some (badForme det)) a n) s1 bs s2
    Gives (fmCommitPlan j w n l det inst) s (some plan) t →
      (f.win = true ∨ f.count + n ≤ f.cap) ∧ f.tailbase + f.count + n ≤ 2 ^ 24 ∧
      (∀ sl < n, ∃ bs, holds (f.fillMap sl) 128 bs ∧ ∀ y < f.layers, (natOfBytes bs).testBit y = true ∨ given sl y) ∧
      ∃ rows : Nat → Nat → List Byte,
        (∀ sl < n, ∀ y < f.layers, (given sl y → inst[sl]? = some (rows sl y)) ∧
          (¬ given sl y → holds (f.ovrRow sl y 0) (2 * f.row * f.heads) (rows sl y))) ∧
        plan.2 = (List.range n).flatMap (fun sl => (List.range f.layers).flatMap (fun y => (List.range f.heads).flatMap (fun h =>
          cellsAt (f.tailRow (f.tailbase + f.count + sl) y h) (((rows sl y).drop (2 * f.row * h)).take f.row)
            ++ cellsAt (f.tailRow (f.tailbase + f.count + sl) y h + f.row * f.cap)
              (((rows sl y).drop (2 * f.row * h + f.row)).take f.row))))) ∧
  (∀ (j : Job) (va : Nat) (s s1 s2 : State) (rh : Runs) (w0 : FWork),
    Gives (fmReach j (some (badForme 0)) 1 va 128) s rh s1 → Gives (fmLoad j va none 0) s1 w0 s2 →
    (w0.f.qcount = 0 → Gives (fmFetch j va) s none s2) ∧
    (∀ (s3 s4 s5 : State) (b bs : List Byte) (rr : Runs), w0.f.qcount ≠ 0 →
      let e := natOfBytes b
      let x := FEntry.decode bs
      let w : FWork := { f := w0.f, es := [(e, x)], ring := [] }
      Gives (fmRead j (some (badForme 0)) (w0.f.ringAt + w0.f.qhead) 1) s2 b s3 →
      Gives (fmRead j (some (badForme 0)) (w0.f.entryAt e) 32) s3 bs s4 → entryBad bs = false →
      Gives (fmRecord j w [e] false 0) s4 rr s5 →
      Gives (fmFetch j va) s (some (e + 256 * (x.done % 1024), x.psize % 512 + 2 ^ 16 * x.gen))
        (({ s5 with items := s5.items ++ [{ forme := w0.f.key, va := va, entry := e, gen := x.gen, layer := x.done, wid := j.wid,
                                            draining := false }] } : State).putRuns j rr
          (w.changes { f := { w0.f with qhead := (w0.f.qhead + 1) % 256, qcount := w0.f.qcount - 1 }
                       es := [(e, { x with rel := false, flight := true })], ring := [] }))))

/-! ### Launches and workgroups -/

/-- R179, R307, R310 and R313 to R317: a record that passes its checks is ADMITTED, its queue's head moves on, and its
completion record, where it names one, is cleared and says so; a LAUNCH that arrives writes its record and moves the tail, or
is turned away, and its status and handle are known; a workgroup's end sets its bit and counts it in the completion record; a
launch whose bits are all set completes, with its record and its message; a cancelled one is CANCELLED and its workgroups that
have not started are gone. Those writes are releases of what the workgroups' ends have ordered (R314, R315). Where LAUNCH is
checked, what is released unplaced, and what a launch that the host queues follows, are the model's (log entries 60, 64, 75 and
90), and so is how a release is held (log entry 1). -/
def Obligations.LaunchEvents : Prop :=
  (∀ (u : EvQueue) (s s1 : State) (bs : List Byte),
    let d := s.queue u.part u.ctx u.queue
    let k := d.laps * 2 ^ 32 + d.qhead.toNat
    let l (t : State) : Launch := { Launch.queued u.queue k bs t.hostView with state := .admitted }
    (s.context u.part u.ctx).state = .live → d.qsize ≠ 0 → d.qtail ≠ d.qhead →
    (s.admittedOf u.part u.ctx u.queue).length < 8 → s.launch? u.part u.ctx u.queue k = none →
    s.readVirt u.part u.ctx hubCore (d.qbase.toNat + 256 * (k % 2 ^ d.qsize.toNat)) 256 = (s1, .bytes bs none) →
    s1.contexts = s.contexts → s1.recordBad u.part u.ctx bs = none →
    (recNat bs 48 8 = 0 → recTotal bs ≠ 0 →
      Ends (.recordRead u) s (fun t => (t.queue u.part u.ctx u.queue).qhead = d.qhead + 1 ∧
        t.launch? u.part u.ctx u.queue k = some (l s1))) ∧
    (recNat bs 48 8 = 0 → recTotal bs = 0 →
      Ends (.recordRead u) s (fun t => ∃ m, t.launch? u.part u.ctx u.queue k = some m ∧ m.state = .complete ∧ m.status = 0)) ∧
    (recNat bs 48 8 ≠ 0 → recTotal bs ≠ 0 → ∀ (s2 : State) (runs : List (Nat × Nat × Page)),
      (((s1.modQueue u.part u.ctx u.queue Queue.take).holdRecord u.part u.ctx u.queue k bs s1.hostView).modContext u.part u.ctx (fun x =>
        { x with qtable := some (x.qtable.getD (recNat bs 8 8)) })).translateRuns u.part u.ctx hubCore 1
          (pageRuns (l s1).crec (l s1).crecBytes ((l s1).crecBytes / 2 ^ 14 + 2)) = (s2, runs, none) →
      exec (.recordRead u) s = .next ((((s2.modLaunch u.part u.ctx u.queue k (fun m => { m with state := .admitted })).writeCrec
        u.part u.ctx (l s1) 32 (List.replicate ((l s1).crecBytes - 32) 0)).writeCrec u.part u.ctx (l s1) 0
          (bytesOf 0 4 ++ bytesOf 1 4 ++ bytesOf 0 8 ++ bytesOf 0 8 ++ bytesOf 0 8))))) ∧
  (∀ (u : EvJob) (s : State) (j : Job) (q code : Nat) (record : List Byte), s.job? u.job = some j → j.kind = .launch record q code →
    let d := s.queue j.part j.ctx q
    let full : Prop := (d.qtail - d.qhead).toNat = 2 ^ d.qsize.toNat
    let known (t : State) (status handle : Nat) : Prop := ∀ g, s.group? j.wid j.gi = some g → ∃ h, t.group? j.wid j.gi = some h ∧
      h.gPending = g.gPending.map (fun p => if p.job = j.id then
        { p with known := true, value := BitVec.ofNat 32 (if p.reg % 2 = 0 then status else handle), poison := false, addr := 0 } else p)
    let away (status : Nat) : Prop := Ends (.launchArrive u) s (fun t => t.job? u.job = none ∧ known t status 0 ∧
      t.contexts = s.contexts ∧ t.mem = s.mem)
    Resting s →
    ((s.context j.part j.ctx).state ≠ .live → away 1) ∧
    ((s.context j.part j.ctx).state = .live → (64 ≤ q ∨ d.qsize = 0 ∨ d.qdev = false) → away 5) ∧
    ((s.context j.part j.ctx).state = .live → q < 64 → d.qsize ≠ 0 → d.qdev = true →
      (code ≠ 0 → away code) ∧ (code = 0 → full → away 2) ∧
      ∀ s1 : State, code = 0 → ¬ full → s.launch? j.part j.ctx q d.tailCount = none →
        s.writeVirt j.part j.ctx hubCore (d.qbase.toNat + 256 * (d.qtail.toNat % 2 ^ d.qsize.toNat)) record = (s1, none) →
        s1.contexts = s.contexts → s1.wgs = s.wgs → s1.jobs = s.jobs →
        Ends (.launchArrive u) s (fun t => t.job? u.job = none ∧ known t 0 (q * 2 ^ 24 + d.qtail.toNat % 2 ^ 24) ∧
          (t.queue j.part j.ctx q).qtail = d.qtail + 1 ∧ t.mem = s1.mem ∧
          t.launch? j.part j.ctx q d.tailCount = some (Launch.queued q d.tailCount record j.view)))) ∧
  (∀ (s : State) (p c q k w scope : Nat) (v : View) (l : Launch), s.launch? p c q k = some l → l.state = .admitted →
    l.done.contains w = false →
    let set (x : Launch) : Launch := { x with done := x.done ++ [w], gave := SMap.insert x.gave w ((SMap.get x.gave w []).join v) }
    let m := set l
    s.markDone p c q k w scope v = (s.modLaunch p c q k set).releasing v scope (fun t => (t.writeCrec p c m (32 + w / 8)
      [BitVec.ofNat 8 ((List.range 8).foldl (fun n i => n + (if m.done.contains (w / 8 * 8 + i) then 2 ^ i else 0)) 0)]).writeCrec p c m 8
        (bytesOf m.done.length 8))) ∧
  (∀ (u : EvLaunch) (s : State) (l : Launch), s.launch? u.part u.ctx u.queue u.count = some l →
    let finishing (st : LaunchState) (x : Launch) : Launch := { x with state := st, tend := s.time, finished := s.nextId }
    let ended (st : LaunchState) : State :=
      ({ s with nextId := s.nextId + 1 }.modLaunch u.part u.ctx u.queue u.count (finishing st)).releasing l.gives l.cscope (fun t =>
        t.writeCrec u.part u.ctx (finishing st l) 0 (finishing st l).header)
    (s.completable u.part u.ctx l = true → exec (.launchComplete u) s = .next
      (if l.irq then (ended .complete).message (s.fnOf u.part) (l.nat 56 2) else ended .complete)) ∧
    ((l.state = .queued ∨ l.state = .admitted) → Ends (.launchCancel u) s (fun t =>
      t = (ended .cancelled).releaseUnstarted u.part u.ctx u.queue u.count ∧
      ∀ w ∈ t.wgs, w.part = u.part → w.ctx = u.ctx → w.queue = u.queue → w.count = u.count → w.started = true)))

/-- R180, R266, R313, R318 to R321 and R323: a workgroup whose turn has come stands at its site, not started, and its launch counts
it; it starts once its entry quire is RESIDENT, with what its placement acquires to be seen, and STOPPED where a debug stop
holds it; a FETCHW of a feed with a ready workgroup withdraws the lowest and fills its mailbox, or its mailbox says that there
is none; where the workgroup's next FETCHW on the feed has issued already, the withdrawn one is done at once. That workgroups move
together in scratch where no gap is wide enough is log entry 61, how what a thread must see is held log entry 1, the statuses of a
launch that is not ADMITTED log entry 88, and the zeros beside a status other than 0, with the FETCHW that has issued already, log
entry 90. -/
def Obligations.WorkgroupsPlacedAndStarted : Prop :=
  (∀ (u : EvPlace) (s : State) (l : Launch) (x turn : Nat) (site : Site), s.launch? u.part u.ctx u.queue u.count = some l →
    (s.context u.part u.ctx).state = .live → u.sites = [site] → s.turnFor u.part = some (u.ctx, l, [x], turn) →
    s.fitAll u.part u.ctx l [(x, site)] = true → recMatrix l.record = false → (∀ w ∈ s.wgs, w.wid < s.nextId) →
    (s.context u.part u.ctx).trmask = 0 →
    ((s.resident u.part u.ctx site.core).quire (pcQuire (BitVec.ofNat 32 (l.nat 0 4)))).state = .resident →
    let room := if s.scratchFree u.part u.ctx site.core site.scratch (l.nat 36 4) then s else s.packScratch u.part u.ctx site.core
    Ends (.placement u) s (fun t => t.wgs = room.wgs ++ [l.workgroup u.part u.ctx x s.nextId site (l.handlesOf [(x, site)] x)] ∧
      ∃ m, t.launch? u.part u.ctx u.queue u.count = some m ∧ m.placed = l.placed ++ [x])) ∧
  (∀ (s : State) (p c q k w : Nat) (l : Launch), s.launch? p c q k = some l →
    s.countPlaced p c q k w = if l.placed = [] then
        (s.modLaunch p c q k (fun x => { x with placed := x.placed ++ [w], tstart := s.time })).writeCrec p c l 16 (bytesOf s.time.toNat 8)
      else s.modLaunch p c q k (fun x => { x with placed := x.placed ++ [w] })) ∧
  (∀ (u : EvWg) (s : State) (w : Workgroup), s.wg? u.wid = some w → w.started = false →
    let r := s.resident w.part w.ctx w.core
    r.loc = .active → r.quiescing = false → (s.context w.part w.ctx).state = .live →
    (r.quire (pcQuire w.entry)).state = .resident →
    let seen : View := match s.launch? w.part w.ctx w.queue w.count with
      | some l => s.placeView w.part w.ctx l w.wglin
      | none => []
    let v : Workgroup := { w with
      started := true
      groups := w.groups.map (fun g => { g with threads := g.threads.map (fun t => { t with view := seen }) }) }
    ((s.context w.part w.ctx).stops w = false → Ends (.workgroupStart u) s (fun t => t.wg? u.wid = some v)) ∧
    ((s.context w.part w.ctx).stops w = true → Ends (.workgroupStart u) s (fun t => t.wg? u.wid = some (v.stop s)))) ∧
  (∀ (u : EvJob) (s : State) (j : Job) (w : Workgroup) (l : Launch) (mailbox x : Nat) (h : Word) (next : Option View),
    s.job? u.job = some j → j.kind = .fetchw mailbox h next → s.wg? j.wid = some w → Resting s → mailbox % 16 = 0 → s.launchOf j.part j.ctx h.toNat = some l →
    s.launch? j.part j.ctx l.queue l.count = some l → l.feed = true → l.state = .admitted →
    s.consider j.part j.ctx l = s → l.unplaced.find? (fun w => s.wgReady j.part j.ctx l w) = some x →
    let xyz := l.coords x
    let bs := bytesOf 0 4 ++ bytesOf x 4 ++ bytesOf xyz.1 4 ++ bytesOf xyz.2.1 4 ++ bytesOf xyz.2.2 4 ++ List.replicate 12 0
    Ends (.fetchwDeliver u) s (fun t => t.job? u.job = none ∧
      (∃ m, t.launch? j.part j.ctx l.queue l.count = some m ∧ m.placed = l.placed ++ [x] ∧
        m.done = l.done ++ (if next.isSome = true ∧ l.done.contains x = false then [x] else [])) ∧
      ∃ v, t.wg? j.wid = some v ∧ v.fetched = w.fetched ++ (if next.isSome then [] else [(l.queue, l.count, x)]) ∧
        (List.range 32).map (fun i => SMap.get v.scratch (mailbox + i) 0) = bs ∧
        v.allFull (mailbox / 16) (mailbox / 16 + 1) = true ∧
        ∀ a, (a < mailbox ∨ mailbox + 32 ≤ a) → SMap.get v.scratch a 0 = SMap.get w.scratch a 0)) ∧
  (∀ (u : EvJob) (s : State) (j : Job) (w : Workgroup) (mailbox status : Nat) (h : Word) (next : Option View),
    s.job? u.job = some j → j.kind = .fetchw mailbox h next → s.wg? j.wid = some w → Resting s → mailbox % 16 = 0 →
    (status = match s.launchOf j.part j.ctx h.toNat with
      | none => 2
      | some l => if l.feed = false then 2 else if l.state = .queued then 3 else if l.state ≠ .admitted ∨ l.unplaced = [] then 1 else 3) →
    (∀ l, s.launchOf j.part j.ctx h.toNat = some l → l.feed = true → s.launch? j.part j.ctx l.queue l.count = some l ∧
      s.consider j.part j.ctx l = s ∧ (l.state = .admitted → l.unplaced.find? (fun w => s.wgReady j.part j.ctx l w) = none)) →
    Ends (.fetchwDeliver u) s (fun t => t.job? u.job = none ∧ t.contexts = s.contexts ∧
      ∃ a b, t.wg? j.wid = some (((w.received (mailbox + 16) (List.replicate 16 0) j.view).received mailbox
        (bytesOf status 4 ++ List.replicate 12 0) a).worked b)))

/-- R322 and R348 to R355: pre-emption quiesces a core; a switch makes the context ACTIVE and the one before it SHADOW; a save
leaves it SAVED; a restore makes it ACTIVE again on its core. -/
def Obligations.ContextsMove : Prop :=
  (∀ (u : EvCore) (s : State) (r : Resident), s.preempts u.part u.ctx u.core = true → s.switchCores u.part u.ctx u.core = [u.core] →
    s.activeAt u.core = some r → (r.part ≠ u.part ∨ r.ctx ≠ u.ctx) →
    Ends (.preempt u) s (fun t => (t.resident r.part r.ctx u.core).quiescing = true)) ∧
  (∀ (u : EvCore) (s : State), s.quiesceOver u.part u.ctx u.core = false → s.switchable u.part u.ctx u.core = true →
    s.switchCores u.part u.ctx u.core = [u.core] → (∀ r, s.activeAt u.core = some r → s.resident r.part r.ctx u.core = r) →
    Ends (.contextSwitch u) s (fun t => (t.resident u.part u.ctx u.core).loc = .active ∧
      ∀ r, s.activeAt u.core = some r → (r.part ≠ u.part ∨ r.ctx ≠ u.ctx) → (t.resident r.part r.ctx u.core).loc = .shadow)) ∧
  (∀ (u : EvCore) (s : State), s.gangCores u.part u.ctx u.core = [u.core] → s.savable u.part u.ctx u.core = true →
    Ends (.contextSave u) s (fun t => (t.resident u.part u.ctx u.core).loc = .saved)) ∧
  (∀ (u : EvRestore) (s : State), s.restorable u.part u.ctx u.image u.core = true →
    s.restorePlan u.part u.ctx u.image u.core = [(u.image, u.core)] →
    Ends (.contextRestore u) s (fun t => (t.resident u.part u.ctx u.core).loc = .active))

/-! ### The hub die: time, the clock, boot -/

/-- R20, R382 to R384, R389 and R390: the clock moves one step, the count and the rate as they were; the count is stepped
forward over more than 1 ms by the servo, by a request or at an edge that takes the seconds of STEPTO, and a smaller request only
sets STEPERR; the output edge is shown; a 1588 message, and an edge with nothing to take, steer the rate, within its bounds; an
epoch's end begins the next and changes no byte of memory. That what steers the servo steps the count at once, and when it locks,
is the model's choice (log entries 44 and 46). -/
def Obligations.TimeEvents : Prop :=
  let stepped (s t : State) (n : Nat) : Prop := t.time = BitVec.ofNat 64 n ∧ t.steps = s.steps + 1
  let steered (s t : State) (o : Int) : Prop := t.diverged = decide (o < -10000000) ∧
    (-200000 ≤ t.rate.toInt ∧ t.rate.toInt ≤ 200000) ∧ (o < -10000000 → t.rate.toInt = -200000) ∧
    (s.locked = true → 1000000 < o → (s.time.toNat : Int) + o < 2 ^ 64 → stepped s t (s.time.toNat + o.toNat)) ∧
    (o ≤ 1000000 → t.time = s.time ∧ t.locked = decide (-1000 ≤ o ∧ o ≤ 1000))
  (∀ (u : EvNat) (s : State), 800 ≤ u.n → u.n ≤ 1400 → (u.n + 200 = s.clock ∨ s.clock + 200 = u.n) →
    Ends (.clockChange u) s (fun t => t.clock = u.n ∧ t.time = s.time ∧ t.rate = s.rate)) ∧
  (∀ (u : EvNat) (s : State), s.locked = true → 1000000 < u.n → s.time.toNat + u.n < 2 ^ 64 →
    Ends (.timeStep u) s (fun t => stepped s t (s.time.toNat + u.n))) ∧
  (∀ (u : EvNat) (s : State), s.src ≠ 2 → u.n < 2 ^ 64 →
    (s.time.toNat + 1000000 < u.n → Ends (.steptoWrite u) s (fun t => stepped s t u.n ∧ t.stepto = BitVec.ofNat 64 u.n)) ∧
    (u.n ≤ s.time.toNat + 1000000 → Ends (.steptoWrite u) s (fun t => t.steperr = true ∧ t.time = s.time ∧ t.steps = s.steps))) ∧
  (∀ (u : EvNat) (s : State), s.src = 2 →
    Ends (.steptoWrite u) s (fun t => t.ppsPending = true ∧ t.stepto = BitVec.ofNat 64 u.n ∧ t.time = s.time)) ∧
  (∀ (u : EvNone) (s : State), s.src = 2 →
    let count := 1000000000 * s.stepto.toNat
    let r := s.time.toNat % 1000000000
    Ends (.ppsInput u) s (fun t => t.ppsPending = false ∧
      (s.ppsPending = true → s.time.toNat + 1000000 < count → count < 2 ^ 64 → stepped s t count) ∧
      (s.ppsPending = true → (count ≤ s.time.toNat + 1000000 ∨ 2 ^ 64 ≤ count) → t.steperr = true ∧ t.time = s.time) ∧
      (s.ppsPending = false → steered s t (if r < 500000000 then - (r : Int) else 1000000000 - (r : Int))))) ∧
  (∀ (u : EvNone) (s : State), s.ppsEdges < s.time.toNat / 1000000000 →
    Ends (.ppsOutput u) s (fun t => t.ppsEdges = s.time.toNat / 1000000000 ∧ t.time = s.time)) ∧
  (∀ (u : EvPtp) (s : State), s.src = 1 →
    Ends (.ieee1588Message u) s (fun t => steered s t u.offset)) ∧
  (∀ (u : EvNat) (s : State), s.epochDue u.n = true → u.n < s.migration.length →
    Ends (.epochEnd u) s (fun t => (t.migrationOf u.n).since = s.time.toNat ∧ t.mem = s.mem))

/-- R9, R402, R403, R387 and R407: power-on verifies the image of the flash and runs, goes to RECOVERY, or stays out of
service with a report (log entry 19); INSTALL begins a verification in RECOVERY and is ignored elsewhere; a verification
writes the image and resets the module, or sets RERR; ENTER ends in RECOVERY; LIBSIZE is written with a new key unless a
partition holds the stack (log entry 50). What a reset leaves where the spec is silent (memory that reads 0, the root context,
the clock) is log entries 2, 12 and 14; that ENTER and INSTALL act in one step, in that order of checks, is log entries 48 and
49. -/
def Obligations.BootEvents : Prop :=
  (∀ (u : EvNone) (s : State), s.rstate = .booting → s.inService = true →
    Ends (.powerOn u) s (fun t =>
      if imageOk (s.flash.getD Config.factoryImage) = false then t.rstate = .recovery
      else if Config.selfTestPasses = false then t.inService = false ∧ t.replies = s.replies ++ [.selfTestFailed Config.selfTestRecord]
      else t.rstate = .running ∧ (t.context rootPart 0).state = .live)) ∧
  (∀ (u : EvNone) (s : State),
    (s.rstate = .recovery → Ends (.install u) s (fun t => t.rstate = .verifying ∧ t.rcmd = 1)) ∧
    (s.rstate ≠ .recovery → Ends (.install u) s (fun t => t = { s with rcmd := 1 }))) ∧
  (∀ (u : EvNone) (s : State), s.rstate = .verifying →
    let img := SMap.read s.window 0 s.rlen.toNat 0
    Ends (.imageVerified u) s (fun t =>
      if s.rlen.toNat < 384 ∨ 0xFF000 < s.rlen.toNat then t.rstate = .recovery ∧ t.rerr = 2
      else if imageOk img = false then t.rstate = .recovery ∧ t.rerr = 1
      else if Config.flashWrites s.draws = false then t.rstate = .recovery ∧ t.rerr = 3
      else t.rstate = .booting ∧ t.flash = some img ∧ t.clock = 1400 ∧ t.mem = [])) ∧
  (∀ (u : EvNone) (s : State), Ends (.enter u) s (fun t => t.rstate = .recovery ∧ t.rcmd = 2)) ∧
  (∀ (u : EvNat) (s : State),
    (s.libraryHeld = false → exec (.libsizeWrite u) s = .next { s with
      libsize := BitVec.ofNat 64 u.n, keys := s.keys + 1, libkey := s.keys + 1 }) ∧
    (s.libraryHeld = true → exec (.libsizeWrite u) s = .next s))

/-! ### Partitions, contexts and their registers -/

/-- R324, R345 and R347: a descriptor that passes its checks sets its partition up with a key pair of its own, and one that
does not gives its error; a partition without contexts is torn down and its memory cleared, and one with a context stays UP
with ERR 3; CREATE makes a window LIVE; TEARDOWN makes it CLOSING, with no launch of it unfinished; once its work has ended it
is CLOSED, with nothing of it left on a core. That GO reads 0 after a teardown that is refused, and that a window which is NONE does
not stand in a teardown's way, are the model's readings (log entry 65). -/
def Obligations.PartitionsAndContexts : Prop :=
  (∀ (u : EvNat) (s : State), u.n < s.partitions.length → (s.part u.n).go = false → (s.part u.n).up = false →
    (s.setupError u.n = 0 → Ends (.partitionSetup u) s (fun t => (t.part u.n).up = true ∧ (t.part u.n).go = true ∧
      (t.part u.n).err = 0 ∧ (t.part u.n).key = s.keys + 1 ∧ t.keys = s.keys + 1)) ∧
    (s.setupError u.n ≠ 0 → Ends (.partitionSetup u) s (fun t => (t.part u.n).up = false ∧ (t.part u.n).go = true ∧
      (t.part u.n).err = BitVec.ofNat 8 (s.setupError u.n) ∧ t.keys = s.keys))) ∧
  (∀ (u : EvNat) (s : State), u.n < s.partitions.length → (s.part u.n).go = true → (s.part u.n).up = true →
    ((∀ x ∈ s.contexts, x.part = u.n → x.state ≠ .live ∧ x.state ≠ .closing) →
      Ends (.partitionTeardown u) s (fun t => (t.part u.n).up = false ∧ (t.part u.n).go = false ∧
        ∀ c ∈ t.mem, s.ofPart u.n c.1 = false)) ∧
    (∀ x ∈ s.contexts, x.part = u.n → (x.state = .live ∨ x.state = .closing) →
      Ends (.partitionTeardown u) s (fun t => (t.part u.n).up = true ∧ (t.part u.n).go = false ∧ (t.part u.n).err = 3 ∧
        t.mem = s.mem))) ∧
  (∀ (u : EvCtx) (s : State), ((s.context u.part u.ctx).state = .none ∨ (s.context u.part u.ctx).state = .closed) →
    s.createOk (s.context u.part u.ctx) = true →
    Ends (.create u) s (fun t => (t.context u.part u.ctx).state = .live ∧ (t.context u.part u.ctx).cmd = 1)) ∧
  (∀ (u : EvCtx) (s : State), (s.context u.part u.ctx).state = .live →
    Ends (.teardown u) s (fun t => (t.context u.part u.ctx).state = .closing ∧
      ∀ q k l, t.launch? u.part u.ctx q k = some l → l.state ≠ .queued ∧ l.state ≠ .admitted)) ∧
  (∀ (u : EvCtx) (s : State), s.closable u.part u.ctx = true →
    Ends (.contextClosed u) s (fun t => (t.context u.part u.ctx).state = .closed ∧
      (∀ w ∈ t.wgs, w.part ≠ u.part ∨ w.ctx ≠ u.ctx) ∧ (∀ r ∈ t.residents, r.part ≠ u.part ∨ r.ctx ≠ u.ctx) ∧
      ∀ e ∈ t.tlb, e.part ≠ u.part ∨ e.ctx ≠ u.ctx))

/-- R306, R307, R361 and R362: a queue's tail moves within its ring; its descriptor is written while it is empty; FQHEAD is
written; FRESUME of a context with no SAVED image offers the threads parked on a record again, or stops every thread of their workgroups and fails their launches
with NOTMAPPED; an invalidation is under way until every entry of the range that it began with is gone. -/
def Obligations.QueuesFaultsInvalidation : Prop :=
  (∀ (u : EvQueue) (s : State),
    let d := s.queue u.part u.ctx u.queue
    let v : Word := BitVec.ofNat 32 u.n
    (s.context u.part u.ctx).state = .live → d.qsize ≠ 0 → d.qdev = false → (d.qtail - d.qhead).toNat ≤ (v - d.qhead).toNat →
    (v - d.qhead).toNat ≤ 2 ^ d.qsize.toNat →
    Ends (.qtailWrite u) s (fun t => (t.queue u.part u.ctx u.queue).qtail = v ∧ (t.queue u.part u.ctx u.queue).qhead = d.qhead)) ∧
  (∀ (u : EvDesc) (s : State), (s.queue u.part u.ctx u.queue).qtail = (s.queue u.part u.ctx u.queue).qhead → u.value < 2 ^ 64 →
    (u.off = 0 → u.size = 8 → Ends (.queueDescriptorWrite u) s (fun t => (t.queue u.part u.ctx u.queue).qbase = BitVec.ofNat 64 u.value)) ∧
    (u.off = 8 → u.size = 4 → u.value < 2 ^ 32 → (u.value % 32 = 0 ∨ (4 ≤ u.value % 32 ∧ u.value % 32 ≤ 16)) →
      Ends (.queueDescriptorWrite u) s (fun t => (t.queue u.part u.ctx u.queue).qsize = BitVec.ofNat 5 u.value ∧
        (t.queue u.part u.ctx u.queue).qdev = u.value.testBit 8))) ∧
  (∀ (u : EvCtxN) (s : State), ((s.context u.part u.ctx).state = .live ∨ (s.context u.part u.ctx).state = .closing) →
    Ends (.fqheadWrite u) s (fun t => (t.context u.part u.ctx).fqhead = BitVec.ofNat 32 u.n)) ∧
  (∀ (u : EvCtxN) (s : State) (w : Workgroup) (gi ti : Nat) (x : Thread) (set : Nat), (s.context u.part u.ctx).state = .live →
    s.wg? w.wid = some w → w.part = u.part → w.ctx = u.ctx → (∀ v ∈ s.wgs, s.NobodyWaits v.wid) →
    (∀ r ∈ s.residents, r.part = u.part → r.ctx = u.ctx → r.loc ≠ .saved) →
    s.thread? w.wid gi ti = some x → x.run = .parked (.fault (u.n % 2 ^ 24)) set →
    Ends (.fresumeRetry u) s (fun t => t.thread? w.wid gi ti = some (x.learn []).wake) ∧
    ∀ l, s.launch? w.part w.ctx w.queue w.count = some l → l.state = .admitted →
      Ends (.fresumeAbort u) s (fun t =>
        (∃ v, t.wg? w.wid = some v ∧ ∀ g ∈ v.groups, ∀ y ∈ g.threads, y.stopped = true) ∧
        ∃ m, t.launch? w.part w.ctx w.queue w.count = some m ∧ m.state = .failed ∧
          m.status = (if l.status = 0 then BitVec.ofNat 32 (0x01 * 2 ^ 24 + 7 * 2 ^ 20) else l.status))) ∧
  (∀ (u : EvCtx) (s : State), ((s.context u.part u.ctx).state = .live ∨ (s.context u.part u.ctx).state = .closing) →
    let x := s.context u.part u.ctx
    Ends (.invalidateRange u) s (fun t => (t.context u.part u.ctx).invgo = true ∧ (t.context u.part u.ctx).invall = false ∧
      (t.context u.part u.ctx).invSpans = x.invSpans ++ [(x.invva.toNat, 2 ^ x.invlog.toNat)]) ∧
    Ends (.invalidateAll u) s (fun t => (t.context u.part u.ctx).invgo = true ∧ (t.context u.part u.ctx).invall = true ∧
      (t.context u.part u.ctx).invSpans = x.invSpans ++ [(0, 2 ^ 52)])) ∧
  (∀ (u : EvCtx) (s : State), s.invDone u.part u.ctx = true →
    Ends (.invalidateDone u) s (fun t => (t.context u.part u.ctx).invgo = false ∧ ∀ e ∈ t.tlb, e.part = u.part → e.ctx = u.ctx →
      ∀ r ∈ (s.context u.part u.ctx).invSpans, rangesMeet e.base e.size r.1 r.2 = false))

/-- R377 to R381: HALT stops every thread of the context, RESUME lets all go on, and both, like STEP, are taken while the
context is LIVE or CLOSING (log entry 53); STEP lets the threads of the selected one's group that stand at its PC and were
READY issue one unit, and nobody else, after which they are STOPPED again; a STEP with nothing to issue says so; a breakpoint
that matches begins a stop, which is STOPPED once every thread of its scope is; DRDATA reads and writes the selected thread's
registers and PC, and a PC that is no unit's address is not taken (log entry 83). -/
def Obligations.DebugEvents : Prop :=
  let taken (s : State) (u : EvCtx) : Prop := (s.context u.part u.ctx).state = .live ∨ (s.context u.part u.ctx).state = .closing
  (∀ (u : EvCtx) (s : State), taken s u →
    Ends (.halt u) s (fun t => (t.context u.part u.ctx).dstate = 1 ∧
      (t.context u.part u.ctx).why = (if (s.context u.part u.ctx).dstate = 0 then 3 else (s.context u.part u.ctx).why) ∧
      ∀ w ∈ t.wgs, w.part = u.part → w.ctx = u.ctx → ∀ g ∈ w.groups, ∀ x ∈ g.threads, x.stopped = true) ∧
    Ends (.resume u) s (fun t => (t.context u.part u.ctx).dstate = 0 ∧
      ∀ w ∈ t.wgs, w.part = u.part → w.ctx = u.ctx → ∀ g ∈ w.groups, ∀ x ∈ g.threads, x.stopped = false)) ∧
  (∀ (u : EvCtx) (s : State), ¬ taken s u →
    exec (.halt u) s = .next s ∧ exec (.resume u) s = .next s ∧ exec (.step u) s = .next s) ∧
  (∀ (u : EvCtx) (s : State) (w : Workgroup) (gi : Nat) (g : Group) (ti : Nat) (x : Thread), taken s u →
    s.selected u.part u.ctx = some (w, gi, g, ti, x) → s.wg? w.wid = some w →
    let c := s.context u.part u.ctx
    let goes (y : Thread) : Prop := y.run = .ready ∧ y.stopped = true ∧ y.offered = true
    (c.dstate = 2 → goes x → Ends (.step u) s (fun t => (t.context u.part u.ctx).stepping = some w.wid ∧
      (t.context u.part u.ctx).noissue = false ∧
      (∀ k y, s.thread? w.wid gi k = some y → goes y → y.pc = x.pc →
        t.thread? w.wid gi k = some { y with stopped := false, pass := some x.pc }) ∧
      ∀ wid hi k y, s.thread? wid hi k = some y → ¬ (wid = w.wid ∧ hi = gi ∧ goes y ∧ y.pc = x.pc) → t.thread? wid hi k = some y)) ∧
    (c.dstate = 2 → ¬ goes x → Ends (.step u) s (fun t => (t.context u.part u.ctx).noissue = true ∧ t.wgs = s.wgs)) ∧
    (c.dstate ≠ 2 → Ends (.step u) s (fun t => t.context u.part u.ctx = { c with dcmd := 3 } ∧ t.wgs = s.wgs)) ∧
    (x.stopped = true → (s.resident u.part u.ctx w.core).loc ≠ .saved →
      let told (bs : List Byte) : Prop := exec (.drdataRead u) s = .next { s with replies := s.replies ++ [.data bs] }
      (c.dridx.toNat < 96 → told (bytesOf (SMap.get x.v c.dridx.toNat 0).toNat 4)) ∧
      (c.dridx.toNat = 512 → told (bytesOf x.pc.toNat 4)) ∧
      ∀ v : EvCtxN, v.part = u.part → v.ctx = u.ctx →
        let pc : Word := BitVec.ofNat 32 v.n
        let q := (s.resident u.part u.ctx w.core).quire (pcQuire pc)
        let ok : Prop := q.state = .resident ∧ pcOffset pc < q.length ∧ pcOffset pc % 4 = 0
        (c.dridx.toNat < 96 → Ends (.drdataWrite v) s (fun t => t.thread? w.wid gi ti = some (x.writeV c.dridx.toNat pc))) ∧
        (c.dridx.toNat = 512 → ok → Ends (.drdataWrite v) s (fun t => t.thread? w.wid gi ti = some { x with pc := pc })) ∧
        (c.dridx.toNat = 512 → ¬ ok → exec (.drdataWrite v) s = .next s))) ∧
  (∀ (s : State) (i : IssueSet) (w : Workgroup), s.wg? i.wid = some w →
    ((s.settleStep i).context w.part w.ctx).stepping = none ∧ ((s.settleStep i).context w.part w.ctx).why = 4 ∧
    ∀ m ∈ i.members, ∀ ti ∈ m.2, ∀ y, (s.settleStep i).thread? i.wid m.1 ti = some y → y.stopped = true) ∧
  (∀ (u : EvNone) (s : State) (w : Workgroup) (b : Nat), s.wg? s.issue.wid = some w → s.matched s.issue = some (w.part, w.ctx, b) →
    (s.context w.part w.ctx).dstate = 0 →
    Ends (.breakpointMatch u) s (fun t => (t.context w.part w.ctx).dstate = 1 ∧ (t.context w.part w.ctx).why = 1 ∧
      (t.context w.part w.ctx).bpn = BitVec.ofNat 3 b ∧ (t.context w.part w.ctx).dhandle = BitVec.ofNat 32 w.handle ∧
      (t.context w.part w.ctx).dwg = BitVec.ofNat 32 w.wglin ∧
      ∃ v, t.wg? s.issue.wid = some v ∧ ∀ g ∈ v.groups, ∀ y ∈ g.threads, y.stopped = true)) ∧
  (∀ (u : EvCtx) (s : State), (s.context u.part u.ctx).dstate = 1 →
    let rests : Prop := ∀ w ∈ s.wgs, w.part = u.part → w.ctx = u.ctx → w.started = true → (s.context u.part u.ctx).stops w = true →
      ∀ g ∈ w.groups, ∀ y ∈ g.threads, y.stopped = true ∨ y.run = .exited
    (rests → Ends (.debugStopped u) s (fun t => (t.context u.part u.ctx).dstate = 2 ∧ t.wgs = s.wgs)) ∧
    (¬ rests → exec (.debugStopped u) s = .next s))

/-! ### The host, peers and SPDM -/

/-- R18, R397 to R401: an aperture access that lies within addressable memory, or in pages that translate, is answered with bytes
or writes them: with the newest ones where no overwritten store is kept (which older ones it may find otherwise, and what a write
carries, are log entry 1's); a write of RLEN, SRC or TRHEAD takes effect, and one that is not aligned, not of 4 or 8 bytes, or made through a
function that no partition is bound to is an unsupported request; an accepted peer's load is answered with its poison, its store
lands and its atomic gives the old value, and any other access is refused; a link goes down, which poisons what was in flight on
it alone, and up. Where several links bear a peer's traffic, and which stores are still in flight, is a free choice (log
entries 51, 52, 54 and 55). -/
def Obligations.HostAndPeerEvents : Prop :=
  (∀ (u : EvAper) (s : State),
    let a := s.papbase.toNat + u.off
    let n := if u.write then u.data.length else u.len
    u.off + n ≤ 2 ^ 36 → (∀ i < n, s.addressable (a + i) = true) →
    let r := s.readOutside (Agent.host 0) [(a, n, physPage)]
    (u.write = false → Ends (.pfApertureAccess u) s (fun t => t = { r.1 with replies := s.replies ++ [.data r.2.1] }) ∧
      (Settled s physPage a n → r.2.1 = (s.readPhys a n 0).1)) ∧
    (u.write = true → Ends (.pfApertureAccess u) s (fun t =>
      t = (s.writeOutside (Agent.host 0) (s.hostWrote 0) a u.data [(a, n, physPage)]).1 ∧
      ∀ b, t.physByte b 0 = (s.writePhys a u.data 0).physByte b 0))) ∧
  (∀ (u : EvAper) (s s1 : State) (p : Nat) (runs : List (Nat × Nat × Page)),
    let ctl : Word := (s.apctl[u.fn - 1]?).getD 0
    let a := ((s.apva[u.fn - 1]?).getD 0).toNat + u.off
    let n := if u.write then u.data.length else u.len
    s.partOfVf (u.fn - 1) = some p → ctl.getLsbD 31 = true → (s.context p (ctl.toNat % 1024)).state = .live → u.off + n ≤ 2 ^ 34 →
    s.translateRuns p (ctl.toNat % 1024) hubCore (if u.write then 1 else 0) (pageRuns a n (n / 2 ^ 14 + 2)) = (s1, runs, none) →
    (∀ q ∈ runs, q.2.2.host = false) →
    let s2 := s1.meetRuns runs
    let r := s2.readOutside (Agent.host u.fn) runs
    (u.write = false → Ends (.vfApertureAccess u) s (fun t => t = { r.1 with replies := s2.replies ++ [.data r.2.1] }) ∧
      ((∀ q ∈ runs, Settled s2 q.2.2 q.1 q.2.1) →
        r.2.1 = runs.flatMap (fun q => (s2.readPhys (q.2.2.phys q.1) q.2.1 q.2.2.ver.toNat).1))) ∧
    (u.write = true → Ends (.vfApertureAccess u) s (fun t =>
      t = s2.apertureWrite (Agent.host u.fn) (s2.hostWrote u.fn) p (ctl.toNat % 1024) a u.data runs))) ∧
  (∀ (u : EvReg) (s : State) (p c : Nat),
    let refused : Prop := exec (.registerWrite u) s = .next { s with replies := s.replies ++ [.unsupportedRequest] }
    (u.size = 4 → u.value < 2 ^ 32 →
      (u.fn = 0 → u.bar = 0 → u.off = 0x300008 → Ends (.registerWrite u) s (fun t => t = { s with rlen := BitVec.ofNat 32 u.value })) ∧
      (u.fn = 0 → u.bar = 0 → u.off = 0x200008 → Ends (.registerWrite u) s (fun t => t = { s with src := BitVec.ofNat 2 u.value })) ∧
      (u.fn ≠ 0 → u.bar = 0 → s.partOfVf (u.fn - 1) = some p → c < 1024 → u.off = c * 2 ^ 14 + 0x70 →
        Ends (.registerWrite u) s (fun t => (t.context p c).trhead = BitVec.ofNat 32 u.value))) ∧
    (u.size ≠ 4 → u.size ≠ 8 → refused) ∧ (u.off % 4 ≠ 0 → refused) ∧
    (u.size = 4 → u.fn ≠ 0 → u.bar ≠ 7 → s.partOfVf (u.fn - 1) = none → refused)) ∧
  (∀ (u : EvPeer) (s s1 : State) (runs : List (Nat × Nat × Page)), s.acceptsPeer u = true → (s.context u.part u.ctx).state = .live →
    let va := u.va % 2 ^ 52
    let n := if u.kind = 1 then u.data.length else u.len
    s.translateRuns u.part u.ctx hubCore (min u.kind 2) (pageRuns va n (n / 2 ^ 14 + 2)) = (s1, runs, none) →
    let s2 := s1.touchPeer runs
    let x := s2.readOutside (Agent.peer u.dev) runs
    (u.kind = 0 → Ends (.peerAccess u) s (fun t => t = { x.1 with replies := s2.replies ++ [.peer x.2.1 x.2.2] }) ∧
      x.2.2 = runs.any (fun q => (s2.readPage q.2.2 q.1 q.2.1).2) ∧
      ((∀ q ∈ runs, Settled s2 q.2.2 q.1 q.2.1) → x.2.1 = runs.flatMap (fun q => (s2.readPage q.2.2 q.1 q.2.1).1))) ∧
    (u.kind = 1 → Ends (.peerAccess u) s (fun t =>
      let x := s2.apertureWrite (Agent.peer u.dev) [] u.part u.ctx va u.data (runs.filter (fun q => ! q.2.2.host))
      t = { x with replies := x.replies ++ [.peer [] false] })) ∧
    (2 ≤ u.kind → ∀ q r, runs = q :: r → (s2.readPage q.2.2 u.va u.len).2 = false →
      let old := (s2.readPage q.2.2 u.va u.len).1
      let new := natOfBytes (if u.kind = 11 then u.data.drop u.len else u.data.take u.len)
      let wants := if u.kind = 11 then natOfBytes (u.data.take u.len) else 0
      let y := s2.writePage q.2.2 u.va (bytesOf (atomicNew (u.kind - 2) (8 * u.len) (natOfBytes old) new wants) u.len)
      Ends (.peerAccess u) s (fun t => t.replies = s2.replies ++ [.peer old false] ∧ ∀ b v, t.physByte b v = y.physByte b v))) ∧
  (∀ (u : EvPeer) (s : State), (s.acceptsPeer u = false ∨ (s.context u.part u.ctx).state ≠ .live) →
    exec (.peerAccess u) s = .next { s with replies := s.replies ++ [.peerRefused] }) ∧
  (∀ (u : EvNat) (s : State), u.n < 12 →
    let links (p addr : Nat) : BitVec 12 := (s.peerEntry p (bitsOf addr 57 52)).setWidth 12 &&& s.linkup
    Ends (.linkUp u) s (fun t => t = { s with linkup := s.linkup ||| (1#12 <<< u.n) }) ∧
    Ends (.linkDown u) s (fun t => t.linkup = s.linkup &&& ~~~(1#12 <<< u.n) ∧
      ((∀ x ∈ s.sent, bitsOf x.addr 57 52 = 0 ∨ (links x.part x.addr).getLsbD u.n = false) → t.mem = s.mem ∧ t.sent = s.sent) ∧
      ∀ (w : Workgroup) (gi ti : Nat) (x : Thread) (i : Nat) (r : Pending), s.wg? w.wid = some w → s.thread? w.wid gi ti = some x →
        x.pending[i]? = some r →
        (r.returned = false → bitsOf r.addr 57 52 ≠ 0 → links w.part r.addr = 1#12 <<< u.n →
          ∃ y, t.thread? w.wid gi ti = some y ∧ y.pending[i]? = some { r with poison := true }) ∧
        ((r.returned = true ∨ bitsOf r.addr 57 52 = 0 ∨ (links w.part r.addr).getLsbD u.n = false) →
          ∃ y, t.thread? w.wid gi ti = some y ∧ y.pending[i]? = some r)))

/-- R404 to R406: each SPDM request, in its order and well formed, is answered with its response and leaves the connection state
that follows it, with what later signatures cover; CHALLENGE_AUTH and signed measurements carry a signature of the identity key
over what the function has said and heard; any other code is an ERROR; a DOE abort starts the connection again. What the
responder draws is free; the layouts of the objects and of what is signed are those of SPDM 1.3, which the spec names (log
entry 18). -/
def Obligations.SpdmEvents : Prop :=
  let field (u : EvSpdm) (off n : Nat) : Nat := natOfBytes ((u.req.drop off).take n)
  let answers (s t : State) (u : EvSpdm) (x : Spdm) (h : Heard) (bs : List Byte) : Prop :=
    t = { s with spdm := s.spdm.set u.fn x, heard := s.heard.set u.fn h, replies := s.replies ++ [.spdm u.fn bs] }
  let opens (s t : State) (u : EvSpdm) (x : Spdm) (h : Heard) (bs : List Byte) : Prop :=
    answers s t u x { h with opening := h.opening ++ u.req ++ bs } bs
  let tellsAs (s t : State) (u : EvSpdm) (h : Heard) (bs : List Byte) : Prop :=
    t = { s with heard := s.heard.set u.fn h, replies := s.replies ++ [.spdm u.fn bs] }
  let error (s t : State) (u : EvSpdm) (code : Byte) : Prop := t = { s with replies := s.replies ++ [.spdm u.fn [0x13, 0x7F, code, 0]] }
  let signed (text : String) (covered : List Byte) : List Byte :=
    bytesBig (Config.sign (natOfBig (sha256 (spdmPrefix text ++ sha256 covered)))) 384
  let block (s : State) (i : Nat) : List Byte :=
    [BitVec.ofNat 8 i, 0x01, 35, 0, BitVec.ofNat 8 (min (i - 1) 3), 32, 0] ++ mrBytes ((s.mrs[i - 1]?).getD 0)
  let is13 (u : EvSpdm) : Prop := field u 0 1 = 0x13
  (∀ (u : EvSpdm) (s : State), 4 ≤ u.req.length →
    Ends (.getVersion u) s (fun t => opens s t u .version Heard.none [0x10, 0x04, 0, 0, 0, 1, 0x00, 0x13])) ∧
  (∀ (u : EvSpdm) (s : State), s.spdmOf u.fn = .version → is13 u → u.req.length = 20 →
    Ends (.getCapabilities u) s (fun t => ∃ a b, opens s t u .capabilities (s.heardOf u.fn)
      ([0x13, 0x61, 0, 0, 0] ++ a ++ [0, 0, 0x16, 0, 0, 0] ++ b) ∧ a.length = 1 ∧ b.length = 8)) ∧
  (∀ (u : EvSpdm) (s : State), s.spdmOf u.fn = .capabilities → is13 u → 32 ≤ u.req.length → field u 4 2 = u.req.length →
    (field u 6 1).testBit 0 = true → (field u 8 4).testBit 2 = true → (field u 12 4).testBit 0 = true →
    Ends (.negotiateAlgorithms u) s (fun t => opens s t u .algorithms (s.heardOf u.fn)
      ([0x13, 0x63, 0, 0, 36, 0, 1, 0] ++ bytesOf 2 4 ++ bytesOf 4 4 ++ bytesOf 1 4 ++ List.replicate 16 0))) ∧
  (∀ (u : EvSpdm) (s : State), s.spdmOf u.fn = .algorithms → is13 u →
    let h := s.heardOf u.fn
    let tells (t : State) (bs : List Byte) : Prop := tellsAs s t u { h with slots := h.slots ++ u.req ++ bs, measured := [] } bs
    (u.req.length = 4 → Ends (.getDigests u) s (fun t => tells t ([0x13, 0x01, 0x01, 0x01] ++ sha256 Config.certificate))) ∧
    (u.req.length = 8 → field u 2 1 = 0 →
      let off := field u 4 2
      let part := (Config.certificate.drop off).take (min (field u 6 2) 1024)
      Ends (.getCertificate u) s (fun t => if off < Config.certificate.length then
        tells t ([0x13, 0x02, 0, 0] ++ bytesOf part.length 2 ++ bytesOf (Config.certificate.length - off - part.length) 2 ++ part)
        else error s t u 0x01)) ∧
    (u.req.length = 44 → field u 2 1 = 0 → (field u 3 1 = 0 ∨ field u 3 1 = 1 ∨ field u 3 1 = 0xFF) →
      let summary := if field u 3 1 = 0 then [] else
        sha256 ((((List.range 16).map (· + 1)).filter (fun i => field u 3 1 == 0xFF || Config.tcbIndex i)).flatMap (block s))
      Ends (.challenge u) s (fun t => ∃ a,
        let resp := [0x13, 0x03, 0, 0x01] ++ sha256 Config.certificate ++ a ++ summary ++ [0, 0] ++ (u.req.drop 36).take 8
        a.length = 32 ∧ tellsAs s t u { h with slots := [], measured := [] }
          (resp ++ signed "responder-challenge_auth signing" (h.opening ++ h.slots ++ u.req ++ resp)))) ∧
    (∀ ids : List Nat, ((1 ≤ field u 3 1 ∧ field u 3 1 ≤ 16 ∧ ids = [field u 3 1]) ∨
        (field u 3 1 = 0xFF ∧ ids = (List.range 16).map (· + 1))) →
      let resp (a : List Byte) (at_ : Nat) : List Byte := [0x13, 0x60, 0, 0, BitVec.ofNat 8 ids.length]
        ++ bytesOf (ids.flatMap (block s)).length 3 ++ ids.flatMap (block s) ++ a ++ [0, 0] ++ (u.req.drop at_).take 8
      ((field u 2 1).testBit 0 = false → u.req.length = 12 → Ends (.getMeasurements u) s (fun t => ∃ a, a.length = 32 ∧
        tellsAs s t u { h with measured := h.measured ++ u.req ++ resp a 4 } (resp a 4))) ∧
      ((field u 2 1).testBit 0 = true → u.req.length = 45 → field u 36 1 % 16 = 0 →
        Ends (.getMeasurements u) s (fun t => ∃ a, a.length = 32 ∧ tellsAs s t u { h with measured := [] }
          (resp a 37 ++ signed "responder-measurements signing" (h.opening ++ (h.measured ++ u.req ++ resp a 37))))))) ∧
  (∀ (u : EvSpdm) (s : State), Ends (.spdmOtherRequest u) s (fun t => error s t u 0x07)) ∧
  (∀ (u : EvNat) (s : State), Ends (.doeAbort u) s (fun t =>
    t = { s with spdm := s.spdm.set u.n .start, heard := s.heard.set u.n Heard.none }))

/-! ### Steps, encodings, invariants and memory -/

/-- A step with nothing in the inbox whose next action is an issue set runs the instruction that its PC's words decode to, in
the state that `beginUnit` leaves (the set recorded, the slot's other threads a cycle older), after which `settleUnit` stops a
stepped set again; words that decode to nothing are an illegal unit; an event in the inbox comes first, and acts by itself; an
event of the module's own, here MMA_PASS, acts as its meaning says; and two units of one cycle both act, the lane slot's
first, each on the registers as they stood before the cycle, what ends the cycle for both of them last: traps, parks and loads (log
entry 4). Every step adds
what `tickOut` adds: one free value drawn, and time passed. The words at a PC are those of its RESIDENT quire's image. How
much time passes, how a set ages, the fields beside the spec's and what comes first while the module boots are the model's
(log entries 6, 21, 26 and 47). -/
def Obligations.StepRunsTheDecodedInstruction : Prop :=
  (∀ (s : State) (u : IssueSet) (w : Workgroup) (ws : List Word) (i : Instr), s.rstate ≠ .booting → s.inbox = [] →
    s.nextAction = some (.unit u) → s.matched u = none → s.wg? u.wid = some w → s.fetch w u.pc = some ws → decode ws = some i →
    step s = tickOut (settleUnit (s.stepsNow u) u (exec i (s.beginUnit u)))) ∧
  (∀ (s : State) (u : IssueSet) (w : Workgroup) (ws : List Word), s.rstate ≠ .booting → s.inbox = [] →
    s.nextAction = some (.unit u) → s.matched u = none → s.wg? u.wid = some w → s.fetch w u.pc = some ws → decode ws = none →
    step s = tickOut (settleUnit (s.stepsNow u) u (.next (illegalUnit ws unitFault (s.beginUnit u))))) ∧
  (∀ (s : State) (i : Instr) (r : List Instr), s.rstate ≠ .booting → s.inbox = i :: r → encode i = [] →
    step s = tickOut (exec i { s with inbox := r })) ∧
  (∀ (s : State) (u : EvJob), s.rstate ≠ .booting → s.inbox = [] → s.nextAction = some (.mmaPass u) →
    step s = tickOut (exec (.mmaPass u) s)) ∧
  (∀ (s : State) (a : Action), s.rstate ≠ .booting → s.inbox = [] → s.nextAction = some a → step s = tickOut (a.run s)) ∧
  (∀ (s a b : State) (l u : IssueSet) (wl wu : List Word) (i k : Instr), decode wl = some i → decode wu = some k →
    let s0 : State := { ((s.ageOthers l).ageOthers u).endYields l.wid with holdEnds := true, ends := [] }
    exec i { s0 with issue := l } = .next a →
    exec k { a.readAs s0 with issue := u } = .next b →
    (Action.pair l u wl wu).run s =
      .next (({ b.mergedWith s0 a with holdEnds := false, ends := [] } : State).settleEnds b.ends)) ∧
  (∀ (s : State) (w : Workgroup) (pc : Word),
    let x := (s.resident w.part w.ctx w.core).quire (pcQuire pc)
    x.state = .resident → pcOffset pc + 12 ≤ x.length →
    s.fetch w pc = some ([0, 1, 2].map (fun i => BitVec.ofNat 32 (natOfBytes (SMap.read x.image (pcOffset pc + 4 * i) 4 0)))))

/-- Words that the spec writes out, each with the instruction that it stands for: FFMA with a prefix, BRU, RDSYS, UADD with an
immediate, BRT, LDG and JMPI. -/
def Obligations.WordsOfTheSpecDecode : Prop :=
  (let p : Pfx := ⟨false, 2, false, 1, 7, true, false, false, false, false, false, 0⟩
  decode [0x3FA10F00, 0x57040A18] = some (.ffma { p := some p, h := true, d := 4, a := 5, b := 6, w := 0 })) ∧
  decode [0x888CFFF0] = some (.bru { h := false, a := 3, cond := 1, off15 := -16 }) ∧
  decode [0x85900020] = some (.rdsys { h := false, d := 4, idx := 0x20 }) ∧
  decode [0x810C7FFF] = some (.uaddImm { h := false, d := 3, a := 3, imm13 := -1 }) ∧
  decode [0x89058010] = some (.brt { h := false, pol := 1, k := 3, off15 := 16 }) ∧
  decode [0x3288054A] = some (.ldg { p := none, h := false, d := 8, a := 2, q := 5, off4 := 2, w := 2 }) ∧
  decode [0x31801800] = some (.jmpi { p := none, h := false, a := 12 })

/-- Every well-formed instruction but an event, whatever follows it in memory, is what the decoder reads from its words. -/
def Obligations.DecodeOfEncode : Prop :=
  ∀ (i : Instr) (ws : List Word), WellFormed i = true → encode i ≠ [] → decode (encode i ++ ws) = some i

/-- Words that the decoder reads as an instruction begin with the words of that instruction: no bit of a word is dropped, and a
sequence of words has one meaning. -/
def Obligations.EncodeOfDecode : Prop :=
  ∀ (ws : List Word) (i : Instr), decode ws = some i → ∃ r, ws = encode i ++ r

/-- The stores to memory that every meaning is made of reach their own bytes alone: scratch, vaults, and device memory, where
the other bytes of a granule read as before under the version that the store uses, and every other granule under every
version; what is stored reads back unless a granule's read-modify-write fails; and device memory keeps its canonical form. -/
def Obligations.StoresReachOnlyTheirBytes : Prop :=
  (∀ (w : Workgroup) (a b : Nat) (bs : List Byte), (b < a ∨ a + bs.length ≤ b) →
    SMap.get (w.writeScratchCells (cellsAt a bs)).1.scratch b 0 = SMap.get w.scratch b 0) ∧
  (∀ (w : Workgroup) (a i : Nat) (bs : List Byte) (x : Byte),
    (w.writeScratchCells (cellsAt a bs)).2 = [] → bs[i]? = some x →
    SMap.get (w.writeScratchCells (cellsAt a bs)).1.scratch (a + i) 0 = x) ∧
  (∀ (s : State) (a b : Nat) (bs : List Byte), (b < a ∨ a + bs.length ≤ b) →
    SMap.get (s.writeVaultCells (cellsAt a bs)).1.vault b 0 = SMap.get s.vault b 0) ∧
  (∀ (s : State) (a i : Nat) (bs : List Byte) (x : Byte),
    (s.writeVaultCells (cellsAt a bs)).2 = [] → bs[i]? = some x →
    SMap.get (s.writeVaultCells (cellsAt a bs)).1.vault (a + i) 0 = x) ∧
  (∀ (s : State) (a b v v' : Nat) (bs : List Byte), (∀ i < bs.length, (a + i) / 32 ≠ b / 32) →
    (s.writePhys a bs v).physByte b v' = s.physByte b v') ∧
  (∀ (s : State) (a b v : Nat) (bs : List Byte), LibraryLegal s →
    (b < a ∨ a + bs.length ≤ b) → (s.writePhys a bs v).physByte b v = s.physByte b v) ∧
  (∀ (s : State) (a i v : Nat) (bs : List Byte) (x : Byte), LibraryLegal s →
    (s.writeCells (cellsAt a bs) v).2 = [] → bs[i]? = some x → (s.writePhys a bs v).physByte (a + i) v = x) ∧
  (∀ (s : State) (a v : Nat) (bs : List Byte), MemWf s → MemWf (s.writePhys a bs v))

/-- R279, R281, R283, R284, R289, R290, R292, R293 and R295, in the words of log entry 1: which store a read of a location returns,
and what a thread must see after it. A read returns the newest store, or an older one that its bound permits, that was written
under the tag now read and that is not superseded at the reader's die, and each of these can come; on an SC page it returns the
newest. Once a thread has seen a store through an address it sees no older one through that address, while through another
address nothing has changed until a full fence aligns the two. An overwritten store joins the older ones, and nothing comes
between a read-modify-write and what it read. What a thread must see, and what it has seen within a scope, goes into its release,
which keeps what earlier releases have ordered; mutually strong accesses pass on what the store carries, and an acquire takes it. A
store performed at its die increments the die's own counter and takes the clock as its stamp, and a die that applies a store has
then applied all that the stamp covers. -/
def Obligations.MemoryOrder : Prop :=
  (∀ (v : Versions) (e : Nat) (clock : List Nat) (bound tag : Nat) (now : List Byte),
    let permitted (r : List Byte × Nat × Stored) : Prop := r = (now, v.last, v.info) ∨
      ∃ o ∈ v.older, bound ≤ o.pos ∧ (o.tag = 0 ∨ o.tag = tag) ∧
        (o.info.agent.die = e ∨ o.info.applied e clock = true ∨ v.top e clock ≤ o.pos) ∧ r = (o.bytes, o.pos, o.info)
    (∀ c, permitted (v.pick e clock bound tag now c)) ∧ (∀ r, permitted r → ∃ c, v.pick e clock bound tag now c = r)) ∧
  (∀ (s : State) (x : Access) (n strong i : Nat), x.page.sc = true →
    let a := x.page.phys (x.addr + i)
    let v := s.stores.get (locKey 0 (a / 8)) Versions.none
    s.seeGlobal x n strong i = ((s.readPhys (8 * (a / 8)) 8 x.page.ver.toNat).1, v.last, v.info)) ∧
  (∀ (t : Thread) (seen : List Seen) (acq : List View),
    let u := t.take seen acq
    (∀ va loc, t.bound va loc ≤ u.bound va loc) ∧
    (∀ x ∈ seen, x.pos ≤ u.bound x.va x.loc ∧ ∀ va, x.pos ≤ u.align.bound va x.loc) ∧
    (∀ va loc, (∀ x ∈ seen, x.va ≠ va ∨ x.loc ≠ loc) → u.bound va loc = t.bound va loc)) ∧
  (∀ (h : SMap Versions) (loc : Nat) (old : List Byte) (mask tag : Nat) (i : Stored),
    let v := SMap.get h loc Versions.none
    let n := SMap.get (pushStore h loc old mask tag) loc Versions.none
    let r := SMap.get (markRmw (pushStore h loc old mask tag) loc i) loc Versions.none
    v.last < n.last ∧ n.older = { pos := v.last, bytes := old, mask := v.mask, tag := tag, info := v.info } :: v.older ∧
    r.last = v.last + 1 ∧ r.older = n.older ∧ r.info.rel = joinAll i.rel v.info.rel ∧
    ∀ l, l ≠ loc → SMap.get (pushStore h loc old mask tag) l Versions.none = SMap.get h l Versions.none) ∧
  (∀ (t : Thread) (scope m loc : Nat), m < 7 →
    (viewAt t.rels m).at loc ≤ (viewAt (t.release scope).rels m).at loc ∧
    (m ≤ scope → t.view.at loc ≤ (viewAt (t.release scope).rels m).at loc ∧
      (∀ x ∈ t.own, x.scope ≤ scope → x.pos ≤ (viewAt (t.release scope).rels m).at x.loc) ∧
      (∀ l ∈ t.loads, ∀ x ∈ l.seen, x.scope ≤ scope → x.pos ≤ (viewAt (t.release scope).rels m).at x.loc))) ∧
  (∀ (i : Stored) (me : Agent) (strong : Nat),
    let m := i.agent.shared me
    (i.agent.outside = true → i.passes me strong = some (1, viewAt i.rel 6)) ∧
    (i.agent.outside = false → m ≤ i.strong → m ≤ strong → i.passes me strong = some (m, viewAt i.rel m)) ∧
    (i.agent.outside = false → (i.strong < m ∨ strong < m) → i.passes me strong = none)) ∧
  (∀ (t : Thread) (seen : List Seen) (acq : List View) (scope m loc : Nat), m < 7 → m ≤ scope →
    (viewAt acq m).at loc ≤ ((t.take seen acq).acquire scope).view.at loc) ∧
  (∀ (m : Ledger) (loc pos : Nat) (i : Stored),
    (SMap.get m.1 loc Versions.none).info? pos = some i → i.stamp = [] → i.agent.die < 4 → i.agent.die < m.2.length →
    let d := i.agent.die
    let n := m.perform loc pos
    let c := (n.2[d]?).getD []
    counter c d = counter ((m.2[d]?).getD []) d + 1 ∧ (∀ f < 4, f ≠ d → counter c f = counter ((m.2[d]?).getD []) f) ∧
    (SMap.get n.1 loc Versions.none).info? pos = some { i with stamp := c } ∧ ∀ e, e ≠ d → n.2[e]? = m.2[e]?) ∧
  (∀ (m : Ledger) (e loc pos : Nat) (i : Stored), e < m.2.length →
    (SMap.get (m.perform loc pos).1 loc Versions.none).info? pos = some i →
    let n := Ledger.apply e m loc pos
    ∀ f < 4, counter i.stamp f ≤ counter ((n.2[e]?).getD []) f ∧
      counter (((m.perform loc pos).2[e]?).getD []) f ≤ counter ((n.2[e]?).getD []) f)

/-- What is legal stays legal at every step, from every state: device memory and the vaults keep their canonical form (no two
entries at one address, none that only repeats what an unlisted address reads as), the common library's bounds are whole
512 MiB blocks (R387), the arithmetic clock stands at one of R20's steps, and MR5 to MR7 are zero (R402). -/
def Obligations.StepKeepsWhatIsLegal : Prop :=
  ∀ s t : State, Legal s → step s = .next t → Legal t

/-- Reset: what is legal holds; no partition is UP and no context exists; every stack's migration registers hold DEMOTE 2,
PROMOTE 8 and EPOCH 1000 (R389); the whole time base (R382) and the recovery mailbox with its image window (R403) hold zeros and
the module is BOOTING; the power limit is 2,600 W (R20). The clock's value at reset is the model's (log entry 14). -/
def Obligations.ResetIsLegal : Prop :=
  Legal State.reset ∧ (∀ p < 8, State.reset.part p = Partition.reset ∧ (State.reset.part p).up = false) ∧
  State.reset.contexts = [] ∧ State.reset.wgs = [] ∧ State.reset.clock = 1400 ∧ State.reset.powerLimit = 2600 ∧
  (∀ st < 8, (State.reset.migrationOf st).demote = 2 ∧ (State.reset.migrationOf st).promote = 8 ∧
    (State.reset.migrationOf st).epoch = 1000) ∧
  State.reset.time = 0 ∧ State.reset.src = 0 ∧ State.reset.locked = false ∧ State.reset.diverged = false ∧
  State.reset.steperr = false ∧ State.reset.rate = 0 ∧ State.reset.steps = 0 ∧ State.reset.stepto = 0 ∧
  State.reset.rstate = .booting ∧ State.reset.rerr = 0 ∧ State.reset.rcmd = 0 ∧ State.reset.rlen = 0 ∧
  (∀ off < 0x100000, State.reset.pfWord (0x301000 + 4 * off) = 0) ∧
  (∀ off, 0x200000 ≤ off → off < 0x200020 → State.reset.pfWord off = 0)

end
end

