-- ==== Sys2Proof/Laws/Formes.lean ====
section
/-!
SUPPORT. What the operations of the forme unit and the gathers keep: each keeps every property that translation, writes
through runs, the list of proof items and the fault queue keep, whether it ends early or not.
-/
open Sys2Proof Sys2Proof.Machine
namespace Sys2Proof.Laws
set_option Elab.async false

/-- What an operation of the forme unit keeps, whether or not it ends early. -/
def FKeeps {α : Type} (P : State → Prop) (m : FM α) : Prop := ∀ s, P s → P (m.run s).2

theorem FKeeps.pure {α : Type} {P : State → Prop} (a : α) : FKeeps P (Pure.pure a : FM α) := fun _ h => h

theorem FKeeps.throw {α : Type} {P : State → Prop} (e : FErr) : FKeeps P (MonadExcept.throw e : FM α) := fun _ h => h

theorem FKeeps.get {P : State → Prop} : FKeeps P (MonadState.get : FM State) := fun _ h => h

theorem FKeeps.change {P : State → Prop} (f : State → State) (hf : ∀ s, P s → P (f s)) : FKeeps P (modify f : FM Unit) := fun s h => hf s h

theorem FKeeps.set {P : State → Prop} (t : State) (ht : P t) : FKeeps P (MonadStateOf.set t : FM Unit) := fun _ _ => ht

theorem fm_bind {α β : Type} (m : FM α) (f : α → FM β) (s : State) :
    (m >>= f).run s = (ExceptT.bindCont f (m.run s).1) (m.run s).2 := rfl

theorem FKeeps.bind {α β : Type} {P : State → Prop} {m : FM α} {f : α → FM β} (hm : FKeeps P m) (hf : ∀ a, FKeeps P (f a)) : FKeeps P (m >>= f) := by
  intro s h
  have h1 := hm s h
  rw [fm_bind]
  generalize m.run s = r at h1
  obtain ⟨r, s1⟩ := r
  cases r with
  | ok a => exact hf a s1 h1
  | error e => exact h1

theorem FKeeps.bindGet {β : Type} {P : State → Prop} {f : State → FM β} (hf : ∀ s, P s → FKeeps P (f s)) : FKeeps P (MonadState.get >>= f) :=
  fun s h => hf s h s h

theorem sm_bind {α β : Type} (m : StateM State α) (g : α → StateM State β) (s : State) : (m >>= g) s = g (m s).1 (m s).2 := rfl

theorem FKeeps.tryCatch {α : Type} {P : State → Prop} {m : FM α} {f : FErr → FM α} (hm : FKeeps P m) (hf : ∀ a, FKeeps P (f a)) :
    FKeeps P (MonadExcept.tryCatch m f) := by
  intro s h
  have h1 : P (m s).2 := hm s h
  unfold MonadExcept.tryCatch
  dsimp only [instMonadExceptOfMonadExceptOf, tryCatchThe, MonadExceptOf.tryCatch, ExceptT.tryCatch, ExceptT.run, ExceptT.mk]
  rw [sm_bind]
  generalize m s = r at h1
  obtain ⟨r, s1⟩ := r
  cases r with
  | ok a => exact h1
  | error e => exact hf e s1 h1

theorem FKeeps.ite {α : Type} {P : State → Prop} {c : Prop} [Decidable c] {m n : FM α} (hm : FKeeps P m) (hn : FKeeps P n) : FKeeps P (if c then m else n) := by
  split
  · exact hm
  · exact hn

theorem FKeeps.mapM {α β : Type} {P : State → Prop} (l : List α) (f : α → FM β) (hf : ∀ a, FKeeps P (f a)) : FKeeps P (l.mapM f) := by
  induction l with
  | nil => simpa using FKeeps.pure _
  | cons a l ih => rw [List.mapM_cons]; exact (hf a).bind (fun _ => ih.bind (fun _ => FKeeps.pure _))

theorem FKeeps.foldlM {α β : Type} {P : State → Prop} (l : List α) (f : β → α → FM β) (b : β) (hf : ∀ b a, FKeeps P (f b a)) : FKeeps P (l.foldlM f b) := by
  induction l generalizing b with
  | nil => simpa using FKeeps.pure _
  | cons a l ih => rw [List.foldlM_cons]; exact (hf b a).bind (fun _ => ih _)

theorem FKeeps.map {α β : Type} {P : State → Prop} {m : FM α} (g : α → β) (hm : FKeeps P m) : FKeeps P (g <$> m) := by
  have : (g <$> m) = (m >>= fun a => Pure.pure (g a)) := (bind_pure_comp g m).symm
  rw [this]
  exact hm.bind (fun _ => FKeeps.pure _)

/-- What the operations of the forme unit do to the state beside ending. -/
structure FPrim (P : State → Prop) : Prop where
  reach : ∀ s p c core kind rs, P s → P (s.translateRuns p c core kind rs).1
  put : ∀ s j rs cells, P s → P (s.putRuns j rs cells)
  touch : ∀ (s : State) rs, P s → P (s.touchRuns rs)
  items : ∀ (s : State) is, P s → P { s with items := is }
  log : ∀ (s : State) p c a k kd core pc x, P s → P (s.logRecord p c a k kd core pc x)

variable {P : State → Prop}

theorem fmReach_keeps (hp : FPrim P) (j : Job) (host : Option (Nat × Nat)) (kind a n : Nat) : FKeeps P (fmReach j host kind a n) := by
  unfold fmReach
  repeat' first
    | with_reducible exact FKeeps.pure _
    | with_reducible exact FKeeps.throw _
    | with_reducible exact FKeeps.get
    | with_reducible exact FKeeps.set _ (hp.reach _ _ _ _ _ _ ‹_›)
    | with_reducible refine FKeeps.bindGet (fun s hs => ?_)
    | with_reducible refine FKeeps.bind ?_ (fun _ => ?_)
    | with_reducible refine FKeeps.ite ?_ ?_
    | split

theorem fmRead_keeps (hp : FPrim P) (j : Job) (host : Option (Nat × Nat)) (a n : Nat) : FKeeps P (fmRead j host a n) := by
  unfold fmRead
  repeat' first
    | with_reducible exact FKeeps.pure _
    | with_reducible exact FKeeps.throw _
    | with_reducible exact FKeeps.get
    | with_reducible exact fmReach_keeps hp _ _ _ _ _
    | with_reducible exact FKeeps.change _ (fun s hs => hp.touch _ _ hs)
    | with_reducible refine FKeeps.bind ?_ (fun _ => ?_)
    | with_reducible refine FKeeps.ite ?_ ?_
    | split
    | dsimp only

theorem fmPut_keeps (hp : FPrim P) (j : Job) (rs : Runs) (cells : List (Nat × Byte)) : FKeeps P (fmPut j rs cells) := by
  unfold fmPut
  repeat' first
    | with_reducible exact FKeeps.pure _
    | with_reducible exact FKeeps.change _ (fun s hs => hp.put _ _ _ _ hs)
    | with_reducible refine FKeeps.bind ?_ (fun _ => ?_)
    | with_reducible refine FKeeps.ite ?_ ?_
    | split

theorem fmDecode_keeps (_ : FPrim P) (bad : List Nat) : FKeeps P (fmDecode bad) := by
  unfold fmDecode
  repeat' first
    | with_reducible exact FKeeps.pure _
    | with_reducible exact FKeeps.throw _
    | with_reducible refine FKeeps.bind ?_ (fun _ => ?_)
    | with_reducible refine FKeeps.ite ?_ ?_
    | split

theorem fmLoad_keeps (hp : FPrim P) (j : Job) (va : Nat) (e : Option Nat) (det : Nat) : FKeeps P (fmLoad j va e det) := by
  unfold fmLoad
  repeat' first
    | with_reducible exact FKeeps.pure _
    | with_reducible exact FKeeps.throw _
    | with_reducible exact FKeeps.get
    | with_reducible exact fmRead_keeps hp _ _ _ _
    | with_reducible refine FKeeps.bind ?_ (fun _ => ?_)
    | with_reducible refine FKeeps.ite ?_ ?_
    | split

theorem fmAll_keeps (hp : FPrim P) (j : Job) (w : FWork) (det : Nat) : FKeeps P (fmAll j w det) := by
  unfold fmAll
  repeat' first
    | with_reducible exact FKeeps.pure _
    | with_reducible exact fmRead_keeps hp _ _ _ _
    | with_reducible refine FKeeps.bind ?_ (fun _ => ?_)
    | with_reducible refine FKeeps.ite ?_ ?_
    | split

theorem fmRing_keeps (hp : FPrim P) (j : Job) (w : FWork) (det : Nat) : FKeeps P (fmRing j w det) := by
  unfold fmRing
  repeat' first
    | with_reducible exact FKeeps.pure _
    | with_reducible exact fmRead_keeps hp _ _ _ _
    | with_reducible exact FKeeps.get
    | with_reducible exact fmReach_keeps hp _ _ _ _ _
    | with_reducible refine FKeeps.bind ?_ (fun _ => ?_)
    | with_reducible refine FKeeps.ite ?_ ?_
    | split

theorem fmRecord_keeps (hp : FPrim P) (j : Job) (w : FWork) (es : List Nat) (ring : Bool) (det : Nat) : FKeeps P (fmRecord j w es ring det) := by
  unfold fmRecord
  repeat' first
    | with_reducible exact FKeeps.pure _
    | with_reducible exact fmReach_keeps hp _ _ _ _ _
    | with_reducible refine FKeeps.bind ?_ (fun _ => ?_)
    | with_reducible refine FKeeps.mapM _ _ (fun _ => ?_)
    | with_reducible refine FKeeps.ite ?_ ?_
    | split

theorem fmSave_keeps (hp : FPrim P) (j : Job) (rs : Runs) (old new : FWork) : FKeeps P (fmSave j rs old new) := by
  unfold fmSave
  repeat' first
    | with_reducible exact FKeeps.pure _
    | with_reducible exact fmPut_keeps hp _ _ _
    | with_reducible refine FKeeps.bind ?_ (fun _ => ?_)
    | with_reducible refine FKeeps.ite ?_ ?_
    | split

theorem fmCancel_keeps (hp : FPrim P) (w : FWork) (e : Nat) : FKeeps P (fmCancel w e) := by
  unfold fmCancel
  repeat' first
    | with_reducible exact FKeeps.pure _
    | with_reducible exact FKeeps.change _ (fun s hs => hp.items _ _ hs)
    | with_reducible refine FKeeps.bind ?_ (fun _ => ?_)
    | with_reducible refine FKeeps.ite ?_ ?_
    | split

theorem fmRefs_keeps (hp : FPrim P) (j : Job) (rs : Runs) (galley : Nat) (up : Bool) : FKeeps P (fmRefs j rs galley up) :=
  FKeeps.change _ (fun s hs => hp.put s j rs _ hs)

theorem fmRefsReach_keeps (hp : FPrim P) (j : Job) (host : Option (Nat × Nat)) (galley : Nat) : FKeeps P (fmRefsReach j host galley) := by
  unfold fmRefsReach
  repeat' first
    | with_reducible exact FKeeps.pure _
    | with_reducible exact FKeeps.throw _
    | with_reducible exact FKeeps.get
    | with_reducible exact fmReach_keeps hp _ _ _ _ _
    | with_reducible exact fmRead_keeps hp _ _ _ _
    | with_reducible refine FKeeps.bind ?_ (fun _ => ?_)
    | with_reducible refine FKeeps.ite ?_ ?_
    | split
    | dsimp only

theorem fmProof_keeps (hp : FPrim P) (j : Job) (f : Forme) (galley base len : Nat) (noproof : Bool) : FKeeps P (fmProof j f galley base len noproof) := by
  unfold fmProof
  repeat' first
    | with_reducible exact FKeeps.pure _
    | with_reducible exact fmRead_keeps hp _ _ _ _
    | with_reducible refine FKeeps.bind ?_ (fun _ => ?_)
    | with_reducible refine FKeeps.ite ?_ ?_
    | split

theorem fmArmReach_keeps (hp : FPrim P) (j : Job) (f : Forme) (e : Nat) (p : List Nat) (det : Nat) : FKeeps P (fmArmReach j f e p det) := by
  unfold fmArmReach
  repeat' first
    | with_reducible exact FKeeps.pure _
    | with_reducible exact fmReach_keeps hp _ _ _ _ _
    | with_reducible refine FKeeps.bind ?_ (fun _ => ?_)
    | with_reducible refine FKeeps.ite ?_ ?_
    | split

theorem fmArm_keeps (hp : FPrim P) (j : Job) (rs : Runs) (w : FWork) (e : Nat) (p : List Nat) : FKeeps P (fmArm j rs w e p) := by
  unfold fmArm
  repeat' first
    | with_reducible exact FKeeps.pure _
    | with_reducible exact fmPut_keeps hp _ _ _
    | with_reducible refine FKeeps.bind ?_ (fun _ => ?_)
    | with_reducible refine FKeeps.ite ?_ ?_
    | split

theorem fmGseal_keeps (hp : FPrim P) (j : Job) (c : List Byte) : FKeeps P (fmGseal j c) := by
  unfold fmGseal
  repeat' first
    | with_reducible exact FKeeps.pure _
    | with_reducible exact FKeeps.throw _
    | with_reducible exact FKeeps.get
    | with_reducible exact fmReach_keeps hp _ _ _ _ _
    | with_reducible exact fmRead_keeps hp _ _ _ _
    | with_reducible exact fmPut_keeps hp _ _ _
    | with_reducible exact fmDecode_keeps hp _
    | with_reducible refine FKeeps.bind ?_ (fun _ => ?_)
    | with_reducible refine FKeeps.ite ?_ ?_
    | split

theorem fmImpose_keeps (hp : FPrim P) (j : Job) (c : List Byte) : FKeeps P (fmImpose j c) := by
  unfold fmImpose
  repeat' first
    | with_reducible exact FKeeps.pure _
    | with_reducible exact FKeeps.throw _
    | with_reducible exact FKeeps.get
    | with_reducible exact fmReach_keeps hp _ _ _ _ _
    | with_reducible exact fmRead_keeps hp _ _ _ _
    | with_reducible exact fmRefsReach_keeps hp _ _ _
    | with_reducible exact fmDecode_keeps hp _
    | with_reducible exact fmLoad_keeps hp _ _ _ _
    | with_reducible exact fmAll_keeps hp _ _ _
    | with_reducible exact fmRing_keeps hp _ _ _
    | with_reducible exact fmRecord_keeps hp _ _ _ _ _
    | with_reducible exact fmSave_keeps hp _ _ _ _
    | with_reducible exact fmRefs_keeps hp _ _ _ _
    | with_reducible exact fmProof_keeps hp _ _ _ _ _ _
    | with_reducible exact fmArmReach_keeps hp _ _ _ _ _
    | with_reducible exact fmArm_keeps hp _ _ _ _ _
    | with_reducible refine FKeeps.bind ?_ (fun _ => ?_)
    | with_reducible refine FKeeps.ite ?_ ?_
    | split

theorem fmDistrib_keeps (hp : FPrim P) (j : Job) (compact : Bool) (c : List Byte) : FKeeps P (fmDistrib j compact c) := by
  unfold fmDistrib
  repeat' first
    | with_reducible exact FKeeps.pure _
    | with_reducible exact fmRefsReach_keeps hp _ _ _
    | with_reducible exact FKeeps.throw _
    | with_reducible exact FKeeps.get
    | with_reducible exact fmReach_keeps hp _ _ _ _ _
    | with_reducible exact fmDecode_keeps hp _
    | with_reducible exact fmLoad_keeps hp _ _ _ _
    | with_reducible exact fmAll_keeps hp _ _ _
    | with_reducible exact fmRing_keeps hp _ _ _
    | with_reducible exact fmRecord_keeps hp _ _ _ _ _
    | with_reducible exact fmSave_keeps hp _ _ _ _
    | with_reducible exact fmCancel_keeps hp _ _
    | with_reducible exact fmRefs_keeps hp _ _ _ _
    | with_reducible exact fmProof_keeps hp _ _ _ _ _ _
    | with_reducible exact fmArmReach_keeps hp _ _ _ _ _
    | with_reducible exact fmArm_keeps hp _ _ _ _ _
    | with_reducible refine FKeeps.bind ?_ (fun _ => ?_)
    | with_reducible refine FKeeps.mapM _ _ (fun _ => ?_)
    | with_reducible refine FKeeps.foldlM _ _ _ (fun _ _ => ?_)
    | with_reducible refine FKeeps.ite ?_ ?_
    | split

theorem fmDrained_keeps (hp : FPrim P) (j : Job) (rg : Runs) (w : FWork) (e : Nat) : FKeeps P (fmDrained j rg w e) := by
  unfold fmDrained
  repeat' first
    | with_reducible exact FKeeps.pure _
    | with_reducible exact fmRefs_keeps hp _ _ _ _
    | with_reducible refine FKeeps.bind ?_ (fun _ => ?_)
    | with_reducible refine FKeeps.ite ?_ ?_
    | split

theorem fmPub_keeps (hp : FPrim P) (j : Job) (wg : Workgroup) (c : List Byte) : FKeeps P (fmPub j wg c) := by
  unfold fmPub
  repeat' first
    | with_reducible exact FKeeps.pure _
    | with_reducible refine FKeeps.tryCatch ?_ (fun _ => ?_)
    | with_reducible exact FKeeps.throw _
    | with_reducible exact FKeeps.get
    | with_reducible exact fmReach_keeps hp _ _ _ _ _
    | with_reducible exact fmRead_keeps hp _ _ _ _
    | with_reducible exact fmRefsReach_keeps hp _ _ _
    | with_reducible exact fmPut_keeps hp _ _ _
    | with_reducible exact fmDecode_keeps hp _
    | with_reducible exact fmLoad_keeps hp _ _ _ _
    | with_reducible exact fmRing_keeps hp _ _ _
    | with_reducible exact fmRecord_keeps hp _ _ _ _ _
    | with_reducible exact fmSave_keeps hp _ _ _ _
    | with_reducible exact fmDrained_keeps hp _ _ _ _
    | with_reducible exact FKeeps.change _ (fun s hs => hp.items _ _ hs)
    | with_reducible refine FKeeps.bind ?_ (fun _ => ?_)
    | with_reducible refine FKeeps.ite ?_ ?_
    | split
    | dsimp only

theorem fmSlotReach_keeps (hp : FPrim P) (j : Job) (f : Forme) (l det : Nat) (slots : List Nat) : FKeeps P (fmSlotReach j f l det slots) := by
  unfold fmSlotReach
  repeat' first
    | with_reducible exact FKeeps.pure _
    | with_reducible exact fmReach_keeps hp _ _ _ _ _
    | with_reducible refine FKeeps.bind ?_ (fun _ => ?_)
    | with_reducible refine FKeeps.mapM _ _ (fun _ => ?_)
    | with_reducible refine FKeeps.ite ?_ ?_
    | split

theorem fmSlotWrite_keeps (hp : FPrim P) (j : Job) (f : Forme) (l : Nat) (rs : Runs) (slots : List (Nat × List Byte)) (fills : List (Nat × Nat)) : FKeeps P (fmSlotWrite j f l rs slots fills) := by
  unfold fmSlotWrite
  repeat' first
    | with_reducible exact FKeeps.pure _
    | with_reducible exact fmPut_keeps hp _ _ _
    | with_reducible refine FKeeps.bind ?_ (fun _ => ?_)
    | with_reducible refine FKeeps.ite ?_ ?_
    | split

theorem fmCommitPlan_keeps (hp : FPrim P) (j : Job) (w : FWork) (n l det : Nat) (inst : List (List Byte)) : FKeeps P (fmCommitPlan j w n l det inst) := by
  unfold fmCommitPlan
  repeat' first
    | with_reducible exact FKeeps.pure _
    | with_reducible exact fmReach_keeps hp _ _ _ _ _
    | with_reducible exact fmRead_keeps hp _ _ _ _
    | with_reducible exact fmRefsReach_keeps hp _ _ _
    | with_reducible exact fmRecord_keeps hp _ _ _ _ _
    | with_reducible refine FKeeps.bind ?_ (fun _ => ?_)
    | with_reducible refine FKeeps.mapM _ _ (fun _ => ?_)
    | with_reducible refine FKeeps.ite ?_ ?_
    | split

theorem fmCommitDo_keeps (hp : FPrim P) (j : Job) (w : FWork) (n : Nat) (plan : Runs × List (Nat × Byte)) : FKeeps P (fmCommitDo j w n plan) := by
  unfold fmCommitDo
  repeat' first
    | with_reducible exact FKeeps.pure _
    | with_reducible exact fmPut_keeps hp _ _ _
    | with_reducible exact fmSave_keeps hp _ _ _ _
    | with_reducible refine FKeeps.bind ?_ (fun _ => ?_)
    | with_reducible refine FKeeps.ite ?_ ?_
    | split

theorem fmAppend_keeps (hp : FPrim P) (j : Job) (append : Bool) (wg : Workgroup) (c : List Byte) : FKeeps P (fmAppend j append wg c) := by
  unfold fmAppend
  repeat' first
    | with_reducible exact FKeeps.pure _
    | with_reducible exact FKeeps.throw _
    | with_reducible exact fmRead_keeps hp _ _ _ _
    | with_reducible exact fmRefsReach_keeps hp _ _ _
    | with_reducible exact fmDecode_keeps hp _
    | with_reducible exact fmLoad_keeps hp _ _ _ _
    | with_reducible exact fmSlotReach_keeps hp _ _ _ _ _
    | with_reducible exact fmSlotWrite_keeps hp _ _ _ _ _ _
    | with_reducible exact fmCommitPlan_keeps hp _ _ _ _ _ _
    | with_reducible exact fmCommitDo_keeps hp _ _ _ _
    | with_reducible refine FKeeps.bind ?_ (fun _ => ?_)
    | with_reducible refine FKeeps.mapM _ _ (fun _ => ?_)
    | with_reducible refine FKeeps.tryCatch ?_ (fun _ => ?_)
    | with_reducible refine FKeeps.ite ?_ ?_
    | split

theorem fmCommit_keeps (hp : FPrim P) (j : Job) (c : List Byte) : FKeeps P (fmCommit j c) := by
  unfold fmCommit
  repeat' first
    | with_reducible exact FKeeps.pure _
    | with_reducible exact FKeeps.throw _
    | with_reducible exact fmDecode_keeps hp _
    | with_reducible exact fmLoad_keeps hp _ _ _ _
    | with_reducible exact fmCommitPlan_keeps hp _ _ _ _ _ _
    | with_reducible exact fmCommitDo_keeps hp _ _ _ _
    | with_reducible refine FKeeps.bind ?_ (fun _ => ?_)
    | with_reducible refine FKeeps.ite ?_ ?_
    | split

theorem fmFetch_keeps (hp : FPrim P) (j : Job) (va : Nat) : FKeeps P (fmFetch j va) := by
  unfold fmFetch
  repeat' first
    | with_reducible exact FKeeps.pure _
    | with_reducible exact FKeeps.throw _
    | with_reducible exact fmLoad_keeps hp _ _ _ _
    | with_reducible exact FKeeps.get
    | with_reducible exact fmReach_keeps hp _ _ _ _ _
    | with_reducible exact fmRead_keeps hp _ _ _ _
    | with_reducible exact fmRefsReach_keeps hp _ _ _
    | with_reducible exact fmRecord_keeps hp _ _ _ _ _
    | with_reducible exact fmSave_keeps hp _ _ _ _
    | with_reducible exact FKeeps.change _ (fun s hs => hp.items _ _ hs)
    | with_reducible refine FKeeps.bind ?_ (fun _ => ?_)
    | with_reducible refine FKeeps.ite ?_ ?_
    | split

theorem fmAbandon_keeps (hp : FPrim P) (j : Job) (i : ProofItem) : FKeeps P (fmAbandon j i) := by
  unfold fmAbandon
  repeat' first
    | with_reducible exact FKeeps.pure _
    | with_reducible exact fmReach_keeps hp _ _ _ _ _
    | with_reducible exact fmRead_keeps hp _ _ _ _
    | with_reducible exact fmRefsReach_keeps hp _ _ _
    | with_reducible exact fmRing_keeps hp _ _ _
    | with_reducible exact fmRecord_keeps hp _ _ _ _ _
    | with_reducible exact fmSave_keeps hp _ _ _ _
    | with_reducible exact fmDrained_keeps hp _ _ _ _
    | with_reducible exact FKeeps.change _ (fun s hs => hp.log _ _ _ _ _ _ _ _ _ hs)
    | with_reducible refine FKeeps.bind ?_ (fun _ => ?_)
    | with_reducible refine FKeeps.tryCatch ?_ (fun _ => ?_)
    | with_reducible refine FKeeps.ite ?_ ?_
    | split

theorem fmDetail_keeps (hp : FPrim P) {α : Type} (j : Job) (det : Nat) (m : FM α) (hm : FKeeps P m) : FKeeps P (fmDetail j det m) := by
  unfold fmDetail
  repeat' first
    | with_reducible exact FKeeps.pure _
    | with_reducible exact FKeeps.throw _
    | with_reducible exact hm
    | with_reducible refine FKeeps.change _ (fun s hs => ?_)
    | with_reducible exact hp.log _ _ _ _ _ _ _ _ _ hs
    | unfold State.logEngine
    | with_reducible refine FKeeps.bind ?_ (fun _ => ?_)
    | with_reducible refine FKeeps.tryCatch ?_ (fun _ => ?_)
    | with_reducible refine FKeeps.ite ?_ ?_
    | split
    | dsimp only

theorem fmRow_keeps (hp : FPrim P) (j : Job) (w : FWork) (p l h : Nat) (v : Bool) (det : Nat) : FKeeps P (fmRow j w p l h v det) := by
  unfold fmRow
  repeat' first
    | with_reducible exact FKeeps.pure _
    | with_reducible exact fmRead_keeps hp _ _ _ _
    | with_reducible exact fmRefsReach_keeps hp _ _ _
    | with_reducible refine fmDetail_keeps hp _ _ _ ?_
    | with_reducible refine FKeeps.map _ ?_
    | with_reducible refine FKeeps.bind ?_ (fun _ => ?_)
    | with_reducible refine FKeeps.ite ?_ ?_
    | split
    | dsimp only

theorem fmSnapshot_keeps (hp : FPrim P) (j : Job) (wg : Workgroup) (c : List Byte) (v proofed : Bool) (rows : List (Nat × Word)) : FKeeps P (fmSnapshot j wg c v proofed rows) := by
  unfold fmSnapshot
  repeat' first
    | with_reducible exact FKeeps.pure _
    | with_reducible exact FKeeps.throw _
    | with_reducible exact fmRead_keeps hp _ _ _ _
    | with_reducible exact fmRefsReach_keeps hp _ _ _
    | with_reducible exact fmDecode_keeps hp _
    | with_reducible exact fmLoad_keeps hp _ _ _ _
    | with_reducible exact fmAll_keeps hp _ _ _
    | with_reducible exact fmRow_keeps hp _ _ _ _ _ _ _
    | with_reducible refine FKeeps.bind ?_ (fun _ => ?_)
    | with_reducible refine FKeeps.mapM _ _ (fun _ => ?_)
    | with_reducible refine FKeeps.tryCatch ?_ (fun _ => ?_)
    | with_reducible refine FKeeps.ite ?_ ?_
    | split
    | dsimp only
end Sys2Proof.Laws
end

