-- ==== Sys2Proof/Laws/Unit.lean ====
section
/-!
SUPPORT. What a unit leaves behind when every thread of its issue set completes: the end of a unit (R85, R267), lanes
whose results are written at once (R84) and lanes that owe them (R85), and groups written once (R153). The lemmas that
statements rest on are `laneNow_done`, `laneLater_done`, `uniform_done` and, for any other body, `runUnit_done`.
-/
namespace Sys2Proof.Laws
set_option Elab.async false
open Sys2Proof Sys2Proof.Machine

theorem modWg_modWg (s : State) (wid : Nat) (f g : Workgroup → Workgroup) (hf : ∀ w, (f w).wid = w.wid) :
    (s.modWg wid f).modWg wid g = s.modWg wid (fun w => g (f w)) := by
  simp only [State.modWg, List.map_map]
  congr 1
  apply List.map_congr_left
  intro w _
  by_cases h : w.wid = wid <;> simp [h, hf]

theorem modWg_congr (s : State) (wid : Nat) (f g : Workgroup → Workgroup)
    (h : ∀ w ∈ s.wgs, w.wid = wid → f w = g w) : s.modWg wid f = s.modWg wid g := by
  simp only [State.modWg]
  congr 1
  apply List.map_congr_left
  intro w hw
  by_cases hh : w.wid = wid <;> simp [hh, h w hw]

theorem mapEach_wid (w : Workgroup) (f) : (w.mapEach f).wid = w.wid := rfl

theorem mapEach_mapEach (w : Workgroup) (f g : Nat → Nat → Thread → Thread) :
    (w.mapEach f).mapEach g = w.mapEach (fun gi ti t => g gi ti (f gi ti t)) := by
  simp [Workgroup.mapEach, List.mapIdx_mapIdx, Function.comp_def]

theorem mapIdx_same {α : Type} (l : List α) : l.mapIdx (fun _ a => a) = l := by
  apply List.ext_getElem?; intro j; simp

theorem mapEach_same (w : Workgroup) : w.mapEach (fun _ _ t => t) = w := by
  simp only [Workgroup.mapEach, mapIdx_same]

theorem modWg_same (s : State) (wid : Nat) (f : Workgroup → Workgroup) (h : ∀ w ∈ s.wgs, w.wid = wid → f w = w) :
    s.modWg wid f = s := by
  have : s.wgs.map (fun w => if w.wid = wid then f w else w) = s.wgs := by
    refine (List.map_congr_left (g := id) ?_).trans (List.map_id _)
    intro w hw
    by_cases hh : w.wid = wid <;> simp [hh, h w hw]
  simp only [State.modWg, this]

theorem modThread_eq (s : State) (wid gi ti : Nat) (f : Thread → Thread) :
    s.modThread wid gi ti f = s.modWg wid (fun w => w.mapEach (fun a b t => if a = gi ∧ b = ti then f t else t)) := by
  simp only [State.modThread, State.modGroup]
  apply modWg_congr
  intro w _ _
  have inner : ∀ g : Group, g.threads.modify ti f = g.threads.mapIdx (fun b t => if b = ti then f t else t) := by
    intro g
    apply List.ext_getElem?
    intro j
    simp only [List.getElem?_modify, List.getElem?_mapIdx]
    cases g.threads[j]? <;> simp [eq_comm]
  simp only [Workgroup.mapEach, inner]
  congr 1
  apply List.ext_getElem?
  intro i
  simp only [List.getElem?_modify, List.getElem?_mapIdx]
  cases w.groups[i]? with
  | none => simp
  | some g =>
    by_cases hi : gi = i
    · subst hi; simp
    · have hi' : ¬ i = gi := fun h => hi h.symm
      simp [hi, hi', mapIdx_same]

theorem fold_modThread (wid : Nat) (f : Thread → Thread) (l : List (Nat × Nat)) (hn : l.Nodup) (s : State) :
    l.foldl (fun s x => s.modThread wid x.1 x.2 f) s =
      s.modWg wid (fun w => w.mapEach (fun a b t => if (a, b) ∈ l then f t else t)) := by
  induction l generalizing s with
  | nil =>
    simp only [List.foldl_nil, List.not_mem_nil, if_false]
    exact (modWg_same _ _ _ (fun w _ _ => mapEach_same w)).symm
  | cons x l ih =>
    obtain ⟨hx, hl⟩ := List.nodup_cons.mp hn
    rw [List.foldl_cons, ih hl, modThread_eq, modWg_modWg _ _ _ _ (fun w => mapEach_wid w _)]
    apply modWg_congr
    intro w _ _
    rw [mapEach_mapEach]
    congr 1
    funext a b t
    by_cases h : (a, b) = x
    · have h1 : a = x.1 ∧ b = x.2 := by rw [← h]; exact ⟨rfl, rfl⟩
      simp only [List.mem_cons, h1]
      simp [hx]
    · have h1 : ¬ (a = x.1 ∧ b = x.2) := fun h' => h (by rw [h'.1, h'.2])
      simp [h1, h]

theorem mapEach_congr (w : Workgroup) (f g : Nat → Nat → Thread → Thread)
    (h : ∀ gi ti gr t, w.groups[gi]? = some gr → gr.threads[ti]? = some t → f gi ti t = g gi ti t) :
    w.mapEach f = w.mapEach g := by
  simp only [Workgroup.mapEach]
  congr 1
  apply List.ext_getElem?
  intro i
  simp only [List.getElem?_mapIdx]
  cases hg : w.groups[i]? with
  | none => rfl
  | some gr =>
    simp only [Option.map_some, Option.some.injEq]
    congr 1
    apply List.ext_getElem?
    intro j
    simp only [List.getElem?_mapIdx]
    cases ht : gr.threads[j]? with
    | none => rfl
    | some t => simp [h i j gr t hg ht]

theorem wg_modWg (s : State) (wid : Nat) (f : Workgroup → Workgroup) (hf : ∀ w, (f w).wid = w.wid) :
    (s.modWg wid f).wg? wid = (s.wg? wid).map f := by
  simp only [State.wg?, State.modWg, List.find?_map]
  have : ((fun w : Workgroup => w.wid == wid) ∘ fun w => if w.wid = wid then f w else w) = (fun w => w.wid == wid) := by
    funext w
    by_cases h : w.wid = wid <;> simp [h, hf]
  rw [this]
  cases h : s.wgs.find? (fun w => w.wid == wid) with
  | none => rfl
  | some w =>
    have := List.find?_some h
    simp only [beq_iff_eq] at this
    simp [this]

theorem wg_wid {s : State} {wid : Nat} {w : Workgroup} (h : s.wg? wid = some w) : w.wid = wid ∧ w ∈ s.wgs := by
  have h1 := List.find?_some h
  simp only [beq_iff_eq] at h1
  exact ⟨h1, List.mem_of_find?_eq_some h⟩

/-- Groups of a workgroup whose threads are mapped. -/
theorem mapEach_group (w : Workgroup) (f) (gi : Nat) :
    (w.mapEach f).groups[gi]? = (w.groups[gi]?).map (fun g => { g with threads := g.threads.mapIdx (fun ti t => f gi ti t) }) := by
  simp [Workgroup.mapEach]

/-- A set's waiters, by membership. -/
theorem mem_waiters (w : Workgroup) (set : Nat) (x : Nat × Nat × Word × Bool) :
    x ∈ w.waiters set ↔ ∃ g t, w.groups[x.1]? = some g ∧ g.threads[x.2.1]? = some t ∧
      t.run = .parked (.wait x.2.2.1 x.2.2.2) set := by
  obtain ⟨gi, ti, u, d⟩ := x
  simp only [Workgroup.waiters, List.mem_flatMap, List.mem_filterMap, Prod.exists, List.mem_zipIdx_iff_getElem?]
  constructor
  · rintro ⟨g, i, hg, t, j, ht, h⟩
    cases hr : t.run with
    | ready => simp [hr] at h
    | exited => simp [hr] at h
    | parked k n =>
      cases k <;> simp [hr] at h
      obtain ⟨h1, h2, h3, h4, h5⟩ := h
      subst h1 h2 h3 h4 h5
      exact ⟨g, t, hg, ht, hr⟩
  · rintro ⟨g, t, hg, ht, hr⟩
    exact ⟨g, gi, hg, t, ti, ht, by simp [show t.run = _ from hr]⟩

theorem returned_mapEach (w : Workgroup) (f) (hf : ∀ gi ti t, (f gi ti t).pending = t.pending) (gi ti : Nat) :
    (w.mapEach f).returned gi ti = w.returned gi ti := by
  simp only [Workgroup.returned, mapEach_group]
  cases hg : w.groups[gi]? with
  | none => rfl
  | some g =>
    simp only [Option.map_some, List.getElem?_mapIdx]
    cases ht : g.threads[ti]? with
    | none => rfl
    | some t => simp [Thread.allReturned, hf]

/-- What the threads of a workgroup that wait for a condition are, by place. -/
theorem unmet_iff (w : Workgroup) (set : Nat) : w.unmet set = true ↔ ∃ (gi ti : Nat) (g : Group) (t : Thread) (k : ParkKind),
    w.groups[gi]? = some g ∧ g.threads[ti]? = some t ∧ t.run = .parked k set ∧ k.together = true ∧ k.isMet = false := by
  simp only [Workgroup.unmet, List.any_eq_true]
  constructor
  · rintro ⟨g, hg, t, ht, h⟩
    obtain ⟨gi, hgi⟩ := List.mem_iff_getElem?.mp hg
    obtain ⟨ti, hti⟩ := List.mem_iff_getElem?.mp ht
    cases hr : t.run with
    | ready => simp [hr] at h
    | exited => simp [hr] at h
    | parked k n =>
      simp only [hr, Bool.and_eq_true, beq_iff_eq, Bool.not_eq_true'] at h
      obtain ⟨⟨rfl, h2⟩, h3⟩ := h
      exact ⟨gi, ti, g, t, k, hgi, hti, hr, h2, h3⟩
  · rintro ⟨gi, ti, g, t, k, hg, ht, hr, h1, h2⟩
    exact ⟨g, List.mem_of_getElem? hg, t, List.mem_of_getElem? ht, by simp [hr, h1, h2]⟩

/-- The same of the threads whose conditions have been met. -/
theorem noneMet_iff (w : Workgroup) (set : Nat) : w.NoneMet set ↔ ∀ (gi ti : Nat) (g : Group) (t : Thread),
    w.groups[gi]? = some g → g.threads[ti]? = some t → ∀ p h q, t.run ≠ .parked (.met p h q) set := by
  constructor
  · intro hn gi ti g t hg ht
    exact hn g (List.mem_of_getElem? hg) t (List.mem_of_getElem? ht)
  · intro hn g hg t ht
    obtain ⟨gi, hgi⟩ := List.mem_iff_getElem?.mp hg
    obtain ⟨ti, hti⟩ := List.mem_iff_getElem?.mp ht
    exact hn gi ti g t hgi hti

/-- A change that leaves every thread leaves the workgroup. -/
theorem mapThreads_same (w : Workgroup) (f : Thread → Thread) (h : ∀ g ∈ w.groups, ∀ t ∈ g.threads, f t = t) : w.mapThreads f = w := by
  have hg : w.groups.map (fun g => { g with threads := g.threads.map f }) = w.groups := by
    refine (List.map_congr_left (g := id) (fun g hg => ?_)).trans (List.map_id _)
    rw [(List.map_congr_left (g := id) (fun t ht => h g hg t ht)).trans (List.map_id _)]; rfl
  simp only [Workgroup.mapThreads, hg]

/-- Where no condition of a set has been met, settling it changes no thread. -/
theorem settle_none (w : Workgroup) (set : Nat) (h : w.NoneMet set) : w.mapThreads (·.settleMet set) = w :=
  mapThreads_same w _ (fun g hg t ht => by
    simp only [Thread.settleMet]
    split
    · rename_i q n hr
      split
      · rename_i hn; subst hn; exact absurd hr (h g hg t ht _ _ _)
      · rfl
    · rfl)

theorem free_none (w : Workgroup) (set : Nat) (h : w.NoneMet set) : w.mapThreads (·.freeMet set) = w :=
  mapThreads_same w _ (fun g hg t ht => by
    simp only [Thread.freeMet]
    split
    · rename_i q n hr
      split
      · rename_i hn; subst hn; exact absurd hr (h g hg t ht _ _ _)
      · rfl
    · rfl)

/-- Trying a set, where none of its conditions has just been met: it stays, or its waiters' results become final. -/
theorem wakeSet_none (s : State) (wid set : Nat) (w : Workgroup) (hw : s.wg? wid = some w)
    (single : ∀ x ∈ s.wgs, x.wid = wid → x = w) (hn : w.NoneMet set) :
    s.wakeSet wid set = if w.unmet set || ! w.due set then s
      else (s.commitWaiters wid (w.waiters set)).poisonWaiters wid ((s.commitWaiters wid (w.waiters set)).poisonedWaiters wid (w.waiters set)) := by
  have e1 : s.modWg wid (·.mapThreads (·.settleMet set)) = s :=
    modWg_same s wid _ (fun x hx hxw => by rw [single x hx hxw]; exact settle_none w set hn)
  have e2 : s.modWg wid (·.mapThreads (·.freeMet set)) = s :=
    modWg_same s wid _ (fun x hx hxw => by rw [single x hx hxw]; exact free_none w set hn)
  simp only [State.wakeSet, hw, settle_none w set hn, e1, e2]
  cases w.unmet set <;> cases w.due set <;> rfl

/-- A set that rests stays as it is. -/
theorem wakeSet_rests (s : State) (wid set : Nat) (single : ∀ x ∈ s.wgs, x.wid = wid → s.wg? wid = some x)
    (h : ∀ w, s.wg? wid = some w → w.Rests set) : s.wakeSet wid set = s := by
  cases hw : s.wg? wid with
  | none => simp [State.wakeSet, hw]
  | some w =>
    rcases h w hw with hu | ⟨hn, hd⟩
    · simp [State.wakeSet, hw, hu]
    · rw [wakeSet_none s wid set w hw (fun x hx hxw => (Option.some.inj (hw.symm.trans (single x hx hxw))).symm) hn, hd]
      simp

/-- A workgroup all of whose waiting sets rest stays as it is. -/
theorem wakeWaits_rests (s : State) (wid : Nat) (single : ∀ x ∈ s.wgs, x.wid = wid → s.wg? wid = some x)
    (h : ∀ w, s.wg? wid = some w → ∀ set ∈ w.waitingSets, w.Rests set) : s.wakeWaits wid = s := by
  simp only [State.wakeWaits]
  cases hw : s.wg? wid with
  | none => rfl
  | some w =>
    simp only
    have hs := h w hw
    generalize w.waitingSets = l at hs
    induction l with
    | nil => rfl
    | cons k l ih =>
      rw [List.foldl_cons, wakeSet_rests s wid k single (fun w' hw' => by
        rw [hw] at hw'; rw [← Option.some.inj hw']; exact hs k List.mem_cons_self)]
      exact ih (fun set hset => hs set (List.mem_cons_of_mem _ hset))

theorem mem_waitingSets (w : Workgroup) (n : Nat) : n ∈ w.waitingSets ↔ ∃ (gi ti : Nat) (g : Group) (t : Thread) (k : ParkKind),
    w.groups[gi]? = some g ∧ g.threads[ti]? = some t ∧ t.run = .parked k n ∧ k.isMet = true := by
  simp only [Workgroup.waitingSets, List.mem_eraseDups, List.mem_flatMap, List.mem_filterMap]
  constructor
  · rintro ⟨g, hg, t, ht, h⟩
    obtain ⟨gi, hgi⟩ := List.mem_iff_getElem?.mp hg
    obtain ⟨ti, hti⟩ := List.mem_iff_getElem?.mp ht
    cases hr : t.run with
    | ready => simp [hr] at h
    | exited => simp [hr] at h
    | parked k m =>
      simp only [hr] at h
      split at h
      · rename_i hk
        cases h
        exact ⟨gi, ti, g, t, k, hgi, hti, hr, hk⟩
      · cases h
  · rintro ⟨gi, ti, g, t, k, hg, ht, hr, hk⟩
    exact ⟨g, List.mem_of_getElem? hg, t, List.mem_of_getElem? ht, by simp [hr, hk]⟩

/-- Two workgroups whose threads are parked in a set alike: the set is met, waits and rests in both or in neither. -/
structure SameParks (w w' : Workgroup) (set : Nat) : Prop where
  fwd : ∀ (gi ti : Nat) (g : Group) (t : Thread) (k : ParkKind), w.groups[gi]? = some g → g.threads[ti]? = some t →
    t.run = .parked k set → k.together = true → ∃ g' t', w'.groups[gi]? = some g' ∧ g'.threads[ti]? = some t' ∧ t'.run = .parked k set
  back : ∀ (gi ti : Nat) (g : Group) (t : Thread) (k : ParkKind), w'.groups[gi]? = some g → g.threads[ti]? = some t →
    t.run = .parked k set → k.together = true → ∃ g' t', w.groups[gi]? = some g' ∧ g'.threads[ti]? = some t' ∧ t'.run = .parked k set

theorem isMet_together (k : ParkKind) (h : k.isMet = true) : k.together = true := by cases k <;> simp_all [ParkKind.isMet, ParkKind.together]

theorem SameParks.unmet {w w' : Workgroup} {set : Nat} (h : SameParks w w' set) : w'.unmet set = w.unmet set := by
  rw [Bool.eq_iff_iff, unmet_iff, unmet_iff]
  constructor
  · rintro ⟨gi, ti, g, t, k, hg, ht, hr, h1, h2⟩
    obtain ⟨g', t', a, b, c⟩ := h.back gi ti g t k hg ht hr h1
    exact ⟨gi, ti, g', t', k, a, b, c, h1, h2⟩
  · rintro ⟨gi, ti, g, t, k, hg, ht, hr, h1, h2⟩
    obtain ⟨g', t', a, b, c⟩ := h.fwd gi ti g t k hg ht hr h1
    exact ⟨gi, ti, g', t', k, a, b, c, h1, h2⟩

theorem SameParks.noneMet {w w' : Workgroup} {set : Nat} (h : SameParks w w' set) (hn : w.NoneMet set) : w'.NoneMet set := by
  rw [noneMet_iff] at hn ⊢
  intro gi ti g t hg ht p hh q hr
  obtain ⟨g', t', a, b, c⟩ := h.back gi ti g t _ hg ht hr rfl
  exact hn gi ti g' t' a b p hh q c

theorem SameParks.waitingSets {w w' : Workgroup} {set : Nat} (h : SameParks w w' set) : set ∈ w'.waitingSets ↔ set ∈ w.waitingSets := by
  rw [mem_waitingSets, mem_waitingSets]
  constructor
  · rintro ⟨gi, ti, g, t, k, hg, ht, hr, h1⟩
    obtain ⟨g', t', a, b, c⟩ := h.back gi ti g t k hg ht hr (isMet_together k h1)
    exact ⟨gi, ti, g', t', k, a, b, c, h1⟩
  · rintro ⟨gi, ti, g, t, k, hg, ht, hr, h1⟩
    obtain ⟨g', t', a, b, c⟩ := h.fwd gi ti g t k hg ht hr (isMet_together k h1)
    exact ⟨gi, ti, g', t', k, a, b, c, h1⟩

theorem SameParks.waiters {w w' : Workgroup} {set : Nat} (h : SameParks w w' set) (x) : x ∈ w'.waiters set ↔ x ∈ w.waiters set := by
  rw [mem_waiters, mem_waiters]
  constructor
  · rintro ⟨g, t, hg, ht, hr⟩
    obtain ⟨g', t', a, b, c⟩ := h.back _ _ g t _ hg ht hr rfl
    exact ⟨g', t', a, b, c⟩
  · rintro ⟨g, t, hg, ht, hr⟩
    obtain ⟨g', t', a, b, c⟩ := h.fwd _ _ g t _ hg ht hr rfl
    exact ⟨g', t', a, b, c⟩

theorem due_false_iff (w : Workgroup) (set : Nat) : w.due set = false ↔ ∃ x ∈ w.waiters set, w.returned x.1 x.2.1 = false := by
  simp [Workgroup.due]

/-- A set that rests goes on resting where threads are parked alike and no result awaited has come. -/
theorem SameParks.rests {w w' : Workgroup} {set : Nat} (h : SameParks w w' set)
    (hret : ∀ x ∈ w.waiters set, w.returned x.1 x.2.1 = false → w'.returned x.1 x.2.1 = false) (hr : w.Rests set) : w'.Rests set := by
  rcases hr with hu | ⟨hn, hd⟩
  · exact .inl (by rw [h.unmet]; exact hu)
  · obtain ⟨x, hx, hx2⟩ := (due_false_iff w set).mp hd
    exact .inr ⟨h.noneMet hn, (due_false_iff w' set).mpr ⟨x, (h.waiters x).mpr hx, hret x hx hx2⟩⟩

/-- Threads changed one by one, none into or out of the set. -/
theorem mapEach_sameParks (w : Workgroup) (f : Nat → Nat → Thread → Thread) (set : Nat)
    (hf : ∀ gi ti g t, w.groups[gi]? = some g → g.threads[ti]? = some t → ∀ k, (f gi ti t).run = .parked k set ↔ t.run = .parked k set) :
    SameParks w (w.mapEach f) set := by
  constructor
  · intro gi ti g t k hg ht hr _
    refine ⟨{ g with threads := g.threads.mapIdx (fun ti t => f gi ti t) }, f gi ti t, ?_, ?_, (hf _ _ _ _ hg ht _).mpr hr⟩
    · rw [mapEach_group, hg]; rfl
    · show (g.threads.mapIdx _)[ti]? = _
      rw [List.getElem?_mapIdx, ht]; rfl
  · intro gi ti g t k hg ht hr _
    rw [mapEach_group] at hg
    cases h1 : w.groups[gi]? with
    | none => simp [h1] at hg
    | some g0 =>
      simp only [h1, Option.map_some, Option.some.injEq] at hg
      subst hg
      simp only [List.getElem?_mapIdx] at ht
      cases h2 : g0.threads[ti]? with
      | none => simp [h2] at ht
      | some t0 =>
        simp only [h2, Option.map_some, Option.some.injEq] at ht
        subst ht
        exact ⟨g0, t0, rfl, h2, (hf _ _ _ _ h1 h2 _).mp hr⟩

theorem commit_quiet (s : State) (g : Group) (ti : Nat) (t : Thread) (h1 : t.pending = []) (h2 : t.unwaited = []) :
    t.commit s g ti = t := by
  obtain ⟨⟩ := t
  simp only at h1 h2
  subst h1 h2
  rfl

theorem gcommit_quiet (s : State) (g : Group) (h : g.gPending = []) : g.commit s = g := by
  obtain ⟨⟩ := g
  simp only at h
  subst h
  rfl

theorem fold_same {α β : Type} (f : β → α → β) (b : β) (l : List α) (h : ∀ a ∈ l, f b a = b) : l.foldl f b = b := by
  induction l with
  | nil => rfl
  | cons a l ih =>
    rw [List.foldl_cons, h a (List.mem_cons_self), ih (fun x hx => h x (List.mem_cons_of_mem _ hx))]

/-- A unit that has no thread trap and asks for no load leaves nothing for the end of its cycle. -/
theorem endUnit_nil (s : State) (wid : Nat) (pc : Word) (len : Nat) (vecs : List (Nat × Word)) :
    s.endUnit { wid := wid, pc := pc, len := len, vecs := vecs, traps := [], loads := [] } = s := rfl

theorem parkMisses_nil (s : State) (wid : Nat) (pc : Word) : s.parkMisses wid pc [] = (s, []) := by
  unfold State.parkMisses
  simp only [missesOf, List.flatMap_nil]
  split
  · rename_i h; cases h
  · rfl

/-- The threads of a unit's end, before waking: past the unit, and parked in the new set when `p`. -/
def endThread (s : State) (sh : Shape) (jump p : Bool) (gi ti : Nat) (t : Thread) : Thread :=
  if s.issuing gi ti then
    if p && t.run == .ready then (t.beyond sh jump).park (.wait s.issue.pc false) s.nextId else t.beyond sh jump
  else t

/-- The end of a unit, before waking. -/
def endState (s : State) (sh : Shape) (jump p : Bool) : State :=
  { s.modWg s.issue.wid (fun w => w.mapEach (endThread s sh jump p)) with nextId := s.nextId + 1 }

theorem pastUnit_eq (s : State) (sh : Shape) (jump : Bool) : s.pastUnit sh jump = endState s sh jump (sh.h && s.awaits) := rfl

theorem endState_wg (s : State) (sh : Shape) (jump p : Bool) :
    (endState s sh jump p).wg? s.issue.wid = (s.wg? s.issue.wid).map (fun w => w.mapEach (endThread s sh jump p)) :=
  wg_modWg s s.issue.wid _ (fun _ => rfl)

theorem finish_start (sh : Shape) (jump : Bool) (all : List (Nat × Nat)) (vecs : List (Nat × Word)) (s : State) (hn : all.Nodup)
    (hm : ∀ w ∈ s.wgs, w.wid = s.issue.wid → ∀ gi ti g t, w.groups[gi]? = some g → g.threads[ti]? = some t →
      ((gi, ti) ∈ all ↔ s.issuing gi ti = true)) :
    finishUnit sh jump all [] s.issue.pc s.issue.wid vecs s = (endState s sh jump sh.h).wakeWaits s.issue.wid := by
  have hf : all.filter (fun x => ! ([] : List Fate).any (fun f => f.gi == x.1 && f.ti == x.2 && ! f.v.completes)) = all := by simp
  simp only [finishUnit, parkMisses_nil, hf, List.foldl_nil, trapsOf, State.loadsOf, List.filterMap_nil, endUnit_nil]
  generalize hwid : s.issue.wid = wid
  generalize hpc : s.issue.pc = pc
  have h1 : (if jump then all.foldl (fun s x => s.modThread wid x.1 x.2 (fun t => { t with age := 0, pass := none, redo := none }))
        { s with nextId := s.nextId + 1 }
      else all.foldl (fun s x => s.advance wid x.1 x.2 sh.len) { s with nextId := s.nextId + 1 }) =
      State.modWg { s with nextId := s.nextId + 1 } wid
        (fun w => w.mapEach (fun a b t => if (a, b) ∈ all then t.beyond sh jump else t)) := by
    cases jump
    · exact fold_modThread wid (fun t => t.beyond sh false) all hn _
    · exact fold_modThread wid (fun t => t.beyond sh true) all hn _
  rw [h1]
  congr 1
  have h2 : ∀ p : Bool, (if p then all.foldl (fun s0 x => s0.modThread wid x.1 x.2 (fun t =>
        if t.run = .ready then t.park (.wait pc false) s.nextId else t))
        (State.modWg { s with nextId := s.nextId + 1 } wid
          (fun w => w.mapEach (fun a b t => if (a, b) ∈ all then t.beyond sh jump else t)))
      else State.modWg { s with nextId := s.nextId + 1 } wid
        (fun w => w.mapEach (fun a b t => if (a, b) ∈ all then t.beyond sh jump else t))) = endState s sh jump p := by
    intro p
    have h3 : ∀ q : Nat → Nat → Thread → Thread, (∀ a b t, q a b t = if (a, b) ∈ all then
          (if p && t.run == .ready then (t.beyond sh jump).park (.wait pc false) s.nextId else t.beyond sh jump) else t) →
        State.modWg { s with nextId := s.nextId + 1 } wid (fun w => w.mapEach q) = endState s sh jump p := by
      intro q hq
      simp only [endState]
      rw [hwid]
      show State.modWg { s with nextId := s.nextId + 1 } wid _ = State.modWg { s with nextId := s.nextId + 1 } wid _
      apply modWg_congr
      intro w hw hw1
      apply mapEach_congr
      intro gi ti g t hg ht
      have := hm w hw (hw1.trans hwid.symm) gi ti g t hg ht
      rw [hq, endThread, hpc]
      by_cases hi : s.issuing gi ti = true
      · simp [hi, this.mpr hi]
      · have : (gi, ti) ∉ all := fun h => hi (this.mp h)
        simp [hi, this]
    cases p
    · simp only [Bool.false_eq_true, if_false]
      apply h3
      intro a b t
      simp
    · simp only [if_true]
      rw [fold_modThread wid (fun t => if t.run = .ready then t.park (.wait pc false) s.nextId else t) all hn,
        modWg_modWg _ _ _ _ (fun w => mapEach_wid w _)]
      have : (fun w : Workgroup => (w.mapEach (fun a b t => if (a, b) ∈ all then t.beyond sh jump else t)).mapEach
          (fun a b t => if (a, b) ∈ all then (if t.run = .ready then t.park (.wait pc false) s.nextId else t) else t)) =
          (fun w => w.mapEach (fun a b t => if (a, b) ∈ all then
            (if t.run = .ready then (t.beyond sh jump).park (.wait pc false) s.nextId else t.beyond sh jump) else t)) := by
        funext w
        rw [mapEach_mapEach]
        congr 1
        funext a b t
        by_cases h : (a, b) ∈ all <;> simp [h, Thread.beyond]
      rw [this]
      apply h3
      intro a b t
      simp
  exact h2 sh.h

theorem endThread_pending (s : State) (sh : Shape) (jump p : Bool) (gi ti : Nat) (t : Thread) :
    (endThread s sh jump p gi ti t).pending = t.pending := by
  simp only [endThread]
  split
  · split <;> rfl
  · rfl

/-- Sets that waited before the unit still do, and none is new but the unit's own. -/
theorem end_sameParks (sh : Shape) (s : State) (jump p : Bool) (w : Workgroup) (hw : s.wg? s.issue.wid = some w)
    (hr : ∀ gi ti t, s.issuing gi ti = true → s.thread? s.issue.wid gi ti = some t → t.run = .ready ∨ t.run = .exited)
    (set : Nat) (hs : p = false ∨ set ≠ s.nextId) : SameParks w (w.mapEach (endThread s sh jump p)) set := by
  apply mapEach_sameParks
  intro gi ti g t hg ht k
  simp only [endThread]
  by_cases hi : s.issuing gi ti = true
  · have hth : s.thread? s.issue.wid gi ti = some t := by
      simp [State.thread?, State.group?, hw, hg, ht]
    have hrun := hr gi ti t hi hth
    simp only [hi, if_true]
    by_cases hp : (p && t.run == .ready) = true
    · simp only [hp, if_true, Thread.park]
      simp only [Bool.and_eq_true, beq_iff_eq] at hp
      rcases hs with h | h
      · simp [h] at hp
      · rw [hp.2]
        simp [Ne.symm h]
    · simp only [hp, Thread.beyond]
      rfl
  · simp [hi]

theorem mem_readyIssuers (s : State) (w : Workgroup) (x : Nat × Nat) :
    x ∈ s.readyIssuers w ↔ ∃ g t, w.groups[x.1]? = some g ∧ g.threads[x.2]? = some t ∧ s.issuing x.1 x.2 = true ∧ t.run = .ready := by
  obtain ⟨gi, ti⟩ := x
  simp only [State.readyIssuers, List.mem_flatMap, List.mem_filterMap, Prod.exists, List.mem_zipIdx_iff_getElem?]
  constructor
  · rintro ⟨g, i, hg, t, j, ht, h⟩
    split at h
    · rename_i hc
      simp only [Option.some.injEq, Prod.mk.injEq] at h
      obtain ⟨h1, h2⟩ := h
      subst h1 h2
      exact ⟨g, t, hg, ht, hc.1, hc.2⟩
    · cases h
  · rintro ⟨g, t, hg, ht, hi, hr⟩
    exact ⟨g, gi, hg, t, ti, ht, by simp [show s.issuing gi ti = true from hi, hr]⟩

/-- The unit's own set. -/
theorem end_own (sh : Shape) (s : State) (jump : Bool) (w : Workgroup)
    (hno : w.waiters s.nextId = []) (x) :
    x ∈ (w.mapEach (endThread s sh jump true)).waiters s.nextId ↔
      (x.1, x.2.1) ∈ s.readyIssuers w ∧ x.2.2 = (s.issue.pc, false) := by
  rw [mem_waiters, mem_readyIssuers]
  obtain ⟨gi, ti, u, d⟩ := x
  simp only [mapEach_group]
  constructor
  · rintro ⟨g, t, hg, ht, hr⟩
    cases h1 : w.groups[gi]? with
    | none => simp [h1] at hg
    | some g0 =>
      simp only [h1, Option.map_some, Option.some.injEq] at hg
      subst hg
      simp only [List.getElem?_mapIdx] at ht
      cases h2 : g0.threads[ti]? with
      | none => simp [h2] at ht
      | some t0 =>
        simp only [h2, Option.map_some, Option.some.injEq] at ht
        subst ht
        simp only [endThread, Bool.true_and] at hr
        by_cases hi : s.issuing gi ti = true
        · simp only [hi, if_true] at hr
          by_cases hrd : t0.run = .ready
          · simp only [hrd, beq_self_eq_true, if_true, Thread.park, RunState.parked.injEq, ParkKind.wait.injEq] at hr
            exact ⟨⟨g0, t0, rfl, h2, hi, hrd⟩, by rw [hr.1.1, hr.1.2]⟩
          · have : (t0.run == RunState.ready) = false := by simp [hrd]
            simp only [this] at hr
            have hmem : (gi, ti, u, d) ∈ w.waiters s.nextId := (mem_waiters _ _ _).mpr ⟨g0, t0, h1, h2, hr⟩
            rw [hno] at hmem
            cases hmem
        · simp only [hi] at hr
          have hmem : (gi, ti, u, d) ∈ w.waiters s.nextId := (mem_waiters _ _ _).mpr ⟨g0, t0, h1, h2, hr⟩
          rw [hno] at hmem
          cases hmem
  · rintro ⟨⟨g, t, hg, ht, hi, hr⟩, h⟩
    simp only [Prod.mk.injEq] at h
    obtain ⟨h1, h2⟩ := h
    subst h1 h2
    refine ⟨{ g with threads := g.threads.mapIdx (fun ti t => endThread s sh jump true gi ti t) }, endThread s sh jump true gi ti t, ?_, ?_, ?_⟩
    · rw [show w.groups[gi]? = some g from hg]; rfl
    · show (g.threads.mapIdx _)[ti]? = _
      rw [List.getElem?_mapIdx, show g.threads[ti]? = some t from ht]; rfl
    · simp only [endThread, show s.issuing gi ti = true from hi, hr, beq_self_eq_true, Bool.and_self, if_true, Thread.park]

/-- No thread of the workgroup is parked under the next number. -/
theorem no_next {s : State} (hc : Calm s) {w : Workgroup} (hw : s.wg? s.issue.wid = some w) {gi ti : Nat} {g : Group} {t : Thread} {k : ParkKind}
    (hg : w.groups[gi]? = some g) (ht : g.threads[ti]? = some t) : t.run ≠ .parked k s.nextId := fun h =>
  Nat.lt_irrefl _ (hc.fresh w hw g (List.mem_of_getElem? hg) t (List.mem_of_getElem? ht) k s.nextId h)

theorem no_waiters {s : State} (hc : Calm s) {w : Workgroup} (hw : s.wg? s.issue.wid = some w) : w.waiters s.nextId = [] := by
  apply List.eq_nil_iff_forall_not_mem.mpr
  intro x hx
  obtain ⟨g, t, hg, ht, hr⟩ := (mem_waiters _ _ _).mp hx
  exact no_next hc hw hg ht hr

theorem end_single {s : State} (hc : Calm s) (sh : Shape) (jump p : Bool) : ∀ x ∈ (endState s sh jump p).wgs, x.wid = s.issue.wid →
    (endState s sh jump p).wg? s.issue.wid = some x := by
  intro x hx hxw
  rw [endState_wg]
  simp only [endState, State.modWg, List.mem_map] at hx
  obtain ⟨w0, hw0, he⟩ := hx
  by_cases h0 : w0.wid = s.issue.wid
  · simp only [h0, if_true] at he
    rw [hc.single w0 hw0 h0, ← he]; rfl
  · simp only [h0, if_false] at he
    subst he; exact absurd hxw h0

/-- A thread of a workgroup at a unit's end. -/
theorem endThread_of (s : State) (sh : Shape) (jump p : Bool) (w : Workgroup) (gi ti : Nat) (g : Group) (t : Thread)
    (hg : (w.mapEach (endThread s sh jump p)).groups[gi]? = some g) (ht : g.threads[ti]? = some t) :
    ∃ g0 t0, w.groups[gi]? = some g0 ∧ g0.threads[ti]? = some t0 ∧
      g = { g0 with threads := g0.threads.mapIdx (fun ti t => endThread s sh jump p gi ti t) } ∧ t = endThread s sh jump p gi ti t0 := by
  rw [mapEach_group] at hg
  cases h1 : w.groups[gi]? with
  | none => simp [h1] at hg
  | some g0 =>
    simp only [h1, Option.map_some, Option.some.injEq] at hg
    subst hg
    simp only [List.getElem?_mapIdx] at ht
    cases h2 : g0.threads[ti]? with
    | none => simp [h2] at ht
    | some t0 =>
      simp only [h2, Option.map_some, Option.some.injEq] at ht
      exact ⟨g0, t0, rfl, h2, rfl, ht.symm⟩

/-- How a thread stands in the unit's own set: it waits for results. -/
theorem end_own_run {s : State} (hc : Calm s) {w : Workgroup} (hw : s.wg? s.issue.wid = some w) (sh : Shape) (jump p : Bool) {gi ti : Nat}
    {g : Group} {t : Thread} {k : ParkKind} (hg : (w.mapEach (endThread s sh jump p)).groups[gi]? = some g) (ht : g.threads[ti]? = some t)
    (hr : t.run = .parked k s.nextId) : k = .wait s.issue.pc false := by
  obtain ⟨g0, t0, hg0, ht0, _, hte⟩ := endThread_of s sh jump p w gi ti g t hg ht
  have hno := fun k => no_next (k := k) hc hw hg0 ht0
  rw [hte] at hr
  simp only [endThread] at hr
  split at hr
  · split at hr
    · simp only [Thread.park, RunState.parked.injEq] at hr; exact hr.1.symm
    · exact absurd hr (hno k)
  · exact absurd hr (hno k)

theorem end_own_noneMet {s : State} (hc : Calm s) {w : Workgroup} (hw : s.wg? s.issue.wid = some w) (sh : Shape) (jump p : Bool) :
    (w.mapEach (endThread s sh jump p)).NoneMet s.nextId := by
  rw [noneMet_iff]
  intro gi ti g t hg ht a b c hr
  have := end_own_run hc hw sh jump p hg ht hr
  cases this

theorem end_own_unmet {s : State} (hc : Calm s) {w : Workgroup} (hw : s.wg? s.issue.wid = some w) (sh : Shape) (jump p : Bool) :
    (w.mapEach (endThread s sh jump p)).unmet s.nextId = false := by
  rw [Bool.eq_false_iff]
  intro h
  obtain ⟨gi, ti, g, t, k, hg, ht, hr, h1, h2⟩ := (unmet_iff _ _).mp h
  rw [end_own_run hc hw sh jump p hg ht hr] at h2
  cases h2

/-- A set that rested before the unit rests at its end. -/
theorem end_rests {s : State} (hc : Calm s) {w : Workgroup} (hw : s.wg? s.issue.wid = some w) (sh : Shape) (jump p : Bool) (set : Nat)
    (hs : p = false ∨ set ≠ s.nextId) (hin : set ∈ (w.mapEach (endThread s sh jump p)).waitingSets) :
    (w.mapEach (endThread s sh jump p)).Rests set := by
  have hsame := end_sameParks sh s jump p w hw hc.ready set hs
  refine hsame.rests (fun x _ hx => ?_) (hc.resting w hw set (hsame.waitingSets.mp hin))
  rw [returned_mapEach _ _ (fun _ _ _ => endThread_pending ..)]; exact hx

/-- Where no result is awaited by the unit's own set, or one is still to come, nothing wakes. -/
theorem wake_end_still (sh : Shape) (jump p : Bool) (s : State) (hc : Calm s) (hp : p = false ∨ s.awaits = true) :
    (endState s sh jump p).wakeWaits s.issue.wid = endState s sh jump p := by
  apply wakeWaits_rests _ _ (end_single hc sh jump p)
  intro w' hw' set hin
  obtain ⟨w, hw⟩ := hc.found
  rw [endState_wg, hw] at hw'
  simp only [Option.map_some, Option.some.injEq] at hw'
  subst hw'
  by_cases hs : p = false ∨ set ≠ s.nextId
  · exact end_rests hc hw sh jump p set hs hin
  · have hp1 : p = true := by cases p <;> simp_all
    have hset : set = s.nextId := by
      exact Classical.byContradiction (fun h => hs (.inr h))
    subst hset hp1
    have haw : s.awaits = true := by simpa using hp
    simp only [State.awaits, hw, List.any_eq_true] at haw
    obtain ⟨x, hx, hret⟩ := haw
    refine .inr ⟨end_own_noneMet hc hw sh jump true, (due_false_iff _ _).mpr ⟨(x.1, x.2, s.issue.pc, false),
      (end_own sh s jump w (no_waiters hc hw) _).mpr ⟨hx, rfl⟩, ?_⟩⟩
    rw [returned_mapEach _ _ (fun _ _ _ => endThread_pending ..)]
    simpa using hret

theorem fold_wake (wid : Nat) (l : List (Nat × Nat × Word × Bool)) (s : State)
    (single : ∀ w ∈ s.wgs, w.wid = wid → s.wg? wid = some w)
    (hq : ∀ x ∈ l, ∀ w g t, s.wg? wid = some w → w.groups[x.1]? = some g → g.threads[x.2.1]? = some t →
      t.pending = [] ∧ t.unwaited = []) :
    l.foldl (fun s x => s.modGroup wid x.1 (fun g =>
      { g with threads := g.threads.modify x.2.1 (fun t => (t.commit s g x.2.1).wake) })) s =
    l.foldl (fun s x => s.modThread wid x.1 x.2.1 Thread.wake) s := by
  induction l generalizing s with
  | nil => rfl
  | cons x l ih =>
    simp only [List.foldl_cons]
    have hstep : s.modGroup wid x.1 (fun g => { g with threads := g.threads.modify x.2.1 (fun t => (t.commit s g x.2.1).wake) }) =
        s.modThread wid x.1 x.2.1 Thread.wake := by
      simp only [State.modThread, State.modGroup]
      apply modWg_congr
      intro w hw hwid
      congr 1
      apply List.ext_getElem?
      intro i
      simp only [List.getElem?_modify]
      by_cases hi : x.1 = i
      · subst hi
        cases hg : w.groups[x.1]? with
        | none => rfl
        | some g =>
          simp only [if_true, Option.map_eq_map, Option.map_some, Option.some.injEq]
          congr 1
          apply List.ext_getElem?
          intro j
          simp only [List.getElem?_modify]
          by_cases hj : x.2.1 = j
          · subst hj
            cases ht : g.threads[x.2.1]? with
            | none => rfl
            | some t =>
              have := hq x (List.mem_cons_self) w g t (single w hw hwid) hg ht
              simp [commit_quiet _ _ _ _ this.1 this.2]
          · simp [hj]
      · simp [hi]
    rw [hstep]
    apply ih
    · intro w hw hwid
      rw [modThread_eq] at hw ⊢
      rw [wg_modWg _ _ _ (fun w => mapEach_wid w _)]
      simp only [State.modWg, List.mem_map] at hw
      obtain ⟨w0, hw0, he⟩ := hw
      by_cases h0 : w0.wid = wid
      · simp only [h0, if_true] at he
        rw [single w0 hw0 h0, ← he]; rfl
      · simp only [h0, if_false] at he
        subst he; exact absurd hwid h0
    · intro y hy w g t hw hg ht
      rw [modThread_eq, wg_modWg _ _ _ (fun w => mapEach_wid w _)] at hw
      cases h0 : s.wg? wid with
      | none => simp [h0] at hw
      | some w0 =>
        simp only [h0, Option.map_some, Option.some.injEq] at hw
        subst hw
        rw [mapEach_group] at hg
        cases h1 : w0.groups[y.1]? with
        | none => simp [h1] at hg
        | some g0 =>
          simp only [h1, Option.map_some, Option.some.injEq] at hg
          subst hg
          simp only [List.getElem?_mapIdx] at ht
          cases h2 : g0.threads[y.2.1]? with
          | none => simp [h2] at ht
          | some t0 =>
            simp only [h2, Option.map_some, Option.some.injEq] at ht
            have := hq y (List.mem_cons_of_mem _ hy) w0 g0 t0 h0 h1 h2
            subst ht
            split <;> simpa [Thread.wake] using this

theorem modGroup_same (s : State) (wid gi : Nat) (f : Group → Group)
    (h : ∀ w ∈ s.wgs, w.wid = wid → ∀ g, w.groups[gi]? = some g → f g = g) : s.modGroup wid gi f = s := by
  apply modWg_same
  intro w hw hwid
  have : w.groups.modify gi f = w.groups := by
    apply List.ext_getElem?
    intro i
    simp only [List.getElem?_modify]
    by_cases hi : gi = i
    · subst hi
      cases hg : w.groups[gi]? with
      | none => rfl
      | some g => simp [h w hw hwid g hg]
    · simp [hi]
  rw [this]

theorem fold_modThread_idem (wid : Nat) (f : Thread → Thread) (hf : ∀ t, f (f t) = f t) (l : List (Nat × Nat)) (s : State) :
    l.foldl (fun s x => s.modThread wid x.1 x.2 f) s =
      s.modWg wid (fun w => w.mapEach (fun a b t => if (a, b) ∈ l then f t else t)) := by
  induction l generalizing s with
  | nil =>
    simp only [List.foldl_nil, List.not_mem_nil, if_false]
    exact (modWg_same _ _ _ (fun w _ _ => mapEach_same w)).symm
  | cons x l ih =>
    rw [List.foldl_cons, ih, modThread_eq, modWg_modWg _ _ _ _ (fun w => mapEach_wid w _)]
    apply modWg_congr
    intro w _ _
    rw [mapEach_mapEach]
    congr 1
    funext a b t
    by_cases h : (a, b) = x
    · have h1 : a = x.1 ∧ b = x.2 := by rw [← h]; exact ⟨rfl, rfl⟩
      by_cases hx : x ∈ l <;> simp [h1, hx, hf]
    · have h1 : ¬ (a = x.1 ∧ b = x.2) := fun h' => h (by rw [h'.1, h'.2])
      simp [h1, h]

theorem endState_mem (s : State) (sh : Shape) (jump p : Bool) (w' : Workgroup) (hw' : w' ∈ (endState s sh jump p).wgs)
    (hwid : w'.wid = s.issue.wid) : ∃ w ∈ s.wgs, w.wid = s.issue.wid ∧ w' = w.mapEach (endThread s sh jump p) := by
  simp only [endState, State.modWg, List.mem_map] at hw'
  obtain ⟨w, hw, he⟩ := hw'
  by_cases h : w.wid = s.issue.wid
  · simp only [h, if_true] at he
    exact ⟨w, hw, h, he.symm⟩
  · simp only [h, if_false] at he
    subst he; exact absurd hwid h

/-- Where the unit's set has nothing outstanding, it wakes at once. -/
theorem wake_own_quiet (sh : Shape) (jump : Bool) (s : State) (hc : Calm s) (w : Workgroup) (hw : s.wg? s.issue.wid = some w)
    (hq : ∀ gi ti g t, s.issuing gi ti = true → s.group? s.issue.wid gi = some g → g.threads[ti]? = some t → Quiet g t)
    (hne : s.readyIssuers w ≠ []) :
    (endState s sh jump true).wakeSet s.issue.wid s.nextId = endState s sh jump false := by
  have hno : w.waiters s.nextId = [] := no_waiters hc hw
  have hwP : (endState s sh jump true).wg? s.issue.wid = some (w.mapEach (endThread s sh jump true)) := by
    rw [endState_wg, hw]; rfl
  have hown := end_own sh s jump w hno
  have hquiet : ∀ gi ti g t, s.issuing gi ti = true → w.groups[gi]? = some g → g.threads[ti]? = some t → Quiet g t := by
    intro gi ti g t hi hg ht
    exact hq gi ti g t hi (by simp [State.group?, hw, hg]) ht
  generalize hws : (w.mapEach (endThread s sh jump true)).waiters s.nextId = ws at hown
  have hws1 : ws.isEmpty = false := by
    cases hr : s.readyIssuers w with
    | nil => exact absurd hr hne
    | cons x l =>
      have : (x.1, x.2, s.issue.pc, false) ∈ ws := (hown _).mpr ⟨by rw [hr]; simp, rfl⟩
      cases ws with
      | nil => cases this
      | cons _ _ => rfl
  have hmemq : ∀ x ∈ ws, ∃ g t, w.groups[x.1]? = some g ∧ g.threads[x.2.1]? = some t ∧ s.issuing x.1 x.2.1 = true ∧
      t.run = .ready ∧ Quiet g t := by
    intro x hx
    obtain ⟨hx1, _⟩ := (hown x).mp hx
    obtain ⟨g, t, hg, ht, hi, hr⟩ := (mem_readyIssuers _ _ _).mp hx1
    exact ⟨g, t, hg, ht, hi, hr, hquiet _ _ _ _ hi hg ht⟩
  have hdue : (w.mapEach (endThread s sh jump true)).due s.nextId = true := by
    simp only [Workgroup.due, hws, List.all_eq_true]
    intro x hx
    obtain ⟨g, t, hg, ht, hi, hr, q1, q2, q3, q4, q5⟩ := hmemq x hx
    rw [returned_mapEach _ _ (fun _ _ _ => endThread_pending ..)]
    simp [Workgroup.returned, hg, ht, Thread.allReturned, q1, q3]
  have hsing : ∀ w' ∈ (endState s sh jump true).wgs, w'.wid = s.issue.wid →
      (endState s sh jump true).wg? s.issue.wid = some w' := by
    intro w' hw' hwid
    obtain ⟨w0, hw0, hwid0, he⟩ := endState_mem _ _ _ _ _ hw' hwid
    have h1 := hc.single w0 hw0 hwid0
    rw [hwP, he]
    rw [hw] at h1
    rw [Option.some.inj h1]
  have hcommit : (endState s sh jump true).commitWaiters s.issue.wid ws = endState s sh jump false := by
    simp only [State.commitWaiters]
    generalize hwid : s.issue.wid = wid at *
    rw [fold_wake wid ws (endState s sh jump true) hsing]
    · have hpairs : ws.foldl (fun s x => s.modThread wid x.1 x.2.1 Thread.wake) (endState s sh jump true) =
          (ws.map (fun x => (x.1, x.2.1))).foldl (fun s x => s.modThread wid x.1 x.2 Thread.wake) (endState s sh jump true) := by
        rw [List.foldl_map]
      rw [hpairs, fold_modThread_idem wid Thread.wake (fun _ => rfl)]
      have hX : (endState s sh jump true).modWg wid (fun w => w.mapEach (fun a b t =>
          if (a, b) ∈ ws.map (fun x => (x.1, x.2.1)) then t.wake else t)) = endState s sh jump false := by
        have : (endState s sh jump true).modWg wid (fun w => w.mapEach (fun a b t =>
            if (a, b) ∈ ws.map (fun x => (x.1, x.2.1)) then t.wake else t)) =
            { (s.modWg wid (fun w => w.mapEach (endThread s sh jump true))).modWg wid (fun w => w.mapEach (fun a b t =>
            if (a, b) ∈ ws.map (fun x => (x.1, x.2.1)) then t.wake else t)) with nextId := s.nextId + 1 } := by
          simp only [endState, hwid]; rfl
        rw [this, modWg_modWg _ _ _ _ (fun w => mapEach_wid w _)]
        simp only [endState, hwid]
        refine congrArg (fun r : State => { r with nextId := s.nextId + 1 }) (modWg_congr _ _ _ _ ?_)
        intro w0 hw0 hwid0
        have hw00 := hc.single w0 hw0 (hwid0.trans hwid.symm)
        rw [hwid, hw] at hw00
        have hww : w = w0 := Option.some.inj hw00
        subst hww
        rw [mapEach_mapEach]
        apply mapEach_congr
        intro gi ti g t hg ht
        have hmem : (gi, ti) ∈ ws.map (fun x => (x.1, x.2.1)) ↔ (s.issuing gi ti = true ∧ t.run = .ready) := by
          simp only [List.mem_map]
          constructor
          · rintro ⟨x, hx, he⟩
            obtain ⟨g', t', hg', ht', hi, hr, _⟩ := hmemq x hx
            simp only [Prod.mk.injEq] at he
            obtain ⟨h1, h2⟩ := he
            subst h1 h2
            rw [hg] at hg'
            cases hg'
            rw [ht] at ht'
            cases ht'
            exact ⟨hi, hr⟩
          · rintro ⟨hi, hr⟩
            refine ⟨(gi, ti, s.issue.pc, false), (hown _).mpr ⟨(mem_readyIssuers _ _ _).mpr ⟨g, t, hg, ht, hi, hr⟩, rfl⟩, rfl⟩
        by_cases hi : s.issuing gi ti = true
        · by_cases hr : t.run = .ready
          · simp only [hmem, hi, hr, and_self, if_true, endThread, beq_self_eq_true, Bool.and_self, Thread.park, Thread.wake,
              Bool.false_and, Thread.beyond]
            obtain ⟨⟩ := t
            simp only at hr
            subst hr
            simp
          · have : (t.run == RunState.ready) = false := by simp [hr]
            simp [hmem, hi, hr, endThread]
        · simp [hmem, hi, endThread]
      rw [hX]
      apply fold_same
      intro gi hgi
      apply modGroup_same
      intro w' hw' hwid' g hg
      apply gcommit_quiet
      obtain ⟨w0, hw0, hwid0, he⟩ := endState_mem _ _ _ _ _ hw' (hwid'.trans hwid.symm)
      have hw00 := hc.single w0 hw0 hwid0
      rw [hwid, hw] at hw00
      have hww : w = w0 := Option.some.inj hw00
      subst hww he
      rw [List.mem_eraseDups, List.mem_map] at hgi
      obtain ⟨x, hx, hxe⟩ := hgi
      obtain ⟨g', t', hg', _, _, _, q1, _⟩ := hmemq x hx
      rw [mapEach_group, ← hxe, hg'] at hg
      simp only [Option.map_some, Option.some.injEq] at hg
      rw [← hg]; exact q1
    · intro x hx w' g t hw' hg ht
      rw [hwP] at hw'
      simp only [Option.some.injEq] at hw'
      subst hw'
      obtain ⟨g0, t0, hg0, ht0, hge, hte⟩ := endThread_of _ _ _ _ _ _ _ _ _ hg ht
      obtain ⟨g', t', hg', ht', hi, hr, q1, q2, q3, q4, q5⟩ := hmemq x hx
      rw [hg0] at hg'; cases hg'
      rw [ht0] at ht'; cases ht'
      rw [hte]
      simp only [endThread, hi, hr, beq_self_eq_true, Bool.and_self, if_true, Thread.park, Thread.beyond]
      exact ⟨q3, q4⟩
  rw [wakeSet_none _ _ _ _ hwP (fun x hx hxw => (Option.some.inj (hwP.symm.trans (hsing x hx hxw))).symm)
    (end_own_noneMet hc hw sh jump true)]
  simp only [end_own_unmet hc hw, hdue, Bool.not_true, Bool.or_self, Bool.false_eq_true, if_false, hws, hcommit]
  have hpo : (endState s sh jump false).poisonedWaiters s.issue.wid ws = [] := by
    simp only [State.poisonedWaiters, List.filterMap_eq_nil_iff]
    intro x hx
    obtain ⟨g0, t0, hg0, ht0, hi, hr, q1, q2, q3, q4, q5⟩ := hmemq x hx
    split
    · rfl
    · simp only [State.group?, endState_wg, hw, Option.map_some, Option.bind_some, mapEach_group, hg0]
      simp only [List.getElem?_mapIdx, ht0, Option.map_some]
      have hm : (endThread s sh jump false x.1 x.2.1 t0).marks = [] := by
        simp only [endThread, hi, if_true, Bool.false_and, Thread.beyond]; exact q5
      simp [firstMark, hm, q2]
  rw [hpo]
  rfl

/-- Nothing wakes at a unit's end but its own set, and that only where nothing of it is outstanding. -/
theorem wake_end (sh : Shape) (jump : Bool) (s : State) (hc : Calm s) (hwt : Waits sh s) :
    (endState s sh jump sh.h).wakeWaits s.issue.wid = s.pastUnit sh jump := by
  rw [pastUnit_eq]
  cases hh : sh.h with
  | false => exact wake_end_still sh jump false s hc (.inl rfl)
  | true =>
    cases ha : s.awaits with
    | true => exact wake_end_still sh jump true s hc (.inr ha)
    | false =>
      have hq := (hwt hh).resolve_left (by simp [ha])
      obtain ⟨w, hw⟩ := hc.found
      have hX : ∀ set, (endState s sh jump false).wakeSet s.issue.wid set = endState s sh jump false ∨ set ∉
          (w.mapEach (endThread s sh jump false)).waitingSets := by
        intro set
        by_cases hin : set ∈ (w.mapEach (endThread s sh jump false)).waitingSets
        · left
          apply wakeSet_rests _ _ _ (end_single hc sh jump false)
          intro w' hw'
          rw [endState_wg, hw] at hw'
          simp only [Option.map_some, Option.some.injEq] at hw'
          subst hw'
          exact end_rests hc hw sh jump false set (.inl rfl) hin
        · exact .inr hin
      have hP : ∀ set ∈ (w.mapEach (endThread s sh jump true)).waitingSets, set ≠ s.nextId →
          (endState s sh jump true).wakeSet s.issue.wid set = endState s sh jump true := by
        intro set hin hs
        apply wakeSet_rests _ _ _ (end_single hc sh jump true)
        intro w' hw'
        rw [endState_wg, hw] at hw'
        simp only [Option.map_some, Option.some.injEq] at hw'
        subst hw'
        exact end_rests hc hw sh jump true set (.inr hs) hin
      have hno : w.waiters s.nextId = [] := no_waiters hc hw
      have hwP : (endState s sh jump true).wg? s.issue.wid = some (w.mapEach (endThread s sh jump true)) := by
        rw [endState_wg, hw]; rfl
      show (endState s sh jump true).wakeWaits s.issue.wid = endState s sh jump false
      by_cases hne : s.readyIssuers w = []
      · have he : endState s sh jump true = endState s sh jump false := by
          simp only [endState]
          refine congrArg (fun r : State => { r with nextId := s.nextId + 1 }) (modWg_congr _ _ _ _ ?_)
          intro w0 hw0 hwid0
          have := hc.single w0 hw0 hwid0
          rw [hw] at this
          obtain rfl := Option.some.inj this
          apply mapEach_congr
          intro gi ti g t hg ht
          simp only [endThread]
          by_cases hi : s.issuing gi ti = true
          · have hr : t.run ≠ .ready := by
              intro hr
              have : (gi, ti) ∈ s.readyIssuers w := (mem_readyIssuers _ _ _).mpr ⟨g, t, hg, ht, hi, hr⟩
              rw [hne] at this
              cases this
            have : (t.run == RunState.ready) = false := by simp [hr]
            simp [this]
          · simp [hi]
        rw [he]
        exact wake_end_still sh jump false s hc (.inl rfl)
      · have hown := wake_own_quiet sh jump s hc w hw hq hne
        have hin : s.nextId ∈ (w.mapEach (endThread s sh jump true)).waitingSets := by
          cases hr : s.readyIssuers w with
          | nil => exact absurd hr hne
          | cons x l =>
            have : (x.1, x.2, s.issue.pc, false) ∈ (w.mapEach (endThread s sh jump true)).waiters s.nextId :=
              (end_own sh s jump w hno _).mpr ⟨by rw [hr]; simp, rfl⟩
            obtain ⟨g, t, hg, ht, hrun⟩ := (mem_waiters _ _ _).mp this
            exact (mem_waitingSets _ _).mpr ⟨_, _, g, t, _, hg, ht, hrun, rfl⟩
        have hsub : ∀ set ∈ (w.mapEach (endThread s sh jump true)).waitingSets, set ≠ s.nextId →
            set ∈ (w.mapEach (endThread s sh jump false)).waitingSets := by
          intro set h1 h2
          exact (end_sameParks sh s jump false w hw hc.ready set (.inl rfl)).waitingSets.mpr
            ((end_sameParks sh s jump true w hw hc.ready set (.inr h2)).waitingSets.mp h1)
        have hX' : ∀ set ∈ (w.mapEach (endThread s sh jump true)).waitingSets, set ≠ s.nextId →
            (endState s sh jump false).wakeSet s.issue.wid set = endState s sh jump false :=
          fun set h1 h2 => (hX set).resolve_right (fun h => h (hsub set h1 h2))
        have hX0 : (endState s sh jump false).wakeSet s.issue.wid s.nextId = endState s sh jump false := by
          have hwF : (endState s sh jump false).wg? s.issue.wid = some (w.mapEach (endThread s sh jump false)) := by
            rw [endState_wg, hw]; rfl
          have he : (w.mapEach (endThread s sh jump false)).waiters s.nextId = [] := by
            apply List.eq_nil_iff_forall_not_mem.mpr
            intro x hx
            rw [(end_sameParks sh s jump false w hw hc.ready s.nextId (.inl rfl)).waiters x, hno] at hx
            cases hx
          rw [wakeSet_none _ _ _ _ hwF (fun x hx hxw => (Option.some.inj (hwF.symm.trans (end_single hc sh jump false x hx hxw))).symm)
            (end_own_noneMet hc hw sh jump false), he]
          split <;> rfl
        simp only [State.wakeWaits, hwP]
        generalize (w.mapEach (endThread s sh jump true)).waitingSets = l at hin hP hX'
        induction l with
        | nil => cases hin
        | cons k l ih =>
          rw [List.foldl_cons]
          by_cases hk : k = s.nextId
          · rw [hk, hown]
            apply fold_same
            intro a ha
            by_cases hae : a = s.nextId
            · rw [hae]; exact hX0
            · exact hX' a (List.mem_cons_of_mem _ ha) hae
          · rw [hP k List.mem_cons_self hk]
            exact ih ((List.mem_cons.mp hin).resolve_left (fun h => hk h.symm)) (fun a ha => hP a (List.mem_cons_of_mem _ ha))
              (fun a ha => hX' a (List.mem_cons_of_mem _ ha))

/-- The end of a unit that every thread of its set completes. -/
theorem finish_calm (sh : Shape) (jump : Bool) (all : List (Nat × Nat)) (vecs : List (Nat × Word)) (s : State) (hc : Calm s) (hwt : Waits sh s)
    (hn : all.Nodup)
    (hm : ∀ w, s.wg? s.issue.wid = some w → ∀ gi ti g t, w.groups[gi]? = some g → g.threads[ti]? = some t →
      ((gi, ti) ∈ all ↔ s.issuing gi ti = true)) :
    finishUnit sh jump all [] s.issue.pc s.issue.wid vecs s = s.pastUnit sh jump := by
  rw [finish_start sh jump all vecs s hn (fun w hw hwid => hm w (hc.single w hw hwid)), wake_end sh jump s hc hwt]

/-! ### The lanes of a unit -/

theorem mem_issueLanes (s : State) (sh : Shape) (w : Workgroup) (hw : s.wg? s.issue.wid = some w) (e : LaneEnv) :
    e ∈ s.issueLanes sh ↔ ∃ m ∈ s.issue.members, ∃ g, w.groups[m.1]? = some g ∧ ∃ ti ∈ m.2, laneEnv s sh w m.1 g m.2 ti = some e := by
  simp only [State.issueLanes, hw, List.mem_flatMap]
  constructor
  · rintro ⟨m, hm, h⟩
    cases hg : w.groups[m.1]? with
    | none => simp [hg] at h
    | some g =>
      simp only [hg, List.mem_filterMap] at h
      exact ⟨m, hm, g, hg, h⟩
  · rintro ⟨m, hm, g, hg, h⟩
    exact ⟨m, hm, by simp only [hg, List.mem_filterMap]; exact h⟩

/-- What a lane's environment is made of. -/
theorem laneEnv_some (s : State) (sh : Shape) (w : Workgroup) (gi : Nat) (g : Group) (issued : List Nat) (ti : Nat) (e : LaneEnv) :
    laneEnv s sh w gi g issued ti = some e ↔ ∃ t, g.threads[ti]? = some t ∧
      e = { s := s, wg := w, gi := gi, g := g, ti := ti, t := t, issued := issued,
            parts := issued.filter (fun i => participates s sh g i), pfx := sh.p } := by
  simp only [laneEnv, Option.map_eq_some_iff]
  constructor <;> rintro ⟨t, h1, h2⟩ <;> exact ⟨t, h1, h2.symm⟩

theorem lanes_pairs_nodup (s : State) (sh : Shape) (hc : Calm s) : ((s.issueLanes sh).map (fun e => (e.gi, e.ti))).Nodup := by
  obtain ⟨w, hw⟩ := hc.found
  simp only [State.issueLanes, hw]
  have hg := hc.groups
  have ht := hc.threads
  generalize s.issue.members = ms at hg ht
  induction ms with
  | nil => simp
  | cons m ms ih =>
    rw [List.flatMap_cons, List.map_append, List.nodup_append]
    rw [List.map_cons, List.nodup_cons] at hg
    refine ⟨?_, ih hg.2 (fun m' hm' => ht m' (List.mem_cons_of_mem _ hm')), ?_⟩
    · cases hgr : w.groups[m.1]? with
      | none => simp
      | some g =>
        have hnd := ht m (List.mem_cons_self)
        simp only
        generalize hiss : m.2 = tis at hnd
        have : ∀ l : List Nat, l.Nodup → ((l.filterMap (fun ti => laneEnv s sh w m.1 g tis ti)).map (fun e => (e.gi, e.ti))).Nodup := by
          intro l hl
          induction l with
          | nil => simp
          | cons a l ihl =>
            rw [List.nodup_cons] at hl
            cases hta : g.threads[a]? with
            | none => simp [laneEnv, hta]; exact ihl hl.2
            | some t =>
              have hle := (laneEnv_some s sh w m.1 g tis a _).mpr ⟨t, hta, rfl⟩
              rw [List.filterMap_cons, hle]
              simp only [List.map_cons, List.nodup_cons]
              refine ⟨?_, ihl hl.2⟩
              intro hmem
              simp only [List.mem_map, List.mem_filterMap, Prod.mk.injEq] at hmem
              obtain ⟨e, ⟨b, hb, hbe⟩, _, h2⟩ := hmem
              obtain ⟨t', _, he⟩ := (laneEnv_some ..).mp hbe
              subst he
              simp only at h2
              subst h2
              exact hl.1 hb
        exact this tis hnd
    · intro a ha b hb hab
      subst hab
      cases hgr : w.groups[m.1]? with
      | none => simp [hgr] at ha
      | some g =>
        simp only [hgr, List.mem_map, List.mem_filterMap] at ha
        obtain ⟨e, ⟨ti, _, he⟩, hea⟩ := ha
        obtain ⟨t, _, he'⟩ := (laneEnv_some ..).mp he
        simp only [List.mem_map, List.mem_flatMap] at hb
        obtain ⟨e2, ⟨m2, hm2, he2⟩, hea2⟩ := hb
        cases hgr2 : w.groups[m2.1]? with
        | none => simp [hgr2] at he2
        | some g2 =>
          simp only [hgr2, List.mem_filterMap] at he2
          obtain ⟨ti2, _, he2⟩ := he2
          obtain ⟨t2, _, he2'⟩ := (laneEnv_some ..).mp he2
          subst he' he2'
          simp only at hea hea2
          rw [← hea] at hea2
          simp only [Prod.mk.injEq] at hea2
          exact hg.1 (by rw [← hea2.1]; exact List.mem_map_of_mem hm2)

theorem lanes_mem_issuing (s : State) (sh : Shape) (w : Workgroup) (hw : s.wg? s.issue.wid = some w) (gi ti : Nat) (g : Group)
    (t : Thread) (hg : w.groups[gi]? = some g) (ht : g.threads[ti]? = some t) :
    (gi, ti) ∈ (s.issueLanes sh).map (fun e => (e.gi, e.ti)) ↔ s.issuing gi ti = true := by
  simp only [List.mem_map, mem_issueLanes s sh w hw, State.issuing, List.any_eq_true, Bool.and_eq_true, beq_iff_eq, List.contains_iff_mem]
  constructor
  · rintro ⟨e, ⟨m, hm, g', hg', ti', hti', he⟩, hp⟩
    obtain ⟨t', _, he'⟩ := (laneEnv_some ..).mp he
    subst he'
    simp only [Prod.mk.injEq] at hp
    exact ⟨m, hm, hp.1, by rw [← hp.2]; exact hti'⟩
  · rintro ⟨m, hm, h1, h2⟩
    subst h1
    refine ⟨_, ⟨m, hm, g, hg, ti, h2, (laneEnv_some ..).mpr ⟨t, ht, rfl⟩⟩, rfl⟩

/-- A lane's environment, from the issue set. -/
theorem lane_of_mem (s : State) (sh : Shape) (e : LaneEnv) (he : e ∈ s.issueLanes sh) :
    ∃ w, s.wg? s.issue.wid = some w ∧ ∃ m ∈ s.issue.members, ∃ g, w.groups[m.1]? = some g ∧ ∃ ti ∈ m.2, ∃ t, g.threads[ti]? = some t ∧
      e = { s := s, wg := w, gi := m.1, g := g, ti := ti, t := t, issued := m.2,
            parts := m.2.filter (fun i => participates s sh g i), pfx := sh.p } := by
  cases hw : s.wg? s.issue.wid with
  | none => simp [State.issueLanes, hw] at he
  | some w =>
    obtain ⟨m, hm, g, hg, ti, hti, h⟩ := (mem_issueLanes s sh w hw e).mp he
    obtain ⟨t, ht, h2⟩ := (laneEnv_some ..).mp h
    exact ⟨w, rfl, m, hm, g, hg, ti, hti, t, ht, h2⟩

theorem group_of_wg (s : State) (w : Workgroup) (hw : s.wg? s.issue.wid = some w) (gi : Nat) :
    s.group? s.issue.wid gi = w.groups[gi]? := by simp [State.group?, hw]

/-- With every thread of the set passing the prologue, the body sees every lane as it stands. -/
theorem runUnit_passes (i : Instr) (jump : Bool) (cross : Option CrossReads) (extra) (body : Body) (s : State)
    (hpass : Passes i cross extra s) :
    runUnit i jump cross extra body s =
      finishUnit (shapeOf i) jump ((s.issueLanes (shapeOf i)).map (fun e => (e.gi, e.ti))) (body s (s.issueLanes (shapeOf i))).2
        s.issue.pc s.issue.wid (s.vecsOf s.issue.wid) (body s (s.issueLanes (shapeOf i))).1 := by
  have hpre : (s.issueLanes (shapeOf i)).filterMap (fun e =>
      (prologue (shapeOf i) cross (extra s e.wg) e).map (fun t => ({ gi := e.gi, ti := e.ti, v := .trap t } : Fate))) = [] := by
    rw [List.filterMap_eq_nil_iff]
    intro e he
    rw [hpass e he]; rfl
  simp only [runUnit, hpre, List.any_nil, Bool.not_false, List.nil_append]
  have hf : (s.issueLanes (shapeOf i)).filter (fun _ => true) = s.issueLanes (shapeOf i) := by simp
  rw [hf]

/-- How a thread may run after a stage: as before, or READY or at its end when it was not parked in a set that wakes together. -/
def RunsOn (t t' : Thread) : Prop :=
  t'.run = t.run ∨ ((∀ k n, k.together = true → t.run ≠ .parked k n) ∧ (t'.run = .ready ∨ t'.run = .exited))

theorem RunsOn.parked {t t' : Thread} (h : RunsOn t t') (k : ParkKind) (hk : k.together = true) (n : Nat) :
    t'.run = .parked k n ↔ t.run = .parked k n := by
  rcases h with h | ⟨h1, h2⟩
  · rw [h]
  · constructor
    · intro hh; rcases h2 with h2 | h2 <;> rw [h2] at hh <;> cases hh
    · intro hh; exact absurd hh (h1 k n hk)

theorem RunsOn.refl (t : Thread) : RunsOn t t := .inl rfl

theorem RunsOn.trans {a b c : Thread} (h : RunsOn a b) (h' : RunsOn b c) : RunsOn a c := by
  rcases h with h | ⟨h1, h2⟩
  · rcases h' with g | ⟨g1, g2⟩
    · exact .inl (g.trans h)
    · exact .inr ⟨fun k n hk => h ▸ g1 k n hk, g2⟩
  · rcases h' with g | ⟨_, g2⟩
    · exact .inr ⟨h1, by rw [g]; exact h2⟩
    · exact .inr ⟨h1, g2⟩

/-- A thread that runs on is parked under no new number. -/
theorem RunsOn.number {t t' : Thread} (h : RunsOn t t') {k : ParkKind} {n : Nat} (hr : t'.run = .parked k n) : t.run = .parked k n := by
  rcases h with h | ⟨_, h2⟩
  · rw [← h]; exact hr
  · rcases h2 with h2 | h2 <;> rw [h2] at hr <;> cases hr

/-- Two stages of one group through a unit's body: the same threads, each running on, and no result come. -/
structure LikeGroup (g g' : Group) : Prop where
  len : g'.threads.length = g.threads.length
  run : ∀ (ti : Nat) (t t' : Thread), g.threads[ti]? = some t → g'.threads[ti]? = some t' →
    RunsOn t t'
  back : ∀ (ti : Nat) (t t' : Thread), g.threads[ti]? = some t → g'.threads[ti]? = some t' → t.allReturned g = false → t'.allReturned g' = false

/-- Two stages of one workgroup through a unit's body. -/
structure Like (w w' : Workgroup) : Prop where
  len : w'.groups.length = w.groups.length
  group : ∀ (gi : Nat) (g g' : Group), w.groups[gi]? = some g → w'.groups[gi]? = some g' → LikeGroup g g'

/-- A body's effect that keeps the standing of the issue set. -/
structure Keeps (s r : State) : Prop where
  issue : r.issue = s.issue
  next : s.nextId ≤ r.nextId
  single : ∀ w ∈ r.wgs, w.wid = s.issue.wid → r.wg? s.issue.wid = some w
  like : ∀ w, s.wg? s.issue.wid = some w → ∃ w', r.wg? s.issue.wid = some w' ∧ Like w w'

theorem Like.thread {w w' : Workgroup} (h : Like w w') {gi ti : Nat} {g' : Group} {t' : Thread} (hg : w'.groups[gi]? = some g')
    (ht : g'.threads[ti]? = some t') : ∃ g t, w.groups[gi]? = some g ∧ g.threads[ti]? = some t ∧ LikeGroup g g' := by
  obtain ⟨hlt, _⟩ := List.getElem?_eq_some_iff.mp hg
  rw [h.len] at hlt
  obtain ⟨g, hg0⟩ : ∃ g, w.groups[gi]? = some g := ⟨_, List.getElem?_eq_getElem hlt⟩
  have hl := h.group gi g g' hg0 hg
  obtain ⟨hlt2, _⟩ := List.getElem?_eq_some_iff.mp ht
  rw [hl.len] at hlt2
  exact ⟨g, _, hg0, List.getElem?_eq_getElem hlt2, hl⟩

theorem Like.thread' {w w' : Workgroup} (h : Like w w') {gi ti : Nat} {g : Group} {t : Thread} (hg : w.groups[gi]? = some g)
    (ht : g.threads[ti]? = some t) : ∃ g' t', w'.groups[gi]? = some g' ∧ g'.threads[ti]? = some t' ∧ LikeGroup g g' := by
  obtain ⟨hlt, _⟩ := List.getElem?_eq_some_iff.mp hg
  rw [← h.len] at hlt
  obtain ⟨g', hg0⟩ : ∃ g', w'.groups[gi]? = some g' := ⟨_, List.getElem?_eq_getElem hlt⟩
  have hl := h.group gi g g' hg hg0
  obtain ⟨hlt2, _⟩ := List.getElem?_eq_some_iff.mp ht
  rw [← hl.len] at hlt2
  exact ⟨g', _, hg0, List.getElem?_eq_getElem hlt2, hl⟩

theorem Like.refl (w : Workgroup) : Like w w :=
  ⟨rfl, fun gi g g' h h' => by
    rw [h] at h'; cases h'
    exact ⟨rfl, fun ti t t' ht ht' => by rw [ht] at ht'; cases ht'; exact RunsOn.refl _,
      fun ti t t' ht ht' hr => by rw [ht] at ht'; cases ht'; exact hr⟩⟩

/-- An effect that leaves the workgroups alone. -/
theorem Keeps.of_wgs {s r : State} (hc : Calm s) (h1 : r.issue = s.issue) (h2 : s.nextId ≤ r.nextId) (h3 : r.wgs = s.wgs) : Keeps s r := by
  refine ⟨h1, h2, ?_, ?_⟩
  · intro w hw hwid
    rw [h3] at hw
    simpa [State.wg?, h3] using hc.single w hw hwid
  · intro w hw
    exact ⟨w, by simpa [State.wg?, h3] using hw, Like.refl w⟩

theorem Like.sameParks {w w' : Workgroup} (hl : Like w w') (set : Nat) : SameParks w w' set := by
  constructor
  · intro gi ti g t k hg ht hr hk
    obtain ⟨g', t', hg', ht', hlg⟩ := hl.thread' hg ht
    exact ⟨g', t', hg', ht', ((hlg.run _ t t' ht ht').parked k hk set).mpr hr⟩
  · intro gi ti g t k hg ht hr hk
    obtain ⟨g', t', hg', ht', hlg⟩ := hl.thread hg ht
    exact ⟨g', t', hg', ht', ((hlg.run _ t' t ht' ht).parked k hk set).mp hr⟩

theorem Keeps.calm {s r : State} (h : Keeps s r) (hc : Calm s) : Calm r := by
  obtain ⟨w, hw⟩ := hc.found
  obtain ⟨w', hw', hl⟩ := h.like w hw
  refine ⟨⟨w', by rw [h.issue]; exact hw'⟩, ?_, by rw [h.issue]; exact hc.groups, by rw [h.issue]; exact hc.threads, ?_, ?_, ?_⟩
  · rw [h.issue]; exact h.single
  · intro gi ti t' hi ht'
    rw [h.issue] at ht'
    simp only [State.issuing, h.issue] at hi
    simp only [State.thread?, State.group?, hw', Option.bind_some] at ht'
    cases hg' : w'.groups[gi]? with
    | none => simp [hg'] at ht'
    | some g' =>
      simp only [hg', Option.bind_some] at ht'
      obtain ⟨g, t, hg, ht, hlg⟩ := hl.thread hg' ht'
      have hr := hc.ready gi ti t hi (by simp [State.thread?, State.group?, hw, hg, ht])
      rcases hlg.run ti t t' ht ht' with h1 | h1
      · rw [h1]; exact hr
      · exact h1.2
  · intro w2 hw2 g' hg' t' ht' k set hr
    rw [h.issue, hw'] at hw2
    obtain rfl := Option.some.inj hw2
    obtain ⟨gi, hgi⟩ := List.mem_iff_getElem?.mp hg'
    obtain ⟨ti, hti⟩ := List.mem_iff_getElem?.mp ht'
    obtain ⟨g, t, hg, ht, hlg⟩ := hl.thread hgi hti
    exact Nat.lt_of_lt_of_le (hc.fresh w hw g (List.mem_of_getElem? hg) t (List.mem_of_getElem? ht) k set
      ((hlg.run _ t t' ht hti).number hr)) h.next
  · intro w2 hw2 set hin
    rw [h.issue, hw'] at hw2
    obtain rfl := Option.some.inj hw2
    have hsame := hl.sameParks set
    refine hsame.rests (fun x hx hr => ?_) (hc.resting w hw set (hsame.waitingSets.mp hin))
    obtain ⟨g, t, hg, ht, _⟩ := (mem_waiters _ _ _).mp hx
    obtain ⟨g', t', hg', ht', hlg⟩ := hl.thread' hg ht
    simp only [Workgroup.returned, hg, ht] at hr
    simp only [Workgroup.returned, hg', ht']
    exact hlg.back _ t t' ht ht' hr

/-- A unit that every thread of its set passes and completes. -/
theorem runUnit_done (i : Instr) (jump : Bool) (cross : Option CrossReads) (extra) (body : Body) (s r : State)
    (hc : Calm s) (hpass : Passes i cross extra s) (hbody : body s (s.issueLanes (shapeOf i)) = (r, []))
    (hk : Keeps s r) (hw : Waits (shapeOf i) r) :
    runUnit i jump cross extra body s = r.pastUnit (shapeOf i) jump := by
  rw [runUnit_passes i jump cross extra body s hpass, hbody]
  simp only
  rw [← hk.issue]
  apply finish_calm _ _ _ _ _ (hk.calm hc) hw (lanes_pairs_nodup s _ hc)
  intro w' hw' gi ti g' t' hg' ht'
  rw [hk.issue] at hw'
  obtain ⟨w, hw0⟩ := hc.found
  obtain ⟨w2, hw2, hl⟩ := hk.like w hw0
  rw [hw'] at hw2
  obtain rfl := Option.some.inj hw2
  obtain ⟨g, t, hg, ht, _⟩ := hl.thread hg' ht'
  rw [lanes_mem_issuing s _ w hw0 gi ti g t hg ht]
  simp only [State.issuing, hk.issue]

/-- An effect that leaves the workgroups alone leaves a W as it found it. -/
theorem Waits.of_wgs {sh : Shape} {s r : State} (h : Waits sh s) (h1 : r.issue = s.issue) (h3 : r.wgs = s.wgs) : Waits sh r := by
  intro hh
  have e1 : ∀ wid, r.wg? wid = s.wg? wid := by intro wid; simp [State.wg?, h3]
  have e2 : r.issuing = s.issuing := by funext a b; simp [State.issuing, h1]
  have e3 : r.readyIssuers = s.readyIssuers := by funext w; simp only [State.readyIssuers, e2]
  have e4 : r.awaits = s.awaits := by simp only [State.awaits, h1, e1, e3]
  have e5 : ∀ a b, r.group? a b = s.group? a b := by intro a b; simp only [State.group?, e1]
  rw [e4, e2]
  simp only [h1, e5]
  exact h hh

/-! ### Lanes written -/

theorem laneNow_eq (s : State) (wid gi ti : Nat) (gDst : Bool) (o : LaneOut) :
    s.laneNow wid gi ti gDst o = s.modGroup wid gi (fun g =>
      { g.takes gDst (some o) with threads := g.threads.modify ti (fun t => t.takes (some o)) }) := by
  have comp : ∀ (s : State) (f h : Group → Group), (s.modGroup wid gi f).modGroup wid gi h = s.modGroup wid gi (fun g => h (f g)) := by
    intro s f h
    simp only [State.modGroup]
    refine (modWg_modWg s wid (fun w => { w with groups := w.groups.modify gi f }) _ (fun _ => rfl)).trans ?_
    apply modWg_congr
    intro w _ _
    congr 1
    apply List.ext_getElem?
    intro i
    simp only [List.getElem?_modify]
    by_cases hi : gi = i <;> cases w.groups[i]? <;> simp [hi]
  have same : ∀ s : State, s.modGroup wid gi (fun g => { g with threads := g.threads.modify ti (fun t => t) }) = s := by
    intro s
    apply modGroup_same
    intro w _ _ g _
    have : g.threads.modify ti (fun t => t) = g.threads := by
      apply List.ext_getElem?
      intro j
      simp only [List.getElem?_modify]
      by_cases hj : ti = j <;> simp [hj]
    rw [this]
  have mm : ∀ (l : List Thread) (f h : Thread → Thread), (l.modify ti f).modify ti h = l.modify ti (fun t => h (f t)) := by
    intro l f h
    apply List.ext_getElem?
    intro j
    simp only [List.getElem?_modify]
    by_cases hj : ti = j <;> cases l[j]? <;> simp [hj]
  have thr : ∀ (g : Group) (n : Nat) (x : Word), (g.writeG n x).threads = g.threads := by
    intro g n x; simp only [Group.writeG]; split <;> rfl
  have wth : ∀ (g : Group) (n : Nat) (x : Word) (ts : List Thread), { g with threads := ts }.writeG n x = { g.writeG n x with threads := ts } := by
    intro g n x ts; simp only [Group.writeG]; split <;> rfl
  have takesT : ∀ (rs : List (Nat × Word)) (g : Group) (ts : List Thread),
      rs.foldl (fun g w => if w.1 < 96 then g else if gDst then g.writeG (w.1 - 96) w.2 else g) { g with threads := ts } =
      { rs.foldl (fun g w => if w.1 < 96 then g else if gDst then g.writeG (w.1 - 96) w.2 else g) g with threads := ts } := by
    intro rs
    induction rs with
    | nil => intro g ts; rfl
    | cons w rs ih =>
      intro g ts
      simp only [List.foldl_cons]
      by_cases h1 : w.1 < 96
      · simp only [h1, if_true]; exact ih g ts
      · cases gDst
        · simp only [h1, if_false, Bool.false_eq_true]; exact ih g ts
        · simp only [h1, if_false, if_true]; rw [wth]; exact ih _ ts
  have regs : ∀ (rs : List (Nat × Word)) (s : State), s.writeRegs wid gi ti gDst rs = s.modGroup wid gi (fun g =>
      { rs.foldl (fun g w => if w.1 < 96 then g else if gDst then g.writeG (w.1 - 96) w.2 else g) g with
        threads := g.threads.modify ti (fun t => rs.foldl (fun t w => if w.1 < 96 then t.writeV w.1 w.2 else t) t) }) := by
    intro rs
    induction rs with
    | nil => intro s; exact (same s).symm
    | cons w rs ih =>
      intro s
      have hstep : s.writeRegs wid gi ti gDst (w :: rs) = (if w.1 < 96 then s.modThread wid gi ti (·.writeV w.1 w.2)
          else if gDst then s.modGroup wid gi (·.writeG (w.1 - 96) w.2) else s).writeRegs wid gi ti gDst rs := rfl
      rw [hstep, ih]
      by_cases h1 : w.1 < 96
      · simp only [h1, if_true, List.foldl_cons]
        rw [State.modThread, comp]
        congr 1
        funext g
        rw [takesT, mm]
      · cases gDst
        · simp only [h1, if_false, Bool.false_eq_true, List.foldl_cons]
        · simp only [h1, if_false, if_true, List.foldl_cons]
          rw [comp]
          congr 1
          funext g
          rw [thr]
  have masks : ∀ (ks : List (Nat × Bool)) (s : State), s.writeMasks wid gi ti ks = s.modGroup wid gi (fun g =>
      { g with threads := g.threads.modify ti (fun t => ks.foldl (fun t k => t.writeK k.1 k.2) t) }) := by
    intro ks
    induction ks with
    | nil => intro s; exact (same s).symm
    | cons k ks ih =>
      intro s
      have hstep : s.writeMasks wid gi ti (k :: ks) = (s.modThread wid gi ti (·.writeK k.1 k.2)).writeMasks wid gi ti ks := rfl
      rw [hstep, ih, State.modThread, comp]
      congr 1
      funext g
      simp only [List.foldl_cons, mm]
  simp only [State.laneNow, regs, masks, comp]
  by_cases hd : o.draws = 0
  · simp only [hd, if_true]
    congr 1
    funext g
    simp only [Group.takes, Thread.takes, hd, if_true, mm]
  · simp only [hd, if_false]
    rw [State.modThread, comp]
    congr 1
    funext g
    simp only [Group.takes, Thread.takes, hd, if_false, mm]

theorem eachLane_eq (s : State) (sh : Shape) (f g) : s.eachLane sh f g = s.modWg s.issue.wid (Workgroup.eachLane (s.issueLanes sh) f g) := rfl

theorem fold_lanes (wid : Nat) (f : LaneEnv → Thread → Thread) (g : LaneEnv → Group → Group)
    (hg : ∀ e x ts, g e { x with threads := ts } = { g e x with threads := ts }) (es : List LaneEnv)
    (hn : (es.map (fun e => (e.gi, e.ti))).Nodup) (s : State) :
    es.foldl (fun s e => s.modGroup wid e.gi (fun x => { g e x with threads := x.threads.modify e.ti (f e) })) s =
      s.modWg wid (Workgroup.eachLane es f g) := by
  induction es generalizing s with
  | nil =>
    symm
    apply modWg_same
    intro w _ _
    have : ∀ x : Group, { x with threads := x.threads.mapIdx (fun _ t => t) } = x := by intro x; rw [mapIdx_same]
    simp only [Workgroup.eachLane, List.filter_nil, List.foldl_nil, List.find?_nil]
    have h2 : w.groups.mapIdx (fun _ (x : Group) => { x with threads := x.threads.mapIdx (fun _ t => t) }) = w.groups := by
      apply List.ext_getElem?
      intro j
      rw [List.getElem?_mapIdx]
      cases w.groups[j]? <;> simp [mapIdx_same]
    rw [h2]
  | cons e es ih =>
    rw [List.map_cons, List.nodup_cons] at hn
    rw [List.foldl_cons, ih hn.2]
    simp only [State.modGroup]
    refine (modWg_modWg s wid (fun w => { w with groups := w.groups.modify e.gi (fun x => { g e x with threads := x.threads.modify e.ti (f e) }) }) _ (fun _ => rfl)).trans ?_
    apply modWg_congr
    intro w _ _
    simp only [Workgroup.eachLane]
    congr 1
    apply List.ext_getElem?
    intro i
    simp only [List.getElem?_mapIdx, List.getElem?_modify]
    cases hx : w.groups[i]? with
    | none => rfl
    | some x =>
      by_cases hi : e.gi = i
      · subst hi
        have hthr : ∀ (l : List LaneEnv) (y : Group) (ts : List Thread),
            l.foldl (fun y e => g e y) { y with threads := ts } = { l.foldl (fun y e => g e y) y with threads := ts } := by
          intro l
          induction l with
          | nil => intro y ts; rfl
          | cons a l ihl => intro y ts; rw [List.foldl_cons, List.foldl_cons, hg]; exact ihl _ ts
        simp only [if_true, Option.map_eq_map, Option.map_some, List.filter_cons, beq_self_eq_true, List.foldl_cons, Option.some.injEq]
        rw [hthr]
        congr 1
        apply List.ext_getElem?
        intro j
        simp only [List.getElem?_mapIdx, List.getElem?_modify]
        cases ht : x.threads[j]? with
        | none => simp
        | some t =>
          by_cases hj : e.ti = j
          · subst hj
            have hnone : (es.filter (fun a => a.gi == e.gi)).find? (fun a => a.ti == e.ti) = none := by
              rw [List.find?_eq_none]
              intro a ha hat
              rw [List.mem_filter] at ha
              simp only [beq_iff_eq] at hat ha
              exact hn.1 (List.mem_map.mpr ⟨a, ha.1, by rw [ha.2, hat]⟩)
            simp [hnone]
          · have : (e.ti == j) = false := by simp [hj]
            simp [this, hj]
      · have : (e.gi == i) = false := by simp [hi]
        simp [this, hi]

theorem lane_wid (s : State) (sh : Shape) (e : LaneEnv) (he : e ∈ s.issueLanes sh) : e.wg.wid = s.issue.wid := by
  obtain ⟨w, hw, m, hm, g, hg, ti, hti, t, ht, h⟩ := lane_of_mem s sh e he
  rw [h]; exact (wg_wid hw).1

theorem fold_congr {α β : Type} (f g : β → α → β) (l : List α) (b : β) (h : ∀ a ∈ l, ∀ b, f b a = g b a) : l.foldl f b = l.foldl g b := by
  induction l generalizing b with
  | nil => rfl
  | cons a l ih =>
    rw [List.foldl_cons, List.foldl_cons, h a (List.mem_cons_self)]
    exact ih _ (fun x hx => h x (List.mem_cons_of_mem _ hx))

theorem takesG_threads (gDst : Bool) (o : Option LaneOut) (x : Group) (ts : List Thread) :
    Group.takes { x with threads := ts } gDst o = { x.takes gDst o with threads := ts } := by
  cases o with
  | none => rfl
  | some o =>
    simp only [Group.takes]
    have wth : ∀ (g : Group) (n : Nat) (y : Word), { g with threads := ts }.writeG n y = { g.writeG n y with threads := ts } := by
      intro g n y; simp only [Group.writeG]; split <;> rfl
    generalize o.regs = rs
    induction rs generalizing x with
    | nil => rfl
    | cons w rs ih =>
      simp only [List.foldl_cons]
      by_cases h1 : w.1 < 96
      · simp only [h1, if_true]; exact ih x
      · cases gDst
        · simp only [h1, if_false, Bool.false_eq_true]; exact ih x
        · simp only [h1, if_false, if_true]; rw [wth]; exact ih _

theorem fold_congr_inv {α β : Type} (P : β → Prop) (f g : β → α → β) (l : List α) (b : β) (hb : P b)
    (h : ∀ a ∈ l, ∀ b, P b → f b a = g b a) (hP : ∀ a b, P b → P (g b a)) : l.foldl f b = l.foldl g b := by
  induction l generalizing b with
  | nil => rfl
  | cons a l ih =>
    rw [List.foldl_cons, List.foldl_cons, h a (List.mem_cons_self) b hb]
    exact ih _ (hP a b hb) (fun x hx => h x (List.mem_cons_of_mem _ hx))

/-- The results of every lane, written at once. -/
theorem writeLanes_now (s : State) (i : Instr) (f : LaneEnv → LaneOut) (hc : Calm s) :
    writeLanes (shapeOf i) false f s (s.issueLanes (shapeOf i)) = (s.lanesWritten i f, []) := by
  simp only [writeLanes, State.lanesWritten, eachLane_eq, List.foldl_map, Bool.false_eq_true, if_false]
  congr 1
  rw [← fold_lanes s.issue.wid _ _ (fun e x ts => takesG_threads _ _ x ts) _ (lanes_pairs_nodup s _ hc)]
  apply fold_congr
  intro e he b
  rw [lane_wid s _ e he]
  cases h : laneResult (shapeOf i) f e with
  | none =>
    symm
    apply modGroup_same
    intro w _ _ x _
    have : x.threads.modify e.ti (fun t => t.takes none) = x.threads := by
      apply List.ext_getElem?
      intro j
      simp only [List.getElem?_modify, Thread.takes]
      by_cases hj : e.ti = j <;> simp [hj]
    simp only [Group.takes, this]
  | some o => exact laneNow_eq b s.issue.wid e.gi e.ti _ o

/-- Changes to lanes that end no thread, wake none and bring no result. -/
structure Steady (f : LaneEnv → Thread → Thread) (g : LaneEnv → Group → Group) : Prop where
  run : ∀ e t, (f e t).run = t.run
  pend : ∀ e t, t.pending.all (·.returned) = false → (f e t).pending.all (·.returned) = false
  gpend : ∀ e x, x.gPending.all (·.returned) = false → (g e x).gPending.all (·.returned) = false

/-- A group with lanes changed, part by part. -/
theorem eachLane_group (es f g) (w : Workgroup) (gi : Nat) :
    (w.eachLane es f g).groups[gi]? = (w.groups[gi]?).map (fun x =>
      { (es.filter (fun e => e.gi == gi)).foldl (fun y e => g e y) x with
        threads := x.threads.mapIdx (fun ti t => match (es.filter (fun e => e.gi == gi)).find? (fun e => e.ti == ti) with
          | some e => f e t
          | none => t) }) := by
  exact List.getElem?_mapIdx

theorem Steady.fold {f g} (h : Steady f g) (l : List LaneEnv) (x : Group) (hx : x.gPending.all (·.returned) = false) :
    (l.foldl (fun y e => g e y) x).gPending.all (·.returned) = false := by
  induction l generalizing x with
  | nil => exact hx
  | cons e l ih => rw [List.foldl_cons]; exact ih _ (h.gpend e x hx)

theorem Steady.like {f g} (h : Steady f g) (es : List LaneEnv) (w : Workgroup) : Like w (w.eachLane es f g) := by
  refine ⟨by simp [Workgroup.eachLane], ?_⟩
  intro gi x x' hx hx'
  rw [eachLane_group, hx] at hx'
  simp only [Option.map_some, Option.some.injEq] at hx'
  subst hx'
  refine ⟨by simp, ?_, ?_⟩
  · intro ti t t' ht ht'
    simp only [List.getElem?_mapIdx, ht, Option.map_some, Option.some.injEq] at ht'
    subst ht'
    left
    split
    · exact h.run ..
    · rfl
  · intro ti t t' ht ht' hr
    simp only [List.getElem?_mapIdx, ht, Option.map_some, Option.some.injEq] at ht'
    subst ht'
    simp only [Thread.allReturned, Bool.and_eq_false_iff] at hr ⊢
    rcases hr with hr | hr
    · left
      split
      · exact h.pend _ _ hr
      · exact hr
    · exact .inr (h.fold _ x hr)

theorem modWg_single {s : State} (wid : Nat) (f : Workgroup → Workgroup) (hf : ∀ w, (f w).wid = w.wid)
    (h : ∀ w ∈ s.wgs, w.wid = wid → s.wg? wid = some w) : ∀ w ∈ (s.modWg wid f).wgs, w.wid = wid → (s.modWg wid f).wg? wid = some w := by
  intro w hw hwid
  rw [wg_modWg _ _ _ hf]
  simp only [State.modWg, List.mem_map] at hw
  obtain ⟨w0, hw0, he⟩ := hw
  by_cases h0 : w0.wid = wid
  · simp only [h0, if_true] at he
    rw [h w0 hw0 h0, ← he]; rfl
  · simp only [h0, if_false] at he
    subst he; exact absurd hwid h0

theorem eachLane_wg (s : State) (es f g) (w : Workgroup) (hw : s.wg? s.issue.wid = some w) :
    (s.modWg s.issue.wid (Workgroup.eachLane es f g)).wg? s.issue.wid = some (w.eachLane es f g) :=
  (wg_modWg s _ (Workgroup.eachLane es f g) (fun _ => rfl)).trans (by rw [hw]; rfl)

/-- Steady changes keep the standing of the issue set. -/
theorem Steady.keeps {f g} (h : Steady f g) (es : List LaneEnv) (s : State) (hc : Calm s) :
    Keeps s (s.modWg s.issue.wid (Workgroup.eachLane es f g)) :=
  ⟨rfl, Nat.le_refl _, modWg_single _ _ (fun _ => rfl) hc.single, fun w hw => ⟨_, eachLane_wg s es f g w hw, h.like es w⟩⟩

/-- A set that awaits results still does after an effect that keeps its standing and its READY threads. -/
theorem Keeps.awaits {s r : State} (hk : Keeps s r) (hrun : ∀ gi ti t t', s.issuing gi ti = true → s.thread? s.issue.wid gi ti = some t →
    r.thread? s.issue.wid gi ti = some t' → t.run = .ready → t'.run = .ready) (ha : s.awaits = true) : r.awaits = true := by
  simp only [State.awaits] at ha
  cases hw : s.wg? s.issue.wid with
  | none => simp [hw] at ha
  | some w =>
    simp only [hw, List.any_eq_true] at ha
    obtain ⟨x, hx, hr⟩ := ha
    obtain ⟨gr, t, hg, ht, hi, hrn⟩ := (mem_readyIssuers _ _ _).mp hx
    obtain ⟨w', hw', hl⟩ := hk.like w hw
    obtain ⟨g', t', hg', ht', hlg⟩ := hl.thread' hg ht
    simp only [State.awaits, hk.issue, hw', List.any_eq_true]
    refine ⟨x, (mem_readyIssuers _ _ _).mpr ⟨g', t', hg', ht', by simpa only [State.issuing, hk.issue] using hi, ?_⟩, ?_⟩
    · exact hrun _ _ t t' hi (by simp [State.thread?, State.group?, hw, hg, ht]) (by simp [State.thread?, State.group?, hw', hg', ht']) hrn
    · simp only [Workgroup.returned, hg, ht, Bool.not_eq_true'] at hr
      simp only [Workgroup.returned, hg', ht', Bool.not_eq_true']
      exact hlg.back _ _ _ ht ht' hr

theorem Steady.runs {f g} (h : Steady f g) (es : List LaneEnv) (s : State) (gi ti : Nat) (t t' : Thread)
    (ht : s.thread? s.issue.wid gi ti = some t)
    (ht' : (s.modWg s.issue.wid (Workgroup.eachLane es f g)).thread? s.issue.wid gi ti = some t') : t'.run = t.run := by
  cases hw : s.wg? s.issue.wid with
  | none => simp [State.thread?, State.group?, hw] at ht
  | some w =>
    simp only [State.thread?, State.group?, hw, eachLane_wg s es f g w hw, Option.bind_some] at ht ht'
    cases hg : w.groups[gi]? with
    | none => simp [hg] at ht
    | some x =>
      rw [eachLane_group, hg] at ht'
      simp only [hg, Option.bind_some] at ht
      simp only [Option.map_some, Option.bind_some, List.getElem?_mapIdx, ht, Option.some.injEq] at ht'
      subst ht'
      split
      · exact h.run ..
      · rfl

/-- Changes to lanes that keep their standing: runs, results outstanding and unwaited sets as they were, no mark made. -/
structure Tame (f : LaneEnv → Thread → Thread) (g : LaneEnv → Group → Group) : Prop where
  run : ∀ e t, (f e t).run = t.run
  pend : ∀ e t, (f e t).pending.map (·.returned) = t.pending.map (·.returned)
  unwaited : ∀ e t, (f e t).unwaited = t.unwaited
  marks : ∀ e t, t.marks = [] → (f e t).marks = []
  gpend : ∀ e x, (g e x).gPending.map (·.returned) = x.gPending.map (·.returned)
  gmarks : ∀ e x, x.gMarks = [] → (g e x).gMarks = []

theorem Tame.fold {f g} (h : Tame f g) (l : List LaneEnv) (x : Group) :
    (l.foldl (fun y e => g e y) x).gPending.map (·.returned) = x.gPending.map (·.returned) ∧
    (x.gMarks = [] → (l.foldl (fun y e => g e y) x).gMarks = []) := by
  induction l generalizing x with
  | nil => exact ⟨rfl, id⟩
  | cons e l ih =>
    rw [List.foldl_cons]
    exact ⟨(ih _).1.trans (h.gpend e x), fun hx => (ih _).2 (h.gmarks e x hx)⟩

theorem all_map_returned (a b : List Pending) (h : a.map (·.returned) = b.map (·.returned)) : a.all (·.returned) = b.all (·.returned) := by
  have : ∀ l : List Pending, l.all (·.returned) = (l.map (·.returned)).all id := by
    intro l; induction l <;> simp_all
  rw [this, this, h]

theorem nil_map_returned (a b : List Pending) (h : a.map (·.returned) = b.map (·.returned)) (hb : b = []) : a = [] := by
  subst hb; simpa using h

theorem Tame.thread {f g} (h : Tame f g) (es : List LaneEnv) (w : Workgroup) (gi ti : Nat) (x x' : Group) (t t' : Thread)
    (hx : w.groups[gi]? = some x) (hx' : (w.eachLane es f g).groups[gi]? = some x') (ht : x.threads[ti]? = some t)
    (ht' : x'.threads[ti]? = some t') :
    t'.run = t.run ∧ t'.pending.map (·.returned) = t.pending.map (·.returned) ∧ t'.unwaited = t.unwaited ∧
    (t.marks = [] → t'.marks = []) ∧ x'.gPending.map (·.returned) = x.gPending.map (·.returned) ∧ (x.gMarks = [] → x'.gMarks = []) := by
  rw [eachLane_group, hx] at hx'
  simp only [Option.map_some, Option.some.injEq] at hx'
  subst hx'
  simp only [List.getElem?_mapIdx, ht, Option.map_some, Option.some.injEq] at ht'
  obtain ⟨h1, h2⟩ := h.fold (es.filter (fun e => e.gi == gi)) x
  subst ht'
  refine ⟨?_, ?_, ?_, ?_, h1, h2⟩ <;> split
  · exact h.run ..
  · rfl
  · exact h.pend ..
  · rfl
  · exact h.unwaited ..
  · rfl
  · exact h.marks _ _
  · exact id

theorem Tame.steady {f g} (h : Tame f g) : Steady f g :=
  ⟨h.run, fun e t ht => by rw [all_map_returned _ _ (h.pend e t)]; exact ht, fun e x hx => by rw [all_map_returned _ _ (h.gpend e x)]; exact hx⟩

/-- Tame changes leave a W as it was. -/
theorem Tame.waits {f g} (h : Tame f g) (es : List LaneEnv) (s : State) (sh : Shape) (hc : Calm s) (hw : Waits sh s) :
    Waits sh (s.modWg s.issue.wid (Workgroup.eachLane es f g)) := by
  intro hh
  obtain ⟨w, hw0⟩ := hc.found
  have hw1 := eachLane_wg s es f g w hw0
  have hl := h.steady.like es w
  rcases hw hh with ha | hq
  · exact .inl ((h.steady.keeps es s hc).awaits (fun gi ti t t' _ ht ht' hr => by rw [h.steady.runs es s gi ti t t' ht ht']; exact hr) ha)
  · right
    intro gi ti g' t' hi hg' ht'
    rw [show (s.modWg s.issue.wid (Workgroup.eachLane es f g)).issue = s.issue from rfl, State.group?, hw1, Option.bind_some] at hg'
    obtain ⟨gr, t, hg, ht, _⟩ := hl.thread hg' ht'
    obtain ⟨q1, q2, q3, q4, q5⟩ := hq gi ti gr t hi (by rw [State.group?, hw0]; exact hg) ht
    obtain ⟨_, h2, h3, h4, h5, h6⟩ := h.thread es w _ _ _ _ _ _ hg hg' ht ht'
    exact ⟨nil_map_returned _ _ h5 q1, h6 q2, nil_map_returned _ _ h2 q3, h3.trans q4, h4 q5⟩

theorem writeG_tame (x : Group) (n : Nat) (y : Word) : (x.writeG n y).gPending.map (·.returned) = x.gPending.map (·.returned) ∧
    (x.gMarks = [] → (x.writeG n y).gMarks = []) := by
  simp only [Group.writeG]
  split
  · exact ⟨rfl, id⟩
  · refine ⟨?_, fun h => by simp [h]⟩
    simp only [List.map_map]
    apply List.map_congr_left
    intro p _
    simp only [Function.comp_apply]
    split <;> rfl

theorem foldG_tame (l : List (Nat × Word)) (c : Nat × Word → Bool) (k : Nat × Word → Nat) (x : Group) :
    (l.foldl (fun g w => if c w then g.writeG (k w) w.2 else g) x).gPending.map (·.returned) = x.gPending.map (·.returned) ∧
    (x.gMarks = [] → (l.foldl (fun g w => if c w then g.writeG (k w) w.2 else g) x).gMarks = []) := by
  induction l generalizing x with
  | nil => exact ⟨rfl, id⟩
  | cons w l ih =>
    rw [List.foldl_cons]
    by_cases h : c w
    · simp only [h, if_true]
      obtain ⟨h1, h2⟩ := writeG_tame x (k w) w.2
      exact ⟨(ih _).1.trans h1, fun hx => (ih _).2 (h2 hx)⟩
    · simp only [h]
      exact ih x

/-- What a thread keeps when a lane's results are written to it. -/
structure ThreadTame (t u : Thread) : Prop where
  run : u.run = t.run
  pend : u.pending.map (·.returned) = t.pending.map (·.returned)
  unwaited : u.unwaited = t.unwaited
  marks : t.marks = [] → u.marks = []

theorem ThreadTame.trans {a b c : Thread} (h : ThreadTame a b) (h' : ThreadTame b c) : ThreadTame a c :=
  ⟨h'.run.trans h.run, h'.pend.trans h.pend, h'.unwaited.trans h.unwaited, fun x => h'.marks (h.marks x)⟩
theorem ThreadTame.refl (t : Thread) : ThreadTame t t := ⟨rfl, rfl, rfl, id⟩

theorem writeV_tame (t : Thread) (n : Nat) (y : Word) : ThreadTame t (t.writeV n y) := by
  refine ⟨rfl, ?_, rfl, fun h => by simp [Thread.writeV, h]⟩
  simp only [Thread.writeV, List.map_map]
  apply List.map_congr_left
  intro p _
  simp only [Function.comp_apply]
  split <;> rfl

theorem writeK_tame (t : Thread) (n : Nat) (b : Bool) : ThreadTame t (t.writeK n b) := by
  simp only [Thread.writeK]
  split
  · exact ThreadTame.refl t
  · refine ⟨rfl, ?_, rfl, fun h => by simp [h]⟩
    simp only [List.map_map]
    apply List.map_congr_left
    intro p _
    simp only [Function.comp_apply]
    split <;> rfl

theorem takes_tame (t : Thread) (o : Option LaneOut) : ThreadTame t (t.takes o) := by
  cases o with
  | none => exact ThreadTame.refl t
  | some o =>
    have h1 : ∀ (l : List (Nat × Word)) (t : Thread), ThreadTame t (l.foldl (fun t w => if w.1 < 96 then t.writeV w.1 w.2 else t) t) := by
      intro l
      induction l with
      | nil => exact ThreadTame.refl
      | cons w l ih =>
        intro t
        rw [List.foldl_cons]
        split
        · exact (writeV_tame ..).trans (ih _)
        · exact ih t
    have h2 : ∀ (l : List (Nat × Bool)) (t : Thread), ThreadTame t (l.foldl (fun t k => t.writeK k.1 k.2) t) := by
      intro l
      induction l with
      | nil => exact ThreadTame.refl
      | cons w l ih =>
        intro t
        rw [List.foldl_cons]
        exact (writeK_tame ..).trans (ih _)
    have h3 := (h1 o.regs t).trans (h2 o.masks _)
    simp only [Thread.takes]
    split
    · exact h3
    · exact h3.trans ⟨rfl, rfl, rfl, id⟩

theorem takes_tame_lanes (sh : Shape) (f : LaneEnv → LaneOut) :
    Tame (fun e t => t.takes (laneResult sh f e)) (fun e x => x.takes sh.gDst (laneResult sh f e)) := by
  have hg : ∀ e (x : Group), (x.takes sh.gDst (laneResult sh f e)).gPending.map (·.returned) = x.gPending.map (·.returned) ∧
      (x.gMarks = [] → (x.takes sh.gDst (laneResult sh f e)).gMarks = []) := by
    intro e x
    cases laneResult sh f e with
    | none => exact ⟨rfl, id⟩
    | some o =>
      have := foldG_tame o.regs (fun w => ! decide (w.1 < 96) && sh.gDst) (fun w => w.1 - 96) x
      have he : (fun (g : Group) (w : Nat × Word) => if (! decide (w.1 < 96) && sh.gDst) = true then g.writeG (w.1 - 96) w.2 else g) =
          (fun g w => if w.1 < 96 then g else if sh.gDst then g.writeG (w.1 - 96) w.2 else g) := by
        funext g w
        by_cases h1 : w.1 < 96 <;> simp [h1]
      rw [he] at this
      exact this
  exact ⟨fun e t => (takes_tame ..).run, fun e t => (takes_tame ..).pend, fun e t => (takes_tame ..).unwaited,
    fun e t => (takes_tame ..).marks, fun e x => (hg e x).1, fun e x => (hg e x).2⟩

/-- A per-lane instruction of fixed latency completes: every lane's results are written, and the issue set is past it. -/
theorem laneNow_done (i : Instr) (cross : Option CrossReads) (f : LaneEnv → LaneOut) (s : State) (h : Clear i cross noExtra s) :
    runUnit i false cross noExtra (writeLanes (shapeOf i) false f) s = s.lanesDone i f :=
  runUnit_done i false cross noExtra _ s (s.lanesWritten i f) h.calm h.passes (writeLanes_now s i f h.calm)
    ((takes_tame_lanes _ f).steady.keeps _ s h.calm) ((takes_tame_lanes _ f).waits _ s _ h.calm h.waits)

/-! ### Groups written -/

theorem groupLanes_nodup (es : List LaneEnv) : ((groupLanes es).map (·.gi)).Nodup := by
  have : ∀ (es l : List LaneEnv), (l.map (·.gi)).Nodup →
      ((es.foldl (fun l e => if l.any (fun x => x.gi == e.gi) then l else l ++ [e]) l).map (·.gi)).Nodup := by
    intro es
    induction es with
    | nil => intro l h; exact h
    | cons e es ih =>
      intro l h
      rw [List.foldl_cons]
      apply ih
      split
      · exact h
      · rename_i hn
        rw [List.map_append, List.nodup_append]
        refine ⟨h, by simp, ?_⟩
        intro a ha b hb
        simp only [List.map_cons, List.map_nil, List.mem_singleton] at hb
        subst hb
        intro hab
        subst hab
        simp only [List.mem_map] at ha
        obtain ⟨x, hx, hxe⟩ := ha
        exact hn (List.any_eq_true.mpr ⟨x, hx, by simp [hxe]⟩)
  exact this es [] (by simp)

theorem groupLanes_pairs (es : List LaneEnv) : ((groupLanes es).map (fun e => (e.gi, e.ti))).Nodup := by
  have h := groupLanes_nodup es
  generalize groupLanes es = l at h
  induction l with
  | nil => simp
  | cons e l ih =>
    rw [List.map_cons, List.nodup_cons] at h ⊢
    refine ⟨?_, ih h.2⟩
    intro hm
    simp only [List.mem_map, Prod.mk.injEq] at hm
    obtain ⟨x, hx, hx1, _⟩ := hm
    exact h.1 (List.mem_map.mpr ⟨x, hx, hx1⟩)

theorem groupLanes_sub (es : List LaneEnv) : ∀ e ∈ groupLanes es, e ∈ es := by
  have : ∀ (es l : List LaneEnv) (e : LaneEnv), e ∈ es.foldl (fun l e => if l.any (fun x => x.gi == e.gi) then l else l ++ [e]) l →
      e ∈ l ∨ e ∈ es := by
    intro es
    induction es with
    | nil => intro l e h; exact .inl h
    | cons a es ih =>
      intro l e h
      rw [List.foldl_cons] at h
      rcases ih _ e h with h1 | h1
      · split at h1
        · exact .inl h1
        · rw [List.mem_append, List.mem_singleton] at h1
          rcases h1 with h1 | h1
          · exact .inl h1
          · exact .inr (by rw [h1]; exact List.mem_cons_self)
      · exact .inr (List.mem_cons_of_mem _ h1)
  intro e he
  exact (this es [] e he).resolve_left (by simp)

theorem modGroup_lane (s : State) (wid gi ti : Nat) (g : Group → Group) (h : ∀ x, (g x).threads = x.threads) :
    s.modGroup wid gi g = s.modGroup wid gi (fun x => { g x with threads := x.threads.modify ti (fun t => t) }) := by
  congr 1
  funext x
  have : x.threads.modify ti (fun t => t) = (g x).threads := by
    rw [h]
    apply List.ext_getElem?
    intro j
    simp only [List.getElem?_modify]
    by_cases hj : ti = j <;> simp [hj]
  rw [this]

/-- The groups' registers, written once for each group. -/
theorem uniformBody_eq (s : State) (sh : Shape) (f : State → LaneEnv → List (Nat × Word)) :
    uniformBody f s (s.issueLanes sh) = (s.eachGroup sh (fun e g => (f s e).foldl (fun g w => g.writeG w.1 w.2) g), []) := by
  have wthr : ∀ (g : Group) (n : Nat) (y : Word), (g.writeG n y).threads = g.threads := by
    intro g n y; simp only [Group.writeG]; split <;> rfl
  have wth : ∀ (g : Group) (n : Nat) (y : Word) (ts : List Thread), { g with threads := ts }.writeG n y = { g.writeG n y with threads := ts } := by
    intro g n y ts; simp only [Group.writeG]; split <;> rfl
  have h1 : ∀ (l : List (Nat × Word)) (x : Group), (l.foldl (fun g w => g.writeG w.1 w.2) x).threads = x.threads := by
    intro l
    induction l with
    | nil => intro x; rfl
    | cons a l ih => intro x; rw [List.foldl_cons, ih, wthr]
  have h2 : ∀ (l : List (Nat × Word)) (x : Group) (ts : List Thread),
      l.foldl (fun g w => g.writeG w.1 w.2) { x with threads := ts } = { l.foldl (fun g w => g.writeG w.1 w.2) x with threads := ts } := by
    intro l
    induction l with
    | nil => intro x ts; rfl
    | cons a l ih => intro x ts; rw [List.foldl_cons, List.foldl_cons, wth]; exact ih _ ts
  simp only [uniformBody, State.eachGroup]
  congr 1
  rw [← fold_lanes s.issue.wid _ _ (fun e x ts => h2 _ x ts) _ (groupLanes_pairs _)]
  apply fold_congr
  intro e he b
  rw [lane_wid s sh e (groupLanes_sub _ e he)]
  exact modGroup_lane b s.issue.wid e.gi e.ti _ (fun x => h1 _ x)

theorem writeGs_tame (s : State) (f : State → LaneEnv → List (Nat × Word)) :
    Tame (fun _ t => t) (fun e g => (f s e).foldl (fun g w => g.writeG w.1 w.2) g) := by
  have hg : ∀ e (x : Group), ((f s e).foldl (fun g w => g.writeG w.1 w.2) x).gPending.map (·.returned) = x.gPending.map (·.returned) ∧
      (x.gMarks = [] → ((f s e).foldl (fun g w => g.writeG w.1 w.2) x).gMarks = []) := by
    intro e x
    have := foldG_tame (f s e) (fun _ => true) (fun w => w.1) x
    simpa using this
  exact ⟨fun _ _ => rfl, fun _ _ => rfl, fun _ _ => rfl, fun _ _ h => h, fun e x => (hg e x).1, fun e x => (hg e x).2⟩

/-- A uniform instruction completes: each group's registers are written once, and the issue set is past it. -/
theorem uniform_done (i : Instr) (f : State → LaneEnv → List (Nat × Word)) (s : State) (h : Clear i none noExtra s) :
    uniformUnit i f s = s.groupsDone i f :=
  runUnit_done i false none noExtra _ s _ h.calm h.passes (uniformBody_eq s _ f)
    ((writeGs_tame s f).steady.keeps _ s h.calm) ((writeGs_tame s f).waits _ s _ h.calm h.waits)

/-! ### Lanes owed -/

theorem laneLater_eq (s : State) (wid gi ti ord : Nat) (pc : Word) (o : LaneOut) :
    s.laneLater wid gi ti ord pc false o = s.modGroup wid gi (fun x =>
      { x with threads := x.threads.modify ti (fun t => t.owes ord pc (some o)) }) := by
  have hreg : o.regsKept false = o.regs.filter (fun w => decide (w.1 < 96)) := by
    simp [LaneOut.regsKept]
  have hps : (o.regsKept false).map (fun w => Pending.now ord w.1 w.2 false pc 0)
      ++ (o.masks.filter (fun k => k.1 ≠ 0)).map (fun k => Pending.now ord (128 + k.1) (if k.2 then 1 else 0) false pc 0) = o.owed ord pc := by
    rw [hreg]; rfl
  have hmem : ∀ p ∈ o.owed ord pc, p.reg < 96 ∨ 128 ≤ p.reg := by
    intro p hp
    simp only [LaneOut.owed, List.mem_append, List.mem_map, List.mem_filter, decide_eq_true_eq] at hp
    rcases hp with ⟨w, hw, rfl⟩ | ⟨k, hk, rfl⟩
    · exact .inl hw.2
    · exact .inr (by simp [Pending.now])
  have hf1 : (o.owed ord pc).filter (fun p => decide (p.reg < 96 ∨ 128 ≤ p.reg)) = o.owed ord pc := by
    rw [List.filter_eq_self]; intro p hp; simpa using hmem p hp
  have hf2 : (o.owed ord pc).filter (fun p => decide (96 ≤ p.reg ∧ p.reg < 128)) = [] := by
    rw [List.filter_eq_nil_iff]
    intro p hp
    have := hmem p hp
    simp only [decide_eq_true_eq]
    omega
  simp only [State.laneLater, hps, hf1, hf2]
  have hg : ∀ s : State, s.addGPending wid gi [] = s := by
    intro s
    apply modGroup_same
    intro w _ _ x _
    simp
  rw [hg]
  simp only [State.addPending, State.modThread]
  by_cases hd : o.draws = 0
  · simp only [hd, if_true]
    congr 1
    funext x
    congr 1
    congr 1
    funext t
    simp [Thread.owes, hd]
  · simp only [hd, if_false]
    refine (modWg_modWg s wid (fun w => { w with groups := w.groups.modify gi (fun g => { g with threads := g.threads.modify ti (fun t =>
        { t with pending := t.pending ++ o.owed ord pc, unwaited := t.unwaited ++ (o.owed ord pc).map (·.reg) }) }) }) _ (fun _ => rfl)).trans ?_
    apply modWg_congr
    intro w _ _
    congr 1
    apply List.ext_getElem?
    intro i
    simp only [List.getElem?_modify]
    by_cases hi : gi = i
    · cases w.groups[i]? with
      | none => simp [hi]
      | some x =>
        simp only [hi, if_true, Option.map_eq_map, Option.map_some, Option.some.injEq]
        congr 1
        apply List.ext_getElem?
        intro j
        simp only [List.getElem?_modify]
        by_cases hj : ti = j <;> cases x.threads[j]? <;> simp [hj, Thread.owes, hd]
    · simp [hi]

/-- The results of every lane, outstanding. -/
theorem writeLanes_later (s : State) (i : Instr) (f : LaneEnv → LaneOut) (hc : Calm s) (hd : (shapeOf i).gDst = false) :
    writeLanes (shapeOf i) true f s (s.issueLanes (shapeOf i)) =
      (s.eachLane (shapeOf i) (fun e t => t.owes s.nextId s.issue.pc (laneResult (shapeOf i) f e)) (fun _ g => g), []) := by
  simp only [writeLanes, eachLane_eq, List.foldl_map, if_true, hd]
  congr 1
  rw [← fold_lanes s.issue.wid _ _ (fun e x ts => rfl) _ (lanes_pairs_nodup s _ hc)]
  refine fold_congr_inv (fun b : State => b.nextId = s.nextId ∧ b.issue = s.issue) _ _ _ _ ⟨rfl, rfl⟩ ?_ (fun _ _ h => ⟨h.1, h.2⟩)
  intro e he b hb
  rw [lane_wid s _ e he, hb.1, hb.2]
  cases h : laneResult (shapeOf i) f e with
  | none =>
    symm
    apply modGroup_same
    intro w _ _ x _
    have : x.threads.modify e.ti (fun t => t.owes s.nextId s.issue.pc none) = x.threads := by
      apply List.ext_getElem?
      intro j
      simp only [List.getElem?_modify, Thread.owes]
      by_cases hj : e.ti = j <;> simp [hj]
    simp only [this]
  | some o => exact laneLater_eq b s.issue.wid e.gi e.ti _ _ o

theorem owes_steady (s : State) (sh : Shape) (f : LaneEnv → LaneOut) :
    Steady (fun e t => t.owes s.nextId s.issue.pc (laneResult sh f e)) (fun _ g => g) := by
  refine ⟨?_, ?_, fun _ _ h => h⟩
  · intro e t; cases laneResult sh f e <;> rfl
  · intro e t h
    cases laneResult sh f e with
    | none => exact h
    | some o => simp [Thread.owes, List.all_append, h]

theorem lane_of_issuing (s : State) (sh : Shape) (w : Workgroup) (hw : s.wg? s.issue.wid = some w) (gi ti : Nat) (g : Group)
    (t : Thread) (hg : w.groups[gi]? = some g) (ht : g.threads[ti]? = some t) (hi : s.issuing gi ti = true) :
    ∃ e ∈ s.issueLanes sh, e.gi = gi ∧ e.ti = ti := by
  have := (lanes_mem_issuing s sh w hw gi ti g t hg ht).mpr hi
  simp only [List.mem_map, Prod.mk.injEq] at this
  obtain ⟨e, he, h1, h2⟩ := this
  exact ⟨e, he, h1, h2⟩

theorem find_lane (es : List LaneEnv) (hn : (es.map (fun e => (e.gi, e.ti))).Nodup) (e : LaneEnv) (he : e ∈ es) :
    (es.filter (fun a => a.gi == e.gi)).find? (fun a => a.ti == e.ti) = some e := by
  induction es with
  | nil => cases he
  | cons a es ih =>
    rw [List.map_cons, List.nodup_cons] at hn
    rcases List.mem_cons.mp he with rfl | h
    · simp
    · have hne : ¬ (a.gi = e.gi ∧ a.ti = e.ti) := fun hh => hn.1 (List.mem_map.mpr ⟨e, h, by rw [hh.1, hh.2]⟩)
      have := ih hn.2 h
      by_cases h1 : a.gi = e.gi
      · have h2 : (a.ti == e.ti) = false := by simp; exact fun h2 => hne ⟨h1, h2⟩
        rw [List.filter_cons]
        simp only [h1, beq_self_eq_true, if_true, List.find?_cons, h2]
        exact this
      · have h2 : (a.gi == e.gi) = false := by simp [h1]
        rw [List.filter_cons]
        simp only [h2, Bool.false_eq_true, if_false]
        exact this

/-- What one thread of the issue set is after its lane is changed. -/
theorem eachLane_thread (s : State) (sh : Shape) (hc : Calm s) (f g) (w : Workgroup) (hw : s.wg? s.issue.wid = some w) (e : LaneEnv)
    (he : e ∈ s.issueLanes sh) : ∃ x, w.groups[e.gi]? = some x ∧ x = e.g ∧ x.threads[e.ti]? = some e.t ∧
    ∃ x', (w.eachLane (s.issueLanes sh) f g).groups[e.gi]? = some x' ∧ x'.threads[e.ti]? = some (f e e.t) := by
  obtain ⟨w0, hw0, m, hm, x, hg, ti, hti, t, ht, h⟩ := lane_of_mem s sh e he
  rw [hw] at hw0
  obtain rfl := Option.some.inj hw0
  have hf := find_lane _ (lanes_pairs_nodup s sh hc) e he
  have e1 : e.gi = m.1 := by rw [h]
  have e2 : e.ti = ti := by rw [h]
  have e3 : e.g = x := by rw [h]
  have e4 : e.t = t := by rw [h]
  refine ⟨x, by rw [e1]; exact hg, e3.symm, by rw [e2, e4]; exact ht, ?_⟩
  rw [eachLane_group, e1, hg]
  refine ⟨_, rfl, ?_⟩
  show (x.threads.mapIdx _)[e.ti]? = _
  rw [List.getElem?_mapIdx, e2, ht]
  rw [e1, e2] at hf
  rw [Option.map_some, hf, e4]

/-- Where lanes owe results, a W finds results to come, or what it found before. -/
theorem owes_waits (s : State) (sh : Shape) (f : LaneEnv → LaneOut) (hc : Calm s) (hp : Present s) (hw : Waits sh s) :
    Waits sh (s.eachLane sh (fun e t => t.owes s.nextId s.issue.pc (laneResult sh f e)) (fun _ g => g)) := by
  intro hh
  rw [eachLane_eq]
  have hst := owes_steady s sh f
  have hk := hst.keeps (s.issueLanes sh) s hc
  rcases hw hh with ha | hq
  · exact .inl (hk.awaits (fun gi ti t t' _ ht ht' hr => by rw [hst.runs _ s gi ti t t' ht ht']; exact hr) ha)
  · obtain ⟨w, hw0⟩ := hc.found
    have hw1 := eachLane_wg s (s.issueLanes sh) (fun e t => t.owes s.nextId s.issue.pc (laneResult sh f e)) (fun _ g => g) w hw0
    by_cases hex : ∃ e ∈ s.issueLanes sh, ∃ o, laneResult sh f e = some o ∧ o.owed s.nextId s.issue.pc ≠ []
    · left
      obtain ⟨e, he, o, ho, hne⟩ := hex
      obtain ⟨x, hx, hxg, hxt, x', hx', ht'⟩ := eachLane_thread s sh hc (fun e t => t.owes s.nextId s.issue.pc (laneResult sh f e)) (fun _ g => g) w hw0 e he
      obtain ⟨w2, hw2, m, hm, g2, hg2, ti2, hti2, t2, ht2, heq⟩ := lane_of_mem s sh e he
      have hi : s.issuing e.gi e.ti = true := (lanes_mem_issuing s sh w hw0 e.gi e.ti x e.t hx hxt).mp (List.mem_map.mpr ⟨e, he, rfl⟩)
      obtain ⟨g3, hg3, hrd⟩ := hp m hm
      obtain ⟨t3, ht3, hr3⟩ := hrd ti2 hti2
      rw [group_of_wg s w hw0] at hg3
      have e1 : e.gi = m.1 := by rw [heq]
      have e2 : e.ti = ti2 := by rw [heq]
      rw [← e1, hx] at hg3
      obtain rfl := Option.some.inj hg3
      rw [← e2, hxt] at ht3
      obtain rfl := Option.some.inj ht3
      show State.awaits _ = true
      simp only [State.awaits]
      rw [show (s.modWg s.issue.wid (Workgroup.eachLane (s.issueLanes sh) (fun e t => t.owes s.nextId s.issue.pc (laneResult sh f e))
        (fun _ g => g))).issue = s.issue from rfl, hw1]
      simp only [List.any_eq_true]
      refine ⟨(e.gi, e.ti), (mem_readyIssuers _ _ _).mpr ⟨x', _, hx', ht', hi, ?_⟩, ?_⟩
      · rw [hst.run]; exact hr3
      · simp only [Workgroup.returned, hx', ht', Bool.not_eq_true', Thread.allReturned, Bool.and_eq_false_iff]
        left
        rw [ho]
        simp only [Thread.owes, List.all_append, Bool.and_eq_false_iff]
        right
        cases hl : o.owed s.nextId s.issue.pc with
        | nil => exact absurd hl hne
        | cons p l =>
          have hp1 : p ∈ o.owed s.nextId s.issue.pc := by rw [hl]; exact List.mem_cons_self
          have : p.returned = false := by
            simp only [LaneOut.owed, List.mem_append, List.mem_map] at hp1
            rcases hp1 with ⟨a, _, rfl⟩ | ⟨a, _, rfl⟩ <;> rfl
          simp [this]
    · right
      have hown : ∀ e ∈ s.issueLanes sh, ∀ o, laneResult sh f e = some o → o.owed s.nextId s.issue.pc = [] := by
        intro e he o ho
        exact Classical.byContradiction (fun hne => hex ⟨e, he, o, ho, hne⟩)
      intro gi ti g' t' hi hg' ht'
      rw [show (s.modWg s.issue.wid (Workgroup.eachLane (s.issueLanes sh) (fun e t => t.owes s.nextId s.issue.pc (laneResult sh f e))
        (fun _ g => g))).issue = s.issue from rfl, State.group?, hw1, Option.bind_some] at hg'
      obtain ⟨gr, t, hg, ht, _⟩ := (hst.like (s.issueLanes sh) w).thread hg' ht'
      obtain ⟨q1, q2, q3, q4, q5⟩ := hq gi ti gr t hi (by rw [State.group?, hw0]; exact hg) ht
      obtain ⟨e, he, rfl, rfl⟩ := lane_of_issuing s sh w hw0 gi ti gr t hg ht hi
      obtain ⟨x, hx, hxg, hxt, x', hx', hte⟩ := eachLane_thread s sh hc (fun e t => t.owes s.nextId s.issue.pc (laneResult sh f e)) (fun _ g => g) w hw0 e he
      rw [hg'] at hx'
      obtain rfl := Option.some.inj hx'
      rw [ht'] at hte
      obtain rfl := Option.some.inj hte
      rw [hg] at hx
      obtain rfl := Option.some.inj hx
      rw [ht] at hxt
      obtain rfl := Option.some.inj hxt
      have hgg : g'.gPending = gr.gPending ∧ g'.gMarks = gr.gMarks := by
        rw [eachLane_group, hg] at hg'
        simp only [Option.map_some, Option.some.injEq] at hg'
        subst hg'
        have : ∀ l : List LaneEnv, l.foldl (fun (y : Group) _ => y) gr = gr := by
          intro l; induction l <;> simp_all
        rw [this]
        exact ⟨rfl, rfl⟩
      refine ⟨hgg.1.trans q1, hgg.2.trans q2, ?_⟩
      cases ho : laneResult sh f e with
      | none => exact ⟨q3, q4, q5⟩
      | some o => simp [Thread.owes, hown e he o ho, q3, q4, q5]

/-- A per-lane instruction of V class completes its issue: every lane's results are outstanding, and the issue set is past
it. -/
theorem laneLater_done (i : Instr) (cross : Option CrossReads) (f : LaneEnv → LaneOut) (s : State) (h : Clear i cross noExtra s)
    (hd : (shapeOf i).gDst = false) :
    runUnit i false cross noExtra (writeLanes (shapeOf i) true f) s = s.lanesOwed i f :=
  runUnit_done i false cross noExtra _ s _ h.calm h.passes (writeLanes_later s i f h.calm hd)
    ((owes_steady s _ f).keeps _ s h.calm) (owes_waits s _ f h.calm h.here h.waits)

end Sys2Proof.Laws
end

