-- ==== Sys2Proof/Laws/Onward.lean ====
section
/-!
SUPPORT. What the shared operations leave of an issue set's standing: an effect that goes `Onward` keeps the set able to
end its unit, so that a unit whose body is made of such operations ends as `unit_done` says.
-/
namespace Sys2Proof.Laws
set_option Elab.async false
open Sys2Proof Sys2Proof.Machine

/-- Two stages of one group: its threads run on, READY ones stay READY, and one with nothing outstanding still has nothing or
has a result to come. -/
structure GroupOn (x y : Group) : Prop where
  like : LikeGroup x y
  on : ∀ (ti : Nat) (t t' : Thread), x.threads[ti]? = some t → y.threads[ti]? = some t' →
    (t.run = .ready → t'.run = .ready) ∧ (Quiet x t → Quiet y t' ∨ t'.allReturned y = false)

theorem GroupOn.refl (x : Group) : GroupOn x x :=
  ⟨⟨rfl, fun ti t t' h h' => by rw [h] at h'; cases h'; exact RunsOn.refl _, fun ti t t' h h' hr => by rw [h] at h'; cases h'; exact hr⟩,
    fun ti t t' h h' => by rw [h] at h'; cases h'; exact ⟨id, fun q => .inl q⟩⟩

theorem thread_back {x y : Group} (h : y.threads.length = x.threads.length) {ti : Nat} {t' : Thread} (ht' : y.threads[ti]? = some t') :
    ∃ t, x.threads[ti]? = some t := by
  obtain ⟨hlt, _⟩ := List.getElem?_eq_some_iff.mp ht'
  exact ⟨_, List.getElem?_eq_getElem (h ▸ hlt)⟩

theorem GroupOn.trans {x y z : Group} (h : GroupOn x y) (h' : GroupOn y z) : GroupOn x z := by
  refine ⟨⟨h'.like.len.trans h.like.len, ?_, ?_⟩, ?_⟩
  · intro ti t t'' ht ht''
    obtain ⟨t', ht'⟩ := thread_back h'.like.len ht''
    exact (h.like.run ti t t' ht ht').trans (h'.like.run ti t' t'' ht' ht'')
  · intro ti t t'' ht ht'' hr
    obtain ⟨t', ht'⟩ := thread_back h'.like.len ht''
    exact h'.like.back ti t' t'' ht' ht'' (h.like.back ti t t' ht ht' hr)
  · intro ti t t'' ht ht''
    obtain ⟨t', ht'⟩ := thread_back h'.like.len ht''
    refine ⟨fun hr => (h'.on ti t' t'' ht' ht'').1 ((h.on ti t t' ht ht').1 hr), fun q => ?_⟩
    rcases (h.on ti t t' ht ht').2 q with q' | hf
    · exact (h'.on ti t' t'' ht' ht'').2 q'
    · exact .inr (h'.like.back ti t' t'' ht' ht'' hf)

/-- An effect on a state that goes onward with the issue set. -/
structure Onward (s r : State) : Prop where
  issue : r.issue = s.issue
  next : s.nextId ≤ r.nextId
  single : (∀ w ∈ s.wgs, w.wid = s.issue.wid → s.wg? s.issue.wid = some w) →
    ∀ w ∈ r.wgs, w.wid = s.issue.wid → r.wg? s.issue.wid = some w
  wg : ∀ w, s.wg? s.issue.wid = some w → ∃ w', r.wg? s.issue.wid = some w' ∧ w'.groups.length = w.groups.length ∧
    ∀ (gi : Nat) (x y : Group), w.groups[gi]? = some x → w'.groups[gi]? = some y → GroupOn x y

theorem Onward.trans {s r q : State} (h : Onward s r) (h' : Onward r q) : Onward s q := by
  refine ⟨h'.issue.trans h.issue, Nat.le_trans h.next h'.next, ?_, ?_⟩
  · intro hs
    have := h'.single (by rw [h.issue]; exact h.single hs)
    rw [h.issue] at this; exact this
  · intro w hw
    obtain ⟨w', hw', hl, hg⟩ := h.wg w hw
    obtain ⟨w'', hw'', hl', hg'⟩ := h'.wg w' (by rw [h.issue]; exact hw')
    refine ⟨w'', by rw [← h.issue]; exact hw'', hl'.trans hl, ?_⟩
    intro gi x z hx hz
    obtain ⟨hlt, _⟩ := List.getElem?_eq_some_iff.mp hz
    have hy := List.getElem?_eq_getElem (hl' ▸ hlt)
    exact (hg gi x _ hx hy).trans (hg' gi _ z hy hz)

/-- An effect that touches no workgroup. -/
structure Apart (s r : State) : Prop where
  wgs : r.wgs = s.wgs
  issue : r.issue = s.issue
  next : s.nextId ≤ r.nextId
  jobs : r.jobs = s.jobs
  draws : r.draws = s.draws

theorem Apart.refl (s : State) : Apart s s := ⟨rfl, rfl, Nat.le_refl _, rfl, rfl⟩
theorem Apart.trans {s r q : State} (h : Apart s r) (h' : Apart r q) : Apart s q :=
  ⟨h'.wgs.trans h.wgs, h'.issue.trans h.issue, Nat.le_trans h.next h'.next, h'.jobs.trans h.jobs, h'.draws.trans h.draws⟩

theorem Onward.of_wgs {s r : State} (h1 : r.wgs = s.wgs) (h2 : r.issue = s.issue) (h3 : s.nextId ≤ r.nextId) : Onward s r := by
  have hw : ∀ wid, r.wg? wid = s.wg? wid := by intro wid; simp [State.wg?, h1]
  refine ⟨h2, h3, ?_, ?_⟩
  · intro hs w hwm hwid
    rw [hw]; rw [h1] at hwm; exact hs w hwm hwid
  · intro w hww
    exact ⟨w, by rw [hw]; exact hww, rfl, fun gi x y hx hy => by rw [hx] at hy; cases hy; exact GroupOn.refl _⟩

theorem Apart.onward {s r : State} (h : Apart s r) : Onward s r := Onward.of_wgs h.wgs h.issue h.next
theorem Onward.refl (s : State) : Onward s s := (Apart.refl s).onward

/-- A workgroup changed group by group. -/
theorem Onward.modWg (s : State) (wid : Nat) (f : Workgroup → Workgroup) (hf : ∀ w, (f w).wid = w.wid)
    (hl : ∀ w, (f w).groups.length = w.groups.length)
    (hg : ∀ w (gi : Nat) (x y : Group), w.groups[gi]? = some x → (f w).groups[gi]? = some y → GroupOn x y) : Onward s (s.modWg wid f) := by
  refine ⟨rfl, Nat.le_refl _, ?_, ?_⟩
  · intro hs w hw hwid
    simp only [State.modWg, List.mem_map] at hw
    obtain ⟨w0, hw0, he⟩ := hw
    by_cases hi : wid = s.issue.wid
    · rw [hi, wg_modWg s _ f hf]
      by_cases h0 : w0.wid = wid
      · simp only [h0, if_true] at he
        rw [hs w0 hw0 (h0.trans hi), ← he]; rfl
      · simp only [h0, if_false] at he
        subst he; exact absurd (hwid.trans hi.symm) h0
    · by_cases h0 : w0.wid = wid
      · simp only [h0, if_true] at he
        rw [← he, hf] at hwid
        exact absurd (h0.symm.trans hwid) hi
      · simp only [h0, if_false] at he
        subst he
        have h2 : (s.modWg wid f).wg? s.issue.wid = s.wg? s.issue.wid := by
          simp only [State.wg?, State.modWg, List.find?_map]
          have : ((fun w : Workgroup => w.wid == s.issue.wid) ∘ fun w => if w.wid = wid then f w else w) = (fun w => w.wid == s.issue.wid) := by
            funext w
            by_cases h : w.wid = wid
            · simp [h, hf]
            · simp [h]
          rw [this]
          cases h : s.wgs.find? (fun w => w.wid == s.issue.wid) with
          | none => rfl
          | some w =>
            have h3 := List.find?_some h
            simp only [beq_iff_eq] at h3
            have h4 : ¬ w.wid = wid := fun h5 => hi (h5.symm.trans h3)
            simp [h4]
        rw [h2]; exact hs w0 hw0 hwid
  · intro w hw
    by_cases hi : wid = s.issue.wid
    · refine ⟨f w, by rw [hi, wg_modWg s _ f hf, hw]; rfl, hl w, fun gi x y hx hy => hg w gi x y hx hy⟩
    · have h2 : (s.modWg wid f).wg? s.issue.wid = s.wg? s.issue.wid := by
        simp only [State.wg?, State.modWg, List.find?_map]
        have : ((fun w : Workgroup => w.wid == s.issue.wid) ∘ fun w => if w.wid = wid then f w else w) = (fun w => w.wid == s.issue.wid) := by
          funext w
          by_cases h : w.wid = wid
          · simp [h, hf]
          · simp [h]
        rw [this]
        cases h : s.wgs.find? (fun w => w.wid == s.issue.wid) with
        | none => rfl
        | some w =>
          have h3 := List.find?_some h
          simp only [beq_iff_eq] at h3
          have h4 : ¬ w.wid = wid := fun h5 => hi (h5.symm.trans h3)
          simp [h4]
      exact ⟨w, by rw [h2]; exact hw, rfl, fun gi x y hx hy => by rw [hx] at hy; cases hy; exact GroupOn.refl _⟩

/-- Scratch, objects and what else a workgroup holds beside its groups, changed. -/
theorem Onward.modWg_beside (s : State) (wid : Nat) (f : Workgroup → Workgroup) (hf : ∀ w, (f w).wid = w.wid)
    (hg : ∀ w, (f w).groups = w.groups) : Onward s (s.modWg wid f) :=
  Onward.modWg s wid f hf (fun w => by rw [hg]) (fun w gi x y hx hy => by rw [hg, hx] at hy; cases hy; exact GroupOn.refl _)

/-- One group changed. -/
theorem Onward.modGroup (s : State) (wid gi : Nat) (f : Group → Group) (hf : ∀ x, GroupOn x (f x)) : Onward s (s.modGroup wid gi f) := by
  refine Onward.modWg s wid _ (fun _ => rfl) (fun w => by simp) ?_
  intro w i x y hx hy
  simp only [List.getElem?_modify, hx, Option.map_eq_map, Option.map_some, Option.some.injEq] at hy
  subst hy
  split
  · exact hf x
  · exact GroupOn.refl x

/-- A group whose threads stay and whose outstanding results keep their standing. -/
theorem GroupOn.of_threads {x y : Group} (h1 : y.threads = x.threads) (h2 : y.gPending.map (·.returned) = x.gPending.map (·.returned))
    (h3 : x.gMarks = [] → y.gMarks = []) : GroupOn x y := by
  have hall : y.gPending.all (·.returned) = x.gPending.all (·.returned) := all_map_returned _ _ h2
  refine ⟨⟨by rw [h1], ?_, ?_⟩, ?_⟩
  · intro ti t t' ht ht'
    rw [h1, ht] at ht'; cases ht'; exact RunsOn.refl _
  · intro ti t t' ht ht' hr
    rw [h1, ht] at ht'; cases ht'
    simpa [Thread.allReturned, hall] using hr
  · intro ti t t' ht ht'
    rw [h1, ht] at ht'; cases ht'
    refine ⟨id, fun ⟨q1, q2, q3, q4, q5⟩ => .inl ⟨nil_map_returned _ _ h2 q1, h3 q2, q3, q4, q5⟩⟩

theorem GroupOn.writeG (x : Group) (n : Nat) (y : Word) : GroupOn x (x.writeG n y) :=
  GroupOn.of_threads (by simp only [Group.writeG]; split <;> rfl) (writeG_tame x n y).1 (writeG_tame x n y).2

/-- One thread of a group changed without a change to its standing. -/
theorem GroupOn.modThread (x : Group) (ti : Nat) (f : Thread → Thread) (hf : ∀ t, ThreadTame t (f t)) :
    GroupOn x { x with threads := x.threads.modify ti f } := by
  have key : ∀ (i : Nat) (t t' : Thread), x.threads[i]? = some t → ({ x with threads := x.threads.modify ti f } : Group).threads[i]? = some t' → ThreadTame t t' := by
    intro i t t' ht ht'
    simp only [List.getElem?_modify, ht, Option.map_eq_map, Option.map_some, Option.some.injEq] at ht'
    subst ht'
    split
    · exact hf t
    · exact ThreadTame.refl t
  refine ⟨⟨by simp, ?_, ?_⟩, ?_⟩
  · intro i t t' ht ht'
    exact .inl (key i t t' ht ht').run
  · intro i t t' ht ht' hr
    simpa [Thread.allReturned, all_map_returned _ _ (key i t t' ht ht').pend] using hr
  · intro i t t' ht ht'
    have k := key i t t' ht ht'
    exact ⟨fun hr => k.run.trans hr, fun ⟨q1, q2, q3, q4, q5⟩ =>
      .inl ⟨q1, q2, nil_map_returned _ _ k.pend q3, k.unwaited.trans q4, k.marks q5⟩⟩

theorem Onward.modThread (s : State) (wid gi ti : Nat) (f : Thread → Thread) (hf : ∀ t, ThreadTame t (f t)) :
    Onward s (s.modThread wid gi ti f) := Onward.modGroup s wid gi _ (fun x => GroupOn.modThread x ti f hf)

/-- Results that have not returned, outstanding to one thread. -/
theorem Onward.addPending (s : State) (wid gi ti : Nat) (ps : List Pending) (hp : ∀ p ∈ ps, p.returned = false) :
    Onward s (s.addPending wid gi ti ps) := by
  refine Onward.modGroup s wid gi _ (fun x => ?_)
  have key : ∀ (i : Nat) (t t' : Thread), x.threads[i]? = some t →
      (x.threads.modify ti (fun t => { t with pending := t.pending ++ ps, unwaited := t.unwaited ++ ps.map (·.reg) }))[i]? = some t' →
      t' = t ∨ t' = { t with pending := t.pending ++ ps, unwaited := t.unwaited ++ ps.map (·.reg) } := by
    intro i t t' ht ht'
    simp only [List.getElem?_modify, ht, Option.map_eq_map, Option.map_some, Option.some.injEq] at ht'
    subst ht'
    split
    · exact .inr rfl
    · exact .inl rfl
  refine ⟨⟨by simp, ?_, ?_⟩, ?_⟩
  · intro i t t' ht ht'
    rcases key i t t' ht ht' with rfl | rfl <;> exact RunsOn.refl _
  · intro i t t' ht ht' hr
    rcases key i t t' ht ht' with rfl | rfl
    · exact hr
    · simp only [Thread.allReturned, Bool.and_eq_false_iff, List.all_append] at hr ⊢
      rcases hr with hr | hr
      · exact .inl (.inl hr)
      · exact .inr hr
  · intro i t t' ht ht'
    rcases key i t t' ht ht' with rfl | rfl
    · exact ⟨id, fun q => .inl q⟩
    · refine ⟨id, fun ⟨q1, q2, q3, q4, q5⟩ => ?_⟩
      cases ps with
      | nil => exact .inl ⟨q1, q2, by simp [q3], by simp [q4], q5⟩
      | cons p ps =>
        right
        simp [Thread.allReturned, hp p (List.mem_cons_self)]

/-- Results that have not returned, outstanding to g registers. -/
theorem Onward.addGPending (s : State) (wid gi : Nat) (ps : List Pending) (hp : ∀ p ∈ ps, p.returned = false) :
    Onward s (s.addGPending wid gi ps) := by
  refine Onward.modGroup s wid gi _ (fun x => ?_)
  generalize hps : ps.filter (fun p => decide (p.reg ≠ 96)) = ps1
  have hp1 : ∀ p ∈ ps1, p.returned = false := by
    intro p hh; rw [← hps] at hh; exact hp p (List.mem_filter.mp hh).1
  have key : ∀ (i : Nat) (t t' : Thread), x.threads[i]? = some t →
      (x.threads.map (fun t => { t with unwaited := t.unwaited ++ ps1.map (·.reg) }))[i]? = some t' →
      t' = { t with unwaited := t.unwaited ++ ps1.map (·.reg) } := by
    intro i t t' ht ht'
    simp only [List.getElem?_map, ht, Option.map_some, Option.some.injEq] at ht'
    exact ht'.symm
  refine ⟨⟨by simp, ?_, ?_⟩, ?_⟩
  · intro i t t' ht ht'
    rw [key i t t' ht ht']; exact RunsOn.refl _
  · intro i t t' ht ht' hr
    rw [key i t t' ht ht']
    simp only [Thread.allReturned, Bool.and_eq_false_iff, List.all_append] at hr ⊢
    rcases hr with hr | hr
    · exact .inl hr
    · exact .inr (.inl hr)
  · intro i t t' ht ht'
    rw [key i t t' ht ht']
    refine ⟨id, fun ⟨q1, q2, q3, q4, q5⟩ => ?_⟩
    cases ps1 with
    | nil => exact .inl ⟨by simp [q1], q2, q3, by simp [q4], q5⟩
    | cons p ps1 =>
      right
      simp [Thread.allReturned, hp1 p (List.mem_cons_self)]

/-- An onward effect keeps the standing of the issue set. -/
theorem Onward.keeps {s r : State} (h : Onward s r) (hc : Calm s) : Keeps s r := by
  refine ⟨h.issue, h.next, h.single hc.single, ?_⟩
  intro w hw
  obtain ⟨w', hw', hl, hg⟩ := h.wg w hw
  exact ⟨w', hw', hl, fun gi x y hx hy => (hg gi x y hx hy).like⟩

/-- An onward effect leaves a W to results that it finds, or that the effect has made. -/
theorem Onward.waits {sh : Shape} {s r : State} (h : Onward s r) (hc : Calm s) (hp : Present s) (hw : Waits sh s) : Waits sh r := by
  intro hh
  obtain ⟨w, hw0⟩ := hc.found
  obtain ⟨w', hw', hl, hg⟩ := h.wg w hw0
  have hback : ∀ (gi : Nat) (y : Group), w'.groups[gi]? = some y → ∃ x, w.groups[gi]? = some x := by
    intro gi y hy
    obtain ⟨hlt, _⟩ := List.getElem?_eq_some_iff.mp hy
    exact ⟨_, List.getElem?_eq_getElem (hl ▸ hlt)⟩
  have hrdy : ∀ (gi ti : Nat) (x : Group) (t : Thread), s.issuing gi ti = true → w.groups[gi]? = some x → x.threads[ti]? = some t → t.run = .ready := by
    intro gi ti x t hi hx ht
    simp only [State.issuing, List.any_eq_true, Bool.and_eq_true, beq_iff_eq, List.contains_iff_mem] at hi
    obtain ⟨m, hm, hmg, hmt⟩ := hi
    obtain ⟨g, hgm, hall⟩ := hp m hm
    obtain ⟨t0, ht0, hr⟩ := hall ti hmt
    rw [group_of_wg s w hw0, hmg, hx] at hgm
    obtain rfl := Option.some.inj hgm
    rw [ht] at ht0
    obtain rfl := Option.some.inj ht0
    exact hr
  rcases hw hh with ha | hq
  · refine .inl ((h.keeps hc).awaits ?_ ha)
    intro gi ti t t' hi ht ht' hr
    simp only [State.thread?, State.group?, hw0, hw', Option.bind_some] at ht ht'
    cases hx : w.groups[gi]? with
    | none => simp [hx] at ht
    | some x =>
      cases hy : w'.groups[gi]? with
      | none => simp [hy] at ht'
      | some y =>
        simp only [hx, hy, Option.bind_some] at ht ht'
        exact ((hg gi x y hx hy).on ti t t' ht ht').1 hr
  · by_cases hex : ∃ (gi ti : Nat) (y : Group) (t' : Thread), s.issuing gi ti = true ∧ w'.groups[gi]? = some y ∧ y.threads[ti]? = some t' ∧ t'.allReturned y = false
    · left
      obtain ⟨gi, ti, y, t', hi, hy, ht', hf⟩ := hex
      obtain ⟨x, hx⟩ := hback gi y hy
      have hgo := hg gi x y hx hy
      obtain ⟨t, ht⟩ := thread_back hgo.like.len ht'
      show State.awaits _ = true
      simp only [State.awaits, h.issue, hw', List.any_eq_true]
      refine ⟨(gi, ti), (mem_readyIssuers _ _ _).mpr ⟨y, t', hy, ht', by simpa only [State.issuing, h.issue] using hi, (hgo.on ti t t' ht ht').1 (hrdy gi ti x t hi hx ht)⟩, ?_⟩
      simp [Workgroup.returned, hy, ht', hf]
    · right
      intro gi ti y t' hi hy ht'
      rw [h.issue] at hy
      have hi' : s.issuing gi ti = true := by simpa only [State.issuing, h.issue] using hi
      simp only [State.group?, hw', Option.bind_some] at hy
      obtain ⟨x, hx⟩ := hback gi y hy
      have hgo := hg gi x y hx hy
      obtain ⟨t, ht⟩ := thread_back hgo.like.len ht'
      have hquiet := hq gi ti x t hi' (by rw [State.group?, hw0]; exact hx) ht
      rcases (hgo.on ti t t' ht ht').2 hquiet with q | hf
      · exact q
      · exact absurd ⟨gi, ti, y, t', hi', hy, ht', hf⟩ hex

/-- A unit whose body goes onward and stops no thread ends with its set past it. -/
theorem unit_done (i : Instr) (jump : Bool) (cross : Option CrossReads) (extra) (body : Body) (s r : State)
    (h : Clear i cross extra s) (hbody : body s (s.issueLanes (shapeOf i)) = (r, [])) (ho : Onward s r) :
    runUnit i jump cross extra body s = r.pastUnit (shapeOf i) jump :=
  runUnit_done i jump cross extra body s r h.calm h.passes hbody (ho.keeps h.calm) (ho.waits h.calm h.here h.waits)

/-! ### Units of one group -/

theorem groupLanes_alone (e : LaneEnv) (ls : List LaneEnv) (hh : ls.head? = some e) (h1 : ∀ x ∈ ls, x.gi = e.gi) :
    groupLanes ls = [e] ∧ ls.filter (fun x => x.gi == e.gi) = ls := by
  constructor
  · cases ls with
    | nil => cases hh
    | cons a l =>
      simp only [List.head?_cons, Option.some.injEq] at hh
      subst hh
      simp only [groupLanes, List.foldl_cons, List.any_nil, Bool.false_eq_true, if_false, List.nil_append]
      have : ∀ l : List LaneEnv, (∀ x ∈ l, x.gi = a.gi) →
          l.foldl (fun l e => if l.any (fun x => x.gi == e.gi) then l else l ++ [e]) [a] = [a] := by
        intro l
        induction l with
        | nil => intro _; rfl
        | cons b l ih =>
          intro hb
          rw [List.foldl_cons]
          have : ([a].any fun x => x.gi == b.gi) = true := by simp [hb b (List.mem_cons_self)]
          rw [this]
          exact ih (fun x hx => hb x (List.mem_cons_of_mem _ hx))
      exact this l (fun x hx => h1 x (List.mem_cons_of_mem _ hx))
  · rw [List.filter_eq_self]
    intro x hx
    simp [h1 x hx]

/-- The body of a unit of one group. -/
theorem groupBody_alone (f : State → LaneEnv → List LaneEnv → State × List Fate) (s : State) (e : LaneEnv) (ls : List LaneEnv)
    (hh : ls.head? = some e) (h1 : ∀ x ∈ ls, x.gi = e.gi) : groupBody f s ls = f s e ls := by
  obtain ⟨h2, h3⟩ := groupLanes_alone e ls hh h1
  simp only [groupBody, h2, List.foldl_cons, List.foldl_nil, List.nil_append, h3]

end Sys2Proof.Laws
end

