-- ==== Sys2Proof/Laws/Apart.lean ====
section
/-!
SUPPORT. What the operations on memory, translations, records and quires leave alone: none of them touches a workgroup,
the issue set, a job or the count of draws.
-/
namespace Sys2Proof.Laws
set_option Elab.async false
open Sys2Proof Sys2Proof.Machine

theorem Apart.fold {α : Type} (f : State → α → State) (hf : ∀ s a, Apart s (f s a)) (l : List α) (s : State) : Apart s (l.foldl f s) := by
  induction l generalizing s with
  | nil => exact Apart.refl s
  | cons a l ih => exact (hf s a).trans (ih _)

theorem Apart.foldFst {α β : Type} (f : State × β → α → State × β) (hf : ∀ s a, Apart s.1 (f s a).1) (l : List α) (s : State × β) :
    Apart s.1 (l.foldl f s).1 := by
  induction l generalizing s with
  | nil => exact Apart.refl s.1
  | cons a l ih => exact (hf s a).trans (ih _)

/-! ### Memory -/

theorem message_apart (s : State) (f v : Nat) : Apart s (s.message f v) := ⟨rfl, rfl, Nat.le_refl _, rfl, rfl⟩

theorem modContext_apart (s : State) (p c : Nat) (f) : Apart s (s.modContext p c f) := by
  unfold State.modContext; split <;> exact ⟨rfl, rfl, Nat.le_refl _, rfl, rfl⟩

theorem modResident_apart (s : State) (p c k : Nat) (f) : Apart s (s.modResident p c k f) := by
  unfold State.modResident; split <;> exact ⟨rfl, rfl, Nat.le_refl _, rfl, rfl⟩

theorem modPart_apart (s : State) (p : Nat) (f) : Apart s (s.modPart p f) := ⟨rfl, rfl, Nat.le_refl _, rfl, rfl⟩

theorem writeGranule_apart (s : State) (g v : Nat) (cs) : Apart s (s.writeGranule g v cs).1 := by
  simp only [State.writeGranule]
  split <;> exact ⟨rfl, rfl, Nat.le_refl _, rfl, rfl⟩

theorem writeCells_apart (s : State) (cs) (v : Nat) : Apart s (s.writeCells cs v).1 :=
  Apart.foldFst (β := List Nat) (fun acc g => let r := acc.1.writeGranule g v cs; (r.1, if r.2 then acc.2 ++ [g] else acc.2))
    (fun a g => writeGranule_apart a.1 g v cs) _ (s, [])

theorem writePhys_apart (s : State) (a : Nat) (bs) (v : Nat) : Apart s (s.writePhys a bs v) := writeCells_apart s _ v

theorem writePage_apart (s : State) (g : Page) (a : Nat) (bs) : Apart s (s.writePage g a bs) := by
  unfold State.writePage; split
  · exact Apart.refl s
  · exact writePhys_apart s _ bs _

theorem Apart.ite (c : Prop) [Decidable c] {s a b : State} (ha : Apart s a) (hb : Apart s b) : Apart s (if c then a else b) := by
  split
  · exact ha
  · exact hb

theorem touchBlock_apart (s : State) (a : Nat) (h) : Apart s (s.touchBlock a h) :=
  Apart.ite _ ⟨rfl, rfl, Nat.le_refl _, rfl, rfl⟩ (Apart.refl s)

theorem touchPage_apart (s : State) (g : Page) (a : Nat) : Apart s (s.touchPage g a) :=
  Apart.ite _ (Apart.refl s) (touchBlock_apart s _ _)

theorem touchRuns_apart (s : State) (rs) : Apart s (s.touchRuns rs) := Apart.fold _ (fun t _ => touchPage_apart t _ _) _ s

/-! ### Records -/

theorem pushRecord_apart (s : State) (p c : Nat) (r) : Apart s (s.pushRecord p c r) := by
  simp only [State.pushRecord]
  have h := (writePhys_apart s ((s.context p c).fqbase.toNat + 32 * ((s.context p c).fqtail.toNat % 2 ^ (s.context p c).fqsize.toNat)) r 0).trans
    (modContext_apart _ p c (fun y => { y with fqtail := y.fqtail + 1 }))
  split
  · exact h.trans (message_apart _ _ _)
  · exact h

theorem raiseFault_apart (s : State) (p c a k kd core pc who : Nat) : Apart s (s.raiseFault p c a k kd core pc who).1 := by
  simp only [State.raiseFault]
  split
  · have h := modContext_apart s p c (fun y => { y with seq := (y.seq + 1) % 2 ^ 24 })
    exact ⟨h.wgs, h.issue, h.next, h.jobs, h.draws⟩
  · exact (modContext_apart s p c _).trans (pushRecord_apart _ p c _)

theorem logRecord_apart (s : State) (p c a k kd core pc who : Nat) : Apart s (s.logRecord p c a k kd core pc who) := by
  simp only [State.logRecord]
  split
  · exact modContext_apart s p c _
  · exact (modContext_apart s p c _).trans (pushRecord_apart _ p c _)

theorem trace_apart (s : State) (p c a e k st h w d : Nat) : Apart s (s.trace p c a e k st h w d) := by
  simp only [State.trace]
  split
  · exact Apart.refl s
  · split
    · exact modContext_apart s p c _
    · exact (writePhys_apart s _ _ 0).trans (modContext_apart _ p c _)

theorem traceIssue_apart (s : State) (e : LaneEnv) (a : Nat) : Apart s (s.traceIssue e a) := trace_apart s _ _ _ _ _ _ _ _ _

theorem logPoison_apart (s : State) (e : LaneEnv) (a : Nat) : Apart s (s.logPoison e a) := logRecord_apart s _ _ _ _ _ _ _ _

theorem logEnginePoison_apart (s : State) (w : Workgroup) (pc : Word) (a : Nat) : Apart s (s.logEnginePoison w pc a) :=
  logRecord_apart s _ _ _ _ _ _ _ _

/-! ### Translation -/

theorem tlbFill_apart (s : State) (p a c : Nat) (g : Page) : Apart s (s.tlbFill p a c g) := ⟨rfl, rfl, Nat.le_refl _, rfl, rfl⟩

theorem pageWalk_apart (s : State) (p c core va k : Nat) : Apart s (s.pageWalk p c core va k).1 := by
  simp only [State.pageWalk]
  split
  · split
    · exact (tlbFill_apart s _ _ _ _).trans (tlbFill_apart _ _ _ _ _)
    · exact Apart.refl s
  · exact Apart.refl s

theorem lookup_apart (s : State) (p c core va k : Nat) : Apart s (s.lookup p c core va k).1 := by
  unfold State.lookup
  split
  · exact Apart.refl s
  · split
    · exact tlbFill_apart s _ _ _ _
    · exact pageWalk_apart s p c core _ _

theorem translate_apart (s : State) (p c core a k : Nat) : Apart s (s.translate p c core a k).1 := by
  have h := lookup_apart s p c core (a % 2 ^ 52) k
  simp only [State.translate]
  split
  · exact Apart.refl s
  · exact h

theorem translateRuns_apart (p c core k : Nat) (rs) (s : State) : Apart s (s.translateRuns p c core k rs).1 := by
  induction rs generalizing s with
  | nil => exact Apart.refl s
  | cons x rs ih =>
    obtain ⟨a, n⟩ := x
    have h := translate_apart s p c core a k
    simp only [State.translateRuns]
    split
    · rename_i s1 e he; rw [he] at h; exact h
    · rename_i s1 g he; rw [he] at h; exact h.trans (ih s1)

theorem readVirt_apart (s : State) (p c core a n : Nat) : Apart s (s.readVirt p c core a n).1 := by
  simp only [State.readVirt]
  split
  · exact translateRuns_apart p c core 0 _ s
  · exact (translateRuns_apart p c core 0 _ s).trans (touchRuns_apart _ _)

theorem readCode_apart (s : State) (p c core a n : Nat) (v : View) : Apart s (s.readCode p c core a n v).1 := by
  have h := readVirt_apart s p c core a n
  unfold State.readCode
  split
  · rename_i s1 bs bad he
    rw [he] at h
    dsimp only
    split <;> exact h
  · exact h

theorem writeVirt_apart (s : State) (p c core a : Nat) (bs) : Apart s (s.writeVirt p c core a bs).1 := by
  simp only [State.writeVirt]
  split
  · exact translateRuns_apart p c core 1 _ s
  · exact ((translateRuns_apart p c core 1 _ s).trans (touchRuns_apart _ _)).trans (Apart.fold _ (fun t q => writePage_apart t _ _ _) _ _)

/-! ### The lanes' accesses -/

theorem translateLanes_apart (k : Nat) (ls) (s : State) : Apart s (s.translateLanes k ls).1 := by
  induction ls generalizing s with
  | nil => exact Apart.refl s
  | cons x ls ih =>
    obtain ⟨e, a⟩ := x
    have h := translate_apart s e.wg.part e.wg.ctx e.wg.core a k
    simp only [State.translateLanes]
    split
    · rename_i s1 g he; rw [he] at h; exact h.trans (ih s1)
    · rename_i s1 g he; rw [he] at h; exact h.trans (ih s1)

theorem raiseFaults_apart (s : State) (k : Nat) (fs) : Apart s (s.raiseFaults k fs).1 := by
  simp only [State.raiseFaults]
  apply Apart.foldFst (s := (s, []))
  intro t pg
  split
  · exact Apart.refl _
  · exact raiseFault_apart _ _ _ _ _ _ _ _ _

theorem globalAccess_apart (s : State) (k n : Nat) (f) (es) : Apart s (s.globalAccess k n f es).1 :=
  (translateLanes_apart k _ s).trans (raiseFaults_apart _ k _)

/-- A part of the state that no element of a list changes. -/
theorem fold_keeps {α β : Type} (g : State → β) (f : State → α → State) (hf : ∀ s a, g (f s a) = g s) (l : List α) (s : State) :
    g (l.foldl f s) = g s := by
  induction l generalizing s with
  | nil => rfl
  | cons a l ih => rw [List.foldl_cons, ih, hf]

theorem foldTame {α : Type} (f : Thread → α → Thread) (hf : ∀ t a, ThreadTame t (f t a)) (l : List α) (t : Thread) :
    ThreadTame t (l.foldl f t) := by
  induction l generalizing t with
  | nil => exact ThreadTame.refl t
  | cons a l ih => rw [List.foldl_cons]; exact (hf t a).trans (ih _)

/-! What a thread has seen, and what its fences order, is no part of its standing. -/

theorem note_tame (t : Thread) (x : Seen) : ThreadTame t (t.note x) := ⟨rfl, rfl, rfl, id⟩

theorem take_tame (t : Thread) (seen : List Seen) (acq : List View) : ThreadTame t (t.take seen acq) := by
  have h := foldTame _ note_tame seen t
  exact ⟨h.run, h.pend, h.unwaited, h.marks⟩

theorem freeze_tame (t : Thread) : ThreadTame t t.freeze := by
  have h := foldTame (fun (t : Thread) (l : Load) => t.take l.seen l.acq) (fun t l => take_tame t _ _) t.loads t
  exact ⟨h.run, h.pend, h.unwaited, h.marks⟩

theorem follow_tame (t : Thread) (space a n : Nat) : ThreadTame t (t.follow space a n) := by
  have h := fun l => foldTame (fun (t : Thread) (l : Load) => t.take l.seen l.acq) (fun t l => take_tame t _ _) l t
  exact ⟨(h _).run, (h _).pend, (h _).unwaited, (h _).marks⟩

theorem release_tame (t : Thread) (m : Nat) : ThreadTame t (t.release m) :=
  ⟨(freeze_tame t).run, (freeze_tame t).pend, (freeze_tame t).unwaited, (freeze_tame t).marks⟩

theorem acquire_tame (t : Thread) (m : Nat) : ThreadTame t (t.acquire m) :=
  ⟨(freeze_tame t).run, (freeze_tame t).pend, (freeze_tame t).unwaited, (freeze_tame t).marks⟩

theorem align_tame (t : Thread) : ThreadTame t t.align :=
  ⟨(freeze_tame t).run, (freeze_tame t).pend, (freeze_tame t).unwaited, (freeze_tame t).marks⟩

theorem learn_tame (t : Thread) (v : View) : ThreadTame t (t.learn v) :=
  ⟨(freeze_tame t).run, (freeze_tame t).pend, (freeze_tame t).unwaited, (freeze_tame t).marks⟩

theorem after_tame (p : Spot) (t : Thread) : ThreadTame t (p.after t) := follow_tame t _ _ _

theorem loaded_tame (s : State) (w : Workgroup) (p : Spot) (see) (cross : View) (o) (t : Thread) : ThreadTame t (p.loaded s w see cross o t) := by
  unfold Spot.loaded
  dsimp only
  have h := after_tame p t
  split
  · exact ⟨h.run, h.pend, h.unwaited, h.marks⟩
  · exact h.trans (take_tame _ _ _)

theorem Onward.fold {α : Type} (f : State → α → State) (hf : ∀ s a, Onward s (f s a)) (l : List α) (s : State) : Onward s (l.foldl f s) := by
  induction l generalizing s with
  | nil => exact Onward.refl s
  | cons a l ih => exact (hf s a).trans (ih _)

theorem modLane_onward (s : State) (e : LaneEnv) (f : Thread → Thread) (hf : ∀ t, ThreadTame t (f t)) : Onward s (s.modLane e f) :=
  Onward.modThread s _ _ _ f hf

theorem withLedger_apart (s : State) (m : Ledger) : Apart s (s.withLedger m) := ⟨rfl, rfl, Nat.le_refl _, rfl, rfl⟩

theorem settleFences_apart (s : State) (t : Thread) : Apart s (s.settleFences t) := ⟨rfl, rfl, Nat.le_refl _, rfl, rfl⟩

theorem observeSpot_onward (s t : State) (w : Workgroup) (p : Spot) (see) (o) : Onward s (s.observeSpot t w p see o) := by
  unfold State.observeSpot
  dsimp only
  refine Onward.trans ?_ (modLane_onward _ _ _ (loaded_tame _ _ _ _ _ _))
  split
  · exact (withLedger_apart s _).onward
  · exact Onward.refl s

theorem readyStore_onward (s : State) (p : Spot) : Onward s (s.readyStore p) :=
  (settleFences_apart s _).onward.trans (modLane_onward _ _ _ (after_tame p))

theorem ownPieces_onward (s : State) (h : SMap Versions) (ps : List Piece) : Onward s (s.ownPieces h ps) := by
  unfold State.ownPieces
  exact Onward.fold _ (fun t q => modLane_onward t q.e _ (fun u => note_tame u _)) ps s

theorem sendStore_apart (s : State) (x : Access) : Apart s (s.sendStore x) :=
  Apart.ite _ (Apart.refl s) ⟨rfl, rfl, Nat.le_refl _, rfl, rfl⟩

/-- Stores of a unit's lanes move only what its threads have seen. -/
theorem storeGlobal_onward (s : State) (m : Nat) (r : Bool) (ws) : Onward s (s.storeGlobal m r ws) := by
  unfold State.storeGlobal
  dsimp only
  refine Onward.trans ?_ (Apart.onward (Apart.fold _ (fun t w => sendStore_apart t _) _ _))
  refine Onward.trans ?_ (ownPieces_onward _ _ _)
  refine Onward.trans (r := (List.foldl _ (_, _) _).1) ?_ (Onward.of_wgs rfl rfl (Nat.le_refl _))
  refine Onward.trans (Onward.fold (fun s w => s.readyStore (w.1.spot w.2.length m)) (fun t w => readyStore_onward t _)
    (ws.filter (fun w => ! w.1.page.host)) s) (Apart.onward ?_)
  refine Apart.foldFst (β := List Nat) _ (fun t v => ?_) _ (_, [])
  refine (writeCells_apart t.1 _ v).trans (Apart.fold _ (fun t g => ?_) _ _)
  split
  · exact logPoison_apart t _ _
  · exact Apart.refl t

/-- Stores to scratch that set no granule full. -/
theorem storeScratch_onward (s : State) (m : Nat) (rel rmw : Bool) (ws) : Onward s (s.storeScratch m false rel rmw ws) := by
  unfold State.storeScratch
  split
  · exact Onward.refl s
  · rename_i e a bs r
    dsimp only
    refine Onward.trans ?_ (Apart.onward (Apart.fold _ (fun t g => ?_) _ _))
    · refine Onward.trans ?_ (ownPieces_onward _ _ _)
      have h0 := Onward.fold (fun s (w : LaneEnv × Nat × List Byte) => s.readyStore (w.1.scratchSpot w.2.1 w.2.2.length))
        (fun t w => readyStore_onward t _) ((e, a, bs) :: r) s
      split
      · refine Onward.trans ?_ (Onward.fold _ (fun t w => modLane_onward t _ _ freeze_tame) _ _)
        exact h0.trans (Onward.modWg_beside _ _ _ (fun _ => rfl) (fun _ => rfl))
      · exact h0.trans (Onward.modWg_beside _ _ _ (fun _ => rfl) (fun _ => rfl))
    · split
      · exact logPoison_apart t _ _
      · exact Apart.refl t

theorem writeVaultCells_apart (s : State) (cs) : Apart s (s.writeVaultCells cs).1 := by
  simp only [State.writeVaultCells]
  apply Apart.foldFst (s := (s, []))
  intro t g
  split
  · exact Apart.refl _
  · exact ⟨rfl, rfl, Nat.le_refl _, rfl, rfl⟩

/-! ### Quires -/

theorem quireEntry_apart (s : State) (p c core q : Nat) (v : View) : Apart s (s.quireEntry p c core q v).1 := by
  simp only [State.quireEntry]
  split
  · exact Apart.refl s
  · rename_i t _
    have h := readCode_apart s p c core (t + 64 * q) 64 v
    unfold State.quireEntryIn
    split <;> (rename_i he; rw [he] at h; exact h)

theorem requestLoad_apart (s : State) (p c core q : Nat) (v : View) : Apart s (s.requestLoad p c core q v).1 := by
  have h := quireEntry_apart s p c core q v
  simp only [State.requestLoad]
  split
  · exact Apart.refl s
  · split
    · rename_i s1 a he; rw [he] at h; dsimp only at h ⊢; exact h.trans (modResident_apart s1 _ _ _ _)
    · rename_i s1 e a he; rw [he] at h
      split
      · exact h
      · rename_i out _
        have h2 := Apart.trans (r := s1) h
          (Apart.fold (fun s k => s.modResident p c core (·.modQuire k Quire.evict)) (fun s k => modResident_apart s _ _ _ _) out _)
        dsimp only
        refine Apart.trans ?_ (modResident_apart _ _ _ _ _)
        exact ⟨h2.wgs, h2.issue, Nat.le_trans h2.next (Nat.le_succ _), h2.jobs, h2.draws⟩

theorem startLoad_apart (s : State) (p c core q : Nat) : Apart s (s.startLoad p c core q) := by
  unfold State.startLoad
  dsimp only
  split
  · split
    · exact modResident_apart s _ _ _ _
    · exact Apart.refl s
  · exact Apart.refl s

theorem loadQuire_apart (s : State) (p c core q : Nat) (v : View) : Apart s (s.loadQuire p c core q v).1 := by
  have h := requestLoad_apart s p c core q v
  unfold State.loadQuire
  split
  · rename_i s1 he; rw [he] at h; exact h.trans (startLoad_apart s1 _ _ _ _)
  · exact h

theorem enterQuire_apart (s : State) (p c core q : Nat) : Apart s (s.enterQuire p c core q) := modResident_apart s p c core _

/-! ### Jobs -/

theorem releaseLanes_onward (s : State) (e : LaneEnv) (m : Nat) : Onward s (s.releaseLanes e m) :=
  Onward.fold _ (fun t _ => Onward.modThread t _ _ _ _ (fun u => release_tame u m)) _ s

theorem releaseLanes_nextId (s : State) (e : LaneEnv) (m : Nat) : (s.releaseLanes e m).nextId = s.nextId :=
  fold_keeps State.nextId (fun s i => s.modThread e.wg.wid e.gi i (·.release m)) (fun _ _ => rfl) _ s

theorem addJob_onward (s : State) (e : LaneEnv) (k : JobKind) : Onward s (s.addJob e k).1 := by
  unfold State.addJob
  dsimp only
  split
  · refine Onward.trans (releaseLanes_onward s e _) (Onward.of_wgs rfl rfl ?_)
    exact Nat.le_trans (Nat.le_of_eq (releaseLanes_nextId s e _)) (Nat.le_succ _)
  · exact Onward.of_wgs rfl rfl (Nat.le_succ _)

/-! ### Operations of the forme unit -/

theorem putRuns_apart (s : State) (j : Job) (rs : Runs) (cells : List (Nat × Byte)) : Apart s (s.putRuns j rs cells) := by
  unfold State.putRuns
  refine (touchRuns_apart s _).trans (Apart.fold _ (fun x v => ?_) _ _)
  refine (writeCells_apart x _ v).trans (Apart.fold _ (fun y g => ?_) _ _)
  split
  · exact logRecord_apart _ _ _ _ _ _ _ _ _
  · exact Apart.refl y

theorem fprim_apart (s : State) : FPrim (Apart s) where
  reach _ p c core k rs h := h.trans (translateRuns_apart p c core k rs _)
  put _ j rs cells h := h.trans (putRuns_apart _ j rs cells)
  touch _ rs h := h.trans (touchRuns_apart _ rs)
  items _ _ h := ⟨h.wgs, h.issue, h.next, h.jobs, h.draws⟩
  log _ p c a k kd core pc x h := h.trans (logRecord_apart _ p c a k kd core pc x)

end Sys2Proof.Laws
end

