-- ==== Sys2Proof/Laws/Groups.lean ====
section
/-!
SUPPORT. Units whose groups act in turn, and units of one group: what is left when no group stops a thread.
-/
namespace Sys2Proof.Laws
set_option Elab.async false
open Sys2Proof Sys2Proof.Machine

theorem turns_fold (f : State → LaneEnv → List LaneEnv → State × List Fate) (g : State → LaneEnv → State) (es : List LaneEnv)
    (P : State → Prop) (l : List LaneEnv)
    (hstep : ∀ t e, e ∈ l → P t → f t e (es.filter (fun x => x.gi == e.gi)) = (g t e, []) ∧ P (g t e) ∧ Onward t (g t e)) (s : State) (hP : P s) :
    l.foldl (fun (acc : State × List Fate) e =>
      let r := f acc.1 e (es.filter (fun x => x.gi == e.gi))
      (r.1, acc.2 ++ r.2)) (s, []) = (l.foldl g s, []) ∧ Onward s (l.foldl g s) := by
  induction l generalizing s with
  | nil => exact ⟨rfl, Onward.refl s⟩
  | cons a l ih =>
    obtain ⟨h1, h2, h3⟩ := hstep s a List.mem_cons_self hP
    have := ih (fun t e he hp => hstep t e (List.mem_cons_of_mem _ he) hp) (g s a) h2
    simp only [List.foldl_cons, h1, List.append_nil]
    exact ⟨this.1, h3.trans this.2⟩

/-- A unit whose groups act in turn and stop no thread. -/
theorem turns_done (i : Instr) (f : State → LaneEnv → List LaneEnv → State × List Fate) (g : State → LaneEnv → State) (s : State)
    (P : State → Prop) (h : Issues i s) (hP : P s)
    (hstep : ∀ t e, e ∈ groupLanes (s.issueLanes (shapeOf i)) → P t →
      f t e ((s.issueLanes (shapeOf i)).filter (fun x => x.gi == e.gi)) = (g t e, []) ∧ P (g t e) ∧ Onward t (g t e)) :
    runUnit i false none noExtra (groupBody f) s = (s.eachTurn i g).pastUnit (shapeOf i) false := by
  obtain ⟨h1, h2⟩ := turns_fold f g (s.issueLanes (shapeOf i)) P (groupLanes (s.issueLanes (shapeOf i))) hstep s hP
  exact unit_done i false none noExtra (groupBody f) s _ h h1 h2

/-- A unit of one group. -/
theorem lone_done (i : Instr) (f : State → LaneEnv → List LaneEnv → State × List Fate) (s r : State) (e : LaneEnv) (h : Issues i s)
    (hl : Lone i s e) (hf : f s e (s.issueLanes (shapeOf i)) = (r, [])) (ho : Onward s r) :
    runUnit i false none noExtra (groupBody f) s = r.pastUnit (shapeOf i) false :=
  unit_done i false none noExtra (groupBody f) s r h ((groupBody_alone f s e _ hl.first hl.group).trans hf) ho
end Sys2Proof.Laws
end

