-- ==== Sys2Proof/Laws/Maps.lean ====
section
/-!
SUPPORT. Sparse maps: what a write leaves at its key and at every other one, and that each operation keeps the canonical
form.
-/
namespace Sys2Proof.Laws
set_option Elab.async false
open Sys2Proof Sys2Proof.Machine

variable {β : Type}

/-! ### Reading after writing -/

theorem get_erase_other (m : SMap β) (k b : Nat) (z : β) (h : b ≠ k) : SMap.get (SMap.erase m k) b z = SMap.get m b z := by
  induction m with
  | nil => rfl
  | cons p r ih =>
    obtain ⟨a, v⟩ := p
    simp only [SMap.erase, List.filter_cons] at ih ⊢
    by_cases h1 : a = k
    · simp only [h1, ne_eq, not_true, decide_false, Bool.false_eq_true, if_false, SMap.get, Ne.symm h, ih]
    · simp only [h1, ne_eq, not_false_eq_true, decide_true, if_true, SMap.get, ih]


theorem get_insert_other (m : SMap β) (k b : Nat) (v z : β) (h : b ≠ k) : SMap.get (SMap.insert m k v) b z = SMap.get m b z := by
  induction m with
  | nil => simp [SMap.insert, SMap.get, Ne.symm h]
  | cons p r ih =>
    obtain ⟨a, x⟩ := p
    unfold SMap.insert
    by_cases h1 : a < k
    · simp only [h1, if_true, SMap.get, ih]
    · by_cases h2 : a = k
      · subst h2
        simp [SMap.get, Ne.symm h]
      · simp only [h1, h2, if_false]
        simp [SMap.get, Ne.symm h]

theorem get_insert_same (m : SMap β) (k : Nat) (v z : β) : SMap.get (SMap.insert m k v) k z = v := by
  induction m with
  | nil => simp [SMap.insert, SMap.get]
  | cons p r ih =>
    obtain ⟨a, x⟩ := p
    unfold SMap.insert
    by_cases h1 : a < k
    · simp only [h1, if_true, SMap.get, ih]
      simp [Nat.ne_of_lt h1]
    · by_cases h2 : a = k
      · subst h2
        simp [SMap.get]
      · simp only [h1, h2, if_false]
        simp [SMap.get]

variable [DecidableEq β]

/-- A write leaves every other key alone. -/
theorem get_set_other (m : SMap β) (k b : Nat) (v z : β) (h : b ≠ k) : SMap.get (SMap.set m k v z) b z = SMap.get m b z := by
  unfold SMap.set
  split
  · exact get_erase_other m k b z h
  · exact get_insert_other m k b v z h

theorem wf_cons {a : Nat} {v z : β} {r : SMap β} :
    SMap.wf ((a, v) :: r) z = true ↔ v ≠ z ∧ (∀ p ∈ r, a < p.1) ∧ SMap.wf r z = true := by
  rw [SMap.wf]
  simp only [Bool.and_eq_true, decide_eq_true_eq, List.all_eq_true, and_assoc]

omit [DecidableEq β] in
theorem get_below (m : SMap β) (k : Nat) (z : β) (h : ∀ p ∈ m, k < p.1) : SMap.get m k z = z := by
  induction m with
  | nil => rfl
  | cons p r ih =>
    obtain ⟨a, v⟩ := p
    have h1 := h (a, v) List.mem_cons_self
    simp only [SMap.get, (Nat.ne_of_gt h1), if_false]
    exact ih (fun p hp => h p (List.mem_cons_of_mem _ hp))

omit [DecidableEq β] in
theorem get_erase_same (m : SMap β) (k : Nat) (z : β) : SMap.get (SMap.erase m k) k z = z := by
  induction m with
  | nil => rfl
  | cons p r ih =>
    obtain ⟨a, v⟩ := p
    simp only [SMap.erase, List.filter_cons] at ih ⊢
    by_cases h1 : a = k
    · simp only [h1, ne_eq, not_true, decide_false, Bool.false_eq_true, if_false, ih]
    · simp only [h1, ne_eq, not_false_eq_true, decide_true, if_true, SMap.get, if_false, ih]

/-- A write reads back. -/
theorem get_set_same (m : SMap β) (k : Nat) (v z : β) : SMap.get (SMap.set m k v z) k z = v := by
  unfold SMap.set
  split
  · rename_i h1
    rw [get_erase_same m k z, h1]
  · exact get_insert_same m k v z

/-! ### The canonical form -/

omit [DecidableEq β] in
theorem mem_insert {m : SMap β} {k : Nat} {v : β} {p : Nat × β} (h : p ∈ SMap.insert m k v) : p = (k, v) ∨ p ∈ m := by
  induction m with
  | nil => exact .inl (List.mem_singleton.mp h)
  | cons q r ih =>
    obtain ⟨a, x⟩ := q
    unfold SMap.insert at h
    split at h
    · rcases List.mem_cons.mp h with rfl | h
      · exact .inr List.mem_cons_self
      · exact (ih h).imp id (List.mem_cons_of_mem _)
    · split at h
      · exact (List.mem_cons.mp h).imp id (List.mem_cons_of_mem _)
      · exact List.mem_cons.mp h

theorem wf_insert {m : SMap β} (k : Nat) {v z : β} (hv : v ≠ z) (h : SMap.wf m z = true) : SMap.wf (SMap.insert m k v) z = true := by
  induction m with
  | nil => exact wf_cons.mpr ⟨hv, fun p hp => absurd hp List.not_mem_nil, rfl⟩
  | cons p r ih =>
    obtain ⟨a, x⟩ := p
    obtain ⟨h1, h2, h3⟩ := wf_cons.mp h
    unfold SMap.insert
    split
    · rename_i h4
      refine wf_cons.mpr ⟨h1, fun p hp => ?_, ih h3⟩
      rcases mem_insert hp with rfl | hp
      · exact h4
      · exact h2 p hp
    · split
      · rename_i h4 h5
        subst h5
        exact wf_cons.mpr ⟨hv, h2, h3⟩
      · rename_i h4 h5
        have h6 : k < a := Nat.lt_of_le_of_ne (Nat.le_of_not_lt h4) (Ne.symm h5)
        refine wf_cons.mpr ⟨hv, fun p hp => ?_, h⟩
        rcases List.mem_cons.mp hp with rfl | hp
        · exact h6
        · exact Nat.lt_trans h6 (h2 p hp)

/-- A filter keeps the canonical form. -/
theorem wf_filter {m : SMap β} (f : Nat × β → Bool) {z : β} (h : SMap.wf m z = true) : SMap.wf (m.filter f : SMap β) z = true := by
  induction m with
  | nil => exact h
  | cons p r ih =>
    obtain ⟨a, v⟩ := p
    obtain ⟨h1, h2, h3⟩ := wf_cons.mp h
    rw [List.filter_cons]
    split
    · exact wf_cons.mpr ⟨h1, fun p hp => h2 p (List.mem_filter.mp hp).1, ih h3⟩
    · exact ih h3

theorem wf_erase {m : SMap β} (k : Nat) {z : β} (h : SMap.wf m z = true) : SMap.wf (SMap.erase m k) z = true := wf_filter _ h

/-- A write keeps the canonical form. -/
theorem wf_set {m : SMap β} (k : Nat) (v : β) {z : β} (h : SMap.wf m z = true) : SMap.wf (SMap.set m k v z) z = true := by
  unfold SMap.set
  split
  · exact wf_erase k h
  · exact wf_insert k (by assumption) h

theorem wf_write {z : β} (vs : List β) {m : SMap β} (k : Nat) (h : SMap.wf m z = true) : SMap.wf (SMap.write m k vs z) z = true := by
  induction vs generalizing m k with
  | nil => exact h
  | cons v r ih => exact ih (k + 1) (wf_set k v h)

theorem wf_cells {z : β} (cs : List (Nat × β)) {m : SMap β} (h : SMap.wf m z = true) :
    SMap.wf (cs.foldl (fun m c => SMap.set m c.1 c.2 z) m) z = true := by
  induction cs generalizing m with
  | nil => exact h
  | cons c r ih => exact ih (wf_set c.1 c.2 h)

/-! ### Runs of keys -/

/-- A run written leaves the keys outside it alone. -/
theorem get_write_other (z : β) (vs : List β) (m : SMap β) (k b : Nat) (h : b < k ∨ k + vs.length ≤ b) :
    SMap.get (SMap.write m k vs z) b z = SMap.get m b z := by
  induction vs generalizing m k with
  | nil => rfl
  | cons v r ih =>
    simp only [List.length_cons] at h
    rw [SMap.write, ih _ _ (by omega), get_set_other _ _ _ _ _ (by omega)]

/-- A run written to a map in canonical form reads back. -/
theorem get_write_same (z : β) (vs : List β) (m : SMap β) (k i : Nat) (hi : i < vs.length) :
    SMap.get (SMap.write m k vs z) (k + i) z = vs[i] := by
  induction vs generalizing m k i with
  | nil => simp at hi
  | cons v r ih =>
    rw [SMap.write]
    cases i with
    | zero =>
      rw [get_write_other z r _ _ _ (by omega), Nat.add_zero, get_set_same]
      rfl
    | succ i =>
      have := ih (SMap.set m k v z) (k + 1) i (by simpa using hi)
      rw [show k + (i + 1) = k + 1 + i by omega, this]
      rfl

/-- Cells written leave every key that none names alone. -/
theorem get_cells_other (z : β) (cs : List (Nat × β)) (m : SMap β) (b : Nat) (h : ∀ c ∈ cs, c.1 ≠ b) :
    SMap.get (cs.foldl (fun m c => SMap.set m c.1 c.2 z) m) b z = SMap.get m b z := by
  induction cs generalizing m with
  | nil => rfl
  | cons c r ih =>
    rw [List.foldl_cons, ih _ (fun c hc => h c (List.mem_cons_of_mem _ hc)),
      get_set_other _ _ _ _ _ (Ne.symm (h c List.mem_cons_self))]

/-- Cells that agree on a key give it their value. -/
theorem get_cells_same (z : β) (cs : List (Nat × β)) (m : SMap β) (b : Nat) (x : β)
    (hx : (b, x) ∈ cs) (h : ∀ c ∈ cs, c.1 = b → c.2 = x) :
    SMap.get (cs.foldl (fun m c => SMap.set m c.1 c.2 z) m) b z = x := by
  induction cs generalizing m with
  | nil => exact absurd hx List.not_mem_nil
  | cons c r ih =>
    rw [List.foldl_cons]
    by_cases hr : (b, x) ∈ r
    · exact ih _ hr (fun c hc => h c (List.mem_cons_of_mem _ hc))
    · rcases List.mem_cons.mp hx with rfl | h'
      · rw [get_cells_other z r _ b (fun c hc hb => hr (by
          have := h c (List.mem_cons_of_mem _ hc) hb
          rw [← hb, ← this]
          exact hc))]
        exact get_set_same _ _ _ _
      · exact absurd h' hr

omit [DecidableEq β] in
theorem read_length (m : SMap β) (k n : Nat) (z : β) : (SMap.read m k n z).length = n := by
  induction n generalizing k with
  | zero => rfl
  | succ n ih => rw [SMap.read, List.length_cons, ih]

omit [DecidableEq β] in
/-- Element i of a run read. -/
theorem read_get (m : SMap β) (k n i : Nat) (z : β) (h : i < n) : (SMap.read m k n z)[i]? = some (SMap.get m (k + i) z) := by
  induction n generalizing k i with
  | zero => omega
  | succ n ih =>
    rw [SMap.read]
    cases i with
    | zero => rfl
    | succ i => rw [List.getElem?_cons_succ, ih _ _ (by omega), show k + 1 + i = k + (i + 1) by omega]

end Sys2Proof.Laws
end

