-- ==== Sys2Proof/Laws/Memory.lean ====
section
/-!
SUPPORT. Memory by granules: what a write to scratch, to a vault and to device memory leaves of each byte, and that device
memory and the vaults keep their canonical form.
-/
namespace Sys2Proof.Laws
set_option Elab.async false
open Sys2Proof Sys2Proof.Machine

/-! ### Cells and granules -/

theorem cellsAt_key {a : Nat} {bs : List Byte} {c : Nat × Byte} (h : c ∈ cellsAt a bs) :
    ∃ i, c.1 = a + i ∧ bs[i]? = some c.2 := by
  obtain ⟨p, hp, rfl⟩ := List.mem_map.mp h
  have := List.mem_zipIdx_iff_getElem?.mp hp
  exact ⟨p.2, rfl, this⟩

theorem cellsAt_mem {a i : Nat} {bs : List Byte} {x : Byte} (h : bs[i]? = some x) : (a + i, x) ∈ cellsAt a bs :=
  List.mem_map.mpr ⟨(x, i), List.mem_zipIdx_iff_getElem?.mpr h, rfl⟩

theorem cellsAt_within {a : Nat} {bs : List Byte} {c : Nat × Byte} (h : c ∈ cellsAt a bs) : a ≤ c.1 ∧ c.1 < a + bs.length := by
  obtain ⟨i, h1, h2⟩ := cellsAt_key h
  have := (List.getElem?_eq_some_iff.mp h2).1
  omega

/-- The cells of a run agree on every key. -/
theorem cellsAt_agree {a i : Nat} {bs : List Byte} {x : Byte} (h : bs[i]? = some x) {c : Nat × Byte} (hc : c ∈ cellsAt a bs)
    (hk : c.1 = a + i) : c.2 = x := by
  obtain ⟨j, h1, h2⟩ := cellsAt_key hc
  have : j = i := by omega
  subst this
  rw [h] at h2
  exact (Option.some.inj h2).symm

theorem granules_step (cs : List (Nat × Byte)) (size : Nat) (l : List Nat) (g : Nat) :
    g ∈ cs.foldl (fun l c => if l.contains (c.1 / size) then l else l ++ [c.1 / size]) l ↔ g ∈ l ∨ ∃ c ∈ cs, c.1 / size = g := by
  induction cs generalizing l with
  | nil => simp
  | cons c r ih =>
    rw [List.foldl_cons, ih]
    by_cases h : c.1 / size ∈ l
    · rw [if_pos (by simpa using h)]
      constructor
      · rintro (h1 | ⟨d, h1, h2⟩)
        · exact .inl h1
        · exact .inr ⟨d, List.mem_cons_of_mem _ h1, h2⟩
      · rintro (h1 | ⟨d, h1, h2⟩)
        · exact .inl h1
        · rcases List.mem_cons.mp h1 with rfl | h1
          · exact .inl (h2 ▸ h)
          · exact .inr ⟨d, h1, h2⟩
    · rw [if_neg (by simpa using h)]
      simp only [List.mem_append, List.mem_singleton]
      constructor
      · rintro ((h1 | h1) | ⟨d, h1, h2⟩)
        · exact .inl h1
        · exact .inr ⟨c, List.mem_cons_self, h1.symm⟩
        · exact .inr ⟨d, List.mem_cons_of_mem _ h1, h2⟩
      · rintro (h1 | ⟨d, h1, h2⟩)
        · exact .inl (.inl h1)
        · rcases List.mem_cons.mp h1 with rfl | h1
          · exact .inl (.inr h2.symm)
          · exact .inr ⟨d, h1, h2⟩

/-- The granules of cells are those that some cell falls in. -/
theorem mem_granulesOf {cs : List (Nat × Byte)} {size g : Nat} : g ∈ granulesOf cs size ↔ ∃ c ∈ cs, c.1 / size = g := by
  rw [granulesOf, granules_step]
  simp

/-! ### Writing granule by granule -/

/-- A write that goes granule by granule and collects the granules that fail. -/
def byGranules {α : Type} (f : α → Nat → α × Bool) (l : List Nat) (acc : α × List Nat) : α × List Nat :=
  l.foldl (fun acc g => let r := f acc.1 g; (r.1, if r.2 then acc.2 ++ [g] else acc.2)) acc

theorem byGranules_keeps {α : Type} (f : α → Nat → α × Bool) (P : α → Prop) (l : List Nat) (hf : ∀ x, ∀ g ∈ l, P x → P (f x g).1) (acc : α × List Nat)
    (h : P acc.1) : P (byGranules f l acc).1 := by
  induction l generalizing acc with
  | nil => exact h
  | cons g l ih => exact ih (fun x k hk => hf x k (List.mem_cons_of_mem _ hk)) _ (hf acc.1 g List.mem_cons_self h)

theorem byGranules_fails {α : Type} (f : α → Nat → α × Bool) (l : List Nat) (acc : α × List Nat) :
    ∃ r, (byGranules f l acc).2 = acc.2 ++ r := by
  induction l generalizing acc with
  | nil => exact ⟨[], (List.append_nil _).symm⟩
  | cons g l ih =>
    obtain ⟨r, hr⟩ := ih ((f acc.1 g).1, if (f acc.1 g).2 then acc.2 ++ [g] else acc.2)
    refine ⟨(if (f acc.1 g).2 then [g] else []) ++ r, ?_⟩
    rw [byGranules, List.foldl_cons]
    refine hr.trans ?_
    split <;> simp

/-- When no granule fails, what one granule's write establishes and every write keeps holds at the end. -/
theorem byGranules_makes {α : Type} (f : α → Nat → α × Bool) (P Q : α → Prop) (g0 : Nat) (l : List Nat) (hg : g0 ∈ l)
    (hP : ∀ x g, P x → P (f x g).1) (hmake : ∀ x, P x → (f x g0).2 = false → Q (f x g0).1)
    (hkeep : ∀ x g, P x → (f x g).2 = false → Q x → Q (f x g).1) (acc : α × List Nat) (hacc : P acc.1)
    (hok : (byGranules f l acc).2 = []) : Q (byGranules f l acc).1 := by
  have later : ∀ (l : List Nat) (acc : α × List Nat), P acc.1 → Q acc.1 → (byGranules f l acc).2 = [] → Q (byGranules f l acc).1 := by
    intro l
    induction l with
    | nil => intro acc _ h _; exact h
    | cons g l ih =>
      intro acc hp hq hok
      obtain ⟨r, hr⟩ := byGranules_fails f l ((f acc.1 g).1, if (f acc.1 g).2 then acc.2 ++ [g] else acc.2)
      have hok' : (byGranules f l ((f acc.1 g).1, if (f acc.1 g).2 then acc.2 ++ [g] else acc.2)).2 = [] := hok
      have hf : (f acc.1 g).2 = false := by
        cases h : (f acc.1 g).2 with
        | false => rfl
        | true => rw [hok'] at hr; simp [h] at hr
      exact ih _ (hP _ g hp) (hkeep _ g hp hf hq) hok'
  induction l generalizing acc with
  | nil => exact absurd hg List.not_mem_nil
  | cons g l ih =>
    have hok' : (byGranules f l ((f acc.1 g).1, if (f acc.1 g).2 then acc.2 ++ [g] else acc.2)).2 = [] := hok
    obtain ⟨r, hr⟩ := byGranules_fails f l ((f acc.1 g).1, if (f acc.1 g).2 then acc.2 ++ [g] else acc.2)
    have hf : (f acc.1 g).2 = false := by
      cases h : (f acc.1 g).2 with
      | false => rfl
      | true => rw [hok'] at hr; simp [h] at hr
    rcases List.mem_cons.mp hg with rfl | hg
    · exact later l _ (hP _ g0 hacc) (hmake _ hacc hf) hok'
    · exact ih hg _ (hP _ g hacc) hok'

/-! ### Scratch -/

theorem writeScratchCells_by (w : Workgroup) (cs : List (Nat × Byte)) :
    w.writeScratchCells cs = byGranules (fun w g => w.writeScratchGranule g cs) (granulesOf cs 16) (w, []) := rfl

/-- A granule's write leaves every byte that none of its cells names alone. -/
theorem writeScratchGranule_other (w : Workgroup) (g b : Nat) (cs : List (Nat × Byte)) (h : ∀ c ∈ cs, c.1 ≠ b) :
    SMap.get (w.writeScratchGranule g cs).1.scratch b 0 = SMap.get w.scratch b 0 := by
  unfold Workgroup.writeScratchGranule
  dsimp only
  split
  · rfl
  · exact get_cells_other 0 _ _ b (fun c hc => h c (List.mem_filter.mp hc).1)

theorem writeScratchGranule_wf (w : Workgroup) (g : Nat) (cs : List (Nat × Byte)) (h : SMap.wf w.scratch 0 = true) :
    SMap.wf (w.writeScratchGranule g cs).1.scratch 0 = true := by
  unfold Workgroup.writeScratchGranule
  dsimp only
  split
  · exact h
  · exact wf_cells _ h

/-- A granule's write that does not fail gives a byte of it what the cells agree on. -/
theorem writeScratchGranule_same (w : Workgroup) (b : Nat) (cs : List (Nat × Byte)) (x : Byte)
    (hx : (b, x) ∈ cs) (h : ∀ c ∈ cs, c.1 = b → c.2 = x) (hok : (w.writeScratchGranule (b / 16) cs).2 = false) :
    SMap.get (w.writeScratchGranule (b / 16) cs).1.scratch b 0 = x := by
  unfold Workgroup.writeScratchGranule at hok ⊢
  dsimp only at hok ⊢
  split at hok
  · cases hok
  · rename_i hn
    rw [if_neg hn]
    exact get_cells_same 0 _ _ b x (List.mem_filter.mpr ⟨hx, by simp⟩) (fun c hc => h c (List.mem_filter.mp hc).1)

/-! ### Vaults -/

/-- One granule of the vaults written. -/
def writeVaultGranule (cs : List (Nat × Byte)) (s : State) (g : Nat) : State × Bool :=
  let mine := cs.filter (fun c => c.1 / 16 == g)
  let whole := (List.range 16).all (fun i => mine.any (fun c => c.1 == 16 * g + i))
  if ! whole && s.vaultPoison.get g false then (s, true)
  else
    ({ s with
        stores := (granulesOf mine 8).foldl (fun h p =>
          pushStore h (locKey 1 p) (SMap.read s.vault (8 * p) 8 0) (maskOf mine 8 p) 0) s.stores
        vault := mine.foldl (fun m c => SMap.set m c.1 c.2 0) s.vault
        vaultPoison := if whole then SMap.erase s.vaultPoison g else s.vaultPoison }, false)

theorem writeVaultCells_by (s : State) (cs : List (Nat × Byte)) :
    s.writeVaultCells cs = byGranules (writeVaultGranule cs) (granulesOf cs 16) (s, []) := by
  unfold State.writeVaultCells byGranules
  congr 1
  funext acc g
  unfold writeVaultGranule
  dsimp only
  split
  · simp
  · simp

theorem writeVaultGranule_other (s : State) (g b : Nat) (cs : List (Nat × Byte)) (h : ∀ c ∈ cs, c.1 ≠ b) :
    SMap.get (writeVaultGranule cs s g).1.vault b 0 = SMap.get s.vault b 0 := by
  unfold writeVaultGranule
  dsimp only
  split
  · rfl
  · exact get_cells_other 0 _ _ b (fun c hc => h c (List.mem_filter.mp hc).1)

theorem writeVaultGranule_wf (s : State) (g : Nat) (cs : List (Nat × Byte)) (h : SMap.wf s.vault 0 = true) :
    SMap.wf (writeVaultGranule cs s g).1.vault 0 = true := by
  unfold writeVaultGranule
  dsimp only
  split
  · exact h
  · exact wf_cells _ h

theorem writeVaultGranule_same (s : State) (b : Nat) (cs : List (Nat × Byte)) (x : Byte)
    (hx : (b, x) ∈ cs) (h : ∀ c ∈ cs, c.1 = b → c.2 = x) (hok : (writeVaultGranule cs s (b / 16)).2 = false) :
    SMap.get (writeVaultGranule cs s (b / 16)).1.vault b 0 = x := by
  unfold writeVaultGranule at hok ⊢
  dsimp only at hok ⊢
  split at hok
  · cases hok
  · rename_i hn
    rw [if_neg hn]
    exact get_cells_same 0 _ _ b x (List.mem_filter.mpr ⟨hx, by simp⟩) (fun c hc => h c (List.mem_filter.mp hc).1)

/-! ### Device memory -/

theorem writeCells_by (s : State) (cs : List (Nat × Byte)) (v : Nat) :
    s.writeCells cs v = byGranules (fun s g => s.writeGranule g v cs) (granulesOf cs 32) (s, []) := rfl

/-- A granule's write keeps device memory in its canonical form. -/
theorem writeGranule_wf (s : State) (g v : Nat) (cs : List (Nat × Byte)) (h : MemWf s) : MemWf (s.writeGranule g v cs).1 := by
  unfold State.writeGranule
  dsimp only
  split
  · exact h
  · refine wf_cells _ ?_
    split
    · exact h
    · split
      · exact h
      · exact wf_write _ _ h

/-- So does every write of device memory. -/
theorem writeCells_wf (s : State) (cs : List (Nat × Byte)) (v : Nat) (h : MemWf s) : MemWf (s.writeCells cs v).1 :=
  byGranules_keeps _ MemWf _ (fun x g _ hx => writeGranule_wf x g v cs hx) (s, []) h

theorem writePhys_wf (s : State) (a v : Nat) (bs : List Byte) (h : MemWf s) : MemWf (s.writePhys a bs v) := writeCells_wf s _ v h

/-- What keys and quotas are made of, which no write changes. -/
theorem writeGranule_keyOf (s : State) (g v : Nat) (cs : List (Nat × Byte)) (a : Nat) :
    (s.writeGranule g v cs).1.keyOf a = s.keyOf a := by
  unfold State.writeGranule
  dsimp only
  split <;> rfl

theorem bytesOf_length (x n : Nat) : (bytesOf x n).length = n := by
  induction n generalizing x with
  | zero => rfl
  | succ n ih => rw [bytesOf, List.length_cons, ih]

theorem granule_length (s : State) (g tag : Nat) : (s.granule g tag).length = 32 := by
  unfold State.granule
  dsimp only
  split
  · exact read_length _ _ _ _
  · exact bytesOf_length _ _

/-- The stack and the medium of an address are those of its granule. -/
theorem region_granule (a : Nat) : (∃ st o o', regionOf a = .hbm st o ∧ regionOf (32 * (a / 32)) = .hbm st o') ∨
    (∃ st o o', regionOf a = .tier st o ∧ regionOf (32 * (a / 32)) = .tier st o') ∨
    (regionOf a = .nothing ∧ regionOf (32 * (a / 32)) = .nothing) := by
  unfold regionOf hbmBytes tierBytes
  simp only [show (2 : Nat) ^ 39 = 549755813888 from rfl, show (2 : Nat) ^ 36 = 68719476736 from rfl,
    show (2 : Nat) ^ 40 = 1099511627776 from rfl, show (2 : Nat) ^ 37 = 137438953472 from rfl,
    show 48 * (10 : Nat) ^ 9 = 48000000000 from rfl, show 96 * (10 : Nat) ^ 9 = 96000000000 from rfl]
  by_cases h1 : a < 549755813888
  · rw [if_pos h1, if_pos (show 32 * (a / 32) < 549755813888 by omega)]
    by_cases h2 : a % 68719476736 < 48000000000
    · rw [if_pos h2, if_pos (show 32 * (a / 32) % 68719476736 < 48000000000 by omega),
        show 32 * (a / 32) / 68719476736 = a / 68719476736 by omega]
      exact .inl ⟨_, _, _, rfl, rfl⟩
    · rw [if_neg h2, if_neg (show ¬ 32 * (a / 32) % 68719476736 < 48000000000 by omega)]
      exact .inr (.inr ⟨rfl, rfl⟩)
  · obtain ⟨b, rfl⟩ : ∃ b, a = 549755813888 + b := ⟨a - 549755813888, by omega⟩
    have h3 : 32 * ((549755813888 + b) / 32) = 549755813888 + 32 * (b / 32) := by omega
    rw [if_neg h1, h3, if_neg (show ¬ 549755813888 + 32 * (b / 32) < 549755813888 by omega)]
    simp only [Nat.add_sub_cancel_left]
    have h4 : (32 * (b / 32) < 1099511627776 ∧ 32 * (b / 32) % 137438953472 < 96000000000) ↔
        (b < 1099511627776 ∧ b % 137438953472 < 96000000000) := by
      constructor
      · rintro ⟨h, h'⟩
        exact ⟨by omega, by omega⟩
      · rintro ⟨h, h'⟩
        exact ⟨by omega, by omega⟩
    by_cases h2 : b < 1099511627776 ∧ b % 137438953472 < 96000000000
    · rw [if_pos h2, if_pos (h4.mpr h2), show 32 * (b / 32) / 137438953472 = b / 137438953472 by omega]
      exact .inr (.inl ⟨_, _, _, rfl, rfl⟩)
    · rw [if_neg h2, if_neg (fun h => h2 (h4.mp h))]
      exact .inr (.inr ⟨rfl, rfl⟩)

/-- The library's bounds, whatever its registers hold (R387). -/
theorem library_legal (s : State) : LibraryLegal s := by
  unfold LibraryLegal State.libSize State.libBase
  by_cases h : s.libWell = true
  · rw [if_pos h, if_pos h]
    unfold State.libWell at h
    simp only [Bool.and_eq_true, decide_eq_true_eq] at h
    obtain ⟨⟨h1, h2⟩, h3⟩ := h
    split at h3
    · simp only [Bool.and_eq_true, decide_eq_true_eq] at h3
      exact ⟨h1, h2, Nat.le_trans (Nat.le_add_left _ _) h3.2⟩
    · cases h3
  · rw [if_neg h, if_neg h]
    exact ⟨rfl, rfl, Nat.zero_le _⟩

/-- The key of an address is that of its granule. -/
theorem keyOf_granule (s : State) (a : Nat) : s.keyOf (32 * (a / 32)) = s.keyOf a := by
  obtain ⟨h1, h2, _⟩ := library_legal s
  have hl : s.inLibrary (32 * (a / 32)) = s.inLibrary a := by
    unfold State.inLibrary
    congr 1
    apply propext
    omega
  unfold State.keyOf
  rw [hl]
  rcases region_granule a with ⟨st, o, o', h3, h4⟩ | ⟨st, o, o', h3, h4⟩ | ⟨h3, h4⟩ <;> rw [h3, h4]

theorem tag_ne (k v : Nat) : tagOf k v ≠ 0 := by
  unfold tagOf
  split <;> omega

/-- A read of other maps that agree. -/
theorem read_congr (m m' : SMap Byte) (k n : Nat) (h : ∀ i < n, SMap.get m (k + i) 0 = SMap.get m' (k + i) 0) :
    SMap.read m k n 0 = SMap.read m' k n 0 := by
  induction n generalizing k with
  | zero => rfl
  | succ n ih =>
    rw [SMap.read, SMap.read, ih (k + 1) (fun i hi => by rw [Nat.add_assoc, Nat.add_comm 1 i]; exact h (i + 1) (by omega))]
    have := h 0 (by omega)
    rw [Nat.add_zero] at this
    rw [this]

/-- A granule's write leaves the bytes of every other granule alone, under every version. -/
theorem writeGranule_other (s : State) (g v b v' : Nat) (cs : List (Nat × Byte)) (h : b / 32 ≠ g) :
    (s.writeGranule g v cs).1.physByte b v' = s.physByte b v' := by
  unfold State.writeGranule
  dsimp only
  split
  · rfl
  · have hget : ∀ a, a / 32 = b / 32 → SMap.get ((cs.filter (fun c => c.1 / 32 == g)).foldl (fun m c => SMap.set m c.1 c.2 0)
        (if (List.range 32).all (fun i => (cs.filter (fun c => c.1 / 32 == g)).any (fun c => c.1 == 32 * g + i)) = true then s.mem
         else if s.memTag.get g 0 = 0 ∨ s.memTag.get g 0 = tagOf (s.keyOf (32 * g)) v then s.mem
         else SMap.write s.mem (32 * g) (s.granule g (tagOf (s.keyOf (32 * g)) v)) 0)) a 0 = SMap.get s.mem a 0 := by
      intro a ha
      rw [get_cells_other 0 _ _ a (fun c hc => by
        have := (List.mem_filter.mp hc).2
        simp only [beq_iff_eq] at this
        intro hk
        rw [hk, ha] at this
        exact h this)]
      split
      · rfl
      · split
        · rfl
        · apply get_write_other
          rw [granule_length]
          omega
    revert hget
    generalize List.foldl (fun m c => SMap.set m c.1 c.2 0) _ (cs.filter (fun c => c.1 / 32 == g)) = m
    generalize (if (List.range 32).all (fun i => (cs.filter (fun c => c.1 / 32 == g)).any (fun c => c.1 == 32 * g + i)) = true then
      SMap.erase s.memPoison g else s.memPoison) = q
    intro hget
    have hplain := read_congr m s.mem (32 * (b / 32)) 32 (fun i hi => hget (32 * (b / 32) + i) (by omega))
    have hown := hget b rfl
    unfold State.physByte State.granule
    dsimp only
    rw [get_set_other _ _ _ _ _ h, hplain, hown]
    rfl

/-- A granule's write leaves a byte of it that none of its cells names as it reads under the version of the write. -/
theorem writeGranule_rest (s : State) (v b : Nat) (cs : List (Nat × Byte)) (h : ∀ c ∈ cs, c.1 ≠ b) : (s.writeGranule (b / 32) v cs).1.physByte b v = s.physByte b v := by
  unfold State.writeGranule
  dsimp only
  split
  · rfl
  · have hnw : ¬ (List.range 32).all (fun i => (cs.filter (fun c => c.1 / 32 == b / 32)).any (fun c => c.1 == 32 * (b / 32) + i)) = true := by
      intro hall
      have := List.all_eq_true.mp hall (b % 32) (List.mem_range.mpr (Nat.mod_lt _ (by decide)))
      obtain ⟨c, hc, hk⟩ := List.any_eq_true.mp this
      exact h c (List.mem_filter.mp hc).1 (by simp only [beq_iff_eq] at hk; omega)
    rw [if_neg hnw, keyOf_granule s b]
    have hset : SMap.get (SMap.set s.memTag (b / 32) (tagOf (s.keyOf b) v) 0) (b / 32) 0 = tagOf (s.keyOf b) v := by
      unfold SMap.set
      rw [if_neg (tag_ne _ _)]
      exact get_insert_same _ _ _ _
    unfold State.physByte
    dsimp only
    rw [hset]
    have hkey : ∀ (m : SMap Byte) (t : SMap Nat) (p : SMap Bool), State.keyOf { s with mem := m, memTag := t, memPoison := p } b = s.keyOf b :=
      fun _ _ _ => rfl
    rw [hkey, if_pos (.inr rfl), get_cells_other 0 _ _ b (fun c hc => h c (List.mem_filter.mp hc).1)]
    split
    · rfl
    · have := get_write_same 0 (s.granule (b / 32) (tagOf (s.keyOf b) v)) s.mem (32 * (b / 32)) (b % 32)
        (by rw [granule_length]; exact Nat.mod_lt _ (by decide))
      rw [Nat.div_add_mod] at this
      rw [this, List.getElem?_eq_getElem (by rw [granule_length]; exact Nat.mod_lt _ (by decide))]
      rfl

/-- A granule's write that does not fail gives a byte of it what the cells agree on. -/
theorem writeGranule_same (s : State) (v b : Nat) (cs : List (Nat × Byte)) (x : Byte) (hx : (b, x) ∈ cs) (h : ∀ c ∈ cs, c.1 = b → c.2 = x)
    (hok : (s.writeGranule (b / 32) v cs).2 = false) : (s.writeGranule (b / 32) v cs).1.physByte b v = x := by
  unfold State.writeGranule at hok ⊢
  dsimp only at hok ⊢
  split at hok
  · cases hok
  · rename_i hn
    rw [if_neg hn, keyOf_granule s b]
    have hset : SMap.get (SMap.set s.memTag (b / 32) (tagOf (s.keyOf b) v) 0) (b / 32) 0 = tagOf (s.keyOf b) v := by
      unfold SMap.set
      rw [if_neg (tag_ne _ _)]
      exact get_insert_same _ _ _ _
    unfold State.physByte
    dsimp only
    rw [hset]
    have hkey : ∀ (m : SMap Byte) (t : SMap Nat) (p : SMap Bool), State.keyOf { s with mem := m, memTag := t, memPoison := p } b = s.keyOf b :=
      fun _ _ _ => rfl
    rw [hkey, if_pos (.inr rfl)]
    exact get_cells_same 0 _ _ b x (List.mem_filter.mpr ⟨hx, by simp⟩) (fun c hc => h c (List.mem_filter.mp hc).1)

end Sys2Proof.Laws
end

