-- ==== Sys2Proof/Laws/State.lean ====
section
/-!
SUPPORT. The updates of the state, field by field, and what each part reads as after one: a context, the state of a
context on a core, a quire, a partition.
-/
namespace Sys2Proof.Laws
set_option Elab.async false
open Sys2Proof Sys2Proof.Machine

@[simp] theorem modWg_mem (s : State) (wid : Nat) (f : Workgroup → Workgroup) : (s.modWg wid f).mem = s.mem := rfl
@[simp] theorem modWg_memTag (s : State) (wid : Nat) (f : Workgroup → Workgroup) : (s.modWg wid f).memTag = s.memTag := rfl
@[simp] theorem modWg_memPoison (s : State) (wid : Nat) (f : Workgroup → Workgroup) : (s.modWg wid f).memPoison = s.memPoison := rfl
@[simp] theorem modWg_vault (s : State) (wid : Nat) (f : Workgroup → Workgroup) : (s.modWg wid f).vault = s.vault := rfl
@[simp] theorem modWg_vaultPoison (s : State) (wid : Nat) (f : Workgroup → Workgroup) : (s.modWg wid f).vaultPoison = s.vaultPoison := rfl
@[simp] theorem modWg_stores (s : State) (wid : Nat) (f : Workgroup → Workgroup) : (s.modWg wid f).stores = s.stores := rfl
@[simp] theorem modWg_dieClocks (s : State) (wid : Nat) (f : Workgroup → Workgroup) : (s.modWg wid f).dieClocks = s.dieClocks := rfl
@[simp] theorem modWg_hostView (s : State) (wid : Nat) (f : Workgroup → Workgroup) : (s.modWg wid f).hostView = s.hostView := rfl
@[simp] theorem modWg_sysView (s : State) (wid : Nat) (f : Workgroup → Workgroup) : (s.modWg wid f).sysView = s.sysView := rfl
@[simp] theorem modWg_outsideViews (s : State) (wid : Nat) (f : Workgroup → Workgroup) : (s.modWg wid f).outsideViews = s.outsideViews := rfl
@[simp] theorem modWg_formeViews (s : State) (wid : Nat) (f : Workgroup → Workgroup) : (s.modWg wid f).formeViews = s.formeViews := rfl
@[simp] theorem modWg_sent (s : State) (wid : Nat) (f : Workgroup → Workgroup) : (s.modWg wid f).sent = s.sent := rfl
@[simp] theorem modWg_heard (s : State) (wid : Nat) (f : Workgroup → Workgroup) : (s.modWg wid f).heard = s.heard := rfl
@[simp] theorem modWg_holdEnds (s : State) (wid : Nat) (f : Workgroup → Workgroup) : (s.modWg wid f).holdEnds = s.holdEnds := rfl
@[simp] theorem modWg_ends (s : State) (wid : Nat) (f : Workgroup → Workgroup) : (s.modWg wid f).ends = s.ends := rfl
@[simp] theorem modWg_blocks (s : State) (wid : Nat) (f : Workgroup → Workgroup) : (s.modWg wid f).blocks = s.blocks := rfl
@[simp] theorem modWg_swapped (s : State) (wid : Nat) (f : Workgroup → Workgroup) : (s.modWg wid f).swapped = s.swapped := rfl
@[simp] theorem modWg_partitions (s : State) (wid : Nat) (f : Workgroup → Workgroup) : (s.modWg wid f).partitions = s.partitions := rfl
@[simp] theorem modWg_contexts (s : State) (wid : Nat) (f : Workgroup → Workgroup) : (s.modWg wid f).contexts = s.contexts := rfl
@[simp] theorem modWg_residents (s : State) (wid : Nat) (f : Workgroup → Workgroup) : (s.modWg wid f).residents = s.residents := rfl
@[simp] theorem modWg_jobs (s : State) (wid : Nat) (f : Workgroup → Workgroup) : (s.modWg wid f).jobs = s.jobs := rfl
@[simp] theorem modWg_nextId (s : State) (wid : Nat) (f : Workgroup → Workgroup) : (s.modWg wid f).nextId = s.nextId := rfl
@[simp] theorem modWg_tlb (s : State) (wid : Nat) (f : Workgroup → Workgroup) : (s.modWg wid f).tlb = s.tlb := rfl
@[simp] theorem modWg_missBuffer (s : State) (wid : Nat) (f : Workgroup → Workgroup) : (s.modWg wid f).missBuffer = s.missBuffer := rfl
@[simp] theorem modWg_items (s : State) (wid : Nat) (f : Workgroup → Workgroup) : (s.modWg wid f).items = s.items := rfl
@[simp] theorem modWg_time (s : State) (wid : Nat) (f : Workgroup → Workgroup) : (s.modWg wid f).time = s.time := rfl
@[simp] theorem modWg_mrs (s : State) (wid : Nat) (f : Workgroup → Workgroup) : (s.modWg wid f).mrs = s.mrs := rfl
@[simp] theorem modWg_clock (s : State) (wid : Nat) (f : Workgroup → Workgroup) : (s.modWg wid f).clock = s.clock := rfl
@[simp] theorem modWg_messages (s : State) (wid : Nat) (f : Workgroup → Workgroup) : (s.modWg wid f).messages = s.messages := rfl
@[simp] theorem modWg_inbox (s : State) (wid : Nat) (f : Workgroup → Workgroup) : (s.modWg wid f).inbox = s.inbox := rfl
@[simp] theorem modWg_issue (s : State) (wid : Nat) (f : Workgroup → Workgroup) : (s.modWg wid f).issue = s.issue := rfl
@[simp] theorem modWg_draws (s : State) (wid : Nat) (f : Workgroup → Workgroup) : (s.modWg wid f).draws = s.draws := rfl

@[simp] theorem modGroup_mem (s : State) (wid gi : Nat) (f : Group → Group) : (s.modGroup wid gi f).mem = s.mem := rfl
@[simp] theorem modGroup_memTag (s : State) (wid gi : Nat) (f : Group → Group) : (s.modGroup wid gi f).memTag = s.memTag := rfl
@[simp] theorem modGroup_memPoison (s : State) (wid gi : Nat) (f : Group → Group) : (s.modGroup wid gi f).memPoison = s.memPoison := rfl
@[simp] theorem modGroup_vault (s : State) (wid gi : Nat) (f : Group → Group) : (s.modGroup wid gi f).vault = s.vault := rfl
@[simp] theorem modGroup_vaultPoison (s : State) (wid gi : Nat) (f : Group → Group) : (s.modGroup wid gi f).vaultPoison = s.vaultPoison := rfl
@[simp] theorem modGroup_stores (s : State) (wid gi : Nat) (f : Group → Group) : (s.modGroup wid gi f).stores = s.stores := rfl
@[simp] theorem modGroup_dieClocks (s : State) (wid gi : Nat) (f : Group → Group) : (s.modGroup wid gi f).dieClocks = s.dieClocks := rfl
@[simp] theorem modGroup_hostView (s : State) (wid gi : Nat) (f : Group → Group) : (s.modGroup wid gi f).hostView = s.hostView := rfl
@[simp] theorem modGroup_sysView (s : State) (wid gi : Nat) (f : Group → Group) : (s.modGroup wid gi f).sysView = s.sysView := rfl
@[simp] theorem modGroup_outsideViews (s : State) (wid gi : Nat) (f : Group → Group) : (s.modGroup wid gi f).outsideViews = s.outsideViews := rfl
@[simp] theorem modGroup_formeViews (s : State) (wid gi : Nat) (f : Group → Group) : (s.modGroup wid gi f).formeViews = s.formeViews := rfl
@[simp] theorem modGroup_sent (s : State) (wid gi : Nat) (f : Group → Group) : (s.modGroup wid gi f).sent = s.sent := rfl
@[simp] theorem modGroup_heard (s : State) (wid gi : Nat) (f : Group → Group) : (s.modGroup wid gi f).heard = s.heard := rfl
@[simp] theorem modGroup_holdEnds (s : State) (wid gi : Nat) (f : Group → Group) : (s.modGroup wid gi f).holdEnds = s.holdEnds := rfl
@[simp] theorem modGroup_ends (s : State) (wid gi : Nat) (f : Group → Group) : (s.modGroup wid gi f).ends = s.ends := rfl
@[simp] theorem modGroup_blocks (s : State) (wid gi : Nat) (f : Group → Group) : (s.modGroup wid gi f).blocks = s.blocks := rfl
@[simp] theorem modGroup_swapped (s : State) (wid gi : Nat) (f : Group → Group) : (s.modGroup wid gi f).swapped = s.swapped := rfl
@[simp] theorem modGroup_partitions (s : State) (wid gi : Nat) (f : Group → Group) : (s.modGroup wid gi f).partitions = s.partitions := rfl
@[simp] theorem modGroup_contexts (s : State) (wid gi : Nat) (f : Group → Group) : (s.modGroup wid gi f).contexts = s.contexts := rfl
@[simp] theorem modGroup_residents (s : State) (wid gi : Nat) (f : Group → Group) : (s.modGroup wid gi f).residents = s.residents := rfl
@[simp] theorem modGroup_jobs (s : State) (wid gi : Nat) (f : Group → Group) : (s.modGroup wid gi f).jobs = s.jobs := rfl
@[simp] theorem modGroup_nextId (s : State) (wid gi : Nat) (f : Group → Group) : (s.modGroup wid gi f).nextId = s.nextId := rfl
@[simp] theorem modGroup_tlb (s : State) (wid gi : Nat) (f : Group → Group) : (s.modGroup wid gi f).tlb = s.tlb := rfl
@[simp] theorem modGroup_missBuffer (s : State) (wid gi : Nat) (f : Group → Group) : (s.modGroup wid gi f).missBuffer = s.missBuffer := rfl
@[simp] theorem modGroup_items (s : State) (wid gi : Nat) (f : Group → Group) : (s.modGroup wid gi f).items = s.items := rfl
@[simp] theorem modGroup_time (s : State) (wid gi : Nat) (f : Group → Group) : (s.modGroup wid gi f).time = s.time := rfl
@[simp] theorem modGroup_mrs (s : State) (wid gi : Nat) (f : Group → Group) : (s.modGroup wid gi f).mrs = s.mrs := rfl
@[simp] theorem modGroup_clock (s : State) (wid gi : Nat) (f : Group → Group) : (s.modGroup wid gi f).clock = s.clock := rfl
@[simp] theorem modGroup_messages (s : State) (wid gi : Nat) (f : Group → Group) : (s.modGroup wid gi f).messages = s.messages := rfl
@[simp] theorem modGroup_inbox (s : State) (wid gi : Nat) (f : Group → Group) : (s.modGroup wid gi f).inbox = s.inbox := rfl
@[simp] theorem modGroup_issue (s : State) (wid gi : Nat) (f : Group → Group) : (s.modGroup wid gi f).issue = s.issue := rfl
@[simp] theorem modGroup_draws (s : State) (wid gi : Nat) (f : Group → Group) : (s.modGroup wid gi f).draws = s.draws := rfl

@[simp] theorem modThread_mem (s : State) (wid gi ti : Nat) (f : Thread → Thread) : (s.modThread wid gi ti f).mem = s.mem := rfl
@[simp] theorem modThread_memTag (s : State) (wid gi ti : Nat) (f : Thread → Thread) : (s.modThread wid gi ti f).memTag = s.memTag := rfl
@[simp] theorem modThread_memPoison (s : State) (wid gi ti : Nat) (f : Thread → Thread) : (s.modThread wid gi ti f).memPoison = s.memPoison := rfl
@[simp] theorem modThread_vault (s : State) (wid gi ti : Nat) (f : Thread → Thread) : (s.modThread wid gi ti f).vault = s.vault := rfl
@[simp] theorem modThread_vaultPoison (s : State) (wid gi ti : Nat) (f : Thread → Thread) : (s.modThread wid gi ti f).vaultPoison = s.vaultPoison := rfl
@[simp] theorem modThread_stores (s : State) (wid gi ti : Nat) (f : Thread → Thread) : (s.modThread wid gi ti f).stores = s.stores := rfl
@[simp] theorem modThread_dieClocks (s : State) (wid gi ti : Nat) (f : Thread → Thread) : (s.modThread wid gi ti f).dieClocks = s.dieClocks := rfl
@[simp] theorem modThread_hostView (s : State) (wid gi ti : Nat) (f : Thread → Thread) : (s.modThread wid gi ti f).hostView = s.hostView := rfl
@[simp] theorem modThread_sysView (s : State) (wid gi ti : Nat) (f : Thread → Thread) : (s.modThread wid gi ti f).sysView = s.sysView := rfl
@[simp] theorem modThread_outsideViews (s : State) (wid gi ti : Nat) (f : Thread → Thread) : (s.modThread wid gi ti f).outsideViews = s.outsideViews := rfl
@[simp] theorem modThread_formeViews (s : State) (wid gi ti : Nat) (f : Thread → Thread) : (s.modThread wid gi ti f).formeViews = s.formeViews := rfl
@[simp] theorem modThread_sent (s : State) (wid gi ti : Nat) (f : Thread → Thread) : (s.modThread wid gi ti f).sent = s.sent := rfl
@[simp] theorem modThread_heard (s : State) (wid gi ti : Nat) (f : Thread → Thread) : (s.modThread wid gi ti f).heard = s.heard := rfl
@[simp] theorem modThread_holdEnds (s : State) (wid gi ti : Nat) (f : Thread → Thread) : (s.modThread wid gi ti f).holdEnds = s.holdEnds := rfl
@[simp] theorem modThread_ends (s : State) (wid gi ti : Nat) (f : Thread → Thread) : (s.modThread wid gi ti f).ends = s.ends := rfl
@[simp] theorem modThread_blocks (s : State) (wid gi ti : Nat) (f : Thread → Thread) : (s.modThread wid gi ti f).blocks = s.blocks := rfl
@[simp] theorem modThread_swapped (s : State) (wid gi ti : Nat) (f : Thread → Thread) : (s.modThread wid gi ti f).swapped = s.swapped := rfl
@[simp] theorem modThread_partitions (s : State) (wid gi ti : Nat) (f : Thread → Thread) : (s.modThread wid gi ti f).partitions = s.partitions := rfl
@[simp] theorem modThread_contexts (s : State) (wid gi ti : Nat) (f : Thread → Thread) : (s.modThread wid gi ti f).contexts = s.contexts := rfl
@[simp] theorem modThread_residents (s : State) (wid gi ti : Nat) (f : Thread → Thread) : (s.modThread wid gi ti f).residents = s.residents := rfl
@[simp] theorem modThread_jobs (s : State) (wid gi ti : Nat) (f : Thread → Thread) : (s.modThread wid gi ti f).jobs = s.jobs := rfl
@[simp] theorem modThread_nextId (s : State) (wid gi ti : Nat) (f : Thread → Thread) : (s.modThread wid gi ti f).nextId = s.nextId := rfl
@[simp] theorem modThread_tlb (s : State) (wid gi ti : Nat) (f : Thread → Thread) : (s.modThread wid gi ti f).tlb = s.tlb := rfl
@[simp] theorem modThread_missBuffer (s : State) (wid gi ti : Nat) (f : Thread → Thread) : (s.modThread wid gi ti f).missBuffer = s.missBuffer := rfl
@[simp] theorem modThread_items (s : State) (wid gi ti : Nat) (f : Thread → Thread) : (s.modThread wid gi ti f).items = s.items := rfl
@[simp] theorem modThread_time (s : State) (wid gi ti : Nat) (f : Thread → Thread) : (s.modThread wid gi ti f).time = s.time := rfl
@[simp] theorem modThread_mrs (s : State) (wid gi ti : Nat) (f : Thread → Thread) : (s.modThread wid gi ti f).mrs = s.mrs := rfl
@[simp] theorem modThread_clock (s : State) (wid gi ti : Nat) (f : Thread → Thread) : (s.modThread wid gi ti f).clock = s.clock := rfl
@[simp] theorem modThread_messages (s : State) (wid gi ti : Nat) (f : Thread → Thread) : (s.modThread wid gi ti f).messages = s.messages := rfl
@[simp] theorem modThread_inbox (s : State) (wid gi ti : Nat) (f : Thread → Thread) : (s.modThread wid gi ti f).inbox = s.inbox := rfl
@[simp] theorem modThread_issue (s : State) (wid gi ti : Nat) (f : Thread → Thread) : (s.modThread wid gi ti f).issue = s.issue := rfl
@[simp] theorem modThread_draws (s : State) (wid gi ti : Nat) (f : Thread → Thread) : (s.modThread wid gi ti f).draws = s.draws := rfl

@[simp] theorem modPart_mem (s : State) (p : Nat) (f : Partition → Partition) : (s.modPart p f).mem = s.mem := rfl
@[simp] theorem modPart_memTag (s : State) (p : Nat) (f : Partition → Partition) : (s.modPart p f).memTag = s.memTag := rfl
@[simp] theorem modPart_memPoison (s : State) (p : Nat) (f : Partition → Partition) : (s.modPart p f).memPoison = s.memPoison := rfl
@[simp] theorem modPart_vault (s : State) (p : Nat) (f : Partition → Partition) : (s.modPart p f).vault = s.vault := rfl
@[simp] theorem modPart_vaultPoison (s : State) (p : Nat) (f : Partition → Partition) : (s.modPart p f).vaultPoison = s.vaultPoison := rfl
@[simp] theorem modPart_stores (s : State) (p : Nat) (f : Partition → Partition) : (s.modPart p f).stores = s.stores := rfl
@[simp] theorem modPart_dieClocks (s : State) (p : Nat) (f : Partition → Partition) : (s.modPart p f).dieClocks = s.dieClocks := rfl
@[simp] theorem modPart_hostView (s : State) (p : Nat) (f : Partition → Partition) : (s.modPart p f).hostView = s.hostView := rfl
@[simp] theorem modPart_sysView (s : State) (p : Nat) (f : Partition → Partition) : (s.modPart p f).sysView = s.sysView := rfl
@[simp] theorem modPart_outsideViews (s : State) (p : Nat) (f : Partition → Partition) : (s.modPart p f).outsideViews = s.outsideViews := rfl
@[simp] theorem modPart_formeViews (s : State) (p : Nat) (f : Partition → Partition) : (s.modPart p f).formeViews = s.formeViews := rfl
@[simp] theorem modPart_sent (s : State) (p : Nat) (f : Partition → Partition) : (s.modPart p f).sent = s.sent := rfl
@[simp] theorem modPart_heard (s : State) (p : Nat) (f : Partition → Partition) : (s.modPart p f).heard = s.heard := rfl
@[simp] theorem modPart_holdEnds (s : State) (p : Nat) (f : Partition → Partition) : (s.modPart p f).holdEnds = s.holdEnds := rfl
@[simp] theorem modPart_ends (s : State) (p : Nat) (f : Partition → Partition) : (s.modPart p f).ends = s.ends := rfl
@[simp] theorem modPart_blocks (s : State) (p : Nat) (f : Partition → Partition) : (s.modPart p f).blocks = s.blocks := rfl
@[simp] theorem modPart_swapped (s : State) (p : Nat) (f : Partition → Partition) : (s.modPart p f).swapped = s.swapped := rfl
@[simp] theorem modPart_contexts (s : State) (p : Nat) (f : Partition → Partition) : (s.modPart p f).contexts = s.contexts := rfl
@[simp] theorem modPart_residents (s : State) (p : Nat) (f : Partition → Partition) : (s.modPart p f).residents = s.residents := rfl
@[simp] theorem modPart_wgs (s : State) (p : Nat) (f : Partition → Partition) : (s.modPart p f).wgs = s.wgs := rfl
@[simp] theorem modPart_jobs (s : State) (p : Nat) (f : Partition → Partition) : (s.modPart p f).jobs = s.jobs := rfl
@[simp] theorem modPart_nextId (s : State) (p : Nat) (f : Partition → Partition) : (s.modPart p f).nextId = s.nextId := rfl
@[simp] theorem modPart_tlb (s : State) (p : Nat) (f : Partition → Partition) : (s.modPart p f).tlb = s.tlb := rfl
@[simp] theorem modPart_missBuffer (s : State) (p : Nat) (f : Partition → Partition) : (s.modPart p f).missBuffer = s.missBuffer := rfl
@[simp] theorem modPart_items (s : State) (p : Nat) (f : Partition → Partition) : (s.modPart p f).items = s.items := rfl
@[simp] theorem modPart_time (s : State) (p : Nat) (f : Partition → Partition) : (s.modPart p f).time = s.time := rfl
@[simp] theorem modPart_mrs (s : State) (p : Nat) (f : Partition → Partition) : (s.modPart p f).mrs = s.mrs := rfl
@[simp] theorem modPart_clock (s : State) (p : Nat) (f : Partition → Partition) : (s.modPart p f).clock = s.clock := rfl
@[simp] theorem modPart_messages (s : State) (p : Nat) (f : Partition → Partition) : (s.modPart p f).messages = s.messages := rfl
@[simp] theorem modPart_inbox (s : State) (p : Nat) (f : Partition → Partition) : (s.modPart p f).inbox = s.inbox := rfl
@[simp] theorem modPart_issue (s : State) (p : Nat) (f : Partition → Partition) : (s.modPart p f).issue = s.issue := rfl
@[simp] theorem modPart_draws (s : State) (p : Nat) (f : Partition → Partition) : (s.modPart p f).draws = s.draws := rfl

@[simp] theorem message_mem (s : State) (fn v : Nat) : (s.message fn v).mem = s.mem := rfl
@[simp] theorem message_memTag (s : State) (fn v : Nat) : (s.message fn v).memTag = s.memTag := rfl
@[simp] theorem message_memPoison (s : State) (fn v : Nat) : (s.message fn v).memPoison = s.memPoison := rfl
@[simp] theorem message_vault (s : State) (fn v : Nat) : (s.message fn v).vault = s.vault := rfl
@[simp] theorem message_vaultPoison (s : State) (fn v : Nat) : (s.message fn v).vaultPoison = s.vaultPoison := rfl
@[simp] theorem message_stores (s : State) (fn v : Nat) : (s.message fn v).stores = s.stores := rfl
@[simp] theorem message_dieClocks (s : State) (fn v : Nat) : (s.message fn v).dieClocks = s.dieClocks := rfl
@[simp] theorem message_hostView (s : State) (fn v : Nat) : (s.message fn v).hostView = s.hostView := rfl
@[simp] theorem message_sysView (s : State) (fn v : Nat) : (s.message fn v).sysView = s.sysView := rfl
@[simp] theorem message_outsideViews (s : State) (fn v : Nat) : (s.message fn v).outsideViews = s.outsideViews := rfl
@[simp] theorem message_formeViews (s : State) (fn v : Nat) : (s.message fn v).formeViews = s.formeViews := rfl
@[simp] theorem message_sent (s : State) (fn v : Nat) : (s.message fn v).sent = s.sent := rfl
@[simp] theorem message_heard (s : State) (fn v : Nat) : (s.message fn v).heard = s.heard := rfl
@[simp] theorem message_holdEnds (s : State) (fn v : Nat) : (s.message fn v).holdEnds = s.holdEnds := rfl
@[simp] theorem message_ends (s : State) (fn v : Nat) : (s.message fn v).ends = s.ends := rfl
@[simp] theorem message_blocks (s : State) (fn v : Nat) : (s.message fn v).blocks = s.blocks := rfl
@[simp] theorem message_swapped (s : State) (fn v : Nat) : (s.message fn v).swapped = s.swapped := rfl
@[simp] theorem message_partitions (s : State) (fn v : Nat) : (s.message fn v).partitions = s.partitions := rfl
@[simp] theorem message_contexts (s : State) (fn v : Nat) : (s.message fn v).contexts = s.contexts := rfl
@[simp] theorem message_residents (s : State) (fn v : Nat) : (s.message fn v).residents = s.residents := rfl
@[simp] theorem message_wgs (s : State) (fn v : Nat) : (s.message fn v).wgs = s.wgs := rfl
@[simp] theorem message_jobs (s : State) (fn v : Nat) : (s.message fn v).jobs = s.jobs := rfl
@[simp] theorem message_nextId (s : State) (fn v : Nat) : (s.message fn v).nextId = s.nextId := rfl
@[simp] theorem message_tlb (s : State) (fn v : Nat) : (s.message fn v).tlb = s.tlb := rfl
@[simp] theorem message_missBuffer (s : State) (fn v : Nat) : (s.message fn v).missBuffer = s.missBuffer := rfl
@[simp] theorem message_items (s : State) (fn v : Nat) : (s.message fn v).items = s.items := rfl
@[simp] theorem message_time (s : State) (fn v : Nat) : (s.message fn v).time = s.time := rfl
@[simp] theorem message_mrs (s : State) (fn v : Nat) : (s.message fn v).mrs = s.mrs := rfl
@[simp] theorem message_clock (s : State) (fn v : Nat) : (s.message fn v).clock = s.clock := rfl
@[simp] theorem message_inbox (s : State) (fn v : Nat) : (s.message fn v).inbox = s.inbox := rfl
@[simp] theorem message_issue (s : State) (fn v : Nat) : (s.message fn v).issue = s.issue := rfl
@[simp] theorem message_draws (s : State) (fn v : Nat) : (s.message fn v).draws = s.draws := rfl

@[simp] theorem hostOrders_mem (s : State) : s.hostOrders.mem = s.mem := rfl
@[simp] theorem hostOrders_vault (s : State) : s.hostOrders.vault = s.vault := rfl
@[simp] theorem hostOrders_stores (s : State) : s.hostOrders.stores = s.stores := rfl
@[simp] theorem hostOrders_dieClocks (s : State) : s.hostOrders.dieClocks = s.dieClocks := rfl
@[simp] theorem hostOrders_sysView (s : State) : s.hostOrders.sysView = s.sysView := rfl
@[simp] theorem hostOrders_outsideViews (s : State) : s.hostOrders.outsideViews = s.outsideViews := rfl
@[simp] theorem hostOrders_formeViews (s : State) : s.hostOrders.formeViews = s.formeViews := rfl
@[simp] theorem hostOrders_jobs (s : State) : s.hostOrders.jobs = s.jobs := rfl
@[simp] theorem hostOrders_contexts (s : State) : s.hostOrders.contexts = s.contexts := rfl
@[simp] theorem hostOrders_residents (s : State) : s.hostOrders.residents = s.residents := rfl
@[simp] theorem hostOrders_partitions (s : State) : s.hostOrders.partitions = s.partitions := rfl
@[simp] theorem hostOrders_wgs (s : State) : s.hostOrders.wgs = s.wgs := rfl
@[simp] theorem hostOrders_issue (s : State) : s.hostOrders.issue = s.issue := rfl
@[simp] theorem hostOrders_nextId (s : State) : s.hostOrders.nextId = s.nextId := rfl
@[simp] theorem hostOrders_draws (s : State) : s.hostOrders.draws = s.draws := rfl

@[simp] theorem outsideSees_mem (s : State) (a : Agent) (v : View) : (s.outsideSees a v).mem = s.mem := rfl
@[simp] theorem outsideSees_vault (s : State) (a : Agent) (v : View) : (s.outsideSees a v).vault = s.vault := rfl
@[simp] theorem outsideSees_stores (s : State) (a : Agent) (v : View) : (s.outsideSees a v).stores = s.stores := rfl
@[simp] theorem outsideSees_dieClocks (s : State) (a : Agent) (v : View) : (s.outsideSees a v).dieClocks = s.dieClocks := rfl
@[simp] theorem outsideSees_hostView (s : State) (a : Agent) (v : View) : (s.outsideSees a v).hostView = s.hostView := rfl
@[simp] theorem outsideSees_sysView (s : State) (a : Agent) (v : View) : (s.outsideSees a v).sysView = s.sysView := rfl
@[simp] theorem outsideSees_formeViews (s : State) (a : Agent) (v : View) : (s.outsideSees a v).formeViews = s.formeViews := rfl
@[simp] theorem outsideSees_jobs (s : State) (a : Agent) (v : View) : (s.outsideSees a v).jobs = s.jobs := rfl
@[simp] theorem outsideSees_contexts (s : State) (a : Agent) (v : View) : (s.outsideSees a v).contexts = s.contexts := rfl
@[simp] theorem outsideSees_residents (s : State) (a : Agent) (v : View) : (s.outsideSees a v).residents = s.residents := rfl
@[simp] theorem outsideSees_partitions (s : State) (a : Agent) (v : View) : (s.outsideSees a v).partitions = s.partitions := rfl
@[simp] theorem outsideSees_wgs (s : State) (a : Agent) (v : View) : (s.outsideSees a v).wgs = s.wgs := rfl
@[simp] theorem outsideSees_issue (s : State) (a : Agent) (v : View) : (s.outsideSees a v).issue = s.issue := rfl
@[simp] theorem outsideSees_nextId (s : State) (a : Agent) (v : View) : (s.outsideSees a v).nextId = s.nextId := rfl
@[simp] theorem outsideSees_draws (s : State) (a : Agent) (v : View) : (s.outsideSees a v).draws = s.draws := rfl

@[simp] theorem modContext_mem (s : State) (p c : Nat) (f : Context → Context) : (s.modContext p c f).mem = s.mem := by unfold State.modContext; split <;> rfl
@[simp] theorem modContext_memTag (s : State) (p c : Nat) (f : Context → Context) : (s.modContext p c f).memTag = s.memTag := by unfold State.modContext; split <;> rfl
@[simp] theorem modContext_memPoison (s : State) (p c : Nat) (f : Context → Context) : (s.modContext p c f).memPoison = s.memPoison := by unfold State.modContext; split <;> rfl
@[simp] theorem modContext_vault (s : State) (p c : Nat) (f : Context → Context) : (s.modContext p c f).vault = s.vault := by unfold State.modContext; split <;> rfl
@[simp] theorem modContext_vaultPoison (s : State) (p c : Nat) (f : Context → Context) : (s.modContext p c f).vaultPoison = s.vaultPoison := by unfold State.modContext; split <;> rfl
@[simp] theorem modContext_stores (s : State) (p c : Nat) (f : Context → Context) : (s.modContext p c f).stores = s.stores := by unfold State.modContext; split <;> rfl
@[simp] theorem modContext_dieClocks (s : State) (p c : Nat) (f : Context → Context) : (s.modContext p c f).dieClocks = s.dieClocks := by unfold State.modContext; split <;> rfl
@[simp] theorem modContext_hostView (s : State) (p c : Nat) (f : Context → Context) : (s.modContext p c f).hostView = s.hostView := by unfold State.modContext; split <;> rfl
@[simp] theorem modContext_sysView (s : State) (p c : Nat) (f : Context → Context) : (s.modContext p c f).sysView = s.sysView := by unfold State.modContext; split <;> rfl
@[simp] theorem modContext_outsideViews (s : State) (p c : Nat) (f : Context → Context) : (s.modContext p c f).outsideViews = s.outsideViews := by unfold State.modContext; split <;> rfl
@[simp] theorem modContext_formeViews (s : State) (p c : Nat) (f : Context → Context) : (s.modContext p c f).formeViews = s.formeViews := by unfold State.modContext; split <;> rfl
@[simp] theorem modContext_sent (s : State) (p c : Nat) (f : Context → Context) : (s.modContext p c f).sent = s.sent := by unfold State.modContext; split <;> rfl
@[simp] theorem modContext_heard (s : State) (p c : Nat) (f : Context → Context) : (s.modContext p c f).heard = s.heard := by unfold State.modContext; split <;> rfl
@[simp] theorem modContext_holdEnds (s : State) (p c : Nat) (f : Context → Context) : (s.modContext p c f).holdEnds = s.holdEnds := by unfold State.modContext; split <;> rfl
@[simp] theorem modContext_ends (s : State) (p c : Nat) (f : Context → Context) : (s.modContext p c f).ends = s.ends := by unfold State.modContext; split <;> rfl
@[simp] theorem modContext_blocks (s : State) (p c : Nat) (f : Context → Context) : (s.modContext p c f).blocks = s.blocks := by unfold State.modContext; split <;> rfl
@[simp] theorem modContext_swapped (s : State) (p c : Nat) (f : Context → Context) : (s.modContext p c f).swapped = s.swapped := by unfold State.modContext; split <;> rfl
@[simp] theorem modContext_partitions (s : State) (p c : Nat) (f : Context → Context) : (s.modContext p c f).partitions = s.partitions := by unfold State.modContext; split <;> rfl
@[simp] theorem modContext_residents (s : State) (p c : Nat) (f : Context → Context) : (s.modContext p c f).residents = s.residents := by unfold State.modContext; split <;> rfl
@[simp] theorem modContext_wgs (s : State) (p c : Nat) (f : Context → Context) : (s.modContext p c f).wgs = s.wgs := by unfold State.modContext; split <;> rfl
@[simp] theorem modContext_jobs (s : State) (p c : Nat) (f : Context → Context) : (s.modContext p c f).jobs = s.jobs := by unfold State.modContext; split <;> rfl
@[simp] theorem modContext_nextId (s : State) (p c : Nat) (f : Context → Context) : (s.modContext p c f).nextId = s.nextId := by unfold State.modContext; split <;> rfl
@[simp] theorem modContext_tlb (s : State) (p c : Nat) (f : Context → Context) : (s.modContext p c f).tlb = s.tlb := by unfold State.modContext; split <;> rfl
@[simp] theorem modContext_missBuffer (s : State) (p c : Nat) (f : Context → Context) : (s.modContext p c f).missBuffer = s.missBuffer := by unfold State.modContext; split <;> rfl
@[simp] theorem modContext_items (s : State) (p c : Nat) (f : Context → Context) : (s.modContext p c f).items = s.items := by unfold State.modContext; split <;> rfl
@[simp] theorem modContext_time (s : State) (p c : Nat) (f : Context → Context) : (s.modContext p c f).time = s.time := by unfold State.modContext; split <;> rfl
@[simp] theorem modContext_mrs (s : State) (p c : Nat) (f : Context → Context) : (s.modContext p c f).mrs = s.mrs := by unfold State.modContext; split <;> rfl
@[simp] theorem modContext_clock (s : State) (p c : Nat) (f : Context → Context) : (s.modContext p c f).clock = s.clock := by unfold State.modContext; split <;> rfl
@[simp] theorem modContext_messages (s : State) (p c : Nat) (f : Context → Context) : (s.modContext p c f).messages = s.messages := by unfold State.modContext; split <;> rfl
@[simp] theorem modContext_inbox (s : State) (p c : Nat) (f : Context → Context) : (s.modContext p c f).inbox = s.inbox := by unfold State.modContext; split <;> rfl
@[simp] theorem modContext_issue (s : State) (p c : Nat) (f : Context → Context) : (s.modContext p c f).issue = s.issue := by unfold State.modContext; split <;> rfl
@[simp] theorem modContext_draws (s : State) (p c : Nat) (f : Context → Context) : (s.modContext p c f).draws = s.draws := by unfold State.modContext; split <;> rfl

@[simp] theorem modResident_mem (s : State) (p c k : Nat) (f : Resident → Resident) : (s.modResident p c k f).mem = s.mem := by unfold State.modResident; split <;> rfl
@[simp] theorem modResident_memTag (s : State) (p c k : Nat) (f : Resident → Resident) : (s.modResident p c k f).memTag = s.memTag := by unfold State.modResident; split <;> rfl
@[simp] theorem modResident_memPoison (s : State) (p c k : Nat) (f : Resident → Resident) : (s.modResident p c k f).memPoison = s.memPoison := by unfold State.modResident; split <;> rfl
@[simp] theorem modResident_vault (s : State) (p c k : Nat) (f : Resident → Resident) : (s.modResident p c k f).vault = s.vault := by unfold State.modResident; split <;> rfl
@[simp] theorem modResident_vaultPoison (s : State) (p c k : Nat) (f : Resident → Resident) : (s.modResident p c k f).vaultPoison = s.vaultPoison := by unfold State.modResident; split <;> rfl
@[simp] theorem modResident_stores (s : State) (p c k : Nat) (f : Resident → Resident) : (s.modResident p c k f).stores = s.stores := by unfold State.modResident; split <;> rfl
@[simp] theorem modResident_dieClocks (s : State) (p c k : Nat) (f : Resident → Resident) : (s.modResident p c k f).dieClocks = s.dieClocks := by unfold State.modResident; split <;> rfl
@[simp] theorem modResident_hostView (s : State) (p c k : Nat) (f : Resident → Resident) : (s.modResident p c k f).hostView = s.hostView := by unfold State.modResident; split <;> rfl
@[simp] theorem modResident_sysView (s : State) (p c k : Nat) (f : Resident → Resident) : (s.modResident p c k f).sysView = s.sysView := by unfold State.modResident; split <;> rfl
@[simp] theorem modResident_outsideViews (s : State) (p c k : Nat) (f : Resident → Resident) : (s.modResident p c k f).outsideViews = s.outsideViews := by unfold State.modResident; split <;> rfl
@[simp] theorem modResident_formeViews (s : State) (p c k : Nat) (f : Resident → Resident) : (s.modResident p c k f).formeViews = s.formeViews := by unfold State.modResident; split <;> rfl
@[simp] theorem modResident_sent (s : State) (p c k : Nat) (f : Resident → Resident) : (s.modResident p c k f).sent = s.sent := by unfold State.modResident; split <;> rfl
@[simp] theorem modResident_heard (s : State) (p c k : Nat) (f : Resident → Resident) : (s.modResident p c k f).heard = s.heard := by unfold State.modResident; split <;> rfl
@[simp] theorem modResident_holdEnds (s : State) (p c k : Nat) (f : Resident → Resident) : (s.modResident p c k f).holdEnds = s.holdEnds := by unfold State.modResident; split <;> rfl
@[simp] theorem modResident_ends (s : State) (p c k : Nat) (f : Resident → Resident) : (s.modResident p c k f).ends = s.ends := by unfold State.modResident; split <;> rfl
@[simp] theorem modResident_blocks (s : State) (p c k : Nat) (f : Resident → Resident) : (s.modResident p c k f).blocks = s.blocks := by unfold State.modResident; split <;> rfl
@[simp] theorem modResident_swapped (s : State) (p c k : Nat) (f : Resident → Resident) : (s.modResident p c k f).swapped = s.swapped := by unfold State.modResident; split <;> rfl
@[simp] theorem modResident_partitions (s : State) (p c k : Nat) (f : Resident → Resident) : (s.modResident p c k f).partitions = s.partitions := by unfold State.modResident; split <;> rfl
@[simp] theorem modResident_contexts (s : State) (p c k : Nat) (f : Resident → Resident) : (s.modResident p c k f).contexts = s.contexts := by unfold State.modResident; split <;> rfl
@[simp] theorem modResident_wgs (s : State) (p c k : Nat) (f : Resident → Resident) : (s.modResident p c k f).wgs = s.wgs := by unfold State.modResident; split <;> rfl
@[simp] theorem modResident_jobs (s : State) (p c k : Nat) (f : Resident → Resident) : (s.modResident p c k f).jobs = s.jobs := by unfold State.modResident; split <;> rfl
@[simp] theorem modResident_nextId (s : State) (p c k : Nat) (f : Resident → Resident) : (s.modResident p c k f).nextId = s.nextId := by unfold State.modResident; split <;> rfl
@[simp] theorem modResident_tlb (s : State) (p c k : Nat) (f : Resident → Resident) : (s.modResident p c k f).tlb = s.tlb := by unfold State.modResident; split <;> rfl
@[simp] theorem modResident_missBuffer (s : State) (p c k : Nat) (f : Resident → Resident) : (s.modResident p c k f).missBuffer = s.missBuffer := by unfold State.modResident; split <;> rfl
@[simp] theorem modResident_items (s : State) (p c k : Nat) (f : Resident → Resident) : (s.modResident p c k f).items = s.items := by unfold State.modResident; split <;> rfl
@[simp] theorem modResident_time (s : State) (p c k : Nat) (f : Resident → Resident) : (s.modResident p c k f).time = s.time := by unfold State.modResident; split <;> rfl
@[simp] theorem modResident_mrs (s : State) (p c k : Nat) (f : Resident → Resident) : (s.modResident p c k f).mrs = s.mrs := by unfold State.modResident; split <;> rfl
@[simp] theorem modResident_clock (s : State) (p c k : Nat) (f : Resident → Resident) : (s.modResident p c k f).clock = s.clock := by unfold State.modResident; split <;> rfl
@[simp] theorem modResident_messages (s : State) (p c k : Nat) (f : Resident → Resident) : (s.modResident p c k f).messages = s.messages := by unfold State.modResident; split <;> rfl
@[simp] theorem modResident_inbox (s : State) (p c k : Nat) (f : Resident → Resident) : (s.modResident p c k f).inbox = s.inbox := by unfold State.modResident; split <;> rfl
@[simp] theorem modResident_issue (s : State) (p c k : Nat) (f : Resident → Resident) : (s.modResident p c k f).issue = s.issue := by unfold State.modResident; split <;> rfl
@[simp] theorem modResident_draws (s : State) (p c k : Nat) (f : Resident → Resident) : (s.modResident p c k f).draws = s.draws := by unfold State.modResident; split <;> rfl

/-- A list in which the one entry that a key names is changed, or a new one stands at the end. -/
theorem find_map_key {α : Type} (l : List α) (key key' : α → Bool) (f : α → α) (hf : ∀ x ∈ l, key' (if key x then f x else x) = key' x) :
    (l.map (fun x => if key x then f x else x)).find? key' = (l.find? key').map (fun x => if key x then f x else x) := by
  induction l with
  | nil => rfl
  | cons a l ih =>
    have ha := hf a List.mem_cons_self
    simp only [List.map_cons, List.find?_cons, ha]
    cases key' a with
    | true => rfl
    | false => exact ih (fun x hx => hf x (List.mem_cons_of_mem _ hx))

/-- A context after a change to one. -/
theorem context_modContext (s : State) (p c p' c' : Nat) (f : Context → Context) (hp : ∀ x, (f x).part = x.part) (hc : ∀ x, (f x).ctx = x.ctx) :
    (s.modContext p c f).context p' c' = if p' = p ∧ c' = c then f (s.context p c) else s.context p' c' := by
  simp only [State.modContext, State.context]
  by_cases h : s.contexts.any (fun x => x.part == p && x.ctx == c) = true
  · simp only [h, if_true]
    have key := find_map_key s.contexts (fun x => decide (x.part = p ∧ x.ctx = c)) (fun x => x.part == p' && x.ctx == c') f (by
      intro x _; split <;> simp [hp, hc])
    simp only [decide_eq_true_eq] at key
    rw [key]
    by_cases hk : p' = p ∧ c' = c
    · obtain ⟨rfl, rfl⟩ := hk
      obtain ⟨x, hx, hx2⟩ := List.any_eq_true.mp h
      cases hfind : s.contexts.find? (fun x => x.part == p' && x.ctx == c') with
      | none => exact absurd hx2 (List.find?_eq_none.mp hfind x hx)
      | some y =>
        have := List.find?_some hfind
        simp only [Bool.and_eq_true, beq_iff_eq] at this
        simp [this]
    · rw [if_neg hk]
      cases hfind : s.contexts.find? (fun x => x.part == p' && x.ctx == c') with
      | none => rfl
      | some y =>
        have := List.find?_some hfind
        simp only [Bool.and_eq_true, beq_iff_eq] at this
        have hn : ¬ (y.part = p ∧ y.ctx = c) := fun hh => hk ⟨this.1.symm.trans hh.1, this.2.symm.trans hh.2⟩
        simp [hn]
  · have hnone : s.contexts.find? (fun x => x.part == p && x.ctx == c) = none := by
      rw [List.find?_eq_none]
      intro x hx hx2
      exact h (List.any_eq_true.mpr ⟨x, hx, hx2⟩)
    simp only [h, Bool.false_eq_true, if_false]
    rw [List.find?_append]
    by_cases hk : p' = p ∧ c' = c
    · obtain ⟨rfl, rfl⟩ := hk
      simp only [hnone, Option.none_or, List.find?_cons, hp, hc]
      simp [Context.reset]
    · simp only [hk, if_false, List.find?_cons, hp, hc]
      have : ((Context.reset p c).part == p' && (Context.reset p c).ctx == c') = false := by
        simp only [Context.reset, Bool.and_eq_false_iff, beq_eq_false_iff_ne]
        by_cases h1 : p = p'
        · exact .inr (fun h2 => hk ⟨h1.symm, h2.symm⟩)
        · exact .inl h1
      rw [this]
      simp

/-- The state of a context on a core after a change to one. -/
theorem resident_modResident (s : State) (p c k p' c' k' : Nat) (f : Resident → Resident) (hp : ∀ x, (f x).part = x.part)
    (hc : ∀ x, (f x).ctx = x.ctx) (hk : ∀ x, (f x).core = x.core) :
    (s.modResident p c k f).resident p' c' k' = if p' = p ∧ c' = c ∧ k' = k then f (s.resident p c k) else s.resident p' c' k' := by
  simp only [State.modResident, State.resident]
  by_cases h : s.residents.any (fun x => x.part == p && x.ctx == c && x.core == k) = true
  · simp only [h, if_true]
    have key := find_map_key s.residents (fun x => decide (x.part = p ∧ x.ctx = c ∧ x.core = k))
      (fun x => x.part == p' && x.ctx == c' && x.core == k') f (by
      intro x _; split <;> simp [hp, hc, hk])
    simp only [decide_eq_true_eq] at key
    rw [key]
    by_cases hh : p' = p ∧ c' = c ∧ k' = k
    · obtain ⟨rfl, rfl, rfl⟩ := hh
      obtain ⟨x, hx, hx2⟩ := List.any_eq_true.mp h
      cases hfind : s.residents.find? (fun x => x.part == p' && x.ctx == c' && x.core == k') with
      | none => exact absurd hx2 (List.find?_eq_none.mp hfind x hx)
      | some y =>
        have := List.find?_some hfind
        simp only [Bool.and_eq_true, beq_iff_eq] at this
        simp [this]
    · rw [if_neg hh]
      cases hfind : s.residents.find? (fun x => x.part == p' && x.ctx == c' && x.core == k') with
      | none => rfl
      | some y =>
        have := List.find?_some hfind
        simp only [Bool.and_eq_true, beq_iff_eq] at this
        have hn : ¬ (y.part = p ∧ y.ctx = c ∧ y.core = k) :=
          fun hz => hh ⟨this.1.1.symm.trans hz.1, this.1.2.symm.trans hz.2.1, this.2.symm.trans hz.2.2⟩
        simp [hn]
  · have hnone : s.residents.find? (fun x => x.part == p && x.ctx == c && x.core == k) = none := by
      rw [List.find?_eq_none]
      intro x hx hx2
      exact h (List.any_eq_true.mpr ⟨x, hx, hx2⟩)
    simp only [h, Bool.false_eq_true, if_false]
    rw [List.find?_append]
    by_cases hh : p' = p ∧ c' = c ∧ k' = k
    · obtain ⟨rfl, rfl, rfl⟩ := hh
      simp only [hnone, Option.none_or, List.find?_cons, hp, hc, hk]
      simp [Resident.reset]
    · simp only [hh, if_false, List.find?_cons, hp, hc, hk]
      have : ((Resident.reset p c k).part == p' && (Resident.reset p c k).ctx == c' && (Resident.reset p c k).core == k') = false := by
        rw [Bool.eq_false_iff]
        intro hz
        simp only [Resident.reset, Bool.and_eq_true, beq_iff_eq] at hz
        exact hh ⟨hz.1.1.symm, hz.1.2.symm, hz.2.symm⟩
      rw [this]
      simp

/-- A quire after a change to one. -/
theorem quire_modQuire (r : Resident) (q q' : Nat) (f : Quire → Quire) (hq : ∀ x, (f x).q = x.q) :
    (r.modQuire q f).quire q' = if q' = q then f (r.quire q) else r.quire q' := by
  simp only [Resident.modQuire, Resident.quire]
  by_cases h : r.quires.any (fun x => x.q == q) = true
  · simp only [h, if_true]
    have key := find_map_key r.quires (fun x => decide (x.q = q)) (fun x => x.q == q') f (by intro x _; split <;> simp [hq])
    simp only [decide_eq_true_eq] at key
    rw [key]
    by_cases hh : q' = q
    · subst hh
      obtain ⟨x, hx, hx2⟩ := List.any_eq_true.mp h
      cases hfind : r.quires.find? (fun x => x.q == q') with
      | none => exact absurd hx2 (List.find?_eq_none.mp hfind x hx)
      | some y =>
        have := List.find?_some hfind
        simp only [beq_iff_eq] at this
        simp [this]
    · rw [if_neg hh]
      cases hfind : r.quires.find? (fun x => x.q == q') with
      | none => rfl
      | some y =>
        have := List.find?_some hfind
        simp only [beq_iff_eq] at this
        have hn : ¬ y.q = q := fun hz => hh (this.symm.trans hz)
        simp [hn]
  · have hnone : r.quires.find? (fun x => x.q == q) = none := by
      rw [List.find?_eq_none]
      intro x hx hx2
      exact h (List.any_eq_true.mpr ⟨x, hx, hx2⟩)
    simp only [h, Bool.false_eq_true, if_false]
    rw [List.find?_append]
    by_cases hh : q' = q
    · subst hh
      simp only [hnone, Option.none_or, List.find?_cons, hq]
      simp [Quire.fresh]
    · simp only [hh, if_false, List.find?_cons, hq]
      have : ((Quire.fresh q).q == q') = false := by
        simp only [Quire.fresh, beq_eq_false_iff_ne]; exact fun hz => hh hz.symm
      rw [this]
      simp

end Sys2Proof.Laws
end

