-- ==== Sys2Proof/Laws/Legal.lean ====
section
/-!
SUPPORT. Every operation of the module keeps what `Legal` says: the canonical forms of memory and vaults, the common
library's whole blocks, the steps of the arithmetic clock, and the measurement registers that stay zero. One lemma for each
function of a state, named after it.
-/
open Sys2Proof Sys2Proof.Machine Sys2Proof.Laws
namespace Sys2Proof.Laws
set_option Elab.async false

/-- `Legal`, of the fields that it reads. -/
def LegalAt (mem vault : SMap Byte) (clock : Nat) (mrs : List (BitVec 256)) : Prop :=
  SMap.wf mem 0 = true ∧ SMap.wf vault 0 = true ∧
    (clock = 1400 ∨ clock = 1200 ∨ clock = 1000 ∨ clock = 800) ∧ ∀ i, 5 ≤ i → i ≤ 7 → (mrs[i]?).getD 0 = 0

/-- `Legal` reads these fields of a state and no other. -/
theorem legal_at (s : State) : Legal s ↔ LegalAt s.mem s.vault s.clock s.mrs :=
  ⟨fun h => ⟨h.1, h.2, h.4, h.5⟩, fun h => ⟨h.1, h.2.1, library_legal s, h.2.2.1, h.2.2.2⟩⟩

theorem fold_legal {α : Type} (f : State → α → State) (l : List α) (s : State) (hf : ∀ s a, Legal s → Legal (f s a)) (h : Legal s) : Legal (l.foldl f s) := by
  induction l generalizing s with
  | nil => exact h
  | cons a l ih => exact ih _ (hf s a h)

theorem fold_legal1 {α β : Type} (f : State × β → α → State × β) (l : List α) (s : State × β) (hf : ∀ s a, Legal s.1 → Legal (f s a).1) (h : Legal s.1) : Legal (l.foldl f s).1 := by
  induction l generalizing s with
  | nil => exact h
  | cons a l ih => exact ih _ (hf s a h)

/-- A body of a unit that keeps `Legal`. -/
def BodyLegal (b : Body) : Prop := ∀ s es, Legal s → Legal (b s es).1

theorem modPart_legal (s : State) (p : Nat) (f : Partition → Partition) (h : Legal s) : Legal (State.modPart s p f) := by
  unfold State.modPart; grind [BodyLegal, legal_at, fold_legal]

theorem modContext_legal (s : State) (p c : Nat) (f : Context → Context) (h : Legal s) : Legal (State.modContext s p c f) := by
  unfold State.modContext; grind [BodyLegal, legal_at, fold_legal]

theorem message_legal (s : State) (fn vector : Nat) (h : Legal s) : Legal (State.message s fn vector) := by
  unfold State.message; grind [BodyLegal, legal_at, fold_legal]

theorem writeGranule_legal (s : State) (g ver : Nat) (cells : List (Nat × Byte)) (h : Legal s) : Legal (s.writeGranule g ver cells).1 := by
  have hm := writeGranule_wf s g ver cells h.mem
  refine (legal_at _).mpr ⟨hm, ?_⟩
  have := ((legal_at s).mp h).2
  unfold State.writeGranule
  dsimp only
  split <;> exact this

theorem writeCells_legal (s : State) (cells : List (Nat × Byte)) (ver : Nat) (h : Legal s) : Legal (s.writeCells cells ver).1 :=
  fold_legal1 _ _ (s, []) (fun x g hx => writeGranule_legal x.1 g ver cells hx) h

theorem writePhys_legal (s : State) (a : Nat) (bs : List Byte) (ver : Nat) (h : Legal s) : Legal (State.writePhys s a bs ver) := by
  unfold State.writePhys; grind [BodyLegal, legal_at, fold_legal, writeCells_legal]

theorem fresh_legal (s : State) (h : Legal s) : Legal (State.fresh s).1 := by
  unfold State.fresh; grind [BodyLegal, legal_at, fold_legal]

theorem touchBlock_legal (s : State) (a : Nat) (hint : BitVec 2) (h : Legal s) : Legal (State.touchBlock s a hint) := by
  unfold State.touchBlock; grind [BodyLegal, legal_at, fold_legal, fresh_legal]

theorem pushRecord_legal (s : State) (p c : Nat) (rec : List Byte) (h : Legal s) : Legal (State.pushRecord s p c rec) := by
  unfold State.pushRecord; grind [BodyLegal, legal_at, fold_legal, message_legal, modContext_legal, writePhys_legal]

theorem raiseFault_legal (s : State) (p c addr cause kind core pc who : Nat) (h : Legal s) : Legal (State.raiseFault s p c addr cause kind core pc who).1 := by
  unfold State.raiseFault; grind [BodyLegal, legal_at, fold_legal, modContext_legal, pushRecord_legal]

theorem logRecord_legal (s : State) (p c addr cause kind core pc who : Nat) (h : Legal s) : Legal (State.logRecord s p c addr cause kind core pc who) := by
  unfold State.logRecord; grind [BodyLegal, legal_at, fold_legal, modContext_legal, pushRecord_legal]

theorem flushMisses_legal (s : State) (n : Nat) (h : Legal s) : Legal (s.flushMisses n) := by
  induction n generalizing s with
  | zero => exact h
  | succ n ih => unfold State.flushMisses; grind [BodyLegal, legal_at, fold_legal, pushRecord_legal]

theorem trace_legal (s : State) (p c agent event core status handle wglin detail : Nat) (h : Legal s) : Legal (State.trace s p c agent event core status handle wglin detail) := by
  unfold State.trace; grind [BodyLegal, legal_at, fold_legal, modContext_legal, writePhys_legal]

theorem tlbFill_legal (s : State) (place p c : Nat) (g : Page) (h : Legal s) : Legal (State.tlbFill s place p c g) := by
  unfold State.tlbFill; grind [BodyLegal, legal_at, fold_legal]

theorem pageWalk_legal (s : State) (p c core va kind : Nat) (h : Legal s) : Legal (State.pageWalk s p c core va kind).1 := by
  unfold State.pageWalk; grind [BodyLegal, legal_at, fold_legal, tlbFill_legal]

theorem lookup_legal (s : State) (p c core va kind : Nat) (h : Legal s) : Legal (State.lookup s p c core va kind).1 := by
  unfold State.lookup; grind [BodyLegal, legal_at, fold_legal, pageWalk_legal, tlbFill_legal]

theorem translate_legal (s : State) (p c core addr kind : Nat) (h : Legal s) : Legal (State.translate s p c core addr kind).1 := by
  unfold State.translate; grind [BodyLegal, legal_at, fold_legal, lookup_legal]

theorem touchPage_legal (s : State) (g : Page) (va : Nat) (h : Legal s) : Legal (State.touchPage s g va) := by
  unfold State.touchPage; grind [BodyLegal, legal_at, fold_legal, touchBlock_legal]

theorem writePage_legal (s : State) (g : Page) (va : Nat) (bs : List Byte) (h : Legal s) : Legal (State.writePage s g va bs) := by
  unfold State.writePage; grind [BodyLegal, legal_at, fold_legal, writePhys_legal]

theorem translateRuns_legal (s : State) (p c core kind : Nat) (rs : List (Nat × Nat)) (h : Legal s) : Legal (s.translateRuns p c core kind rs).1 := by
  induction rs generalizing s with
  | nil => exact h
  | cons r rs ih => unfold State.translateRuns; grind [BodyLegal, legal_at, fold_legal, translate_legal]

theorem touchRuns_legal (s : State) (rs : List (Nat × Nat × Page)) (h : Legal s) : Legal (State.touchRuns s rs) := by
  unfold State.touchRuns; grind [BodyLegal, legal_at, fold_legal, touchPage_legal]

theorem readVirt_legal (s : State) (p c core a n : Nat) (h : Legal s) : Legal (State.readVirt s p c core a n).1 := by
  unfold State.readVirt; grind [BodyLegal, legal_at, fold_legal, touchRuns_legal, translateRuns_legal]

theorem readCode_legal (s : State) (p c core a n : Nat) (view : View) (h : Legal s) : Legal (State.readCode s p c core a n view).1 := by
  unfold State.readCode; grind [BodyLegal, legal_at, fold_legal, readVirt_legal, translateRuns_legal]

theorem writeVirt_legal (s : State) (p c core a : Nat) (bs : List Byte) (h : Legal s) : Legal (State.writeVirt s p c core a bs).1 := by
  unfold State.writeVirt; grind [BodyLegal, legal_at, fold_legal, touchRuns_legal, translateRuns_legal, writePage_legal]

theorem modWg_legal (s : State) (wid : Nat) (f : Workgroup → Workgroup) (h : Legal s) : Legal (State.modWg s wid f) := by
  unfold State.modWg; grind [BodyLegal, legal_at, fold_legal]

theorem modGroup_legal (s : State) (wid gi : Nat) (f : Group → Group) (h : Legal s) : Legal (State.modGroup s wid gi f) := by
  unfold State.modGroup; grind [BodyLegal, legal_at, fold_legal, modWg_legal]

theorem modThread_legal (s : State) (wid gi ti : Nat) (f : Thread → Thread) (h : Legal s) : Legal (State.modThread s wid gi ti f) := by
  unfold State.modThread; grind [BodyLegal, legal_at, fold_legal, modGroup_legal]

theorem modResident_legal (s : State) (p c core : Nat) (f : Resident → Resident) (h : Legal s) : Legal (State.modResident s p c core f) := by
  unfold State.modResident; grind [BodyLegal, legal_at, fold_legal]

theorem writeRegs_legal (s : State) (wid gi ti : Nat) (gDst : Bool) (ws : List (Nat × Word)) (h : Legal s) : Legal (State.writeRegs s wid gi ti gDst ws) := by
  unfold State.writeRegs; grind [BodyLegal, legal_at, fold_legal, modGroup_legal, modThread_legal]

theorem writeMasks_legal (s : State) (wid gi ti : Nat) (ks : List (Nat × Bool)) (h : Legal s) : Legal (State.writeMasks s wid gi ti ks) := by
  unfold State.writeMasks; grind [BodyLegal, legal_at, fold_legal, modThread_legal]

theorem addPending_legal (s : State) (wid gi ti : Nat) (ps : List Pending) (h : Legal s) : Legal (State.addPending s wid gi ti ps) := by
  unfold State.addPending; grind [BodyLegal, legal_at, fold_legal, modThread_legal]

theorem addGPending_legal (s : State) (wid gi : Nat) (ps : List Pending) (h : Legal s) : Legal (State.addGPending s wid gi ps) := by
  unfold State.addGPending; grind [BodyLegal, legal_at, fold_legal, modGroup_legal]

theorem quireEntryIn_legal (s : State) (p c core t q : Nat) (view : View) (h : Legal s) : Legal (State.quireEntryIn s p c core t q view).1 := by
  unfold State.quireEntryIn; grind [BodyLegal, legal_at, fold_legal, readCode_legal]

theorem quireEntry_legal (s : State) (p c core q : Nat) (view : View) (h : Legal s) : Legal (State.quireEntry s p c core q view).1 := by
  unfold State.quireEntry; grind [BodyLegal, legal_at, fold_legal, quireEntryIn_legal]

theorem requestLoad_legal (s : State) (p c core q : Nat) (view : View) (h : Legal s) : Legal (State.requestLoad s p c core q view).1 := by
  unfold State.requestLoad; grind [BodyLegal, legal_at, fold_legal, modResident_legal, quireEntry_legal]

theorem enterQuire_legal (s : State) (p c core q : Nat) (h : Legal s) : Legal (State.enterQuire s p c core q) := by
  unfold State.enterQuire; grind [BodyLegal, legal_at, fold_legal, modResident_legal]

theorem setPc_legal (s : State) (wid gi ti : Nat) (pc : Word) (h : Legal s) : Legal (State.setPc s wid gi ti pc) := by
  unfold State.setPc; grind [BodyLegal, legal_at, fold_legal, enterQuire_legal, modThread_legal]

theorem withdrawFetches_legal (s : State) (wid : Nat) (h : Legal s) : Legal (State.withdrawFetches s wid) := by
  unfold State.withdrawFetches; grind [BodyLegal, legal_at, fold_legal]

theorem debugStop_legal (s : State) (wid why bpn : Nat) (pc : Word) (h : Legal s) : Legal (State.debugStop s wid why bpn pc) := by
  unfold State.debugStop; grind [BodyLegal, legal_at, fold_legal, logRecord_legal, modContext_legal, withdrawFetches_legal]

theorem undeliverable_legal (s : State) (wid : Nat) (pc : Word) (t : Trap) (nested : Bool) (lane : Nat) (h : Legal s) : Legal (State.undeliverable s wid pc t nested lane) := by
  unfold State.undeliverable; grind [BodyLegal, legal_at, fold_legal, debugStop_legal, logRecord_legal]

theorem clearMarks_legal (s : State) (wid gi ti cause : Nat) (h : Legal s) : Legal (State.clearMarks s wid gi ti cause) := by
  unfold State.clearMarks; grind [BodyLegal, legal_at, fold_legal, modGroup_legal]

theorem enterHandler_legal (s : State) (wid gi ti : Nat) (vec pc resume : Word) (cause set : Nat) (h : Legal s) : Legal (State.enterHandler s wid gi ti vec pc resume cause set) := by
  unfold State.enterHandler; grind [BodyLegal, legal_at, fold_legal, clearMarks_legal, modGroup_legal, setPc_legal]

theorem holdLanes_legal (s : State) (wid gi set : Nat) (is : List Nat) (h : Legal s) : Legal (State.holdLanes s wid gi set is) := by
  unfold State.holdLanes; grind [BodyLegal, legal_at, fold_legal, modThread_legal]

theorem handlerLoads_legal (s : State) (w : Workgroup) (vec : Word) (view : View) (h : Legal s) : Legal (State.handlerLoads s w vec view).1 := by
  unfold State.handlerLoads; grind [BodyLegal, legal_at, fold_legal, quireEntry_legal]

theorem deliverGroup_legal (s : State) (wid gi : Nat) (vec pc : Word) (len : Nat) (ts : List (Nat × Trap)) (h : Legal s) :
    Legal (State.deliverGroup s wid gi vec pc len ts).1 := by
  have h0 : Legal { s with nextId := s.nextId + 1 } := (legal_at _).mpr ((legal_at s).mp h)
  unfold State.deliverGroup
  generalize { s with nextId := s.nextId + 1 } = s0 at h0 ⊢
  split
  · dsimp only
    split
    · exact undeliverable_legal _ _ _ _ _ _ h0
    · split
      · exact holdLanes_legal _ _ _ _ _ h0
      · split
        · exact undeliverable_legal _ _ _ _ _ _ h0
        · split
          · split
            · exact undeliverable_legal _ _ _ _ _ _ h0
            · exact holdLanes_legal _ _ _ _ _ (enterHandler_legal _ _ _ _ _ _ _ _ _ (modGroup_legal _ _ _ _ h0))
          · split
            · rename_i he
              have h1 := congrArg Prod.fst he ▸ handlerLoads_legal s0 _ vec _ h0
              exact holdLanes_legal _ _ _ _ _ (modThread_legal _ _ _ _ _ (modGroup_legal _ _ _ _ h1))
            · rename_i he
              have h1 := congrArg Prod.fst he ▸ handlerLoads_legal s0 _ vec _ h0
              exact undeliverable_legal _ _ _ _ _ _ h1
  · exact h

theorem deliver_legal (s : State) (u : UnitEnd) (h : Legal s) : Legal (State.deliver s u).1 :=
  fold_legal1 _ _ (s, []) (fun x g hx => deliverGroup_legal x.1 _ _ _ _ _ _ hx) h

theorem releaseHeld_legal (s : State) (wid gi : Nat) (h : Legal s) : Legal (State.releaseHeld s wid gi) := by
  unfold State.releaseHeld; grind [BodyLegal, legal_at, fold_legal, modGroup_legal]

theorem trapReturn_legal (s : State) (wid gi ti : Nat) (h : Legal s) : Legal (State.trapReturn s wid gi ti) := by
  unfold State.trapReturn; grind [BodyLegal, legal_at, fold_legal, modThread_legal, releaseHeld_legal, setPc_legal]

theorem withdrawDelivery_legal (s : State) (wid gi ti : Nat) (pc : Word) (t : Trap) (h : Legal s) : Legal (State.withdrawDelivery s wid gi ti pc t) := by
  unfold State.withdrawDelivery; grind [BodyLegal, legal_at, fold_legal, modThread_legal, releaseHeld_legal, undeliverable_legal]

theorem startLoad_legal (s : State) (p c core q : Nat) (h : Legal s) : Legal (State.startLoad s p c core q) := by
  unfold State.startLoad; grind [BodyLegal, legal_at, fold_legal, modResident_legal]

theorem chooseLoads_legal (s : State) (rs : List LoadRequest) (h : Legal s) : Legal (State.chooseLoads s rs).1 :=
  fold_legal1 _ _ (s, []) (fun x r hx => by dsimp only; split <;> grind [requestLoad_legal]) h

theorem afterLoad_legal (s : State) (a : LoadRequest × LoadAnswer) (h : Legal s) : Legal (State.afterLoad s a) := by
  unfold State.afterLoad; grind [BodyLegal, legal_at, fold_legal, deliver_legal, enterHandler_legal, modGroup_legal, modResident_legal, modThread_legal, withdrawDelivery_legal]

theorem settleEnds_legal (s : State) (us : List UnitEnd) (h : Legal s) : Legal (State.settleEnds s us) := by
  unfold State.settleEnds
  refine fold_legal _ _ _ (fun t a ht => afterLoad_legal t a ht) (fold_legal _ _ _ (fun t a ht => ?_) (chooseLoads_legal _ _
    (fold_legal1 _ _ (_, []) (fun x u hx => deliver_legal x.1 _ hx) (fold_legal1 _ _ (s, []) (fun x u hx => chooseLoads_legal x.1 _ hx) h))))
  split
  · exact startLoad_legal _ _ _ _ _ ht
  · exact ht

theorem endUnit_legal (s : State) (u : UnitEnd) (h : Legal s) : Legal (State.endUnit s u) := by
  unfold State.endUnit; grind [BodyLegal, legal_at, fold_legal, settleEnds_legal]

theorem deliverNow_legal (s : State) (wid : Nat) (pc : Word) (len : Nat) (fs : List Fate) (h : Legal s) : Legal (State.deliverNow s wid pc len fs) := by
  unfold State.deliverNow; grind [BodyLegal, legal_at, fold_legal, endUnit_legal]

theorem commitWaiters_legal (s : State) (wid : Nat) (ws : List (Nat × Nat × Word × Bool)) (h : Legal s) : Legal (State.commitWaiters s wid ws) := by
  unfold State.commitWaiters; grind [BodyLegal, legal_at, fold_legal, modGroup_legal]

theorem poisonWaiters_legal (s : State) (wid : Nat) (poisoned : List (Word × Fate)) (h : Legal s) : Legal (State.poisonWaiters s wid poisoned) := by
  unfold State.poisonWaiters; grind [BodyLegal, legal_at, fold_legal, deliverNow_legal, modThread_legal]

theorem wakeSet_legal (s : State) (wid set : Nat) (h : Legal s) : Legal (State.wakeSet s wid set) := by
  unfold State.wakeSet; grind [BodyLegal, legal_at, fold_legal, commitWaiters_legal, modWg_legal, poisonWaiters_legal]

theorem wakeWaits_legal (s : State) (wid : Nat) (h : Legal s) : Legal (State.wakeWaits s wid) := by
  unfold State.wakeWaits; grind [BodyLegal, legal_at, fold_legal, wakeSet_legal]

theorem advance_legal (s : State) (wid gi ti : Nat) (n : Nat) (h : Legal s) : Legal (State.advance s wid gi ti n) := by
  unfold State.advance; grind [BodyLegal, legal_at, fold_legal, modThread_legal]

theorem parkMisses_legal (s : State) (wid : Nat) (pc : Word) (fs : List Fate) (h : Legal s) : Legal (State.parkMisses s wid pc fs).1 := by
  unfold State.parkMisses
  dsimp only
  split
  · refine fold_legal1 _ _ (s, []) (fun x g hx => ?_) h
    split
    · exact raiseFault_legal _ _ _ _ _ _ _ _ _ hx
    · exact hx
  · exact h

theorem finishUnit_legal (sh : Shape) (jump : Bool) (all : List (Nat × Nat)) (fates : List Fate) (pc : Word) (wid : Nat) (vecs : List (Nat × Word)) (before : State) (h : Legal before) : Legal (finishUnit sh jump all fates pc wid vecs before) := by
  unfold finishUnit; grind [BodyLegal, legal_at, fold_legal, advance_legal, endUnit_legal, modThread_legal, parkMisses_legal, wakeWaits_legal]

theorem runUnit_legal (i : Instr) (jump : Bool) (cross : Option CrossReads) (extra : State → Workgroup → List (Nat × Nat)) (body : Body) (s : State) (hbody : BodyLegal body) (h : Legal s) : Legal (runUnit i jump cross extra body s) := by
  unfold runUnit; grind [BodyLegal, legal_at, fold_legal, finishUnit_legal]

theorem illegalUnit_legal (ws : List Word) (reason : List Word → Nat → Nat × Nat) (s : State) (h : Legal s) : Legal (illegalUnit ws reason s) := by
  unfold illegalUnit; grind [BodyLegal, legal_at, fold_legal, finishUnit_legal]

theorem laneNow_legal (s : State) (wid gi ti : Nat) (gDst : Bool) (o : LaneOut) (h : Legal s) : Legal (State.laneNow s wid gi ti gDst o) := by
  unfold State.laneNow; grind [BodyLegal, legal_at, fold_legal, modThread_legal, writeMasks_legal, writeRegs_legal]

theorem laneLater_legal (s : State) (wid gi ti : Nat) (ord : Nat) (pc : Word) (gDst : Bool) (o : LaneOut) (h : Legal s) : Legal (State.laneLater s wid gi ti ord pc gDst o) := by
  unfold State.laneLater; grind [BodyLegal, legal_at, fold_legal, addGPending_legal, addPending_legal, modThread_legal]

theorem writeLanes_legal (sh : Shape) (v : Bool) (f : LaneEnv → LaneOut) : BodyLegal (writeLanes sh v f) := by
  intro s es h; unfold writeLanes; grind [BodyLegal, legal_at, fold_legal, laneLater_legal, laneNow_legal]

theorem laneUnit_legal (i : Instr) (f : LaneEnv → LaneOut) (s : State) (h : Legal s) : Legal (laneUnit i f s) := by
  unfold laneUnit; grind [BodyLegal, legal_at, fold_legal, runUnit_legal, writeLanes_legal]

theorem laneUnitV_legal (i : Instr) (f : LaneEnv → LaneOut) (s : State) (h : Legal s) : Legal (laneUnitV i f s) := by
  unfold laneUnitV; grind [BodyLegal, legal_at, fold_legal, runUnit_legal, writeLanes_legal]

theorem crossUnit_legal (i : Instr) (v : Bool) (c : CrossReads) (f : LaneEnv → LaneOut) (s : State) (h : Legal s) : Legal (crossUnit i v c f s) := by
  unfold crossUnit; grind [BodyLegal, legal_at, fold_legal, runUnit_legal, writeLanes_legal]

theorem modLane_legal (s : State) (e : LaneEnv) (f : Thread → Thread) (h : Legal s) : Legal (State.modLane s e f) := by
  unfold State.modLane; grind [BodyLegal, legal_at, fold_legal, modThread_legal]

theorem logPoison_legal (s : State) (e : LaneEnv) (addr : Nat) (h : Legal s) : Legal (State.logPoison s e addr) := by
  unfold State.logPoison; grind [BodyLegal, legal_at, fold_legal, logRecord_legal]

theorem loadResult_legal (s : State) (e : LaneEnv) (d : Nat) (rs : List (Word × Bool)) (addr : Nat) (h : Legal s) : Legal (State.loadResult s e d rs addr) := by
  unfold State.loadResult; grind [BodyLegal, legal_at, fold_legal, addPending_legal]

theorem zeroRest_legal (z : Bool) (d size : Nat) (s : State) (es : List LaneEnv) (h : Legal s) : Legal (zeroRest z d size s es) := by
  unfold zeroRest; grind [BodyLegal, legal_at, fold_legal, loadResult_legal]

theorem raiseFaults_legal (s : State) (kind : Nat) (fs : List (LaneEnv × Nat × Nat)) (h : Legal s) : Legal (s.raiseFaults kind fs).1 :=
  fold_legal1 _ _ (s, []) (fun x g hx => by dsimp only; split <;> grind [raiseFault_legal]) h

theorem translateLanes_legal (s : State) (kind : Nat) (ls : List (LaneEnv × Nat)) (h : Legal s) : Legal (s.translateLanes kind ls).1 := by
  induction ls generalizing s with
  | nil => exact h
  | cons r rs ih => unfold State.translateLanes; grind [BodyLegal, legal_at, fold_legal, translate_legal]

theorem globalAccess_legal (s : State) (kind n : Nat) (addr : LaneEnv → Nat) (es : List LaneEnv) (h : Legal s) : Legal (s.globalAccess kind n addr es).1 :=
  raiseFaults_legal _ _ _ (translateLanes_legal _ _ _ h)

theorem touchRequests_legal (s : State) (xs : List Access) (h : Legal s) : Legal (State.touchRequests s xs) := by
  unfold State.touchRequests; grind [BodyLegal, legal_at, fold_legal, touchPage_legal]

theorem withLedger_legal (s : State) (m : Ledger) (h : Legal s) : Legal (State.withLedger s m) := by
  unfold State.withLedger; grind [BodyLegal, legal_at, fold_legal]

theorem reached_legal (s : State) (e : Nat) (xs : List Sight) (h : Legal s) : Legal (State.reached s e xs) := by
  unfold State.reached; grind [BodyLegal, legal_at, fold_legal, withLedger_legal]

theorem observeSpot_legal (s at_ : State) (w : Workgroup) (p : Spot) (see : Nat → List Byte × Nat × Stored) (open_ : Option (Nat × Nat × Nat)) (h : Legal s) : Legal (State.observeSpot s at_ w p see open_) := by
  unfold State.observeSpot; grind [BodyLegal, legal_at, fold_legal, modLane_legal, reached_legal]

theorem observeGlobal_legal (s at_ : State) (x : Access) (d n strong : Nat) (h : Legal s) : Legal (State.observeGlobal s at_ x d n strong) := by
  unfold State.observeGlobal; grind [BodyLegal, legal_at, fold_legal, observeSpot_legal]

theorem sendStore_legal (s : State) (x : Access) (h : Legal s) : Legal (State.sendStore s x) := by
  unfold State.sendStore; grind [BodyLegal, legal_at, fold_legal]

theorem ownPieces_legal (s : State) (h : SMap Versions) (ps : List Piece) (lg : Legal s) : Legal (State.ownPieces s h ps) := by
  unfold State.ownPieces; grind [BodyLegal, legal_at, fold_legal, modLane_legal]

theorem settleFences_legal (s : State) (t : Thread) (h : Legal s) : Legal (State.settleFences s t) := by
  unfold State.settleFences; grind [BodyLegal, legal_at, fold_legal, withLedger_legal]

theorem readyStore_legal (s : State) (p : Spot) (h : Legal s) : Legal (State.readyStore s p) := by
  unfold State.readyStore; grind [BodyLegal, legal_at, fold_legal, modLane_legal, settleFences_legal]

theorem storeGlobal_legal (s : State) (strong : Nat) (rmw : Bool) (ws : List (Access × List Byte)) (h : Legal s) : Legal (State.storeGlobal s strong rmw ws) := by
  unfold State.storeGlobal
  extract_lets here s0 ps late isLate vers r made g
  have h0 : Legal s0 := fold_legal _ _ _ (fun t w ht => readyStore_legal _ _ ht) h
  have hr : Legal r.1 := fold_legal1 _ _ (s0, []) (fun x v hx => fold_legal _ _ _ (fun t g ht => by
    split
    · exact logPoison_legal _ _ _ ht
    · exact ht) (writeCells_legal _ _ _ hx)) h0
  exact fold_legal _ _ _ (fun t w ht => sendStore_legal t _ ht) (ownPieces_legal _ _ _ ((legal_at _).mpr ((legal_at r.1).mp hr)))

theorem wakeFull_legal (s : State) (wid : Nat) (h : Legal s) : Legal (State.wakeFull s wid) := by
  unfold State.wakeFull; grind [BodyLegal, legal_at, fold_legal, modWg_legal]

theorem storeScratch_legal (s : State) (strong : Nat) (fill rel rmw : Bool) (ws : List (LaneEnv × Nat × List Byte)) (h : Legal s) : Legal (State.storeScratch s strong fill rel rmw ws) := by
  unfold State.storeScratch; grind [BodyLegal, legal_at, fold_legal, logPoison_legal, modLane_legal, modWg_legal, ownPieces_legal, readyStore_legal, wakeFull_legal]

theorem writeVaultCells_legal (s : State) (cells : List (Nat × Byte)) (h : Legal s) : Legal (s.writeVaultCells cells).1 :=
  fold_legal1 _ _ (s, []) (fun x g hx => by
    have hv := writeVaultGranule_wf x.1 g cells hx.vault
    unfold writeVaultGranule at hv
    dsimp only at hv ⊢
    split at hv
    · rename_i hc; rw [if_pos hc]; exact hx
    · rename_i hc; rw [if_neg hc]; exact ⟨hx.mem, hv, hx.library, hx.clock, hx.mrs⟩) h

theorem observeVault_legal (s at_ : State) (e : LaneEnv) (d a k n strong : Nat) (h : Legal s) : Legal (State.observeVault s at_ e d a k n strong) := by
  unfold State.observeVault; grind [BodyLegal, legal_at, fold_legal, observeSpot_legal]

theorem modLaunch_legal (s : State) (p c q k : Nat) (f : Launch → Launch) (h : Legal s) : Legal (State.modLaunch s p c q k f) := by
  unfold State.modLaunch; grind [BodyLegal, legal_at, fold_legal, modContext_legal]

theorem writeCrec_legal (s : State) (p c : Nat) (l : Launch) (off : Nat) (bs : List Byte) (h : Legal s) : Legal (State.writeCrec s p c l off bs) := by
  unfold State.writeCrec; grind [BodyLegal, legal_at, fold_legal, logRecord_legal, writeVirt_legal]

theorem writeHeader_legal (s : State) (p c q k : Nat) (h : Legal s) : Legal (State.writeHeader s p c q k) := by
  unfold State.writeHeader; grind [BodyLegal, legal_at, fold_legal, writeCrec_legal]

theorem releasing_legal (s : State) (v : View) (scope : Nat) (f : State → State) (h : Legal s) (hf : ∀ t, Legal t → Legal (f t)) : Legal (State.releasing s v scope f) := by
  unfold State.releasing; grind [BodyLegal, legal_at, fold_legal, withLedger_legal]

theorem endLaunch_legal (s : State) (p c q k : Nat) (st : LaunchState) (status : Nat) (h : Legal s) : Legal (State.endLaunch s p c q k st status) := by
  unfold State.endLaunch; grind [BodyLegal, legal_at, fold_legal, message_legal, modLaunch_legal, releasing_legal, writeHeader_legal]

theorem gaveBit_legal (s : State) (p c q k w : Nat) (v : View) (h : Legal s) : Legal (State.gaveBit s p c q k w v) := by
  unfold State.gaveBit; grind [BodyLegal, legal_at, fold_legal, modLaunch_legal]

theorem markDone_legal (s : State) (p c q k w : Nat) (scope : Nat) (v : View) (h : Legal s) : Legal (State.markDone s p c q k w scope v) := by
  unfold State.markDone; grind [BodyLegal, legal_at, fold_legal, gaveBit_legal, modLaunch_legal, releasing_legal, writeCrec_legal]

theorem asyncFailed_legal (s : State) (w : Workgroup) (status pc : Nat) (h : Legal s) : Legal (State.asyncFailed s w status pc) := by
  unfold State.asyncFailed; grind [BodyLegal, legal_at, fold_legal, endLaunch_legal, logRecord_legal]

theorem endParksWith_legal (s : State) (wid : Nat) (past : Bool) (learn : ParkKind → View) (hit : ParkKind → Option Bool) (h : Legal s) : Legal (State.endParksWith s wid past learn hit) := by
  unfold State.endParksWith; grind [BodyLegal, legal_at, fold_legal, modWg_legal, wakeWaits_legal]

theorem endParks_legal (s : State) (wid : Nat) (past : Bool) (hit : ParkKind → Option Bool) (h : Legal s) : Legal (State.endParks s wid past hit) := by
  unfold State.endParks; grind [BodyLegal, legal_at, fold_legal, endParksWith_legal]

theorem arrive_legal (s : State) (wid a n status : Nat) (h : Legal s) : Legal (State.arrive s wid a n status) := by
  unfold State.arrive; grind [BodyLegal, legal_at, fold_legal, endParksWith_legal, modWg_legal]

theorem wakeMap_legal (s : State) (wid a : Nat) (h : Legal s) : Legal (State.wakeMap s wid a) := by
  unfold State.wakeMap; grind [BodyLegal, legal_at, fold_legal, endParksWith_legal]

theorem setChunk_legal (s : State) (wid a i : Nat) (h : Legal s) : Legal (State.setChunk s wid a i) := by
  unfold State.setChunk; grind [BodyLegal, legal_at, fold_legal, modWg_legal, wakeMap_legal]

theorem setMapStatus_legal (s : State) (wid a status : Nat) (h : Legal s) : Legal (State.setMapStatus s wid a status) := by
  unfold State.setMapStatus; grind [BodyLegal, legal_at, fold_legal, modWg_legal, wakeMap_legal]

theorem releaseLanes_legal (s : State) (e : LaneEnv) (m : Nat) (h : Legal s) : Legal (State.releaseLanes s e m) := by
  unfold State.releaseLanes; grind [BodyLegal, legal_at, fold_legal, modThread_legal]

theorem addJob_legal (s : State) (e : LaneEnv) (k : JobKind) (h : Legal s) : Legal (State.addJob s e k).1 := by
  unfold State.addJob; grind [BodyLegal, legal_at, fold_legal, releaseLanes_legal]

theorem modJob_legal (s : State) (id : Nat) (f : JobKind → JobKind) (h : Legal s) : Legal (State.modJob s id f) := by
  unfold State.modJob; grind [BodyLegal, legal_at, fold_legal]

theorem wakePorts_legal (s : State) (core : Nat) (h : Legal s) : Legal (State.wakePorts s core) := by
  unfold State.wakePorts; grind [BodyLegal, legal_at, fold_legal, endParks_legal]

theorem dropRetired_legal (s : State) (wid : Nat) (h : Legal s) : Legal (State.dropRetired s wid) := by
  unfold State.dropRetired; grind [BodyLegal, legal_at, fold_legal]

theorem gaveWork_legal (s : State) (j : Job) (h : Legal s) : Legal (State.gaveWork s j) := by
  unfold State.gaveWork; grind [BodyLegal, legal_at, fold_legal, gaveBit_legal, modWg_legal]

theorem endJob_legal (s : State) (j : Job) (h : Legal s) : Legal (State.endJob s j) := by
  unfold State.endJob; grind [BodyLegal, legal_at, fold_legal, dropRetired_legal, gaveWork_legal, wakePorts_legal]

theorem takeUp_legal (s : State) (j : Job) (named : Bool) (status : Nat) (h : Legal s) : Legal (State.takeUp s j named status) := by
  unfold State.takeUp; grind [BodyLegal, legal_at, fold_legal, asyncFailed_legal]

theorem traceDone_legal (s : State) (j : Job) (agent status : Nat) (h : Legal s) : Legal (State.traceDone s j agent status) := by
  unfold State.traceDone; grind [BodyLegal, legal_at, fold_legal, trace_legal]

theorem traceIssue_legal (s : State) (e : LaneEnv) (agent : Nat) (h : Legal s) : Legal (State.traceIssue s e agent) := by
  unfold State.traceIssue; grind [BodyLegal, legal_at, fold_legal, trace_legal]

theorem releaseJob_legal (s : State) (j : Job) (a k : Nat) (h : Legal s) : Legal (State.releaseJob s j a k) := by
  unfold State.releaseJob; grind [BodyLegal, legal_at, fold_legal, modWg_legal]

theorem finishJob_legal (s0 : State) (j : Job) (agent : Nat) (status : Nat) (h : Legal s0) : Legal (State.finishJob s0 j agent status) := by
  unfold State.finishJob; grind [BodyLegal, legal_at, fold_legal, arrive_legal, endJob_legal, releaseJob_legal, takeUp_legal, traceDone_legal]

theorem logEngine_legal (s : State) (j : Job) (addr cause : Nat) (h : Legal s) : Legal (State.logEngine s j addr cause) := by
  unfold State.logEngine; grind [BodyLegal, legal_at, fold_legal, logRecord_legal]

theorem uniformBody_legal (f : State → LaneEnv → List (Nat × Word)) : BodyLegal (uniformBody f) := by
  intro s es h; unfold uniformBody; grind [BodyLegal, legal_at, fold_legal, modGroup_legal]

theorem uniformUnit_legal (i : Instr) (f : State → LaneEnv → List (Nat × Word)) (s : State) (h : Legal s) : Legal (uniformUnit i f s) := by
  unfold uniformUnit; grind [BodyLegal, legal_at, fold_legal, runUnit_legal, uniformBody_legal]

/-- A group's turn that keeps `Legal`. -/
def TurnLegal (f : State → LaneEnv → List LaneEnv → State × List Fate) : Prop := ∀ s e ls, Legal s → Legal (f s e ls).1

theorem groupBody_legal (f : State → LaneEnv → List LaneEnv → State × List Fate) (hf : TurnLegal f) : BodyLegal (groupBody f) :=
  fun s es h => fold_legal1 _ _ (s, []) (fun x e hx => hf _ _ _ hx) h

theorem groupFault_legal (s : State) (e : LaneEnv) (ls : List LaneEnv) (addr n : Nat) (h : Legal s) : Legal (State.groupFault s e ls addr n).1 := by
  unfold State.groupFault; grind [BodyLegal, legal_at, fold_legal]

theorem uldcGroup_legal (u : GImm) (s : State) (e : LaneEnv) (ls : List LaneEnv) (h : Legal s) : Legal (uldcGroup u s e ls).1 := by
  unfold uldcGroup; grind [BodyLegal, legal_at, fold_legal, addGPending_legal, groupFault_legal, touchPage_legal, translate_legal]

theorem wrsysGroup_legal (u : GWr) (s : State) (e : LaneEnv) (ls : List LaneEnv) (h : Legal s) : Legal (wrsysGroup u s e ls).1 := by
  unfold wrsysGroup; grind [BodyLegal, legal_at, fold_legal, modGroup_legal]

theorem copyGroup_legal (what index n : Nat) (a : BitVec 5) (s : State) (e : LaneEnv) (ls : List LaneEnv) (h : Legal s) : Legal (copyGroup what index n a s e ls).1 := by
  unfold copyGroup; grind [BodyLegal, legal_at, fold_legal, addJob_legal, groupFault_legal, readVirt_legal]

theorem placeBlock_legal (s : State) (b : Nat) (hbm : Bool) (h : Legal s) : Legal (State.placeBlock s b hbm) := by
  unfold State.placeBlock; grind [BodyLegal, legal_at, fold_legal]

theorem modMigration_legal (s : State) (st : Nat) (f : Migration → Migration) (h : Legal s) : Legal (State.modMigration s st f) := by
  unfold State.modMigration; grind [BodyLegal, legal_at, fold_legal]

theorem demote_legal (s : State) (st b : Nat) (h : Legal s) : Legal (State.demote s st b) := by
  unfold State.demote; grind [BodyLegal, legal_at, fold_legal, modMigration_legal, placeBlock_legal]

theorem promoteKeeping_legal (s : State) (keep : Nat → Bool) (st b : Nat) (h : Legal s) : Legal (State.promoteKeeping s keep st b) := by
  unfold State.promoteKeeping; grind [BodyLegal, legal_at, fold_legal, demote_legal, modMigration_legal, placeBlock_legal]

theorem promote_legal (s : State) (st b : Nat) (h : Legal s) : Legal (State.promote s st b) := by
  unfold State.promote; grind [BodyLegal, legal_at, fold_legal, promoteKeeping_legal]

theorem prefetchBlock_legal (s : State) (named : List Nat) (b : Nat) (h : Legal s) : Legal (State.prefetchBlock s named b) := by
  unfold State.prefetchBlock; grind [BodyLegal, legal_at, fold_legal, promoteKeeping_legal]

theorem epochEnd_legal (s : State) (st : Nat) (h : Legal s) : Legal (State.epochEnd s st) := by
  unfold State.epochEnd; grind [BodyLegal, legal_at, fold_legal, demote_legal, fresh_legal, modMigration_legal, promote_legal]

theorem setG_legal (s : State) (e : LaneEnv) (d : BitVec 5) (x : Nat) (h : Legal s) : Legal (State.setG s e d x) := by
  unfold State.setG; grind [BodyLegal, legal_at, fold_legal, modGroup_legal]

theorem laterG_legal (s : State) (e : LaneEnv) (d : BitVec 5) (x : Nat) (h : Legal s) : Legal (State.laterG s e d x) := by
  unfold State.laterG; grind [BodyLegal, legal_at, fold_legal, addGPending_legal]

theorem fenceBody_legal (kind scope : Nat) : BodyLegal (fenceBody kind scope) :=
  fun s _ h => fold_legal _ _ s (fun _ _ ht => modLane_legal _ _ _ ht) h

theorem unpark_legal (s : State) (wid a : Nat) (h : Legal s) : Legal (State.unpark s wid a) := by
  unfold State.unpark; grind [BodyLegal, legal_at, fold_legal, endParks_legal]

theorem initGroup_legal (isMap : Bool) (u : GR3) (s : State) (e : LaneEnv) (ls : List LaneEnv) (h : Legal s) : Legal (initGroup isMap u s e ls).1 := by
  unfold initGroup; grind [BodyLegal, legal_at, fold_legal, modWg_legal, setG_legal, unpark_legal]

theorem withObject_legal (isMap : Bool) (a : BitVec 5) (f : Nat → State → LaneEnv → List LaneEnv → State × List Fate)
    (s : State) (e : LaneEnv) (ls : List LaneEnv) (hf : ∀ o, TurnLegal (f o)) (h : Legal s) : Legal (withObject isMap a f s e ls).1 := by
  unfold withObject; dsimp only; repeat' split
  all_goals first | exact h | exact hf _ _ _ _ h

theorem arriveGroup_legal (u : GR3) (o : Nat) (s : State) (e : LaneEnv) (ls : List LaneEnv) (h : Legal s) : Legal (arriveGroup u o s e ls).1 := by
  unfold arriveGroup; grind [BodyLegal, legal_at, fold_legal, arrive_legal, modLane_legal, modWg_legal, setG_legal]

theorem learnAll_legal (s : State) (v : View) (ls : List LaneEnv) (h : Legal s) : Legal (State.learnAll s v ls) := by
  unfold State.learnAll; grind [BodyLegal, legal_at, fold_legal, modLane_legal]

theorem waitphGroup_legal (u : GAB) (o : Nat) (s : State) (e : LaneEnv) (ls : List LaneEnv) (h : Legal s) : Legal (waitphGroup u o s e ls).1 := by
  unfold waitphGroup; grind [BodyLegal, legal_at, fold_legal, learnAll_legal, modWg_legal]

theorem testphGroup_legal (u : GR2) (o : Nat) (s : State) (e : LaneEnv) (x_ : List LaneEnv) (h : Legal s) : Legal (testphGroup u o s e x_).1 := by
  unfold testphGroup; grind [BodyLegal, legal_at, fold_legal, laterG_legal]

theorem cmwaitGroup_legal (u : GAB) (o : Nat) (s : State) (e : LaneEnv) (ls : List LaneEnv) (h : Legal s) : Legal (cmwaitGroup u o s e ls).1 := by
  unfold cmwaitGroup; grind [BodyLegal, legal_at, fold_legal, learnAll_legal]

theorem cmtestGroup_legal (u : GR3) (o : Nat) (s : State) (e : LaneEnv) (x_ : List LaneEnv) (h : Legal s) : Legal (cmtestGroup u o s e x_).1 := by
  unfold cmtestGroup; grind [BodyLegal, legal_at, fold_legal, laterG_legal]

theorem tierpfGroup_legal (u : GR3) (s : State) (e : LaneEnv) (ls : List LaneEnv) (h : Legal s) : Legal (tierpfGroup u s e ls).1 := by
  unfold tierpfGroup; grind [BodyLegal, legal_at, fold_legal, addJob_legal, traceIssue_legal]

theorem hintBlock_legal (s : State) (b : Nat) (hint : BitVec 2) (h : Legal s) : Legal (State.hintBlock s b hint) := by
  unfold State.hintBlock; grind [BodyLegal, legal_at, fold_legal, fresh_legal]

theorem tierpfEnd_legal (s : State) (j : Job) (base len : Nat) (h : Legal s) : Legal (State.tierpfEnd s j base len) := by
  unfold State.tierpfEnd; grind [BodyLegal, legal_at, fold_legal, finishJob_legal, hintBlock_legal, logEngine_legal, prefetchBlock_legal, translateRuns_legal]

theorem logEnginePoison_legal (s : State) (w : Workgroup) (pc : Word) (a : Nat) (h : Legal s) : Legal (State.logEnginePoison s w pc a) := by
  unfold State.logEnginePoison; grind [BodyLegal, legal_at, fold_legal, logRecord_legal]

theorem engineScratch_legal (s : State) (wid : Nat) (pc : Word) (a : Nat) (bs : List Byte) (view : View) (h : Legal s) : Legal (State.engineScratch s wid pc a bs view) := by
  unfold State.engineScratch; grind [BodyLegal, legal_at, fold_legal, logEnginePoison_legal, modWg_legal, wakeFull_legal]

theorem engineVault_legal (s : State) (w : Workgroup) (pc : Word) (a : Nat) (bs : List Byte) (h : Legal s) : Legal (State.engineVault s w pc a bs) := by
  unfold State.engineVault; grind [BodyLegal, legal_at, fold_legal, logEnginePoison_legal, writeVaultCells_legal]

theorem endStream_legal (s : State) (j : Job) (cmd : List Byte) (status : Nat) (h : Legal s) : Legal (State.endStream s j cmd status) := by
  unfold State.endStream; grind [BodyLegal, legal_at, fold_legal, endJob_legal, releaseJob_legal, setMapStatus_legal, takeUp_legal, traceDone_legal]

theorem strmGroup_legal (base n : Nat) (s : State) (e : LaneEnv) (ls : List LaneEnv) (h : Legal s) : Legal (strmGroup base n s e ls).1 := by
  unfold strmGroup; grind [BodyLegal, legal_at, fold_legal, addJob_legal, traceIssue_legal]

theorem touchSegments_legal (s : State) (pages : List (Nat × Nat × Page)) (offs : List Nat) (h : Legal s) : Legal (State.touchSegments s pages offs) := by
  unfold State.touchSegments; grind [BodyLegal, legal_at, fold_legal, touchPage_legal]

theorem streamCheck_legal (s : State) (j : Job) (cmd shape : List Byte) (h : Legal s) : Legal (State.streamCheck s j cmd shape) := by
  unfold State.streamCheck; grind [BodyLegal, legal_at, fold_legal, endJob_legal, endStream_legal, logEngine_legal, modJob_legal, translateRuns_legal]

theorem settleJob_legal (s : State) (j : Job) (h : Legal s) : Legal (State.settleJob s j) := by
  unfold State.settleJob; grind [BodyLegal, legal_at, fold_legal, withLedger_legal]

theorem markBy_legal (old s : State) (who : Agent) (h : Legal s) : Legal (State.markBy old s who) := by
  unfold State.markBy; grind [BodyLegal, legal_at, fold_legal]

theorem jobWrote_legal (s : State) (j : Job) (v : View) (h : Legal s) : Legal (State.jobWrote s j v) := by
  unfold State.jobWrote; grind [BodyLegal, legal_at, fold_legal]

theorem wroteBy_legal (old s : State) (j : Job) (who : Agent) (h : Legal s) : Legal (State.wroteBy old s j who) := by
  unfold State.wroteBy; grind [BodyLegal, legal_at, fold_legal, jobWrote_legal, markBy_legal]

theorem jobWrites_legal (s : State) (j : Job) (who : Agent) (f : State → State) (h : Legal s) (hf : ∀ t, Legal t → Legal (f t)) : Legal (State.jobWrites s j who f) := by
  unfold State.jobWrites; grind [BodyLegal, legal_at, fold_legal, settleJob_legal, wroteBy_legal]

theorem jobRead_legal (s : State) (j : Job) (scope : Nat) (xs : List Sight) (h : Legal s) : Legal (State.jobRead s j scope xs) := by
  unfold State.jobRead; grind [BodyLegal, legal_at, fold_legal, jobWrote_legal, reached_legal]

theorem streamChunk_legal (s : State) (j : Job) (cmd shape : List Byte) (pages : List (Nat × Nat × Page)) (done : List Nat) (i : Nat) (h : Legal s) : Legal (State.streamChunk s j cmd shape pages done i) := by
  unfold State.streamChunk; grind [BodyLegal, legal_at, fold_legal, endJob_legal, endStream_legal, engineScratch_legal, engineVault_legal, jobRead_legal, jobWrites_legal, logEngine_legal, modJob_legal, releaseJob_legal, setChunk_legal, touchSegments_legal]

theorem clearTile_legal (s : State) (p c core t : Nat) (integer : Bool) (h : Legal s) : Legal (State.clearTile s p c core t integer) := by
  unfold State.clearTile; grind [BodyLegal, legal_at, fold_legal, modResident_legal]

theorem settleZeros_legal (s : State) (n : Nat) (h : Legal s) : Legal (s.settleZeros n) := by
  induction n generalizing s with
  | zero => exact h
  | succ n ih => unfold State.settleZeros; grind [BodyLegal, legal_at, fold_legal, clearTile_legal, endJob_legal]

theorem endMatrix_legal (s : State) (j : Job) (status : Nat) (h : Legal s) : Legal (State.endMatrix s j status) := by
  unfold State.endMatrix; grind [BodyLegal, legal_at, fold_legal, finishJob_legal, settleZeros_legal]

theorem needPlace_legal (f : State → LaneEnv → List LaneEnv → State × List Fate) (s : State) (e : LaneEnv) (ls : List LaneEnv)
    (hf : TurnLegal f) (h : Legal s) : Legal (needPlace f s e ls).1 := by
  unfold needPlace; split
  · exact h
  · exact hf _ _ _ h

theorem mzeroGroup_legal (u : GMzero) (s : State) (e : LaneEnv) (x_ : List LaneEnv) (h : Legal s) : Legal (mzeroGroup u s e x_).1 := by
  unfold mzeroGroup; grind [BodyLegal, legal_at, fold_legal, addJob_legal, settleZeros_legal]

theorem mlatbGroup_legal (u : GMlatb) (s : State) (e : LaneEnv) (ls : List LaneEnv) (h : Legal s) : Legal (mlatbGroup u s e ls).1 := by
  unfold mlatbGroup; dsimp only; repeat' split
  all_goals first | exact h | exact needPlace_legal _ _ _ _ (fun s e ls h => by grind [addJob_legal, traceIssue_legal, zeroRest_legal, fold_legal, modThread_legal, addPending_legal]) h

theorem mlatbAct_legal (s : State) (j : Job) (image fmt plane : Nat) (h : Legal s) : Legal (State.mlatbAct s j image fmt plane) := by
  unfold State.mlatbAct; grind [BodyLegal, legal_at, fold_legal, endJob_legal, endMatrix_legal, logEngine_legal, modResident_legal]

theorem mmaGroup_legal (u : LMma) (s : State) (e : LaneEnv) (ls : List LaneEnv) (h : Legal s) : Legal (mmaGroup u s e ls).1 := by
  unfold mmaGroup; dsimp only; repeat' split
  all_goals first | exact h | exact needPlace_legal _ _ _ _ (fun s e ls h => by grind [addJob_legal, traceIssue_legal, zeroRest_legal, fold_legal, modThread_legal, addPending_legal]) h

theorem mmaAct_legal (s : State) (j : Job) (fmt tile plane rb : Nat) (rows : List (Nat × Nat)) (h : Legal s) : Legal (State.mmaAct s j fmt tile plane rb rows) := by
  unfold State.mmaAct; grind [BodyLegal, legal_at, fold_legal, endJob_legal, endMatrix_legal, logEngine_legal, modResident_legal]

theorem mreadGroup_legal (u : LMread) (z : Bool) (s : State) (e : LaneEnv) (ls : List LaneEnv) (h : Legal s) : Legal (mreadGroup u z s e ls).1 := by
  unfold mreadGroup; dsimp only; split
  all_goals first | exact zeroRest_legal _ _ _ _ _ h | exact needPlace_legal _ _ _ _ (fun s e ls h => by grind [addJob_legal, traceIssue_legal, zeroRest_legal, fold_legal, modThread_legal, addPending_legal]) h

theorem supply_legal (s : State) (j : Job) (ti reg : Nat) (x : Word) (poison : Bool) (h : Legal s) : Legal (State.supply s j ti reg x poison) := by
  unfold State.supply; grind [BodyLegal, legal_at, fold_legal, modThread_legal]

theorem supplyG_legal (s : State) (j : Job) (reg : Nat) (x : Word) (poison : Option Nat) (h : Legal s) : Legal (State.supplyG s j reg x poison) := by
  unfold State.supplyG; grind [BodyLegal, legal_at, fold_legal, modGroup_legal]

theorem mreadAct_legal (s : State) (j : Job) (d tile ty mode : Nat) (sat : Bool) (rows : List (Nat × Word × List Nat)) (h : Legal s) : Legal (State.mreadAct s j d tile ty mode sat rows) := by
  unfold State.mreadAct; grind [BodyLegal, legal_at, fold_legal, endJob_legal, settleZeros_legal, supply_legal]

theorem mstoreGroup_legal (u : GMstore) (s : State) (e : LaneEnv) (ls : List LaneEnv) (h : Legal s) : Legal (mstoreGroup u s e ls).1 := by
  unfold mstoreGroup; dsimp only; repeat' split
  all_goals first | exact h | exact needPlace_legal _ _ _ _ (fun s e ls h => by grind [addJob_legal, traceIssue_legal, zeroRest_legal, fold_legal, modThread_legal, addPending_legal]) h

theorem mstoreAct_legal (s : State) (j : Job) (tile ty dst : Nat) (c0 c1 : Word) (h : Legal s) : Legal (State.mstoreAct s j tile ty dst c0 c1) := by
  unfold State.mstoreAct; grind [BodyLegal, legal_at, fold_legal, endJob_legal, endMatrix_legal, engineScratch_legal, jobWrites_legal, modResident_legal]

theorem mstatGroup_legal (u : GMstat) (s : State) (e : LaneEnv) (x_ : List LaneEnv) (h : Legal s) : Legal (mstatGroup u s e x_).1 := by
  unfold mstatGroup; grind [BodyLegal, legal_at, fold_legal, addGPending_legal, addJob_legal]

theorem mstatAct_legal (s : State) (j : Job) (tile : Nat) (h : Legal s) : Legal (State.mstatAct s j tile) := by
  unfold State.mstatAct; grind [BodyLegal, legal_at, fold_legal, endJob_legal, settleZeros_legal, supplyG_legal]

theorem touchCells_legal (s : State) (rs : Runs) (cells : List (Nat × Byte)) (h : Legal s) : Legal (State.touchCells s rs cells) := by
  unfold State.touchCells; grind [BodyLegal, legal_at, fold_legal, touchRuns_legal]

theorem putRuns_legal (s0 : State) (j : Job) (rs : Runs) (cells : List (Nat × Byte)) (h : Legal s0) : Legal (State.putRuns s0 j rs cells) := by
  unfold State.putRuns; grind [BodyLegal, legal_at, fold_legal, logRecord_legal, touchCells_legal, writeCells_legal]

theorem fprim_legal : FPrim Legal :=
  ⟨fun _ _ _ _ _ _ h => translateRuns_legal _ _ _ _ _ _ h, fun _ _ _ _ h => putRuns_legal _ _ _ _ h,
    fun _ _ h => touchRuns_legal _ _ h, fun s _ h => (legal_at _).mpr ((legal_at s).mp h),
    fun _ _ _ _ _ _ _ _ _ h => logRecord_legal _ _ _ _ _ _ _ _ _ h⟩

theorem giveItem_legal (s : State) (j : Job) (d : Nat) (x : Nat × Nat) (poison : Bool) (va : Nat) (h : Legal s) : Legal (State.giveItem s j d x poison va) := by
  unfold State.giveItem; grind [BodyLegal, legal_at, fold_legal, addGPending_legal]

theorem runForme_legal (s : State) (j : Job) (agent det : Nat) (m : FM Unit) (hm : FKeeps Legal m) (h : Legal s) :
    ∀ r, s.runForme j agent det m = some r → Legal r.1 := by
  intro r hr
  have h1 := hm s h
  unfold State.runForme at hr
  change (match m.run s with | _ => _) = _ at hr
  generalize m.run s = q at h1 hr
  obtain ⟨q, s1⟩ := q
  grind [logEngine_legal]

theorem serveFetches_legal (s : State) (key n : Nat) (h : Legal s) : Legal (s.serveFetches key n) := by
  induction n generalizing s with
  | zero => exact h
  | succ n ih =>
    unfold State.serveFetches
    split
    · exact h
    · rename_i j _
      split
      · rename_i va _ d hh _
        have h1 := fmFetch_keeps fprim_legal j va s h
        dsimp only
        generalize (fmFetch j va).run s = q at h1
        obtain ⟨q, s1⟩ := q
        have h2 := markBy_legal s s1 (formeAgent key) h1
        grind [legal_at, endParks_legal, giveItem_legal]
      · exact h

theorem markWaited_legal (old s : State) (h : Legal s) : Legal (State.markWaited old s) := by
  unfold State.markWaited; grind [BodyLegal, legal_at, fold_legal]

theorem publish_legal (s : State) (key e : Nat) (v : View) (h : Legal s) : Legal (State.publish s key e v) := by
  unfold State.publish; grind [BodyLegal, legal_at, fold_legal]

theorem formePerform_legal (s : State) (j : Job) (major : Nat) (compact : Bool) (c : List Byte) (h : Legal s) :
    ∀ r, s.formePerform j major compact c = some r → Legal r := by
  intro r hr
  unfold State.formePerform at hr
  split at hr
  · cases hr; exact endJob_legal _ _ h
  · rename_i wg _
    dsimp only at hr
    rw [Option.map_eq_some_iff] at hr
    obtain ⟨q, hq, rfl⟩ := hr
    have h0 := settleJob_legal s j h
    have hl : Legal q.1 := by
      split at hq
      · exact runForme_legal _ _ _ _ _ (fmGseal_keeps fprim_legal _ _) h0 _ hq
      · exact runForme_legal _ _ _ _ _ (fmImpose_keeps fprim_legal _ _) h0 _ hq
      · exact runForme_legal _ _ _ _ _ (fmDistrib_keeps fprim_legal _ _ _) h0 _ hq
      · exact runForme_legal _ _ _ _ _ (fmPub_keeps fprim_legal _ _ _) h0 _ hq
      · exact runForme_legal _ _ _ _ _ (fmAppend_keeps fprim_legal _ _ _ _) h0 _ hq
      · exact runForme_legal _ _ _ _ _ (fmAppend_keeps fprim_legal _ _ _ _) h0 _ hq
      · exact runForme_legal _ _ _ _ _ (fmCommit_keeps fprim_legal _ _) h0 _ hq
    have h1 : ∀ who v, Legal (((s.settleJob j).wroteBy q.1 j who).withLedger v) := fun who v => withLedger_legal _ _ (wroteBy_legal _ _ _ _ hl)
    have h2 : ∀ t, Legal t → Legal (((s.settleJob j).markWaited t).finishJob j 6 q.2) := fun t ht => finishJob_legal _ _ _ _ (markWaited_legal _ _ ht)
    have h3 : ∀ (b : Prop) [Decidable b] (t : State) k e v, Legal t → Legal (if b then t.publish k e v else t) := fun b _ t k e v ht => by
      split
      · exact publish_legal _ _ _ _ ht
      · exact ht
    split
    · exact h2 _ (h3 _ _ _ _ _ (h1 _ _))
    · exact serveFetches_legal _ _ _ (h2 _ (h3 _ _ _ _ _ (h1 _ _)))

theorem abandonItems_legal (s : State) (j : Job) (h : Legal s) : Legal (s.abandonItems j) := by
  unfold State.abandonItems
  refine fold_legal _ _ _ (fun s k h => serveFetches_legal _ _ _ h) (markWaited_legal _ _ (fold_legal _ _ _ (fun s i h => ?_) h))
  exact markBy_legal _ _ _ (fmAbandon_keeps fprim_legal _ _ _ ((legal_at _).mpr ((legal_at s).mp h)))

theorem formeGroup_legal (major : Nat) (compact : Bool) (u : GR2) (s : State) (e : LaneEnv) (ls : List LaneEnv) (h : Legal s) : Legal (formeGroup major compact u s e ls).1 := by
  unfold formeGroup; grind [BodyLegal, legal_at, fold_legal, addJob_legal, traceIssue_legal]

theorem formeUnit_legal (i : Instr) (major : Nat) (compact : Bool) (u : GR2) (s : State) (h : Legal s) : Legal (formeUnit i major compact u s) :=
  runUnit_legal _ _ _ _ _ _ (groupBody_legal _ (fun _ _ _ h => formeGroup_legal _ _ _ _ _ _ h)) h

theorem readFault_legal (s : State) (e : LaneEnv) (ls : List LaneEnv) (kind : Nat) (rs : List (Nat × Nat)) (h : Legal s) : Legal (State.readFault s e ls kind rs).1 := by
  unfold State.readFault; grind [BodyLegal, legal_at, fold_legal]

theorem proofwFrom_legal (u : GR2) (e : LaneEnv) (ls : List LaneEnv) (va : Nat) (t : State × Runs × Option (Nat × Nat)) (h : Legal t.1) : Legal (proofwFrom u e ls va t).1 := by
  unfold proofwFrom
  dsimp only
  have hj : ∀ k, Legal (t.1.addJob e k).1 := fun k => addJob_legal _ _ _ h
  split
  · exact readFault_legal _ _ _ _ _ h
  · split
    · dsimp only; exact hj _
    · have h2 := fmFetch_keeps fprim_legal (t.1.asJob e (.proofw va (t.1.formeKey e.wg.part e.wg.ctx e.wg.core va) u.d.toNat u.h)) va t.1 h
      split
      · rename_i heq; rw [heq] at h2; exact giveItem_legal _ _ _ _ _ _ (markBy_legal _ _ _ h2)
      · rename_i heq; rw [heq] at h2; exact giveItem_legal _ _ _ _ _ _ h2
      · rename_i heq; rw [heq] at h2; exact giveItem_legal _ _ _ _ _ _ h2
      · rename_i heq; rw [heq] at h2; exact h2
      · dsimp only; exact hj _

theorem reachRing_legal (s : State) (e : LaneEnv) (va : Nat) (h : Legal s) : Legal (s.translateRuns e.wg.part e.wg.ctx e.wg.core 1 (pageRuns va 8576 4)).1 :=
  translateRuns_legal _ _ _ _ _ _ h

theorem proofwGroup_legal (u : GR2) (s : State) (e : LaneEnv) (ls : List LaneEnv) (h : Legal s) : Legal (proofwGroup u s e ls).1 := by
  rw [proofwGroup]
  split
  · exact h
  · exact proofwFrom_legal _ _ _ _ _ (reachRing_legal _ _ _ h)

theorem prstatFrom_legal (u : GR3) (e : LaneEnv) (ls : List LaneEnv) (va x : Nat) (t : State × Runs × Option (Nat × Nat)) (h : Legal t.1) : Legal (prstatFrom u e ls va x t).1 := by
  unfold prstatFrom; dsimp only
  split
  · exact readFault_legal _ _ _ _ _ h
  · split
    · exact h
    · exact addGPending_legal _ _ _ _ (addJob_legal _ _ _ h)

theorem reachEntry_legal (s : State) (e : LaneEnv) (va x : Nat) (h : Legal s) :
    Legal (s.translateRuns e.wg.part e.wg.ctx e.wg.core 0 (pageRuns va 128 2 ++ pageRuns (va + 128 + 32 * x) 32 2)).1 :=
  translateRuns_legal _ _ _ _ _ _ h

theorem prstatGroup_legal (u : GR3) (s : State) (e : LaneEnv) (ls : List LaneEnv) (h : Legal s) : Legal (prstatGroup u s e ls).1 := by
  rw [prstatGroup]
  split
  · exact h
  · exact prstatFrom_legal _ _ _ _ _ _ (reachEntry_legal _ _ _ _ h)

theorem prstatAct_legal (s0 : State) (j : Job) (va key entry : Nat) (pages : Runs) (h : Legal s0) : Legal (State.prstatAct s0 j va key entry pages) :=
  serveFetches_legal _ _ _ (fold_legal _ _ _ (fun _ _ ht => modThread_legal _ _ _ _ _ ht)
    (endJob_legal _ _ (fold_legal _ _ _ (fun _ _ ht => supplyG_legal _ _ _ _ _ ht) (touchRuns_legal _ _ h))))

theorem ldgBody_legal (z : Bool) (u : LMem) : BodyLegal (ldgBody z u) := by
  intro s es h; unfold ldgBody; grind [BodyLegal, legal_at, fold_legal, globalAccess_legal, loadResult_legal, observeGlobal_legal, touchRequests_legal, zeroRest_legal]

theorem stgBody_legal (u : LMem) : BodyLegal (stgBody u) := by
  intro s es h; unfold stgBody; grind [BodyLegal, legal_at, fold_legal, globalAccess_legal, storeGlobal_legal, touchRequests_legal]

theorem observeScratch_legal (s : State) (e : LaneEnv) (w : Workgroup) (fresh acq : Bool) (d a n : Nat) (h : Legal s) : Legal (State.observeScratch s e w fresh acq d a n) := by
  unfold State.observeScratch; grind [BodyLegal, legal_at, fold_legal, fresh_legal, modLane_legal, observeSpot_legal]

theorem ldsBody_legal (z : Bool) (u : LMem) : BodyLegal (ldsBody z u) := by
  intro s es h; unfold ldsBody; grind [BodyLegal, legal_at, fold_legal, fresh_legal, loadResult_legal, modWg_legal, observeScratch_legal, zeroRest_legal]

theorem stsBody_legal (u : LMem) : BodyLegal (stsBody u) := by
  intro s es h; unfold stsBody; grind [BodyLegal, legal_at, fold_legal, storeScratch_legal]

theorem ldvBody_legal (z : Bool) (u : LMem) : BodyLegal (ldvBody z u) := by
  intro s es h; unfold ldvBody; grind [BodyLegal, legal_at, fold_legal, loadResult_legal, observeVault_legal, zeroRest_legal]

theorem storeVault_legal (s : State) (strong : Nat) (ws : List (LaneEnv × Nat × Nat × List Byte)) (h : Legal s) : Legal (State.storeVault s strong ws) := by
  unfold State.storeVault; grind [BodyLegal, legal_at, fold_legal, logPoison_legal, ownPieces_legal, readyStore_legal, writeVaultCells_legal]

theorem stvBody_legal (u : LMem) : BodyLegal (stvBody u) := by
  intro s es h; unfold stvBody; grind [BodyLegal, legal_at, fold_legal, storeVault_legal]

theorem feBody_legal (full : Bool) (u : LFe) : BodyLegal (feBody full u) := by
  intro s es h; unfold feBody; grind [BodyLegal, legal_at, fold_legal, modWg_legal, wakeFull_legal]

theorem atomicStore_legal (s : State) (x : Access) (strong : Nat) (bs : List Byte) (h : Legal s) : Legal (State.atomicStore s x strong bs) := by
  unfold State.atomicStore; grind [BodyLegal, legal_at, fold_legal, ownPieces_legal, readyStore_legal, storeGlobal_legal]

theorem atomicGlobal_legal (s0 : State) (op : Nat) (w : BitVec 2) (d strong : Nat) (x : Access) (h : Legal s0) : Legal (State.atomicGlobal s0 op w d strong x).1 := by
  have h1 := touchPage_legal s0 x.page x.addr h
  unfold State.atomicGlobal; dsimp only
  generalize s0.touchPage x.page x.addr = s at h1
  split
  · exact h1
  · split
    · exact h1
    · exact atomicStore_legal _ _ _ _ (observeSpot_legal _ _ _ _ _ _ h1)

theorem atomBody_legal (z back : Bool) (op q : Nat) (w : BitVec 2) (d a : Nat) : BodyLegal (atomBody z back op q w d a) := by
  intro s es h; unfold atomBody; grind [BodyLegal, legal_at, fold_legal, atomicGlobal_legal, globalAccess_legal, loadResult_legal, logPoison_legal, zeroRest_legal]

theorem atomsBody_legal (z : Bool) (op : Nat) (w : BitVec 2) (d a : Nat) : BodyLegal (atomsBody z op w d a) := by
  intro s es h; unfold atomsBody; grind [BodyLegal, legal_at, fold_legal, loadResult_legal, observeScratch_legal, storeScratch_legal, zeroRest_legal]

theorem pdRead_legal (s : State) (e : LaneEnv) (ls : List LaneEnv) (a n : Nat) (h : Legal s) :
    (∀ r, pdRead s e ls a n = .error r → Legal r.1) ∧ ∀ r, pdRead s e ls a n = .ok r → Legal r.1 := by
  unfold pdRead
  have h1 := readVirt_legal s e.wg.part e.wg.ctx e.wg.core a n h
  generalize s.readVirt e.wg.part e.wg.ctx e.wg.core a n = r at h1 ⊢
  obtain ⟨s1, r⟩ := r
  split
  · exact ⟨fun r hr => by cases hr; exact h, fun r hr => by cases hr⟩
  · split
    · rename_i heq; cases heq; exact ⟨fun r hr => by cases hr; exact groupFault_legal _ _ _ _ _ h1, fun r hr => by cases hr⟩
    · rename_i heq; cases heq; exact ⟨fun r hr => by cases hr; exact h1, fun r hr => by cases hr⟩
    · rename_i heq; cases heq; exact ⟨fun r hr => (by cases hr), fun r hr => by cases hr; exact h1⟩

theorem pdHead_legal (s : State) (e : LaneEnv) (ls : List LaneEnv) (a : Nat) (h : Legal s) :
    (∀ r, pdRead s e ls a 64 = .error r → Legal r.1) ∧ ∀ r, pdRead s e ls a 64 = .ok r → Legal r.1 := pdRead_legal _ _ _ _ _ h

theorem pdloadFrom_legal (slot : Nat) (e : LaneEnv) (ls : List LaneEnv) (a : Nat) (s : State) (hd : List Byte) (h : Legal s) : Legal (pdloadFrom slot e ls a s hd).1 := by
  rw [pdloadFrom]
  split
  · exact h
  · have h0 := pdRead_legal s e ls a (Paradigm.of (SMap.write [] 0 hd 0)).len h
    split
    · rename_i heq; exact h0.1 _ heq
    · rename_i heq; dsimp only; exact addJob_legal _ _ _ (h0.2 _ heq)

theorem pdloadGroup_legal (u : GPd) (s : State) (e : LaneEnv) (ls : List LaneEnv) (h : Legal s) : Legal (pdloadGroup u s e ls).1 := by
  rw [pdloadGroup]
  split
  · split
    · dsimp only; exact addJob_legal _ _ _ h
    · dsimp only
      exact modResident_legal _ _ _ _ _ h
  · split
    · exact h
    · split
      · rename_i heq; exact (pdHead_legal s e ls _ h).1 _ heq
      · rename_i heq; exact pdloadFrom_legal _ _ _ _ _ _ ((pdHead_legal s e ls _ h).2 _ heq)

theorem dxBody_legal (sh : Shape) (f : LaneEnv → Except Trap LaneOut) : BodyLegal (dxBody sh f) := by
  intro s es h; unfold dxBody; grind [BodyLegal, legal_at, fold_legal, writeLanes_legal]

theorem endGather_legal (s : State) (j : Job) (map status : Nat) (h : Legal s) : Legal (State.endGather s j map status) := by
  unfold State.endGather; grind [BodyLegal, legal_at, fold_legal, endJob_legal, releaseJob_legal, setMapStatus_legal, takeUp_legal, traceDone_legal]

theorem gatherGroup_legal (u : LGather) (s : State) (e : LaneEnv) (ls : List LaneEnv) (h : Legal s) : Legal (gatherGroup u s e ls).1 := by
  unfold gatherGroup; grind [BodyLegal, legal_at, fold_legal, addJob_legal, traceIssue_legal]

theorem laneRead_legal (s : State) (e : LaneEnv) (a n : Nat) (h : Legal s) : Legal (laneRead s e a n).1 := by
  unfold laneRead; grind [BodyLegal, legal_at, fold_legal, readVirt_legal]

theorem rotqLane_legal (s : State) (e : LaneEnv) (u : LRw) (forme j0 : Nat) (bf : Bool) (h : Legal s) : Legal (rotqLane s e u forme j0 bf).1 := by
  unfold rotqLane; grind [BodyLegal, legal_at, fold_legal, laneRead_legal]

theorem rotqGroup_legal (u : LRw) (z : Bool) (s : State) (e : LaneEnv) (ls : List LaneEnv) (h : Legal s) : Legal (rotqGroup u z s e ls).1 := by
  unfold rotqGroup
  dsimp only
  have h0 := zeroRest_legal z u.d.toNat (grp u.w) s ls h
  split
  · exact h0
  · refine fold_legal _ _ _ (fun t x ht => ?_) (fold_legal1 _ _ (_, []) (fun t x ht => rotqLane_legal _ _ _ _ _ _ ht) h0)
    split
    · exact loadResult_legal _ _ _ _ _ ht
    · exact ht

theorem saveImage_legal (s : State) (p c core : Nat) (h : Legal s) : Legal (State.saveImage s p c core) := by
  unfold State.saveImage; grind [BodyLegal, legal_at, fold_legal, writePhys_legal]

theorem loadImage_legal (s : State) (p c core : Nat) (h : Legal s) : Legal (State.loadImage s p c core) := by
  unfold State.loadImage; grind [BodyLegal, legal_at, fold_legal, modResident_legal]

theorem inPlace_legal (s : State) (p c core : Nat) (f : State → State) (hf : ∀ s , Legal s → Legal (f s)) (h : Legal s) : Legal (State.inPlace s p c core f) := by
  unfold State.inPlace; grind [BodyLegal, legal_at, fold_legal, loadImage_legal, saveImage_legal]

theorem actRead_legal (s : State) (j : Job) (h : Legal s) : Legal (State.actRead s j) := by
  unfold State.actRead; grind [BodyLegal, legal_at, fold_legal, mreadAct_legal, mstatAct_legal, prstatAct_legal]

theorem markReturned_legal (s : State) (u : EvResult) (h : Legal s) : Legal (State.markReturned s u) := by
  unfold State.markReturned; grind [BodyLegal, legal_at, fold_legal, modGroup_legal]

theorem readyJob_legal (s : State) (id : Nat) (f : State → Job → State) (hf : ∀ s x0, Legal s → Legal (f s x0)) (h : Legal s) : Legal (State.readyJob s id f) := by
  unfold State.readyJob; grind [BodyLegal, legal_at, fold_legal]

theorem jobInPlace_legal (s : State) (j : Job) (f : State → State) (hf : ∀ s , Legal s → Legal (f s)) (h : Legal s) : Legal (State.jobInPlace s j f) := by
  unfold State.jobInPlace; grind [BodyLegal, legal_at, fold_legal, inPlace_legal]

theorem formeEvent_legal (s : State) (id : Nat) (majors : List Nat) (h : Legal s) : Legal (s.formeEvent id majors) := by
  unfold State.formeEvent
  refine readyJob_legal _ _ _ (fun s j h => ?_) h
  split
  · split
    · rename_i m c cmd bar _ _
      have := formePerform_legal s j m c cmd h
      cases hp : s.formePerform j m c cmd with
      | none => exact h
      | some r => exact this r hp
    · exact h
  · exact h

theorem exitThread_legal (s : State) (wid gi ti : Nat) (h : Legal s) : Legal (State.exitThread s wid gi ti) := by
  unfold State.exitThread; grind [BodyLegal, legal_at, fold_legal, modThread_legal, releaseHeld_legal]

theorem dropReads_legal (s : State) (wid : Nat) (h : Legal s) : Legal (State.dropReads s wid) := by
  unfold State.dropReads; grind [BodyLegal, legal_at, fold_legal, endJob_legal, settleZeros_legal]

theorem endGroups_legal (s : State) (wid : Nat) (h : Legal s) : Legal (State.endGroups s wid) := by
  unfold State.endGroups; grind [BodyLegal, legal_at, fold_legal, modWg_legal]

theorem retire_legal (s : State) (w : Workgroup) (h : Legal s) : Legal (State.retire s w) := by
  unfold State.retire; grind [BodyLegal, legal_at, fold_legal, abandonItems_legal, dropRetired_legal, markDone_legal, modWg_legal, trace_legal, wakePorts_legal]

theorem settleExit_legal (s : State) (wid : Nat) (h : Legal s) : Legal (State.settleExit s wid) := by
  unfold State.settleExit; grind [BodyLegal, legal_at, fold_legal, dropReads_legal, endGroups_legal, retire_legal]

theorem reachQuire_legal (s : State) (w : Workgroup) (q : Nat) (first : Option Trap) (view : View) (h : Legal s) : Legal (State.reachQuire s w q first view).1 := by
  unfold State.reachQuire; grind [BodyLegal, legal_at, fold_legal, quireEntry_legal]

theorem push_legal (s : State) (e : LaneEnv) (ret : Word) (h : Legal s) : Legal (State.push s e ret) := by
  unfold State.push; grind [BodyLegal, legal_at, fold_legal, modLane_legal, storeScratch_legal]

theorem pop_legal (s : State) (e : LaneEnv) (h : Legal s) : Legal (State.pop s e) := by
  unfold State.pop; grind [BodyLegal, legal_at, fold_legal, modLane_legal]

theorem enter_legal (s : State) (e : LaneEnv) (next pc : Word) (push pop ret : Bool) (h : Legal s) : Legal (State.enter s e next pc push pop ret) := by
  unfold State.enter; grind [BodyLegal, legal_at, fold_legal, pop_legal, push_legal, setPc_legal, trapReturn_legal]

theorem move_legal (s : State) (e : LaneEnv) (next : Word) (m : Move) (h : Legal s) : Legal (State.move s e next m).1 := by
  unfold State.move; grind [BodyLegal, legal_at, fold_legal, enter_legal, exitThread_legal, modThread_legal, pop_legal, push_legal, reachQuire_legal]

theorem moves_legal (s : State) (next : Word) (es : List (LaneEnv × Move)) (h : Legal s) : Legal (s.moves next es).1 :=
  fold_legal1 _ _ (s, []) (fun x e hx => move_legal _ _ _ _ hx) h

theorem moveBody_legal (len : Nat) (f : LaneEnv → Move) : BodyLegal (moveBody len f) := by
  intro s es h; unfold moveBody; grind [BodyLegal, legal_at, fold_legal, moves_legal, settleExit_legal]

theorem moveUnit_legal (i : Instr) (f : Word → LaneEnv → Move) (s : State) (h : Legal s) : Legal (moveUnit i f s) := by
  unfold moveUnit; grind [BodyLegal, legal_at, fold_legal, moveBody_legal, runUnit_legal]

theorem callqMove_legal (u : GCallq) (s : State) (e : LaneEnv) (next : Word) (h : Legal s) : Legal (callqMove u s e next).1 := by
  unfold callqMove; grind [BodyLegal, legal_at, fold_legal, move_legal, reachQuire_legal]

theorem modQuire_legal (s : State) (e : LaneEnv) (q : Nat) (f : Quire → Quire) (h : Legal s) : Legal (State.modQuire s e q f) := by
  unfold State.modQuire; grind [BodyLegal, legal_at, fold_legal, modResident_legal]

theorem qloadGroup_legal (u : GQuire) (s : State) (e : LaneEnv) (x_ : List LaneEnv) (h : Legal s) : Legal (qloadGroup u s e x_).1 := by
  unfold qloadGroup; grind [BodyLegal, legal_at, fold_legal]

theorem qpinGroup_legal (u : GQuire) (s : State) (e : LaneEnv) (x_ : List LaneEnv) (h : Legal s) : Legal (qpinGroup u s e x_).1 := by
  unfold qpinGroup; grind [BodyLegal, legal_at, fold_legal, modQuire_legal, setG_legal]

theorem qunpinGroup_legal (u : GQuire) (s : State) (e : LaneEnv) (x_ : List LaneEnv) (h : Legal s) : Legal (qunpinGroup u s e x_).1 := by
  unfold qunpinGroup; grind [BodyLegal, legal_at, fold_legal, modQuire_legal, setG_legal]

theorem sleeptoGroup_legal (u : GA) (s : State) (e : LaneEnv) (ls : List LaneEnv) (h : Legal s) : Legal (sleeptoGroup u s e ls).1 := by
  rw [sleeptoGroup]
  split
  · exact h
  · exact h

theorem readLaunch_legal (s : State) (e : LaneEnv) (va : Nat) (h : Legal s) : Legal (s.readVirt e.wg.part e.wg.ctx e.wg.core va 256).1 :=
  readVirt_legal _ _ _ _ _ _ h

theorem launchGroup_legal (u : GR3) (s : State) (e : LaneEnv) (ls : List LaneEnv) (h : Legal s) : Legal (launchGroup u s e ls).1 := by
  rw [launchGroup]
  split
  · exact h
  · exact addGPending_legal _ _ _ _ (addJob_legal _ _ _ (readLaunch_legal _ _ _ h))

theorem fetchwGroup_legal (u : GAB) (s : State) (e : LaneEnv) (ls : List LaneEnv) (h : Legal s) : Legal (fetchwGroup u s e ls).1 := by
  unfold fetchwGroup; grind [BodyLegal, legal_at, fold_legal, addJob_legal, markDone_legal, modWg_legal]

theorem rootSource_legal (s : State) (e : LaneEnv) (a n : Nat) (h : Legal s) : Legal (State.rootSource s e a n).1 := by
  unfold State.rootSource; grind [BodyLegal, legal_at, fold_legal, readVirt_legal]

theorem rootPut_legal (s : State) (e : LaneEnv) (a : Nat) (bs : List Byte) (h : Legal s) : Legal (State.rootPut s e a bs).1 := by
  unfold State.rootPut; grind [BodyLegal, legal_at, fold_legal, writeVirt_legal]

/-- A root instruction's effect that keeps `Legal`. -/
def RootLegal (f : State → LaneEnv → RootCmd → State × Nat) : Prop := ∀ s e c, Legal s → Legal (f s e c).1

theorem rootGroup_legal (f : State → LaneEnv → RootCmd → State × Nat) (u : GR2) (s : State) (e : LaneEnv) (ls : List LaneEnv) (hf : RootLegal f) (h : Legal s) :
    Legal (rootGroup f u s e ls).1 := by
  unfold rootGroup
  refine laterG_legal _ _ _ _ ?_
  split
  · exact h
  · have h1 := rootSource_legal s e (e.gpair u.a) 32 h
    split
    · rename_i heq; rw [heq] at h1; exact h1
    · rename_i heq; rw [heq] at h1; exact hf _ _ _ h1

theorem rootUnit_legal (i : Instr) (f : State → LaneEnv → RootCmd → State × Nat) (u : GR2) (s : State) (hf : RootLegal f) (h : Legal s) :
    Legal (rootUnit i f u s) := runUnit_legal _ _ _ _ _ _ (groupBody_legal _ (fun _ _ _ h => rootGroup_legal _ _ _ _ _ hf h)) h

theorem modQueue_legal (s : State) (p c q : Nat) (f : Queue → Queue) (h : Legal s) : Legal (State.modQueue s p c q f) := by
  unfold State.modQueue; grind [BodyLegal, legal_at, fold_legal, modContext_legal]

theorem holdRecord_legal (s : State) (p c q k : Nat) (record : List Byte) (start : View) (h : Legal s) : Legal (State.holdRecord s p c q k record start) := by
  unfold State.holdRecord; grind [BodyLegal, legal_at, fold_legal, modContext_legal, modLaunch_legal]

theorem distLog_legal (s : State) (p c addr cause kind : Nat) (h : Legal s) : Legal (State.distLog s p c addr cause kind) := by
  unfold State.distLog; grind [BodyLegal, legal_at, fold_legal, logRecord_legal]

theorem failSilently_legal (s : State) (p c q k status : Nat) (h : Legal s) : Legal (State.failSilently s p c q k status) := by
  unfold State.failSilently; grind [BodyLegal, legal_at, fold_legal, modLaunch_legal]

theorem admitLaunch_legal (s : State) (p c q k : Nat) (l : Launch) (h : Legal s) : Legal (State.admitLaunch s p c q k l) := by
  unfold State.admitLaunch; grind [BodyLegal, legal_at, fold_legal, distLog_legal, endLaunch_legal, failSilently_legal, modContext_legal, modLaunch_legal, translateRuns_legal, writeCrec_legal, writeHeader_legal]

theorem lostRecord_legal (s : State) (p c q k slot cause code : Nat) (h : Legal s) : Legal (State.lostRecord s p c q k slot cause code) :=
  distLog_legal _ _ _ _ _ _ (failSilently_legal _ _ _ _ _ _ (holdRecord_legal _ _ _ _ _ _ _ h))

theorem tookRecord_legal (s : State) (p c q k slot : Nat) (x : Fetched) (h : Legal s) : Legal (State.tookRecord s p c q k slot x) := by
  unfold State.tookRecord
  split
  · exact lostRecord_legal _ _ _ _ _ _ _ _ h
  · exact lostRecord_legal _ _ _ _ _ _ _ _ h
  · dsimp only
    split
    · exact endLaunch_legal _ _ _ _ _ _ _ (holdRecord_legal _ _ _ _ _ _ _ h)
    · exact admitLaunch_legal _ _ _ _ _ _ (holdRecord_legal _ _ _ _ _ _ _ h)
    · exact holdRecord_legal _ _ _ _ _ _ _ h

theorem readRecord_legal (s : State) (p c q : Nat) (h : Legal s) : Legal (State.readRecord s p c q) := by
  unfold State.readRecord
  dsimp only
  split
  · exact h
  · exact tookRecord_legal _ _ _ _ _ _ _ (modQueue_legal _ _ _ _ _ (readVirt_legal _ _ _ _ _ _ h))

theorem launchAt_legal (s : State) (p c q : Nat) (record : List Byte) (status : Nat) (view : View) (h : Legal s) : Legal (State.launchAt s p c q record status view).1 := by
  unfold State.launchAt; grind [BodyLegal, legal_at, fold_legal, holdRecord_legal, modQueue_legal, writeVirt_legal]

theorem readDep_legal (s : State) (p c q k d w : Nat) (h : Legal s) : Legal (State.readDep s p c q k d w) := by
  unfold State.readDep; grind [BodyLegal, legal_at, fold_legal, endLaunch_legal, modLaunch_legal, readVirt_legal]

theorem consider_legal (s : State) (p c : Nat) (l : Launch) (h : Legal s) : Legal (State.consider s p c l) := by
  unfold State.consider; grind [BodyLegal, legal_at, fold_legal, distLog_legal, modLaunch_legal, readDep_legal]

theorem countPlaced_legal (s : State) (p c q k w : Nat) (h : Legal s) : Legal (State.countPlaced s p c q k w) := by
  unfold State.countPlaced; grind [BodyLegal, legal_at, fold_legal, modLaunch_legal, writeCrec_legal]

theorem fillMailbox_legal (s : State) (j : Job) (mailbox status w : Nat) (xyz : Nat × Nat × Nat) (h : Legal s) : Legal (State.fillMailbox s j mailbox status w xyz) := by
  unfold State.fillMailbox; grind [BodyLegal, legal_at, fold_legal, engineScratch_legal, jobWrites_legal]

theorem withdraw_legal (s : State) (j : Job) (l : Launch) (w : Nat) (next : Option View) (h : Legal s) : Legal (State.withdraw s j l w next) := by
  unfold State.withdraw; grind [BodyLegal, legal_at, fold_legal, markDone_legal, modWg_legal]

theorem deliverFetchw_legal (s : State) (j : Job) (mailbox : Nat) (h : Word) (next : Option View) (lg : Legal s) :
    Legal (State.deliverFetchw s j mailbox h next) := by
  unfold State.deliverFetchw
  have hc : ∀ l, Legal (s.consider j.part j.ctx l) := fun l => consider_legal _ _ _ _ lg
  dsimp only
  repeat' split
  all_goals refine fillMailbox_legal _ _ _ _ _ _ ?_
  all_goals first
    | with_reducible exact lg
    | with_reducible exact hc _
    | exact withdraw_legal _ _ _ _ _ (countPlaced_legal _ _ _ _ _ _ (hc _))

theorem releaseUnstarted_legal (s : State) (p c q k : Nat) (h : Legal s) : Legal (State.releaseUnstarted s p c q k) := by
  unfold State.releaseUnstarted; grind [BodyLegal, legal_at, fold_legal, modLaunch_legal]

theorem entryFailed_legal (s : State) (p c q k reason : Nat) (h : Legal s) : Legal (State.entryFailed s p c q k reason) := by
  unfold State.entryFailed; grind [BodyLegal, legal_at, fold_legal, distLog_legal, endLaunch_legal, releaseUnstarted_legal]

theorem trapParked_legal (s : State) (wid q reason addr : Nat) (h : Legal s) : Legal (State.trapParked s wid q reason addr) := by
  unfold State.trapParked; grind [BodyLegal, legal_at, fold_legal, deliverNow_legal, modThread_legal, wakeWaits_legal]

theorem endDeliveries_legal (s : State) (wid q : Nat) (ok : Bool) (h : Legal s) : Legal (State.endDeliveries s wid q ok) := by
  unfold State.endDeliveries; grind [BodyLegal, legal_at, fold_legal, enterHandler_legal, withdrawDelivery_legal]

theorem quireLoaded_legal (s : State) (p c core q : Nat) (h : Legal s) : Legal (State.quireLoaded s p c core q) := by
  unfold State.quireLoaded; grind [BodyLegal, legal_at, fold_legal, endDeliveries_legal, endParks_legal, entryFailed_legal, modResident_legal, readCode_legal, trapParked_legal]

theorem strand_legal (s : State) (w : Workgroup) (q : Nat) (view : View) (h : Legal s) : Legal (State.strand s w q view).1 := by
  unfold State.strand; grind [BodyLegal, legal_at, fold_legal, reachQuire_legal]

theorem strandUnit_legal (s : State) (h : Legal s) : Legal (strandUnit s) := by
  unfold strandUnit; grind [BodyLegal, legal_at, fold_legal, finishUnit_legal, strand_legal]

theorem packScratch_legal (s : State) (p c core : Nat) (h : Legal s) : Legal (State.packScratch s p c core) :=
  fold_legal1 _ _ (s, 0) (fun _ _ hx => modWg_legal _ _ _ hx) h

theorem addWg_legal (s : State) (w : Workgroup) (h : Legal s) : Legal (State.addWg s w) := by
  unfold State.addWg; grind [BodyLegal, legal_at, fold_legal, packScratch_legal]

theorem takeTurn_legal (s : State) (p c : Nat) (l : Launch) (turn : Nat) (h : Legal s) : Legal (State.takeTurn s p c l turn) := by
  unfold State.takeTurn; grind [BodyLegal, legal_at, fold_legal, modPart_legal]

theorem placeOne_legal (s : State) (p c q k : Nat) (placed : List (Nat × Site)) (w : Nat) (x : Site) (h : Legal s) : Legal (State.placeOne s p c q k placed w x) := by
  unfold State.placeOne; grind [BodyLegal, legal_at, fold_legal, addWg_legal, countPlaced_legal, modResident_legal, trace_legal]

theorem loadQuire_legal (s : State) (p c core q : Nat) (view : View) (h : Legal s) : Legal (State.loadQuire s p c core q view).1 := by
  unfold State.loadQuire; grind [BodyLegal, legal_at, fold_legal, requestLoad_legal, startLoad_legal]

theorem requestEntry_legal (s : State) (w : Workgroup) (h : Legal s) : Legal (State.requestEntry s w) := by
  unfold State.requestEntry; grind [BodyLegal, legal_at, fold_legal, entryFailed_legal, loadQuire_legal]

theorem placeNone_legal (s : State) (p c : Nat) (l : Launch) (h : Legal s) : Legal (State.placeNone s p c l) := by
  unfold State.placeNone; grind [BodyLegal, legal_at, fold_legal, consider_legal, takeTurn_legal]

theorem startWg_legal (s : State) (w : Workgroup) (h : Legal s) : Legal (State.startWg s w) := by
  unfold State.startWg; grind [BodyLegal, legal_at, fold_legal, enterQuire_legal, modWg_legal, requestEntry_legal]

theorem setWithdrawn_legal (s : State) (j : Job) (b : Bool) (h : Legal s) : Legal (State.setWithdrawn s j b) := by
  unfold State.setWithdrawn; grind [BodyLegal, legal_at, fold_legal]

theorem withdrawGathers_legal (s : State) (p c core : Nat) (h : Legal s) : Legal (State.withdrawGathers s p c core) := by
  unfold State.withdrawGathers; grind [BodyLegal, legal_at, fold_legal, setWithdrawn_legal]

theorem withdrawOn_legal (s : State) (p c core : Nat) (h : Legal s) : Legal (State.withdrawOn s p c core) := by
  unfold State.withdrawOn; grind [BodyLegal, legal_at, fold_legal, endParks_legal, withdrawFetches_legal, withdrawGathers_legal]

theorem zeroAges_legal (s : State) (p c core : Nat) (h : Legal s) : Legal (State.zeroAges s p c core) := by
  unfold State.zeroAges; grind [BodyLegal, legal_at, fold_legal]

theorem landOn_legal (s : State) (p c core : Nat) (h : Legal s) : Legal (State.landOn s p c core) := by
  unfold State.landOn; grind [BodyLegal, legal_at, fold_legal]

theorem traceSwitch_legal (s : State) (p c core on : Nat) (h : Legal s) : Legal (State.traceSwitch s p c core on) := by
  unfold State.traceSwitch; grind [BodyLegal, legal_at, fold_legal, trace_legal]

theorem dropTlb_legal (s : State) (p c core : Nat) (h : Legal s) : Legal (State.dropTlb s p c core) := by
  unfold State.dropTlb; grind [BodyLegal, legal_at, fold_legal]

theorem modThreads_legal (s : State) (p c core : Nat) (f : Thread → Thread) (h : Legal s) : Legal (State.modThreads s p c core f) := by
  unfold State.modThreads; grind [BodyLegal, legal_at, fold_legal]

theorem saveRelease_legal (s : State) (p c core : Nat) (h : Legal s) : Legal (State.saveRelease s p c core) := by
  unfold State.saveRelease; grind [BodyLegal, legal_at, fold_legal, modThreads_legal, withLedger_legal]

theorem leave_legal (s : State) (core : Nat) (h : Legal s) : Legal (State.leave s core) := by
  unfold State.leave; grind [BodyLegal, legal_at, fold_legal, dropTlb_legal, landOn_legal, modResident_legal, saveRelease_legal, traceSwitch_legal, withdrawOn_legal, zeroAges_legal]

theorem resumeAcquire_legal (s : State) (p c core : Nat) (h : Legal s) : Legal (State.resumeAcquire s p c core) := by
  unfold State.resumeAcquire; grind [BodyLegal, legal_at, fold_legal, modThreads_legal]

theorem activate_legal (s : State) (p c core : Nat) (h : Legal s) : Legal (State.activate s p c core) := by
  unfold State.activate; grind [BodyLegal, legal_at, fold_legal, modResident_legal, resumeAcquire_legal, traceSwitch_legal]

theorem swapIn_legal (s : State) (p c core : Nat) (h : Legal s) : Legal (State.swapIn s p c core) := by
  unfold State.swapIn; grind [BodyLegal, legal_at, fold_legal, activate_legal, leave_legal, modResident_legal]

theorem withIdle_legal (s : State) (p c : Nat) (h : Legal s) : Legal (State.withIdle s p c) := by
  unfold State.withIdle; grind [BodyLegal, legal_at, fold_legal, swapIn_legal]

theorem freeQuires_legal (s : State) (p c core : Nat) (h : Legal s) : Legal (State.freeQuires s p c core) := by
  unfold State.freeQuires; grind [BodyLegal, legal_at, fold_legal, modResident_legal]

theorem moveVault_legal (s : State) (w : Workgroup) (core base : Nat) (h : Legal s) : Legal (s.moveVault w core base) :=
  ⟨h.mem, wf_write _ _ (wf_filter _ h.vault), h.library, h.clock, h.mrs⟩

theorem moveWg_legal (s : State) (w : Workgroup) (core : Nat) (h : Legal s) : Legal (State.moveWg s w core) := by
  unfold State.moveWg; grind [BodyLegal, legal_at, fold_legal, moveVault_legal]

theorem reloadQuires_legal (s : State) (p c core : Nat) (h : Legal s) : Legal (State.reloadQuires s p c core) := by
  unfold State.reloadQuires; grind [BodyLegal, legal_at, fold_legal, loadQuire_legal, modResident_legal, quireEntry_legal]

theorem settleParks_legal (s : State) (p c core : Nat) (h : Legal s) : Legal (State.settleParks s p c core) := by
  unfold State.settleParks; grind [BodyLegal, legal_at, fold_legal, endParksWith_legal, wakeFull_legal]

theorem restoreOne_legal (s : State) (p c image core : Nat) (h : Legal s) : Legal (State.restoreOne s p c image core) := by
  unfold State.restoreOne; grind [BodyLegal, legal_at, fold_legal, leave_legal, loadImage_legal, moveWg_legal, reloadQuires_legal, resumeAcquire_legal, settleParks_legal, traceSwitch_legal, wakePorts_legal, zeroAges_legal]

theorem messagePf_legal (s : State) (vector : Nat) (h : Legal s) : Legal (State.messagePf s vector) := by
  unfold State.messagePf; grind [BodyLegal, legal_at, fold_legal, message_legal]

theorem setupPart_legal (s : State) (p : Nat) (h : Legal s) : Legal (State.setupPart s p) := by
  unfold State.setupPart; grind [BodyLegal, legal_at, fold_legal, messagePf_legal, modPart_legal]

theorem clearPart_legal (s : State) (p : Nat) (h : Legal s) : Legal (s.clearPart p) :=
  ⟨wf_filter _ h.mem, wf_filter _ h.vault, h.library, h.clock, h.mrs⟩

theorem teardownPart_legal (s : State) (p : Nat) (h : Legal s) : Legal (State.teardownPart s p) := by
  unfold State.teardownPart; grind [BodyLegal, legal_at, fold_legal, clearPart_legal, messagePf_legal, modPart_legal]

theorem hostOrders_legal (s : State) (h : Legal s) : Legal (State.hostOrders s) := by
  unfold State.hostOrders; grind [BodyLegal, legal_at, fold_legal]

theorem createCtx_legal (s : State) (p c : Nat) (h : Legal s) : Legal (State.createCtx s p c) := by
  unfold State.createCtx; grind [BodyLegal, legal_at, fold_legal, hostOrders_legal, modContext_legal]

theorem teardownCtx_legal (s : State) (p c : Nat) (h : Legal s) : Legal (State.teardownCtx s p c) := by
  unfold State.teardownCtx; grind [BodyLegal, legal_at, fold_legal, endLaunch_legal, modContext_legal, withdrawFetches_legal]

theorem closeCtx_legal (s : State) (p c : Nat) (h : Legal s) : Legal (State.closeCtx s p c) := by
  unfold State.closeCtx; grind [BodyLegal, legal_at, fold_legal, modContext_legal, retire_legal, serveFetches_legal]

theorem writeQtail_legal (s : State) (p c q : Nat) (v : Word) (h : Legal s) : Legal (State.writeQtail s p c q v) := by
  unfold State.writeQtail; grind [BodyLegal, legal_at, fold_legal, distLog_legal, hostOrders_legal, modQueue_legal]

theorem writeQueueWord_legal (s : State) (p c q off : Nat) (v : Word) (h : Legal s) : Legal (State.writeQueueWord s p c q off v) := by
  unfold State.writeQueueWord; grind [BodyLegal, legal_at, fold_legal, modQueue_legal]

theorem writeFqhead_legal (s : State) (p c : Nat) (v : Word) (h : Legal s) : Legal (State.writeFqhead s p c v) := by
  unfold State.writeFqhead; grind [BodyLegal, legal_at, fold_legal, flushMisses_legal, modContext_legal]

theorem whereHeld_legal (s : State) (p c : Nat) (f : State → State) (h : Legal s) (hf : ∀ t, Legal t → Legal (f t)) : Legal (State.whereHeld s p c f) := by
  unfold State.whereHeld; grind [BodyLegal, legal_at, fold_legal, loadImage_legal, saveImage_legal]

theorem fresume_legal (s : State) (p c seq : Nat) (h : Legal s) : Legal (State.fresume s p c seq) := by
  unfold State.fresume; grind [BodyLegal, legal_at, fold_legal, endParks_legal, whereHeld_legal]

theorem fabort_legal (s : State) (p c seq : Nat) (h : Legal s) : Legal (State.fabort s p c seq) := by
  unfold State.fabort; grind [BodyLegal, legal_at, fold_legal, endLaunch_legal, modWg_legal, whereHeld_legal, withdrawFetches_legal]

theorem writeFresume_legal (s : State) (p c : Nat) (v : Word) (h : Legal s) : Legal (State.writeFresume s p c v) := by
  unfold State.writeFresume; grind [BodyLegal, legal_at, fold_legal, fabort_legal, fresume_legal, hostOrders_legal, modContext_legal]

theorem startInvalidate_legal (s : State) (p c : Nat) (h : Legal s) : Legal (State.startInvalidate s p c) := by
  unfold State.startInvalidate; grind [BodyLegal, legal_at, fold_legal, hostOrders_legal, modContext_legal]

theorem halt_legal (s : State) (p c : Nat) (h : Legal s) : Legal (State.halt s p c) := by
  unfold State.halt; grind [BodyLegal, legal_at, fold_legal, modContext_legal, modWg_legal, withdrawFetches_legal]

theorem resumeAll_legal (s : State) (p c : Nat) (h : Legal s) : Legal (State.resumeAll s p c) := by
  unfold State.resumeAll; grind [BodyLegal, legal_at, fold_legal, modContext_legal, modWg_legal]

theorem stepOne_legal (s : State) (p c : Nat) (h : Legal s) : Legal (State.stepOne s p c) := by
  unfold State.stepOne; grind [BodyLegal, legal_at, fold_legal, modContext_legal, modGroup_legal]

theorem settleStep_legal (s : State) (i : IssueSet) (h : Legal s) : Legal (State.settleStep s i) := by
  unfold State.settleStep; grind [BodyLegal, legal_at, fold_legal, modContext_legal, modThread_legal, modWg_legal, withdrawFetches_legal]

theorem drWrite_legal (s : State) (p c : Nat) (v : Word) (h : Legal s) : Legal (State.drWrite s p c v) := by
  unfold State.drWrite; grind [BodyLegal, legal_at, fold_legal, modGroup_legal, modThread_legal, setPc_legal]

theorem writeDrdata_legal (s : State) (p c : Nat) (v : Word) (h : Legal s) : Legal (State.writeDrdata s p c v) := by
  unfold State.writeDrdata; grind [BodyLegal, legal_at, fold_legal, drWrite_legal, inPlace_legal]

theorem traceAll_legal (s : State) (event detail : Nat) (h : Legal s) : Legal (State.traceAll s event detail) := by
  unfold State.traceAll; grind [BodyLegal, legal_at, fold_legal, trace_legal]

theorem changeClock_legal (s : State) (mhz : Nat) (h : Legal s) : Legal (s.changeClock mhz) := by
  unfold State.changeClock
  split
  · rename_i hc
    have h1 := traceAll_legal s 7 mhz h
    refine ⟨h1.mem, h1.vault, h1.library, ?_, h1.mrs⟩
    have := h.clock
    unfold ClockLegal at this ⊢
    dsimp only
    omega
  · exact h

theorem stepTime_legal (s : State) (upto : Nat) (h : Legal s) : Legal (State.stepTime s upto) := by
  unfold State.stepTime; grind [BodyLegal, legal_at, fold_legal, messagePf_legal, traceAll_legal]

theorem servoStep_legal (s : State) (by_ : Nat) (h : Legal s) : Legal (State.servoStep s by_) := by
  unfold State.servoStep; grind [BodyLegal, legal_at, fold_legal, stepTime_legal]

theorem setDiverged_legal (s : State) (d : Bool) (h : Legal s) : Legal (State.setDiverged s d) := by
  unfold State.setDiverged; grind [BodyLegal, legal_at, fold_legal, messagePf_legal]

theorem servoTo_legal (s : State) (offset : Int) (h : Legal s) : Legal (State.servoTo s offset) := by
  unfold State.servoTo; grind [BodyLegal, legal_at, fold_legal, servoStep_legal, setDiverged_legal]

theorem servoMessage_legal (s : State) (offset : Int) (h : Legal s) : Legal (State.servoMessage s offset) := by
  unfold State.servoMessage; grind [BodyLegal, legal_at, fold_legal, servoTo_legal]

theorem requestStep_legal (s : State) (count : Nat) (h : Legal s) : Legal (State.requestStep s count) := by
  unfold State.requestStep; grind [BodyLegal, legal_at, fold_legal, stepTime_legal]

theorem writeStepto_legal (s : State) (v : DWord) (h : Legal s) : Legal (State.writeStepto s v) := by
  unfold State.writeStepto; grind [BodyLegal, legal_at, fold_legal, requestStep_legal]

theorem ppsEdge_legal (s : State) (h : Legal s) : Legal (State.ppsEdge s) := by
  unfold State.ppsEdge; grind [BodyLegal, legal_at, fold_legal, requestStep_legal, servoTo_legal]

theorem ppsRise_legal (s : State) (h : Legal s) : Legal (State.ppsRise s) := by
  unfold State.ppsRise; grind [BodyLegal, legal_at, fold_legal]

theorem setRstate_legal (s : State) (x : BootState) (h : Legal s) : Legal (State.setRstate s x) := by
  unfold State.setRstate; grind [BodyLegal, legal_at, fold_legal, messagePf_legal]

theorem measure_legal (s : State) (i : Nat) (bs : List Byte) (hi : i < 5 ∨ 7 < i) (h : Legal s) : Legal (s.measure i bs) := by
  refine ⟨h.mem, h.vault, h.library, h.clock, ?_⟩
  intro k h5 h7
  have := h.mrs k h5 h7
  unfold State.measure
  dsimp only
  have hk : i ≠ k := by omega
  simpa [List.getElem?_modify, hk] using this

theorem startRoot_legal (s : State) (h : Legal s) : Legal (State.startRoot s) := by
  unfold State.startRoot; grind [BodyLegal, legal_at, fold_legal, modContext_legal]

theorem powerOn_legal (s : State) (h : Legal s) : Legal s.powerOn := by
  unfold State.powerOn
  dsimp only
  have h0 := measure_legal s 0 Config.rom (Or.inl (by decide)) h
  have h1 := measure_legal (s.measure 0 Config.rom) 1 (payloadOf (s.flash.getD Config.factoryImage)) (Or.inl (by decide)) h0
  generalize hp : payloadOf (s.flash.getD Config.factoryImage) = p at h1 ⊢
  have h2 := measure_legal _ 2 Config.fuses (Or.inl (by decide)) h1
  have h3 := measure_legal _ 3 Config.selfTestRecord (Or.inl (by decide)) h2
  repeat' split
  · exact h
  · exact setRstate_legal _ _ h0
  · revert h3
    generalize State.measure _ 3 Config.selfTestRecord = x
    intro h3
    exact ⟨h3.mem, h3.vault, h3.library, h3.clock, h3.mrs⟩
  · exact setRstate_legal _ _ (startRoot_legal _ (measure_legal _ 4 _ (Or.inl (by decide)) h3))

theorem install_legal (s : State) (h : Legal s) : Legal (State.install s) := by
  unfold State.install; grind [BodyLegal, legal_at, fold_legal, setRstate_legal]

theorem verifyFailed_legal (s : State) (code : BitVec 8) (h : Legal s) : Legal (State.verifyFailed s code) := by
  unfold State.verifyFailed; grind [BodyLegal, legal_at, fold_legal, setRstate_legal]

theorem reset_legal_at : Legal State.reset := ⟨rfl, rfl, ⟨by decide, by decide⟩, Or.inl rfl, by intro i h5 h7; match i, h5, h7 with | 5, _, _ => rfl | 6, _, _ => rfl | 7, _, _ => rfl⟩

theorem imageVerified_legal (s : State) (h : Legal s) : Legal s.imageVerified := by
  unfold State.imageVerified
  dsimp only
  repeat' split
  · exact h
  · exact verifyFailed_legal _ _ h
  · exact verifyFailed_legal _ _ h
  · exact verifyFailed_legal _ _ h
  · exact ⟨reset_legal_at.mem, reset_legal_at.vault, reset_legal_at.library, reset_legal_at.clock, reset_legal_at.mrs⟩

theorem dropContext_legal (s : State) (p c : Nat) (h : Legal s) : Legal (State.dropContext s p c) := by
  unfold State.dropContext; grind [BodyLegal, legal_at, fold_legal, closeCtx_legal, teardownCtx_legal]

theorem enterRecovery_legal (s : State) (h : Legal s) : Legal (State.enterRecovery s) := by
  unfold State.enterRecovery; grind [BodyLegal, legal_at, fold_legal, dropContext_legal, setRstate_legal, teardownPart_legal]

theorem writeLibbase_legal (s : State) (x : DWord) (h : Legal s) : Legal (State.writeLibbase s x) := by
  unfold State.writeLibbase; grind [BodyLegal, legal_at, fold_legal]

theorem writeLibsize_legal (s : State) (n : Nat) (h : Legal s) : Legal (State.writeLibsize s n) := by
  unfold State.writeLibsize; grind [BodyLegal, legal_at, fold_legal]

theorem reply_legal (s : State) (r : Reply) (h : Legal s) : Legal (State.reply s r) := by
  unfold State.reply; grind [BodyLegal, legal_at, fold_legal]

theorem outsideSees_legal (s : State) (who : Agent) (v : View) (h : Legal s) : Legal (State.outsideSees s who v) := by
  unfold State.outsideSees; grind [BodyLegal, legal_at, fold_legal]

theorem readOutside_legal (s : State) (who : Agent) (runs : List (Nat × Nat × Page)) (h : Legal s) : Legal (State.readOutside s who runs).1 := by
  unfold State.readOutside; grind [BodyLegal, legal_at, fold_legal, outsideSees_legal]

theorem writeOutside_legal (s : State) (who : Agent) (rel : View) (a : Nat) (data : List Byte) (runs : List (Nat × Nat × Page)) (h : Legal s) :
    Legal (State.writeOutside s who rel a data runs).1 := by
  unfold State.writeOutside
  extract_lets r mine
  have hr : Legal r.1 := fold_legal1 _ _ (s, []) (fun x q hx => writeCells_legal _ _ _ hx) h
  exact outsideSees_legal _ _ _ ((legal_at _).mpr ((legal_at r.1).mp hr))

theorem pfAperture_legal (s : State) (u : EvAper) (h : Legal s) : Legal (State.pfAperture s u) := by
  unfold State.pfAperture; grind [BodyLegal, legal_at, fold_legal, readOutside_legal, reply_legal, writeOutside_legal]

theorem apertureFault_legal (s : State) (p c addr cause : Nat) (h : Legal s) : Legal (State.apertureFault s p c addr cause) := by
  unfold State.apertureFault; grind [BodyLegal, legal_at, fold_legal, logRecord_legal, reply_legal]

theorem apertureWrite_legal (s : State) (who : Agent) (rel : View) (p c a : Nat) (data : List Byte) (runs : List (Nat × Nat × Page)) (h : Legal s) : Legal (State.apertureWrite s who rel p c a data runs) := by
  unfold State.apertureWrite; grind [BodyLegal, legal_at, fold_legal, logRecord_legal, writeOutside_legal]

theorem meetBlock_legal (s : State) (b : Nat) (hint : BitVec 2) (h : Legal s) : Legal (State.meetBlock s b hint) := by
  unfold State.meetBlock; grind [BodyLegal, legal_at, fold_legal, fresh_legal]

theorem meetRuns_legal (s : State) (runs : List (Nat × Nat × Page)) (h : Legal s) : Legal (State.meetRuns s runs) := by
  unfold State.meetRuns; grind [BodyLegal, legal_at, fold_legal, meetBlock_legal]

theorem apertureAccess_legal (s : State) (p c : Nat) (u : EvAper) (a n : Nat) (h : Legal s) : Legal (State.apertureAccess s p c u a n) := by
  unfold State.apertureAccess; grind [BodyLegal, legal_at, fold_legal, apertureFault_legal, apertureWrite_legal, meetRuns_legal, readOutside_legal, reply_legal, translateRuns_legal]

theorem vfAperture_legal (s : State) (u : EvAper) (h : Legal s) : Legal (State.vfAperture s u) := by
  unfold State.vfAperture; grind [BodyLegal, legal_at, fold_legal, apertureAccess_legal, reply_legal]

theorem writeDescriptor_legal (s : State) (p off : Nat) (v : Word) (h : Legal s) : Legal (State.writeDescriptor s p off v) := by
  unfold State.writeDescriptor; grind [BodyLegal, legal_at, fold_legal, modPart_legal, setupPart_legal, teardownPart_legal]

theorem writeMigration_legal (s : State) (st off : Nat) (v : Word) (h : Legal s) : Legal (State.writeMigration s st off v) := by
  unfold State.writeMigration; grind [BodyLegal, legal_at, fold_legal, demote_legal, modMigration_legal, promote_legal]

theorem writeRcmd_legal (s : State) (v : BitVec 2) (h : Legal s) : Legal (State.writeRcmd s v) := by
  unfold State.writeRcmd; grind [BodyLegal, legal_at, fold_legal, enterRecovery_legal, install_legal]

theorem ite_legal {c : Prop} [Decidable c] {a b : State} (ha : Legal a) (hb : Legal b) : Legal (if c then a else b) := by
  split
  · exact ha
  · exact hb

theorem writeLibstack_legal (s : State) (x : BitVec 3) (h : Legal s) : Legal (State.writeLibstack s x) := by
  unfold State.writeLibstack; grind [BodyLegal, legal_at, fold_legal]

theorem writePfWord_legal (s : State) (off : Nat) (v : Word) (h : Legal s) : Legal (s.writePfWord off v) := by
  unfold State.writePfWord
  repeat' (with_reducible refine ite_legal ?_ ?_)
  all_goals first
    | exact h
    | exact writeDescriptor_legal _ _ _ _ h
    | exact writeLibbase_legal _ _ h
    | exact writeLibsize_legal _ _ h
    | exact writeLibstack_legal _ _ h
    | exact writeMigration_legal _ _ _ _ h
    | exact writeStepto_legal _ _ h
    | exact writeRcmd_legal _ _ h
    | exact (legal_at _).mpr ((legal_at s).mp h)

theorem writeTaken_legal (s : State) (p c : Nat) (f : Context → Context) (h : Legal s) : Legal (State.writeTaken s p c f) := by
  unfold State.writeTaken; grind [BodyLegal, legal_at, fold_legal, modContext_legal]

theorem writeLive_legal (s : State) (p c : Nat) (f : Context → Context) (h : Legal s) : Legal (State.writeLive s p c f) := by
  unfold State.writeLive; grind [BodyLegal, legal_at, fold_legal, modContext_legal]

theorem writeCmd_legal (s : State) (p c : Nat) (v : BitVec 2) (h : Legal s) : Legal (State.writeCmd s p c v) := by
  unfold State.writeCmd; grind [BodyLegal, legal_at, fold_legal, createCtx_legal, modContext_legal, teardownCtx_legal]

theorem writeTrace_legal (s : State) (p c : Nat) (v : Word) (h : Legal s) : Legal (State.writeTrace s p c v) := by
  unfold State.writeTrace; grind [BodyLegal, legal_at, fold_legal, modContext_legal]

theorem writeDebugCmd_legal (s : State) (p c : Nat) (v : BitVec 2) (h : Legal s) : Legal (State.writeDebugCmd s p c v) := by
  unfold State.writeDebugCmd; grind [BodyLegal, legal_at, fold_legal, halt_legal, modContext_legal, resumeAll_legal, stepOne_legal]

theorem writeDebug_legal (s : State) (p c off : Nat) (v : Word) (h : Legal s) : Legal (State.writeDebug s p c off v) := by
  unfold State.writeDebug; grind [BodyLegal, legal_at, fold_legal, writeDebugCmd_legal, writeDrdata_legal, writeLive_legal]

theorem writeQueue_legal (s : State) (p c q off : Nat) (v : Word) (h : Legal s) : Legal (State.writeQueue s p c q off v) := by
  unfold State.writeQueue; grind [BodyLegal, legal_at, fold_legal, writeQtail_legal, writeQueueWord_legal]

theorem writeWindow_legal (s : State) (p c off : Nat) (v : Word) (h : Legal s) : Legal (State.writeWindow s p c off v) := by
  unfold State.writeWindow; grind [BodyLegal, legal_at, fold_legal, modContext_legal, startInvalidate_legal, writeCmd_legal, writeDebug_legal, writeFqhead_legal, writeFresume_legal, writeLive_legal, writeQueue_legal, writeTaken_legal, writeTrace_legal]

theorem writeVfControl_legal (s : State) (v off : Nat) (x : Word) (h : Legal s) : Legal (State.writeVfControl s v off x) := by
  unfold State.writeVfControl; grind [BodyLegal, legal_at, fold_legal]

theorem writeConfigSpace_legal (s : State) (fn off : Nat) (v : Word) (h : Legal s) : Legal (State.writeConfigSpace s fn off v) := by
  unfold State.writeConfigSpace; grind [BodyLegal, legal_at, fold_legal]

theorem writeWord_legal (s : State) (fn bar off : Nat) (v : Word) (h : Legal s) : ∀ t, s.writeWord fn bar off v = some t → Legal t := by
  intro t ht
  unfold State.writeWord at ht
  cases hp : s.partOfVf (fn - 1) with
  | none => rw [hp] at ht; simp only [Option.map_none] at ht; grind [writeConfigSpace_legal, writePfWord_legal, writeVfControl_legal]
  | some p => rw [hp] at ht; simp only [Option.map_some] at ht; grind [writeConfigSpace_legal, writePfWord_legal, writeWindow_legal, writeVfControl_legal]

theorem writeWords_legal (fn bar : Nat) (ws : List (Nat × Word)) (o : Option State) (h : ∀ t, o = some t → Legal t) :
    ∀ t, ws.foldl (fun (o : Option State) w => o.bind (fun (s : State) => s.writeWord fn bar w.1 w.2)) o = some t → Legal t := by
  induction ws generalizing o with
  | nil => exact h
  | cons w ws ih =>
    refine ih _ (fun t ht => ?_)
    cases o with
    | none => simp at ht
    | some s => exact writeWord_legal s _ _ _ _ (h s rfl) t ht

theorem registerWrite_legal (s : State) (u : EvReg) (h : Legal s) : Legal (s.registerWrite u) := by
  unfold State.registerWrite
  have hw := writeWords_legal u.fn u.bar (wordsOfWrite u.off u.size u.value) (some s) (fun t ht => by cases ht; exact h)
  repeat' split
  · exact reply_legal _ _ h
  · exact writeLibsize_legal _ _ h
  · exact writeLibbase_legal _ _ h
  · exact writeStepto_legal _ _ h
  · rename_i heq; exact hw _ heq
  · exact reply_legal _ _ h

theorem setSpdm_legal (s : State) (fn : Nat) (x : Spdm) (h : Legal s) : Legal (State.setSpdm s fn x) := by
  unfold State.setSpdm; grind [BodyLegal, legal_at, fold_legal]

theorem setHeard_legal (s : State) (fn : Nat) (h : Heard) (lg : Legal s) : Legal (State.setHeard s fn h) := by
  unfold State.setHeard; grind [BodyLegal, legal_at, fold_legal]

theorem respond_legal (s : State) (fn : Nat) (bs : List Byte) (h : Legal s) : Legal (State.respond s fn bs) := by
  unfold State.respond; grind [BodyLegal, legal_at, fold_legal, reply_legal]

theorem spdmError_legal (s : State) (fn code : Nat) (h : Legal s) : Legal (State.spdmError s fn code) := by
  unfold State.spdmError; grind [BodyLegal, legal_at, fold_legal, respond_legal]

theorem spdmGuard_legal (s : State) (u : EvSpdm) (inOrder fields : Bool) (answer : State → State) (hanswer : ∀ s , Legal s → Legal (answer s)) (h : Legal s) : Legal (State.spdmGuard s u inOrder fields answer) := by
  unfold State.spdmGuard; grind [BodyLegal, legal_at, fold_legal, spdmError_legal]

theorem opens_legal (s : State) (u : EvSpdm) (next : Spdm) (h : Heard) (resp : List Byte) (lg : Legal s) : Legal (State.opens s u next h resp) := by
  unfold State.opens; grind [BodyLegal, legal_at, fold_legal, respond_legal, setHeard_legal, setSpdm_legal]

theorem getVersion_legal (s : State) (u : EvSpdm) (h : Legal s) : Legal (State.getVersion s u) := by
  unfold State.getVersion; grind [BodyLegal, legal_at, fold_legal, opens_legal, spdmError_legal]

theorem getCapabilities_legal (s : State) (u : EvSpdm) (h : Legal s) : Legal (State.getCapabilities s u) := by
  unfold State.getCapabilities; grind [BodyLegal, legal_at, fold_legal, opens_legal, spdmGuard_legal]

theorem negotiate_legal (s : State) (u : EvSpdm) (h : Legal s) : Legal (State.negotiate s u) := by
  unfold State.negotiate; grind [BodyLegal, legal_at, fold_legal, opens_legal, spdmGuard_legal]

theorem tells_legal (s : State) (u : EvSpdm) (resp : List Byte) (h : Legal s) : Legal (State.tells s u resp) := by
  unfold State.tells; grind [BodyLegal, legal_at, fold_legal, respond_legal, setHeard_legal]

theorem getDigests_legal (s : State) (u : EvSpdm) (h : Legal s) : Legal (State.getDigests s u) := by
  unfold State.getDigests; grind [BodyLegal, legal_at, fold_legal, spdmGuard_legal, tells_legal]

theorem getCertificate_legal (s : State) (u : EvSpdm) (h : Legal s) : Legal (State.getCertificate s u) := by
  unfold State.getCertificate; grind [BodyLegal, legal_at, fold_legal, spdmGuard_legal, tells_legal]

theorem challenge_legal (s : State) (u : EvSpdm) (h : Legal s) : Legal (State.challenge s u) := by
  unfold State.challenge; grind [BodyLegal, legal_at, fold_legal, respond_legal, setHeard_legal, spdmGuard_legal]

theorem getMeasurements_legal (s : State) (u : EvSpdm) (h : Legal s) : Legal (State.getMeasurements s u) := by
  unfold State.getMeasurements; grind [BodyLegal, legal_at, fold_legal, respond_legal, setHeard_legal, spdmGuard_legal]

theorem spdmOther_legal (s : State) (u : EvSpdm) (h : Legal s) : Legal (State.spdmOther s u) := by
  unfold State.spdmOther; grind [BodyLegal, legal_at, fold_legal, spdmError_legal]

theorem poisonLink_legal (s : State) (n : Nat) (h : Legal s) : Legal (State.poisonLink s n) := by
  unfold State.poisonLink; grind [BodyLegal, legal_at, fold_legal]

theorem loseStores_legal (s : State) (n : Nat) (h : Legal s) : Legal (State.loseStores s n) := by
  unfold State.loseStores; grind [BodyLegal, legal_at, fold_legal, logRecord_legal]

theorem peerAtomic_legal (s : State) (u : EvPeer) (g : Page) (op : Nat) (h : Legal s) : Legal (State.peerAtomic s u g op) := by
  unfold State.peerAtomic; grind [BodyLegal, legal_at, fold_legal, outsideSees_legal, reply_legal, writePage_legal]

theorem touchPeer_legal (s : State) (runs : List (Nat × Nat × Page)) (h : Legal s) : Legal (State.touchPeer s runs) := by
  unfold State.touchPeer; grind [BodyLegal, legal_at, fold_legal, touchPage_legal]

theorem peerAccess_legal (s : State) (u : EvPeer) (h : Legal s) : Legal (State.peerAccess s u) := by
  unfold State.peerAccess; grind [BodyLegal, legal_at, fold_legal, apertureWrite_legal, peerAtomic_legal, readOutside_legal, reply_legal, touchPeer_legal, translateRuns_legal]

theorem ageOthers_legal (s : State) (i : IssueSet) (h : Legal s) : Legal (State.ageOthers s i) := by
  unfold State.ageOthers; grind [BodyLegal, legal_at, fold_legal]

theorem endYields_legal (s : State) (wid : Nat) (h : Legal s) : Legal (State.endYields s wid) := by
  unfold State.endYields; grind [BodyLegal, legal_at, fold_legal]

theorem beginUnit_legal (s : State) (i : IssueSet) (h : Legal s) : Legal (State.beginUnit s i) := by
  unfold State.beginUnit; grind [BodyLegal, legal_at, fold_legal, ageOthers_legal, endYields_legal]

theorem upset_legal (s : State) (h : Legal s) : Legal (State.upset s) := by
  unfold State.upset; grind [BodyLegal, legal_at, fold_legal, modResident_legal, modWg_legal]

theorem tick_legal (s : State) (h : Legal s) : Legal (State.tick s) := by
  unfold State.tick; grind [BodyLegal, legal_at, fold_legal, upset_legal, withLedger_legal]

theorem placeUnit_legal (s : State) (bs : List Byte) (h : Legal s) : Legal (State.placeUnit s bs) := by
  unfold State.placeUnit; grind [BodyLegal, legal_at, fold_legal]

theorem putRefs_legal (s : State) (j : Job) (rs : Runs) (galley : Nat) (up : Bool) (h : Legal s) : Legal (State.putRefs s j rs galley up) := by
  unfold State.putRefs; grind [BodyLegal, legal_at, fold_legal, putRuns_legal]

theorem performLoad_legal (s : State) (w : Workgroup) (gi : Nat) (g : Group) (ti : Nat) (t : Thread) (ld : Load) (h : Legal s) : Legal (State.performLoad s w gi g ti t ld) := by
  unfold State.performLoad; grind [BodyLegal, legal_at, fold_legal, modThread_legal, observeSpot_legal]

theorem performLoadOf_legal (s : State) (u : EvResult) (ord : Nat) (h : Legal s) : Legal (State.performLoadOf s u ord) := by
  unfold State.performLoadOf
  repeat' split
  all_goals first | exact h | exact performLoad_legal _ _ _ _ _ _ _ h

theorem readAs_legal (s old : State) (h : Legal s) : Legal (State.readAs s old) := by
  unfold State.readAs; grind [BodyLegal, legal_at, fold_legal]

theorem mergedWith_legal (b old a : State) (h : Legal b) : Legal (State.mergedWith b old a) := by
  unfold State.mergedWith; grind [BodyLegal, legal_at, fold_legal]

end Sys2Proof.Laws
end

