-- ==== Sys2Proof/Laws/LegalExec.lean ====
section
/-!
SUPPORT. Every instruction and every event keeps what `Legal` says: one lemma for each meaning, and one for `exec`.
-/
open Sys2Proof Sys2Proof.Machine Sys2Proof.Laws
namespace Sys2Proof.Laws
set_option Elab.async false

theorem execIaddI_legal (u : LRw) (s : State) (h : Legal s) : ∀ t, execIaddI u s = .next t → Legal t := by
  unfold execIaddI; grind [BodyLegal, legal_at, fold_legal, laneUnit_legal]

theorem execIsubI_legal (u : LRw) (s : State) (h : Legal s) : ∀ t, execIsubI u s = .next t → Legal t := by
  unfold execIsubI; grind [BodyLegal, legal_at, fold_legal, laneUnit_legal]

theorem execImulI_legal (u : LRw) (s : State) (h : Legal s) : ∀ t, execImulI u s = .next t → Legal t := by
  unfold execImulI; grind [BodyLegal, legal_at, fold_legal, laneUnit_legal]

theorem execIminI_legal (u : LRw) (s : State) (h : Legal s) : ∀ t, execIminI u s = .next t → Legal t := by
  unfold execIminI; grind [BodyLegal, legal_at, fold_legal, laneUnit_legal]

theorem execImaxI_legal (u : LRw) (s : State) (h : Legal s) : ∀ t, execImaxI u s = .next t → Legal t := by
  unfold execImaxI; grind [BodyLegal, legal_at, fold_legal, laneUnit_legal]

theorem execImulhI_legal (u : LRw) (s : State) (h : Legal s) : ∀ t, execImulhI u s = .next t → Legal t := by
  unfold execImulhI; grind [BodyLegal, legal_at, fold_legal, laneUnit_legal]

theorem execImulwI_legal (u : LR0) (s : State) (h : Legal s) : ∀ t, execImulwI u s = .next t → Legal t := by
  unfold execImulwI; grind [BodyLegal, legal_at, fold_legal, laneUnit_legal]

theorem execImadI_legal (u : LRw) (s : State) (h : Legal s) : ∀ t, execImadI u s = .next t → Legal t := by
  unfold execImadI; grind [BodyLegal, legal_at, fold_legal, laneUnit_legal]

theorem execIsadI_legal (u : LRw) (s : State) (h : Legal s) : ∀ t, execIsadI u s = .next t → Legal t := by
  unfold execIsadI; grind [BodyLegal, legal_at, fold_legal, laneUnit_legal]

theorem execIcmpI_legal (u : LCmpW) (s : State) (h : Legal s) : ∀ t, execIcmpI u s = .next t → Legal t := by
  unfold execIcmpI; grind [BodyLegal, legal_at, fold_legal, laneUnit_legal]

theorem execIaddI16x2_legal (u : LR0) (s : State) (h : Legal s) : ∀ t, execIaddI16x2 u s = .next t → Legal t := by
  unfold execIaddI16x2; grind [BodyLegal, legal_at, fold_legal, laneUnit_legal]

theorem execIsubI16x2_legal (u : LR0) (s : State) (h : Legal s) : ∀ t, execIsubI16x2 u s = .next t → Legal t := by
  unfold execIsubI16x2; grind [BodyLegal, legal_at, fold_legal, laneUnit_legal]

theorem execIminI16x2_legal (u : LR0) (s : State) (h : Legal s) : ∀ t, execIminI16x2 u s = .next t → Legal t := by
  unfold execIminI16x2; grind [BodyLegal, legal_at, fold_legal, laneUnit_legal]

theorem execImaxI16x2_legal (u : LR0) (s : State) (h : Legal s) : ∀ t, execImaxI16x2 u s = .next t → Legal t := by
  unfold execImaxI16x2; grind [BodyLegal, legal_at, fold_legal, laneUnit_legal]

theorem execIcmpI16x2_legal (u : LCmp0) (s : State) (h : Legal s) : ∀ t, execIcmpI16x2 u s = .next t → Legal t := by
  unfold execIcmpI16x2; grind [BodyLegal, legal_at, fold_legal, laneUnit_legal]

theorem execIcmpIImm_legal (u : LCmpI) (s : State) (h : Legal s) : ∀ t, execIcmpIImm u s = .next t → Legal t := by
  unfold execIcmpIImm; grind [BodyLegal, legal_at, fold_legal, laneUnit_legal]

theorem execIaddN_legal (u : LRw) (s : State) (h : Legal s) : ∀ t, execIaddN u s = .next t → Legal t := by
  unfold execIaddN; grind [BodyLegal, legal_at, fold_legal, laneUnit_legal]

theorem execIsubN_legal (u : LRw) (s : State) (h : Legal s) : ∀ t, execIsubN u s = .next t → Legal t := by
  unfold execIsubN; grind [BodyLegal, legal_at, fold_legal, laneUnit_legal]

theorem execImulN_legal (u : LRw) (s : State) (h : Legal s) : ∀ t, execImulN u s = .next t → Legal t := by
  unfold execImulN; grind [BodyLegal, legal_at, fold_legal, laneUnit_legal]

theorem execIminN_legal (u : LRw) (s : State) (h : Legal s) : ∀ t, execIminN u s = .next t → Legal t := by
  unfold execIminN; grind [BodyLegal, legal_at, fold_legal, laneUnit_legal]

theorem execImaxN_legal (u : LRw) (s : State) (h : Legal s) : ∀ t, execImaxN u s = .next t → Legal t := by
  unfold execImaxN; grind [BodyLegal, legal_at, fold_legal, laneUnit_legal]

theorem execImulhN_legal (u : LRw) (s : State) (h : Legal s) : ∀ t, execImulhN u s = .next t → Legal t := by
  unfold execImulhN; grind [BodyLegal, legal_at, fold_legal, laneUnit_legal]

theorem execImulwN_legal (u : LR0) (s : State) (h : Legal s) : ∀ t, execImulwN u s = .next t → Legal t := by
  unfold execImulwN; grind [BodyLegal, legal_at, fold_legal, laneUnit_legal]

theorem execImadN_legal (u : LRw) (s : State) (h : Legal s) : ∀ t, execImadN u s = .next t → Legal t := by
  unfold execImadN; grind [BodyLegal, legal_at, fold_legal, laneUnit_legal]

theorem execIsadN_legal (u : LRw) (s : State) (h : Legal s) : ∀ t, execIsadN u s = .next t → Legal t := by
  unfold execIsadN; grind [BodyLegal, legal_at, fold_legal, laneUnit_legal]

theorem execIcmpN_legal (u : LCmpW) (s : State) (h : Legal s) : ∀ t, execIcmpN u s = .next t → Legal t := by
  unfold execIcmpN; grind [BodyLegal, legal_at, fold_legal, laneUnit_legal]

theorem execIaddN16x2_legal (u : LR0) (s : State) (h : Legal s) : ∀ t, execIaddN16x2 u s = .next t → Legal t := by
  unfold execIaddN16x2; grind [BodyLegal, legal_at, fold_legal, laneUnit_legal]

theorem execIsubN16x2_legal (u : LR0) (s : State) (h : Legal s) : ∀ t, execIsubN16x2 u s = .next t → Legal t := by
  unfold execIsubN16x2; grind [BodyLegal, legal_at, fold_legal, laneUnit_legal]

theorem execIminN16x2_legal (u : LR0) (s : State) (h : Legal s) : ∀ t, execIminN16x2 u s = .next t → Legal t := by
  unfold execIminN16x2; grind [BodyLegal, legal_at, fold_legal, laneUnit_legal]

theorem execImaxN16x2_legal (u : LR0) (s : State) (h : Legal s) : ∀ t, execImaxN16x2 u s = .next t → Legal t := by
  unfold execImaxN16x2; grind [BodyLegal, legal_at, fold_legal, laneUnit_legal]

theorem execIcmpN16x2_legal (u : LCmp0) (s : State) (h : Legal s) : ∀ t, execIcmpN16x2 u s = .next t → Legal t := by
  unfold execIcmpN16x2; grind [BodyLegal, legal_at, fold_legal, laneUnit_legal]

theorem execIcmpNImm_legal (u : LCmpI) (s : State) (h : Legal s) : ∀ t, execIcmpNImm u s = .next t → Legal t := by
  unfold execIcmpNImm; grind [BodyLegal, legal_at, fold_legal, laneUnit_legal]

theorem execIabs_legal (u : LUw) (s : State) (h : Legal s) : ∀ t, execIabs u s = .next t → Legal t := by
  unfold execIabs; grind [BodyLegal, legal_at, fold_legal, laneUnit_legal]

theorem execIneg_legal (u : LUw) (s : State) (h : Legal s) : ∀ t, execIneg u s = .next t → Legal t := by
  unfold execIneg; grind [BodyLegal, legal_at, fold_legal, laneUnit_legal]

theorem execClz_legal (u : LUw) (s : State) (h : Legal s) : ∀ t, execClz u s = .next t → Legal t := by
  unfold execClz; grind [BodyLegal, legal_at, fold_legal, laneUnit_legal]

theorem execPopc_legal (u : LUw) (s : State) (h : Legal s) : ∀ t, execPopc u s = .next t → Legal t := by
  unfold execPopc; grind [BodyLegal, legal_at, fold_legal, laneUnit_legal]

theorem execBrev_legal (u : LUw) (s : State) (h : Legal s) : ∀ t, execBrev u s = .next t → Legal t := by
  unfold execBrev; grind [BodyLegal, legal_at, fold_legal, laneUnit_legal]

theorem execIaddImm_legal (u : LImm) (s : State) (h : Legal s) : ∀ t, execIaddImm u s = .next t → Legal t := by
  unfold execIaddImm; grind [BodyLegal, legal_at, fold_legal, laneUnit_legal]

theorem execAnd_legal (u : LRw) (s : State) (h : Legal s) : ∀ t, execAnd u s = .next t → Legal t := by
  unfold execAnd; grind [BodyLegal, legal_at, fold_legal, laneUnit_legal]

theorem execOr_legal (u : LRw) (s : State) (h : Legal s) : ∀ t, execOr u s = .next t → Legal t := by
  unfold execOr; grind [BodyLegal, legal_at, fold_legal, laneUnit_legal]

theorem execXor_legal (u : LRw) (s : State) (h : Legal s) : ∀ t, execXor u s = .next t → Legal t := by
  unfold execXor; grind [BodyLegal, legal_at, fold_legal, laneUnit_legal]

theorem execAndn_legal (u : LRw) (s : State) (h : Legal s) : ∀ t, execAndn u s = .next t → Legal t := by
  unfold execAndn; grind [BodyLegal, legal_at, fold_legal, laneUnit_legal]

theorem execShl_legal (u : LRw) (s : State) (h : Legal s) : ∀ t, execShl u s = .next t → Legal t := by
  unfold execShl; grind [BodyLegal, legal_at, fold_legal, laneUnit_legal]

theorem execShr_legal (u : LRw) (s : State) (h : Legal s) : ∀ t, execShr u s = .next t → Legal t := by
  unfold execShr; grind [BodyLegal, legal_at, fold_legal, laneUnit_legal]

theorem execSar_legal (u : LRw) (s : State) (h : Legal s) : ∀ t, execSar u s = .next t → Legal t := by
  unfold execSar; grind [BodyLegal, legal_at, fold_legal, laneUnit_legal]

theorem execRotl_legal (u : LRw) (s : State) (h : Legal s) : ∀ t, execRotl u s = .next t → Legal t := by
  unfold execRotl; grind [BodyLegal, legal_at, fold_legal, laneUnit_legal]

theorem execBfxI_legal (u : LRw) (s : State) (h : Legal s) : ∀ t, execBfxI u s = .next t → Legal t := by
  unfold execBfxI; grind [BodyLegal, legal_at, fold_legal, laneUnit_legal]

theorem execBfxN_legal (u : LRw) (s : State) (h : Legal s) : ∀ t, execBfxN u s = .next t → Legal t := by
  unfold execBfxN; grind [BodyLegal, legal_at, fold_legal, laneUnit_legal]

theorem execBfi_legal (u : LRw) (s : State) (h : Legal s) : ∀ t, execBfi u s = .next t → Legal t := by
  unfold execBfi; grind [BodyLegal, legal_at, fold_legal, laneUnit_legal]

theorem execSel_legal (u : LRw) (s : State) (h : Legal s) : ∀ t, execSel u s = .next t → Legal t := by
  unfold execSel; grind [BodyLegal, legal_at, fold_legal, laneUnit_legal]

theorem execAndImm_legal (u : LImm) (s : State) (h : Legal s) : ∀ t, execAndImm u s = .next t → Legal t := by
  unfold execAndImm; grind [BodyLegal, legal_at, fold_legal, laneUnit_legal]

theorem execOrImm_legal (u : LImm) (s : State) (h : Legal s) : ∀ t, execOrImm u s = .next t → Legal t := by
  unfold execOrImm; grind [BodyLegal, legal_at, fold_legal, laneUnit_legal]

theorem execXorImm_legal (u : LImm) (s : State) (h : Legal s) : ∀ t, execXorImm u s = .next t → Legal t := by
  unfold execXorImm; grind [BodyLegal, legal_at, fold_legal, laneUnit_legal]

theorem execShlImm_legal (u : LSh) (s : State) (h : Legal s) : ∀ t, execShlImm u s = .next t → Legal t := by
  unfold execShlImm; grind [BodyLegal, legal_at, fold_legal, laneUnit_legal]

theorem execShrImm_legal (u : LSh) (s : State) (h : Legal s) : ∀ t, execShrImm u s = .next t → Legal t := by
  unfold execShrImm; grind [BodyLegal, legal_at, fold_legal, laneUnit_legal]

theorem execSarImm_legal (u : LSh) (s : State) (h : Legal s) : ∀ t, execSarImm u s = .next t → Legal t := by
  unfold execSarImm; grind [BodyLegal, legal_at, fold_legal, laneUnit_legal]

theorem execRotlImm_legal (u : LSh) (s : State) (h : Legal s) : ∀ t, execRotlImm u s = .next t → Legal t := by
  unfold execRotlImm; grind [BodyLegal, legal_at, fold_legal, laneUnit_legal]

theorem execMovi_legal (u : LMovi) (s : State) (h : Legal s) : ∀ t, execMovi u s = .next t → Legal t := by
  unfold execMovi; grind [BodyLegal, legal_at, fold_legal, laneUnit_legal]

theorem execMov_legal (u : LAw) (s : State) (h : Legal s) : ∀ t, execMov u s = .next t → Legal t := by
  unfold execMov; grind [BodyLegal, legal_at, fold_legal, laneUnit_legal]

theorem execKmov_legal (u : LAf) (s : State) (h : Legal s) : ∀ t, execKmov u s = .next t → Legal t := by
  unfold execKmov; grind [BodyLegal, legal_at, fold_legal, laneUnit_legal]

theorem execFadd_legal (u : LRw) (s : State) (h : Legal s) : ∀ t, execFadd u s = .next t → Legal t := by
  unfold execFadd; grind [BodyLegal, legal_at, fold_legal, laneUnit_legal]

theorem execFsub_legal (u : LRw) (s : State) (h : Legal s) : ∀ t, execFsub u s = .next t → Legal t := by
  unfold execFsub; grind [BodyLegal, legal_at, fold_legal, laneUnit_legal]

theorem execFmul_legal (u : LRw) (s : State) (h : Legal s) : ∀ t, execFmul u s = .next t → Legal t := by
  unfold execFmul; grind [BodyLegal, legal_at, fold_legal, laneUnit_legal]

theorem execFfma_legal (u : LRw) (s : State) (h : Legal s) : ∀ t, execFfma u s = .next t → Legal t := by
  unfold execFfma; grind [BodyLegal, legal_at, fold_legal, laneUnit_legal]

theorem execFdiv_legal (u : LRw) (s : State) (h : Legal s) : ∀ t, execFdiv u s = .next t → Legal t := by
  unfold execFdiv; grind [BodyLegal, legal_at, fold_legal, laneUnitV_legal]

theorem execFmin_legal (u : LRw) (s : State) (h : Legal s) : ∀ t, execFmin u s = .next t → Legal t := by
  unfold execFmin; grind [BodyLegal, legal_at, fold_legal, laneUnit_legal]

theorem execFmax_legal (u : LRw) (s : State) (h : Legal s) : ∀ t, execFmax u s = .next t → Legal t := by
  unfold execFmax; grind [BodyLegal, legal_at, fold_legal, laneUnit_legal]

theorem execFcmp_legal (u : LCmpW) (s : State) (h : Legal s) : ∀ t, execFcmp u s = .next t → Legal t := by
  unfold execFcmp; grind [BodyLegal, legal_at, fold_legal, laneUnit_legal]

theorem execFscale_legal (u : LRw) (s : State) (h : Legal s) : ∀ t, execFscale u s = .next t → Legal t := by
  unfold execFscale; grind [BodyLegal, legal_at, fold_legal, laneUnit_legal]

theorem execFaddBf16x2_legal (u : LR0) (s : State) (h : Legal s) : ∀ t, execFaddBf16x2 u s = .next t → Legal t := by
  unfold execFaddBf16x2; grind [BodyLegal, legal_at, fold_legal, laneUnit_legal]

theorem execFsubBf16x2_legal (u : LR0) (s : State) (h : Legal s) : ∀ t, execFsubBf16x2 u s = .next t → Legal t := by
  unfold execFsubBf16x2; grind [BodyLegal, legal_at, fold_legal, laneUnit_legal]

theorem execFmulBf16x2_legal (u : LR0) (s : State) (h : Legal s) : ∀ t, execFmulBf16x2 u s = .next t → Legal t := by
  unfold execFmulBf16x2; grind [BodyLegal, legal_at, fold_legal, laneUnit_legal]

theorem execFfmaBf16x2_legal (u : LR0) (s : State) (h : Legal s) : ∀ t, execFfmaBf16x2 u s = .next t → Legal t := by
  unfold execFfmaBf16x2; grind [BodyLegal, legal_at, fold_legal, laneUnit_legal]

theorem execFminBf16x2_legal (u : LR0) (s : State) (h : Legal s) : ∀ t, execFminBf16x2 u s = .next t → Legal t := by
  unfold execFminBf16x2; grind [BodyLegal, legal_at, fold_legal, laneUnit_legal]

theorem execFmaxBf16x2_legal (u : LR0) (s : State) (h : Legal s) : ∀ t, execFmaxBf16x2 u s = .next t → Legal t := by
  unfold execFmaxBf16x2; grind [BodyLegal, legal_at, fold_legal, laneUnit_legal]

theorem execFcmpBf16x2_legal (u : LCmp0) (s : State) (h : Legal s) : ∀ t, execFcmpBf16x2 u s = .next t → Legal t := by
  unfold execFcmpBf16x2; grind [BodyLegal, legal_at, fold_legal, laneUnit_legal]

theorem execFaddFp16x2_legal (u : LR0) (s : State) (h : Legal s) : ∀ t, execFaddFp16x2 u s = .next t → Legal t := by
  unfold execFaddFp16x2; grind [BodyLegal, legal_at, fold_legal, laneUnit_legal]

theorem execFsubFp16x2_legal (u : LR0) (s : State) (h : Legal s) : ∀ t, execFsubFp16x2 u s = .next t → Legal t := by
  unfold execFsubFp16x2; grind [BodyLegal, legal_at, fold_legal, laneUnit_legal]

theorem execFmulFp16x2_legal (u : LR0) (s : State) (h : Legal s) : ∀ t, execFmulFp16x2 u s = .next t → Legal t := by
  unfold execFmulFp16x2; grind [BodyLegal, legal_at, fold_legal, laneUnit_legal]

theorem execFfmaFp16x2_legal (u : LR0) (s : State) (h : Legal s) : ∀ t, execFfmaFp16x2 u s = .next t → Legal t := by
  unfold execFfmaFp16x2; grind [BodyLegal, legal_at, fold_legal, laneUnit_legal]

theorem execFminFp16x2_legal (u : LR0) (s : State) (h : Legal s) : ∀ t, execFminFp16x2 u s = .next t → Legal t := by
  unfold execFminFp16x2; grind [BodyLegal, legal_at, fold_legal, laneUnit_legal]

theorem execFmaxFp16x2_legal (u : LR0) (s : State) (h : Legal s) : ∀ t, execFmaxFp16x2 u s = .next t → Legal t := by
  unfold execFmaxFp16x2; grind [BodyLegal, legal_at, fold_legal, laneUnit_legal]

theorem execFcmpFp16x2_legal (u : LCmp0) (s : State) (h : Legal s) : ∀ t, execFcmpFp16x2 u s = .next t → Legal t := by
  unfold execFcmpFp16x2; grind [BodyLegal, legal_at, fold_legal, laneUnit_legal]

theorem execFclass_legal (u : LUw) (s : State) (h : Legal s) : ∀ t, execFclass u s = .next t → Legal t := by
  unfold execFclass; grind [BodyLegal, legal_at, fold_legal, laneUnit_legal]

theorem execFrnd_legal (u : LUw) (s : State) (h : Legal s) : ∀ t, execFrnd u s = .next t → Legal t := by
  unfold execFrnd; grind [BodyLegal, legal_at, fold_legal, laneUnit_legal]

theorem execFract_legal (u : LUw) (s : State) (h : Legal s) : ∀ t, execFract u s = .next t → Legal t := by
  unfold execFract; grind [BodyLegal, legal_at, fold_legal, laneUnit_legal]

theorem execCvtFloatSource_legal (u : LUf) (s : State) (h : Legal s) : ∀ t, execCvtFloatSource u s = .next t → Legal t := by
  unfold execCvtFloatSource; grind [BodyLegal, legal_at, fold_legal, laneUnit_legal, crossUnit_legal]

theorem execCvtIntegerSource_legal (u : LUf) (s : State) (h : Legal s) : ∀ t, execCvtIntegerSource u s = .next t → Legal t := by
  unfold execCvtIntegerSource; grind [BodyLegal, legal_at, fold_legal, laneUnit_legal]

theorem execCvts_legal (u : LUf) (s : State) (h : Legal s) : ∀ t, execCvts u s = .next t → Legal t := by
  unfold execCvts; grind [BodyLegal, legal_at, fold_legal, laneUnit_legal, crossUnit_legal]

theorem execBlkenc_legal (u : LUf) (s : State) (h : Legal s) : ∀ t, execBlkenc u s = .next t → Legal t := by
  unfold execBlkenc; grind [BodyLegal, legal_at, fold_legal, laneUnitV_legal, crossUnit_legal]

theorem execBlkdec_legal (u : LUf) (s : State) (h : Legal s) : ∀ t, execBlkdec u s = .next t → Legal t := by
  unfold execBlkdec; grind [BodyLegal, legal_at, fold_legal, laneUnitV_legal]

theorem execRand_legal (u : LDf) (s : State) (h : Legal s) : ∀ t, execRand u s = .next t → Legal t := by
  unfold execRand; grind [BodyLegal, legal_at, fold_legal, laneUnit_legal]

theorem execTidx_legal (u : LUf) (s : State) (h : Legal s) : ∀ t, execTidx u s = .next t → Legal t := by
  unfold execTidx; grind [BodyLegal, legal_at, fold_legal, runUnit_legal, writeLanes_legal]

theorem execShfl_legal (u : LRw) (s : State) (h : Legal s) : ∀ t, execShfl u s = .next t → Legal t := by
  unfold execShfl; grind [BodyLegal, legal_at, fold_legal, crossUnit_legal]

theorem execShflUp_legal (u : LShf) (s : State) (h : Legal s) : ∀ t, execShflUp u s = .next t → Legal t := by
  unfold execShflUp; grind [BodyLegal, legal_at, fold_legal, crossUnit_legal]

theorem execShflDn_legal (u : LShf) (s : State) (h : Legal s) : ∀ t, execShflDn u s = .next t → Legal t := by
  unfold execShflDn; grind [BodyLegal, legal_at, fold_legal, crossUnit_legal]

theorem execShflXor_legal (u : LShf) (s : State) (h : Legal s) : ∀ t, execShflXor u s = .next t → Legal t := by
  unfold execShflXor; grind [BodyLegal, legal_at, fold_legal, crossUnit_legal]

theorem execXperm_legal (u : LAfw) (s : State) (h : Legal s) : ∀ t, execXperm u s = .next t → Legal t := by
  unfold execXperm; grind [BodyLegal, legal_at, fold_legal, crossUnit_legal]

theorem execVote_legal (u : LAf) (s : State) (h : Legal s) : ∀ t, execVote u s = .next t → Legal t := by
  unfold execVote; grind [BodyLegal, legal_at, fold_legal, crossUnit_legal]

theorem execReduce_legal (u : LUtfw) (s : State) (h : Legal s) : ∀ t, execReduce u s = .next t → Legal t := by
  unfold execReduce; grind [BodyLegal, legal_at, fold_legal, crossUnit_legal]

theorem execScan_legal (u : LUtfw) (s : State) (h : Legal s) : ∀ t, execScan u s = .next t → Legal t := by
  unfold execScan; grind [BodyLegal, legal_at, fold_legal, crossUnit_legal]

theorem execMatchLanes_legal (u : LUw) (s : State) (h : Legal s) : ∀ t, execMatchLanes u s = .next t → Legal t := by
  unfold execMatchLanes; grind [BodyLegal, legal_at, fold_legal, crossUnit_legal]

theorem execElect_legal (u : LDf) (s : State) (h : Legal s) : ∀ t, execElect u s = .next t → Legal t := by
  unfold execElect; grind [BodyLegal, legal_at, fold_legal, laneUnit_legal]

theorem execRdlane_legal (u : LRw) (s : State) (h : Legal s) : ∀ t, execRdlane u s = .next t → Legal t := by
  unfold execRdlane; grind [BodyLegal, legal_at, fold_legal, crossUnit_legal]

theorem execKpop_legal (u : LA0) (s : State) (h : Legal s) : ∀ t, execKpop u s = .next t → Legal t := by
  unfold execKpop; grind [BodyLegal, legal_at, fold_legal, crossUnit_legal]

theorem execUadd_legal (u : GR3) (s : State) (h : Legal s) : ∀ t, execUadd u s = .next t → Legal t := by
  unfold execUadd; grind [BodyLegal, legal_at, fold_legal, uniformUnit_legal]

theorem execUsub_legal (u : GR3) (s : State) (h : Legal s) : ∀ t, execUsub u s = .next t → Legal t := by
  unfold execUsub; grind [BodyLegal, legal_at, fold_legal, uniformUnit_legal]

theorem execUmul_legal (u : GR3) (s : State) (h : Legal s) : ∀ t, execUmul u s = .next t → Legal t := by
  unfold execUmul; grind [BodyLegal, legal_at, fold_legal, uniformUnit_legal]

theorem execUmulhI_legal (u : GR3) (s : State) (h : Legal s) : ∀ t, execUmulhI u s = .next t → Legal t := by
  unfold execUmulhI; grind [BodyLegal, legal_at, fold_legal, uniformUnit_legal]

theorem execUmulhN_legal (u : GR3) (s : State) (h : Legal s) : ∀ t, execUmulhN u s = .next t → Legal t := by
  unfold execUmulhN; grind [BodyLegal, legal_at, fold_legal, uniformUnit_legal]

theorem execUand_legal (u : GR3) (s : State) (h : Legal s) : ∀ t, execUand u s = .next t → Legal t := by
  unfold execUand; grind [BodyLegal, legal_at, fold_legal, uniformUnit_legal]

theorem execUor_legal (u : GR3) (s : State) (h : Legal s) : ∀ t, execUor u s = .next t → Legal t := by
  unfold execUor; grind [BodyLegal, legal_at, fold_legal, uniformUnit_legal]

theorem execUxor_legal (u : GR3) (s : State) (h : Legal s) : ∀ t, execUxor u s = .next t → Legal t := by
  unfold execUxor; grind [BodyLegal, legal_at, fold_legal, uniformUnit_legal]

theorem execUshl_legal (u : GR3) (s : State) (h : Legal s) : ∀ t, execUshl u s = .next t → Legal t := by
  unfold execUshl; grind [BodyLegal, legal_at, fold_legal, uniformUnit_legal]

theorem execUshr_legal (u : GR3) (s : State) (h : Legal s) : ∀ t, execUshr u s = .next t → Legal t := by
  unfold execUshr; grind [BodyLegal, legal_at, fold_legal, uniformUnit_legal]

theorem execUsar_legal (u : GR3) (s : State) (h : Legal s) : ∀ t, execUsar u s = .next t → Legal t := by
  unfold execUsar; grind [BodyLegal, legal_at, fold_legal, uniformUnit_legal]

theorem execUminI_legal (u : GR3) (s : State) (h : Legal s) : ∀ t, execUminI u s = .next t → Legal t := by
  unfold execUminI; grind [BodyLegal, legal_at, fold_legal, uniformUnit_legal]

theorem execUminN_legal (u : GR3) (s : State) (h : Legal s) : ∀ t, execUminN u s = .next t → Legal t := by
  unfold execUminN; grind [BodyLegal, legal_at, fold_legal, uniformUnit_legal]

theorem execUmaxI_legal (u : GR3) (s : State) (h : Legal s) : ∀ t, execUmaxI u s = .next t → Legal t := by
  unfold execUmaxI; grind [BodyLegal, legal_at, fold_legal, uniformUnit_legal]

theorem execUmaxN_legal (u : GR3) (s : State) (h : Legal s) : ∀ t, execUmaxN u s = .next t → Legal t := by
  unfold execUmaxN; grind [BodyLegal, legal_at, fold_legal, uniformUnit_legal]

theorem execUmov_legal (u : GR2) (s : State) (h : Legal s) : ∀ t, execUmov u s = .next t → Legal t := by
  unfold execUmov; grind [BodyLegal, legal_at, fold_legal, uniformUnit_legal]

theorem execUsel_legal (u : GR3) (s : State) (h : Legal s) : ∀ t, execUsel u s = .next t → Legal t := by
  unfold execUsel; grind [BodyLegal, legal_at, fold_legal, uniformUnit_legal]

theorem execUcmpI_legal (u : GCmp) (s : State) (h : Legal s) : ∀ t, execUcmpI u s = .next t → Legal t := by
  unfold execUcmpI; grind [BodyLegal, legal_at, fold_legal, uniformUnit_legal]

theorem execUcmpN_legal (u : GCmp) (s : State) (h : Legal s) : ∀ t, execUcmpN u s = .next t → Legal t := by
  unfold execUcmpN; grind [BodyLegal, legal_at, fold_legal, uniformUnit_legal]

theorem execUaddImm_legal (u : GImm) (s : State) (h : Legal s) : ∀ t, execUaddImm u s = .next t → Legal t := by
  unfold execUaddImm; grind [BodyLegal, legal_at, fold_legal, uniformUnit_legal]

theorem execUandImm_legal (u : GImm) (s : State) (h : Legal s) : ∀ t, execUandImm u s = .next t → Legal t := by
  unfold execUandImm; grind [BodyLegal, legal_at, fold_legal, uniformUnit_legal]

theorem execUorImm_legal (u : GImm) (s : State) (h : Legal s) : ∀ t, execUorImm u s = .next t → Legal t := by
  unfold execUorImm; grind [BodyLegal, legal_at, fold_legal, uniformUnit_legal]

theorem execUxorImm_legal (u : GImm) (s : State) (h : Legal s) : ∀ t, execUxorImm u s = .next t → Legal t := by
  unfold execUxorImm; grind [BodyLegal, legal_at, fold_legal, uniformUnit_legal]

theorem execUshlImm_legal (u : GSh) (s : State) (h : Legal s) : ∀ t, execUshlImm u s = .next t → Legal t := by
  unfold execUshlImm; grind [BodyLegal, legal_at, fold_legal, uniformUnit_legal]

theorem execUshrImm_legal (u : GSh) (s : State) (h : Legal s) : ∀ t, execUshrImm u s = .next t → Legal t := by
  unfold execUshrImm; grind [BodyLegal, legal_at, fold_legal, uniformUnit_legal]

theorem execUsarImm_legal (u : GSh) (s : State) (h : Legal s) : ∀ t, execUsarImm u s = .next t → Legal t := by
  unfold execUsarImm; grind [BodyLegal, legal_at, fold_legal, uniformUnit_legal]

theorem execUmovi_legal (u : GMovi) (s : State) (h : Legal s) : ∀ t, execUmovi u s = .next t → Legal t := by
  unfold execUmovi; grind [BodyLegal, legal_at, fold_legal, uniformUnit_legal]

theorem execUldc_legal (u : GImm) (s : State) (h : Legal s) : ∀ t, execUldc u s = .next t → Legal t := by
  unfold execUldc; grind [BodyLegal, legal_at, fold_legal, runUnit_legal, uldcGroup_legal, groupBody_legal, TurnLegal]

theorem execRdsys_legal (u : GRd) (s : State) (h : Legal s) : ∀ t, execRdsys u s = .next t → Legal t := by
  unfold execRdsys; grind [BodyLegal, legal_at, fold_legal, uniformUnit_legal]

theorem execWrsys_legal (u : GWr) (s : State) (h : Legal s) : ∀ t, execWrsys u s = .next t → Legal t := by
  unfold execWrsys; grind [BodyLegal, legal_at, fold_legal, runUnit_legal, wrsysGroup_legal, groupBody_legal, TurnLegal]

theorem execTshape_legal (u : GShape) (s : State) (h : Legal s) : ∀ t, execTshape u s = .next t → Legal t := by
  unfold execTshape; grind [BodyLegal, legal_at, fold_legal, copyGroup_legal, runUnit_legal, groupBody_legal, TurnLegal]

theorem execXpld_legal (u : GXpld) (s : State) (h : Legal s) : ∀ t, execXpld u s = .next t → Legal t := by
  unfold execXpld; grind [BodyLegal, legal_at, fold_legal, copyGroup_legal, runUnit_legal, groupBody_legal, TurnLegal]

theorem execFence_legal (u : GFence) (s : State) (h : Legal s) : ∀ t, execFence u s = .next t → Legal t := by
  unfold execFence; grind [BodyLegal, legal_at, fold_legal, fenceBody_legal, runUnit_legal]

theorem execBarinit_legal (u : GR3) (s : State) (h : Legal s) : ∀ t, execBarinit u s = .next t → Legal t := by
  unfold execBarinit; grind [BodyLegal, legal_at, fold_legal, initGroup_legal, runUnit_legal, groupBody_legal, TurnLegal]

theorem execCminit_legal (u : GR3) (s : State) (h : Legal s) : ∀ t, execCminit u s = .next t → Legal t := by
  unfold execCminit; grind [BodyLegal, legal_at, fold_legal, initGroup_legal, runUnit_legal, groupBody_legal, TurnLegal]

theorem execArrive_legal (u : GR3) (s : State) (h : Legal s) : ∀ t, execArrive u s = .next t → Legal t := by
  unfold execArrive; grind [BodyLegal, legal_at, fold_legal, arrive_legal, arriveGroup_legal, runUnit_legal, withObject_legal, groupBody_legal, TurnLegal]

theorem execWaitph_legal (u : GAB) (s : State) (h : Legal s) : ∀ t, execWaitph u s = .next t → Legal t := by
  unfold execWaitph; grind [BodyLegal, legal_at, fold_legal, runUnit_legal, waitphGroup_legal, withObject_legal, groupBody_legal, TurnLegal]

theorem execTestph_legal (u : GR2) (s : State) (h : Legal s) : ∀ t, execTestph u s = .next t → Legal t := by
  unfold execTestph; grind [BodyLegal, legal_at, fold_legal, runUnit_legal, testphGroup_legal, withObject_legal, groupBody_legal, TurnLegal]

theorem execCmwait_legal (u : GAB) (s : State) (h : Legal s) : ∀ t, execCmwait u s = .next t → Legal t := by
  unfold execCmwait; grind [BodyLegal, legal_at, fold_legal, cmwaitGroup_legal, runUnit_legal, withObject_legal, groupBody_legal, TurnLegal]

theorem execCmtest_legal (u : GR3) (s : State) (h : Legal s) : ∀ t, execCmtest u s = .next t → Legal t := by
  unfold execCmtest; grind [BodyLegal, legal_at, fold_legal, cmtestGroup_legal, runUnit_legal, withObject_legal, groupBody_legal, TurnLegal]

theorem execTierpf_legal (u : GR3) (s : State) (h : Legal s) : ∀ t, execTierpf u s = .next t → Legal t := by
  unfold execTierpf; grind [BodyLegal, legal_at, fold_legal, runUnit_legal, tierpfGroup_legal, groupBody_legal, TurnLegal]

theorem execStrm_legal (u : GA) (s : State) (h : Legal s) : ∀ t, execStrm u s = .next t → Legal t := by
  unfold execStrm; grind [BodyLegal, legal_at, fold_legal, runUnit_legal, strmGroup_legal, groupBody_legal, TurnLegal]

theorem execStrmq_legal (u : GAB) (s : State) (h : Legal s) : ∀ t, execStrmq u s = .next t → Legal t := by
  unfold execStrmq; grind [BodyLegal, legal_at, fold_legal, runUnit_legal, strmGroup_legal, groupBody_legal, TurnLegal]

theorem execMzero_legal (u : GMzero) (s : State) (h : Legal s) : ∀ t, execMzero u s = .next t → Legal t := by
  unfold execMzero; grind [BodyLegal, legal_at, fold_legal, mzeroGroup_legal, needPlace_legal, runUnit_legal, groupBody_legal, TurnLegal]

theorem execMlatb_legal (u : GMlatb) (s : State) (h : Legal s) : ∀ t, execMlatb u s = .next t → Legal t := by
  unfold execMlatb; grind [BodyLegal, legal_at, fold_legal, mlatbGroup_legal, runUnit_legal, groupBody_legal, TurnLegal]

theorem execMma_legal (u : LMma) (s : State) (h : Legal s) : ∀ t, execMma u s = .next t → Legal t := by
  unfold execMma; grind [BodyLegal, legal_at, fold_legal, mmaGroup_legal, runUnit_legal, groupBody_legal, TurnLegal]

theorem execMread_legal (u : LMread) (s : State) (h : Legal s) : ∀ t, execMread u s = .next t → Legal t := by
  unfold execMread; grind [BodyLegal, legal_at, fold_legal, mreadGroup_legal, runUnit_legal, groupBody_legal, TurnLegal]

theorem execMstore_legal (u : GMstore) (s : State) (h : Legal s) : ∀ t, execMstore u s = .next t → Legal t := by
  unfold execMstore; grind [BodyLegal, legal_at, fold_legal, mstoreGroup_legal, runUnit_legal, groupBody_legal, TurnLegal]

theorem execMstat_legal (u : GMstat) (s : State) (h : Legal s) : ∀ t, execMstat u s = .next t → Legal t := by
  unfold execMstat; grind [BodyLegal, legal_at, fold_legal, mstatGroup_legal, needPlace_legal, runUnit_legal, groupBody_legal, TurnLegal]

theorem execGseal_legal (u : GR2) (s : State) (h : Legal s) : ∀ t, execGseal u s = .next t → Legal t := by
  unfold execGseal; grind [BodyLegal, legal_at, fold_legal, formeUnit_legal]

theorem execImpose_legal (u : GR2) (s : State) (h : Legal s) : ∀ t, execImpose u s = .next t → Legal t := by
  unfold execImpose; grind [BodyLegal, legal_at, fold_legal, formeUnit_legal]

theorem execDistrib_legal (u : GR2) (s : State) (h : Legal s) : ∀ t, execDistrib u s = .next t → Legal t := by
  unfold execDistrib; grind [BodyLegal, legal_at, fold_legal, formeUnit_legal]

theorem execDistribCompact_legal (u : GR2) (s : State) (h : Legal s) : ∀ t, execDistribCompact u s = .next t → Legal t := by
  unfold execDistribCompact; grind [BodyLegal, legal_at, fold_legal, formeUnit_legal]

theorem execProofpub_legal (u : GR2) (s : State) (h : Legal s) : ∀ t, execProofpub u s = .next t → Legal t := by
  unfold execProofpub; grind [BodyLegal, legal_at, fold_legal, formeUnit_legal]

theorem execKvappend_legal (u : GR2) (s : State) (h : Legal s) : ∀ t, execKvappend u s = .next t → Legal t := by
  unfold execKvappend; grind [BodyLegal, legal_at, fold_legal, formeUnit_legal]

theorem execSpecapp_legal (u : GR2) (s : State) (h : Legal s) : ∀ t, execSpecapp u s = .next t → Legal t := by
  unfold execSpecapp; grind [BodyLegal, legal_at, fold_legal, formeUnit_legal]

theorem execCommit_legal (u : GR2) (s : State) (h : Legal s) : ∀ t, execCommit u s = .next t → Legal t := by
  unfold execCommit; grind [BodyLegal, legal_at, fold_legal, formeUnit_legal]

theorem execProofw_legal (u : GR2) (s : State) (h : Legal s) : ∀ t, execProofw u s = .next t → Legal t := by
  unfold execProofw; grind [BodyLegal, legal_at, fold_legal, proofwGroup_legal, runUnit_legal, groupBody_legal, TurnLegal]

theorem execPrstat_legal (u : GR3) (s : State) (h : Legal s) : ∀ t, execPrstat u s = .next t → Legal t := by
  unfold execPrstat; grind [BodyLegal, legal_at, fold_legal, prstatGroup_legal, runUnit_legal, groupBody_legal, TurnLegal]

theorem execLdg_legal (u : LMem) (s : State) (h : Legal s) : ∀ t, execLdg u s = .next t → Legal t := by
  unfold execLdg; grind [BodyLegal, legal_at, fold_legal, ldgBody_legal, runUnit_legal]

theorem execStg_legal (u : LMem) (s : State) (h : Legal s) : ∀ t, execStg u s = .next t → Legal t := by
  unfold execStg; grind [BodyLegal, legal_at, fold_legal, runUnit_legal, stgBody_legal]

theorem execLds_legal (u : LMem) (s : State) (h : Legal s) : ∀ t, execLds u s = .next t → Legal t := by
  unfold execLds; grind [BodyLegal, legal_at, fold_legal, ldsBody_legal, runUnit_legal]

theorem execSts_legal (u : LMem) (s : State) (h : Legal s) : ∀ t, execSts u s = .next t → Legal t := by
  unfold execSts; grind [BodyLegal, legal_at, fold_legal, runUnit_legal, stsBody_legal]

theorem execLdv_legal (u : LMem) (s : State) (h : Legal s) : ∀ t, execLdv u s = .next t → Legal t := by
  unfold execLdv; grind [BodyLegal, legal_at, fold_legal, ldvBody_legal, runUnit_legal]

theorem execStv_legal (u : LMem) (s : State) (h : Legal s) : ∀ t, execStv u s = .next t → Legal t := by
  unfold execStv; grind [BodyLegal, legal_at, fold_legal, runUnit_legal, stvBody_legal]

theorem execFeset_legal (u : LFe) (s : State) (h : Legal s) : ∀ t, execFeset u s = .next t → Legal t := by
  unfold execFeset; grind [BodyLegal, legal_at, fold_legal, feBody_legal, runUnit_legal]

theorem execFeclr_legal (u : LFe) (s : State) (h : Legal s) : ∀ t, execFeclr u s = .next t → Legal t := by
  unfold execFeclr; grind [BodyLegal, legal_at, fold_legal, feBody_legal, runUnit_legal]

theorem execAtom_legal (u : LMem) (s : State) (h : Legal s) : ∀ t, execAtom u s = .next t → Legal t := by
  unfold execAtom; grind [BodyLegal, legal_at, fold_legal, atomBody_legal, runUnit_legal]

theorem execAtoms_legal (u : LMem0) (s : State) (h : Legal s) : ∀ t, execAtoms u s = .next t → Legal t := by
  unfold execAtoms; grind [BodyLegal, legal_at, fold_legal, atomsBody_legal, runUnit_legal]

theorem execRed_legal (u : LMem) (s : State) (h : Legal s) : ∀ t, execRed u s = .next t → Legal t := by
  unfold execRed; grind [BodyLegal, legal_at, fold_legal, atomBody_legal, runUnit_legal]

theorem execExp2_legal (u : LUw) (s : State) (h : Legal s) : ∀ t, execExp2 u s = .next t → Legal t := by
  unfold execExp2; grind [BodyLegal, legal_at, fold_legal, laneUnitV_legal]

theorem execLog2_legal (u : LUw) (s : State) (h : Legal s) : ∀ t, execLog2 u s = .next t → Legal t := by
  unfold execLog2; grind [BodyLegal, legal_at, fold_legal, laneUnitV_legal]

theorem execRcp_legal (u : LUw) (s : State) (h : Legal s) : ∀ t, execRcp u s = .next t → Legal t := by
  unfold execRcp; grind [BodyLegal, legal_at, fold_legal, laneUnitV_legal]

theorem execRsq_legal (u : LUw) (s : State) (h : Legal s) : ∀ t, execRsq u s = .next t → Legal t := by
  unfold execRsq; grind [BodyLegal, legal_at, fold_legal, laneUnitV_legal]

theorem execSqrt_legal (u : LUw) (s : State) (h : Legal s) : ∀ t, execSqrt u s = .next t → Legal t := by
  unfold execSqrt; grind [BodyLegal, legal_at, fold_legal, laneUnitV_legal]

theorem execSin_legal (u : LUw) (s : State) (h : Legal s) : ∀ t, execSin u s = .next t → Legal t := by
  unfold execSin; grind [BodyLegal, legal_at, fold_legal, laneUnitV_legal]

theorem execCos_legal (u : LUw) (s : State) (h : Legal s) : ∀ t, execCos u s = .next t → Legal t := by
  unfold execCos; grind [BodyLegal, legal_at, fold_legal, laneUnitV_legal]

theorem execTanh_legal (u : LUw) (s : State) (h : Legal s) : ∀ t, execTanh u s = .next t → Legal t := by
  unfold execTanh; grind [BodyLegal, legal_at, fold_legal, laneUnitV_legal]

theorem execKvgather_legal (u : LGather) (s : State) (h : Legal s) : ∀ t, execKvgather u s = .next t → Legal t := by
  unfold execKvgather; grind [BodyLegal, legal_at, fold_legal, gatherGroup_legal, runUnit_legal, groupBody_legal, TurnLegal]

theorem execRotq_legal (u : LRw) (s : State) (h : Legal s) : ∀ t, execRotq u s = .next t → Legal t := by
  unfold execRotq; grind [BodyLegal, legal_at, fold_legal, rotqGroup_legal, runUnit_legal, groupBody_legal, TurnLegal]

theorem execAccept_legal (u : LAccept) (s : State) (h : Legal s) : ∀ t, execAccept u s = .next t → Legal t := by
  unfold execAccept; grind [BodyLegal, legal_at, fold_legal, laneUnit_legal]

theorem execResultReturn_legal (u : EvResult) (s : State) (h : Legal s) : ∀ t, execResultReturn u s = .next t → Legal t := by
  unfold execResultReturn; grind [BodyLegal, legal_at, fold_legal, actRead_legal, markReturned_legal, wakeWaits_legal, performLoadOf_legal]

theorem execSleepWake_legal (u : EvThread) (s : State) (h : Legal s) : ∀ t, execSleepWake u s = .next t → Legal t := by
  unfold execSleepWake; grind [BodyLegal, legal_at, fold_legal, modWg_legal, wakeWaits_legal]

theorem execCopyComplete_legal (u : EvJob) (s : State) (h : Legal s) : ∀ t, execCopyComplete u s = .next t → Legal t := by
  unfold execCopyComplete; grind [BodyLegal, legal_at, fold_legal, endJob_legal, modGroup_legal, modResident_legal, modWg_legal]

theorem execStreamerJobCheck_legal (u : EvJob) (s : State) (h : Legal s) : ∀ t, execStreamerJobCheck u s = .next t → Legal t := by
  unfold execStreamerJobCheck; grind [BodyLegal, legal_at, fold_legal, jobInPlace_legal, streamCheck_legal]

theorem execChunkWrite_legal (u : EvChunk) (s : State) (h : Legal s) : ∀ t, execChunkWrite u s = .next t → Legal t := by
  unfold execChunkWrite; grind [BodyLegal, legal_at, fold_legal, jobInPlace_legal, streamChunk_legal]

theorem execTierpfArrival_legal (u : EvJob) (s : State) (h : Legal s) : ∀ t, execTierpfArrival u s = .next t → Legal t := by
  unfold execTierpfArrival; grind [BodyLegal, legal_at, fold_legal, jobInPlace_legal, readyJob_legal, tierpfEnd_legal]

theorem execMlatbLatch_legal (u : EvJob) (s : State) (h : Legal s) : ∀ t, execMlatbLatch u s = .next t → Legal t := by
  unfold execMlatbLatch; grind [BodyLegal, legal_at, fold_legal, mlatbAct_legal, readyJob_legal]

theorem execMmaPass_legal (u : EvJob) (s : State) (h : Legal s) : ∀ t, execMmaPass u s = .next t → Legal t := by
  unfold execMmaPass; grind [BodyLegal, legal_at, fold_legal, mmaAct_legal, readyJob_legal]

theorem execMstoreWrite_legal (u : EvJob) (s : State) (h : Legal s) : ∀ t, execMstoreWrite u s = .next t → Legal t := by
  unfold execMstoreWrite; grind [BodyLegal, legal_at, fold_legal, mstoreAct_legal, readyJob_legal]

theorem execGsealPerform_legal (u : EvJob) (s : State) (h : Legal s) : ∀ t, execGsealPerform u s = .next t → Legal t := by
  unfold execGsealPerform; grind [BodyLegal, legal_at, fold_legal, formeEvent_legal]

theorem execImposePerform_legal (u : EvJob) (s : State) (h : Legal s) : ∀ t, execImposePerform u s = .next t → Legal t := by
  unfold execImposePerform; grind [BodyLegal, legal_at, fold_legal, formeEvent_legal]

theorem execDistribPerform_legal (u : EvJob) (s : State) (h : Legal s) : ∀ t, execDistribPerform u s = .next t → Legal t := by
  unfold execDistribPerform; grind [BodyLegal, legal_at, fold_legal, formeEvent_legal]

theorem execProofpubPerform_legal (u : EvJob) (s : State) (h : Legal s) : ∀ t, execProofpubPerform u s = .next t → Legal t := by
  unfold execProofpubPerform; grind [BodyLegal, legal_at, fold_legal, formeEvent_legal]

theorem execKvappendPerform_legal (u : EvJob) (s : State) (h : Legal s) : ∀ t, execKvappendPerform u s = .next t → Legal t := by
  unfold execKvappendPerform; grind [BodyLegal, legal_at, fold_legal, formeEvent_legal]

theorem execSpecappPerform_legal (u : EvJob) (s : State) (h : Legal s) : ∀ t, execSpecappPerform u s = .next t → Legal t := by
  unfold execSpecappPerform; grind [BodyLegal, legal_at, fold_legal, formeEvent_legal]

theorem execCommitPerform_legal (u : EvJob) (s : State) (h : Legal s) : ∀ t, execCommitPerform u s = .next t → Legal t := by
  unfold execCommitPerform; grind [BodyLegal, legal_at, fold_legal, formeEvent_legal]

theorem gatherEnd_legal (s : State) (j : Job) (c : List Byte) (v p : Bool) (rows : List (Nat × Word)) (h : Legal s) :
    ∀ r, s.gatherEnd j c v p rows = some r → Legal r := by
  intro r hr
  unfold State.gatherEnd at hr
  extract_lets map det acq at hr
  split at hr
  · cases hr; exact endJob_legal _ _ h
  · rename_i wg _
    have h1 := fmSnapshot_keeps fprim_legal j wg c v p rows s h
    split at hr
    · cases hr
    · rename_i heq; rw [heq] at h1; obtain rfl := Option.some.inj hr; exact endGather_legal _ _ _ _ h1
    · rename_i heq; rw [heq] at h1; obtain rfl := Option.some.inj hr; exact endGather_legal _ _ _ _ (logEngine_legal _ _ _ _ h1)
    · rename_i heq; rw [heq] at h1; obtain rfl := Option.some.inj hr; exact endGather_legal _ _ _ _ (logEngine_legal _ _ _ _ h1)
    · rename_i len o out s1 heq; rw [heq] at h1
      extract_lets mask s3 s4 at hr
      have h3 : Legal s3 := jobWrites_legal _ _ _ _ (jobWrote_legal s1 j acq h1) (fun t ht =>
        fold_legal _ _ _ (fun s i h => engineScratch_legal _ _ _ _ _ _ h) (engineScratch_legal _ _ _ _ _ _ ht))
      have h4 : Legal s4 := fold_legal _ _ _ (fun s i h => setChunk_legal _ _ _ _ (releaseJob_legal _ _ _ _ h)) h3
      obtain rfl := Option.some.inj hr; exact endGather_legal _ _ _ _ h4

theorem gatherPerform_legal (s : State) (j : Job) (c : List Byte) (v p : Bool) (rows : List (Nat × Word)) (h : Legal s) :
    ∀ r, s.gatherPerform j c v p rows = some r → Legal r := by
  intro r hr
  unfold State.gatherPerform at hr
  rw [Option.map_eq_some_iff] at hr
  obtain ⟨q, hq, rfl⟩ := hr
  exact serveFetches_legal _ _ _ (gatherEnd_legal s j c v p rows h q hq)

theorem gatherTurn_legal (s : State) (j : Job) (c : List Byte) (v p : Bool) (rows : List (Nat × Word)) (h : Legal s) :
    Legal (s.gatherTurn j c v p rows) := by
  have := gatherPerform_legal s j c v p rows h
  unfold State.gatherTurn
  extract_lets stops
  repeat' split
  · exact h
  · exact this _ ‹_›
  · exact endJob_legal _ _ h
  · exact setWithdrawn_legal _ _ _ h

theorem execKvgatherSnapshot_legal (u : EvJob) (s : State) (h : Legal s) : ∀ t, execKvgatherSnapshot u s = .next t → Legal t := by
  unfold execKvgatherSnapshot
  intro t ht
  cases ht
  refine readyJob_legal _ _ _ (fun s j h => ?_) h
  split
  · exact gatherTurn_legal _ _ _ _ _ _ h
  · exact h

theorem execEpochEnd_legal (u : EvNat) (s : State) (h : Legal s) : ∀ t, execEpochEnd u s = .next t → Legal t := by
  unfold execEpochEnd; grind [BodyLegal, legal_at, fold_legal, epochEnd_legal]

theorem execBra_legal (u : GB) (s : State) (h : Legal s) : ∀ t, execBra u s = .next t → Legal t := by
  unfold execBra; grind [BodyLegal, legal_at, fold_legal, moveUnit_legal]

theorem execBru_legal (u : GBru) (s : State) (h : Legal s) : ∀ t, execBru u s = .next t → Legal t := by
  unfold execBru; grind [BodyLegal, legal_at, fold_legal, moveUnit_legal]

theorem execBrt_legal (u : GBrt) (s : State) (h : Legal s) : ∀ t, execBrt u s = .next t → Legal t := by
  unfold execBrt; grind [BodyLegal, legal_at, fold_legal, moveUnit_legal]

theorem execCall_legal (u : GB) (s : State) (h : Legal s) : ∀ t, execCall u s = .next t → Legal t := by
  unfold execCall; grind [BodyLegal, legal_at, fold_legal, moveUnit_legal]

theorem execJmpi_legal (u : LJmp) (s : State) (h : Legal s) : ∀ t, execJmpi u s = .next t → Legal t := by
  unfold execJmpi; grind [BodyLegal, legal_at, fold_legal, moveUnit_legal]

theorem execCalli_legal (u : LJmp) (s : State) (h : Legal s) : ∀ t, execCalli u s = .next t → Legal t := by
  unfold execCalli; grind [BodyLegal, legal_at, fold_legal, moveUnit_legal]

theorem execRet_legal (u : G0) (s : State) (h : Legal s) : ∀ t, execRet u s = .next t → Legal t := by
  unfold execRet; grind [BodyLegal, legal_at, fold_legal, moveUnit_legal]

theorem execExit_legal (u : G0) (s : State) (h : Legal s) : ∀ t, execExit u s = .next t → Legal t := by
  unfold execExit; grind [BodyLegal, legal_at, fold_legal, moveUnit_legal]

theorem execNop_legal (u : G0) (s : State) (h : Legal s) : ∀ t, execNop u s = .next t → Legal t := by
  unfold execNop; grind [BodyLegal, legal_at, fold_legal, runUnit_legal]

theorem execYield_legal (u : G0) (s : State) (h : Legal s) : ∀ t, execYield u s = .next t → Legal t := by
  unfold execYield; grind [BodyLegal, legal_at, fold_legal, modLane_legal, runUnit_legal]

theorem execCallq_legal (u : GCallq) (s : State) (h : Legal s) : ∀ t, execCallq u s = .next t → Legal t := by
  unfold execCallq
  intro t ht
  cases ht
  exact runUnit_legal _ _ _ _ _ _ (fun s es h => fold_legal1 _ _ (s, []) (fun x e hx => callqMove_legal _ _ _ _ hx) h) h

theorem execQload_legal (u : GQuire) (s : State) (h : Legal s) : ∀ t, execQload u s = .next t → Legal t := by
  unfold execQload; grind [BodyLegal, legal_at, fold_legal, qloadGroup_legal, runUnit_legal, groupBody_legal, TurnLegal]

theorem execQpin_legal (u : GQuire) (s : State) (h : Legal s) : ∀ t, execQpin u s = .next t → Legal t := by
  unfold execQpin; grind [BodyLegal, legal_at, fold_legal, qpinGroup_legal, runUnit_legal, groupBody_legal, TurnLegal]

theorem execQunpin_legal (u : GQuire) (s : State) (h : Legal s) : ∀ t, execQunpin u s = .next t → Legal t := by
  unfold execQunpin; grind [BodyLegal, legal_at, fold_legal, qunpinGroup_legal, runUnit_legal, groupBody_legal, TurnLegal]

theorem execQstat_legal (u : GQuire) (s : State) (h : Legal s) : ∀ t, execQstat u s = .next t → Legal t := by
  unfold execQstat; grind [BodyLegal, legal_at, fold_legal, uniformUnit_legal]

theorem execTrap_legal (u : GTrap) (s : State) (h : Legal s) : ∀ t, execTrap u s = .next t → Legal t := by
  unfold execTrap; grind [BodyLegal, legal_at, fold_legal, runUnit_legal]

theorem execBkpt_legal (u : GTrap) (s : State) (h : Legal s) : ∀ t, execBkpt u s = .next t → Legal t := by
  unfold execBkpt; grind [BodyLegal, legal_at, fold_legal, debugStop_legal, runUnit_legal]

theorem execTrapret_legal (u : G0) (s : State) (h : Legal s) : ∀ t, execTrapret u s = .next t → Legal t := by
  unfold execTrapret; grind [BodyLegal, legal_at, fold_legal, moveUnit_legal]

theorem execRdtime_legal (u : GD) (s : State) (h : Legal s) : ∀ t, execRdtime u s = .next t → Legal t := by
  unfold execRdtime; grind [BodyLegal, legal_at, fold_legal, uniformUnit_legal]

theorem execSleepto_legal (u : GA) (s : State) (h : Legal s) : ∀ t, execSleepto u s = .next t → Legal t := by
  unfold execSleepto; grind [BodyLegal, legal_at, fold_legal, runUnit_legal, sleeptoGroup_legal, groupBody_legal, TurnLegal]

theorem execLaunch_legal (u : GR3) (s : State) (h : Legal s) : ∀ t, execLaunch u s = .next t → Legal t := by
  unfold execLaunch; grind [BodyLegal, legal_at, fold_legal, launchGroup_legal, runUnit_legal, groupBody_legal, TurnLegal]

theorem execFetchw_legal (u : GAB) (s : State) (h : Legal s) : ∀ t, execFetchw u s = .next t → Legal t := by
  unfold execFetchw; grind [BodyLegal, legal_at, fold_legal, fetchwGroup_legal, runUnit_legal, groupBody_legal, TurnLegal]

theorem execHash_legal (u : GR2) (s : State) (h : Legal s) : ∀ t, execHash u s = .next t → Legal t := by
  unfold execHash
  intro t ht
  cases ht
  refine rootUnit_legal _ _ _ _ (fun s e c h => ?_) h
  split
  · exact h
  · have h1 := rootSource_legal s e c.src c.len h
    split
    · rename_i heq; rw [heq] at h1; exact h1
    · rename_i heq; rw [heq] at h1; exact rootPut_legal _ _ _ _ h1

theorem execSign_legal (u : GR2) (s : State) (h : Legal s) : ∀ t, execSign u s = .next t → Legal t := by
  unfold execSign
  intro t ht
  cases ht
  refine rootUnit_legal _ _ _ _ (fun s e c h => ?_) h
  split
  · exact h
  · have h1 := rootSource_legal s e c.src 32 h
    split
    · rename_i heq; rw [heq] at h1; exact h1
    · rename_i heq; rw [heq] at h1; exact rootPut_legal _ _ _ _ h1

theorem execMext_legal (u : GR2) (s : State) (h : Legal s) : ∀ t, execMext u s = .next t → Legal t := by
  unfold execMext
  intro t ht
  cases ht
  refine rootUnit_legal _ _ _ _ (fun s e c h => ?_) h
  split
  · exact h
  · have h1 := rootSource_legal s e c.src 32 h
    split
    · rename_i heq; rw [heq] at h1; exact h1
    · rename_i heq; rw [heq] at h1; rename_i s1 bs
      refine ⟨h1.mem, h1.vault, h1.library, h1.clock, ?_⟩
      intro k h5 h7
      have := h1.mrs k h5 h7
      have hk : c.idx ≠ k := by omega
      simpa [List.getElem?_modify, hk] using this

theorem execMrd_legal (u : GR2) (s : State) (h : Legal s) : ∀ t, execMrd u s = .next t → Legal t := by
  unfold execMrd
  intro t ht
  cases ht
  refine rootUnit_legal _ _ _ _ (fun s e c h => ?_) h
  split
  · exact h
  · exact rootPut_legal _ _ _ _ h

theorem execRecordRead_legal (u : EvQueue) (s : State) (h : Legal s) : ∀ t, execRecordRead u s = .next t → Legal t := by
  unfold execRecordRead; grind [BodyLegal, legal_at, fold_legal, readRecord_legal]

theorem execLaunchArrive_legal (u : EvJob) (s : State) (h : Legal s) : ∀ t, execLaunchArrive u s = .next t → Legal t := by
  unfold execLaunchArrive; grind [BodyLegal, legal_at, fold_legal, endJob_legal, launchAt_legal, supplyG_legal]

theorem execFetchwDeliver_legal (u : EvJob) (s : State) (h : Legal s) : ∀ t, execFetchwDeliver u s = .next t → Legal t := by
  unfold execFetchwDeliver; grind [BodyLegal, legal_at, fold_legal, deliverFetchw_legal, endJob_legal]

theorem execLaunchComplete_legal (u : EvLaunch) (s : State) (h : Legal s) : ∀ t, execLaunchComplete u s = .next t → Legal t := by
  unfold execLaunchComplete; grind [BodyLegal, legal_at, fold_legal, endLaunch_legal]

theorem execLaunchCancel_legal (u : EvLaunch) (s : State) (h : Legal s) : ∀ t, execLaunchCancel u s = .next t → Legal t := by
  unfold execLaunchCancel; grind [BodyLegal, legal_at, fold_legal, endLaunch_legal, releaseUnstarted_legal]

theorem execQuireLoadComplete_legal (u : EvQuire) (s : State) (h : Legal s) : ∀ t, execQuireLoadComplete u s = .next t → Legal t := by
  unfold execQuireLoadComplete; grind [BodyLegal, legal_at, fold_legal, quireLoaded_legal]

theorem execPageWalk_legal (u : EvWalk) (s : State) (h : Legal s) : ∀ t, execPageWalk u s = .next t → Legal t := by
  unfold execPageWalk; grind [BodyLegal, legal_at, fold_legal, pageWalk_legal]

theorem execPlacement_legal (u : EvPlace) (s : State) (h : Legal s) : ∀ t, execPlacement u s = .next t → Legal t := by
  unfold execPlacement; grind [BodyLegal, legal_at, fold_legal, placeNone_legal, placeOne_legal, requestEntry_legal, takeTurn_legal]

theorem execWorkgroupStart_legal (u : EvWg) (s : State) (h : Legal s) : ∀ t, execWorkgroupStart u s = .next t → Legal t := by
  unfold execWorkgroupStart; grind [BodyLegal, legal_at, fold_legal, startWg_legal]

theorem execPreempt_legal (u : EvCore) (s : State) (h : Legal s) : ∀ t, execPreempt u s = .next t → Legal t := by
  unfold execPreempt; grind [BodyLegal, legal_at, fold_legal, modResident_legal]

theorem execContextSwitch_legal (u : EvCore) (s : State) (h : Legal s) : ∀ t, execContextSwitch u s = .next t → Legal t := by
  unfold execContextSwitch; grind [BodyLegal, legal_at, fold_legal, modResident_legal, swapIn_legal, setWithdrawn_legal]

theorem execContextSave_legal (u : EvCore) (s : State) (h : Legal s) : ∀ t, execContextSave u s = .next t → Legal t := by
  unfold execContextSave; grind [BodyLegal, legal_at, fold_legal, freeQuires_legal, saveImage_legal]

theorem execContextRestore_legal (u : EvRestore) (s : State) (h : Legal s) : ∀ t, execContextRestore u s = .next t → Legal t := by
  unfold execContextRestore; grind [BodyLegal, legal_at, fold_legal, restoreOne_legal]

theorem execPartitionSetup_legal (u : EvNat) (s : State) (h : Legal s) : ∀ t, execPartitionSetup u s = .next t → Legal t := by
  unfold execPartitionSetup; grind [BodyLegal, legal_at, fold_legal, setupPart_legal]

theorem execPartitionTeardown_legal (u : EvNat) (s : State) (h : Legal s) : ∀ t, execPartitionTeardown u s = .next t → Legal t := by
  unfold execPartitionTeardown; grind [BodyLegal, legal_at, fold_legal, teardownPart_legal]

theorem execCreate_legal (u : EvCtx) (s : State) (h : Legal s) : ∀ t, execCreate u s = .next t → Legal t := by
  unfold execCreate; grind [BodyLegal, legal_at, fold_legal, createCtx_legal]

theorem execTeardown_legal (u : EvCtx) (s : State) (h : Legal s) : ∀ t, execTeardown u s = .next t → Legal t := by
  unfold execTeardown; grind [BodyLegal, legal_at, fold_legal, teardownCtx_legal]

theorem execContextClosed_legal (u : EvCtx) (s : State) (h : Legal s) : ∀ t, execContextClosed u s = .next t → Legal t := by
  unfold execContextClosed; grind [BodyLegal, legal_at, fold_legal, closeCtx_legal]

theorem execQtailWrite_legal (u : EvQueue) (s : State) (h : Legal s) : ∀ t, execQtailWrite u s = .next t → Legal t := by
  unfold execQtailWrite; grind [BodyLegal, legal_at, fold_legal, writeQtail_legal]

theorem execQueueDescriptorWrite_legal (u : EvDesc) (s : State) (h : Legal s) : ∀ t, execQueueDescriptorWrite u s = .next t → Legal t := by
  unfold execQueueDescriptorWrite; grind [BodyLegal, legal_at, fold_legal, writeQueueWord_legal]

theorem execFqheadWrite_legal (u : EvCtxN) (s : State) (h : Legal s) : ∀ t, execFqheadWrite u s = .next t → Legal t := by
  unfold execFqheadWrite; grind [BodyLegal, legal_at, fold_legal, writeFqhead_legal]

theorem execFresumeRetry_legal (u : EvCtxN) (s : State) (h : Legal s) : ∀ t, execFresumeRetry u s = .next t → Legal t := by
  unfold execFresumeRetry; grind [BodyLegal, legal_at, fold_legal, writeFresume_legal]

theorem execFresumeAbort_legal (u : EvCtxN) (s : State) (h : Legal s) : ∀ t, execFresumeAbort u s = .next t → Legal t := by
  unfold execFresumeAbort; grind [BodyLegal, legal_at, fold_legal, writeFresume_legal]

theorem execInvalidateRange_legal (u : EvCtx) (s : State) (h : Legal s) : ∀ t, execInvalidateRange u s = .next t → Legal t := by
  unfold execInvalidateRange; grind [BodyLegal, legal_at, fold_legal, modContext_legal, startInvalidate_legal]

theorem execInvalidateAll_legal (u : EvCtx) (s : State) (h : Legal s) : ∀ t, execInvalidateAll u s = .next t → Legal t := by
  unfold execInvalidateAll; grind [BodyLegal, legal_at, fold_legal, modContext_legal, startInvalidate_legal]

theorem execInvalidateDone_legal (u : EvCtx) (s : State) (h : Legal s) : ∀ t, execInvalidateDone u s = .next t → Legal t := by
  unfold execInvalidateDone; grind [BodyLegal, legal_at, fold_legal, modContext_legal]

theorem execHalt_legal (u : EvCtx) (s : State) (h : Legal s) : ∀ t, execHalt u s = .next t → Legal t := by
  unfold execHalt; grind [BodyLegal, legal_at, fold_legal, halt_legal]

theorem execResume_legal (u : EvCtx) (s : State) (h : Legal s) : ∀ t, execResume u s = .next t → Legal t := by
  unfold execResume; grind [BodyLegal, legal_at, fold_legal, resumeAll_legal]

theorem execStep_legal (u : EvCtx) (s : State) (h : Legal s) : ∀ t, execStep u s = .next t → Legal t := by
  unfold execStep; grind [BodyLegal, legal_at, fold_legal, stepOne_legal]

theorem execBreakpointMatch_legal (x_ : EvNone) (s : State) (h : Legal s) : ∀ t, execBreakpointMatch x_ s = .next t → Legal t := by
  unfold execBreakpointMatch; grind [BodyLegal, legal_at, fold_legal, debugStop_legal, modThread_legal]

theorem execDebugStopped_legal (u : EvCtx) (s : State) (h : Legal s) : ∀ t, execDebugStopped u s = .next t → Legal t := by
  unfold execDebugStopped; grind [BodyLegal, legal_at, fold_legal, modContext_legal]

theorem execDrdataRead_legal (u : EvCtx) (s : State) (h : Legal s) : ∀ t, execDrdataRead u s = .next t → Legal t := by
  unfold execDrdataRead; grind [BodyLegal, legal_at, fold_legal]

theorem execDrdataWrite_legal (u : EvCtxN) (s : State) (h : Legal s) : ∀ t, execDrdataWrite u s = .next t → Legal t := by
  unfold execDrdataWrite; grind [BodyLegal, legal_at, fold_legal, writeDrdata_legal]

theorem execClockChange_legal (u : EvNat) (s : State) (h : Legal s) : ∀ t, execClockChange u s = .next t → Legal t := by
  unfold execClockChange; grind [BodyLegal, legal_at, fold_legal, changeClock_legal]

theorem execTimeStep_legal (u : EvNat) (s : State) (h : Legal s) : ∀ t, execTimeStep u s = .next t → Legal t := by
  unfold execTimeStep; grind [BodyLegal, legal_at, fold_legal, servoStep_legal]

theorem execPpsInput_legal (x_ : EvNone) (s : State) (h : Legal s) : ∀ t, execPpsInput x_ s = .next t → Legal t := by
  unfold execPpsInput; grind [BodyLegal, legal_at, fold_legal, ppsEdge_legal]

theorem execPpsOutput_legal (x_ : EvNone) (s : State) (h : Legal s) : ∀ t, execPpsOutput x_ s = .next t → Legal t := by
  unfold execPpsOutput; grind [BodyLegal, legal_at, fold_legal, ppsRise_legal]

theorem execSteptoWrite_legal (u : EvNat) (s : State) (h : Legal s) : ∀ t, execSteptoWrite u s = .next t → Legal t := by
  unfold execSteptoWrite; grind [BodyLegal, legal_at, fold_legal, writeStepto_legal]

theorem execIeee1588Message_legal (u : EvPtp) (s : State) (h : Legal s) : ∀ t, execIeee1588Message u s = .next t → Legal t := by
  unfold execIeee1588Message; grind [BodyLegal, legal_at, fold_legal, servoMessage_legal]

theorem execPowerOn_legal (x_ : EvNone) (s : State) (h : Legal s) : ∀ t, execPowerOn x_ s = .next t → Legal t := by
  unfold execPowerOn; grind [BodyLegal, legal_at, fold_legal, powerOn_legal]

theorem execInstall_legal (x_ : EvNone) (s : State) (h : Legal s) : ∀ t, execInstall x_ s = .next t → Legal t := by
  unfold execInstall; grind [BodyLegal, legal_at, fold_legal, install_legal]

theorem execImageVerified_legal (x_ : EvNone) (s : State) (h : Legal s) : ∀ t, execImageVerified x_ s = .next t → Legal t := by
  unfold execImageVerified; grind [BodyLegal, legal_at, fold_legal, imageVerified_legal]

theorem execEnter_legal (x_ : EvNone) (s : State) (h : Legal s) : ∀ t, execEnter x_ s = .next t → Legal t := by
  unfold execEnter; grind [BodyLegal, legal_at, fold_legal, enterRecovery_legal]

theorem execLibsizeWrite_legal (u : EvNat) (s : State) (h : Legal s) : ∀ t, execLibsizeWrite u s = .next t → Legal t := by
  unfold execLibsizeWrite; grind [BodyLegal, legal_at, fold_legal, writeLibsize_legal]

theorem execPfApertureAccess_legal (u : EvAper) (s : State) (h : Legal s) : ∀ t, execPfApertureAccess u s = .next t → Legal t := by
  unfold execPfApertureAccess; grind [BodyLegal, legal_at, fold_legal, pfAperture_legal]

theorem execVfApertureAccess_legal (u : EvAper) (s : State) (h : Legal s) : ∀ t, execVfApertureAccess u s = .next t → Legal t := by
  unfold execVfApertureAccess; grind [BodyLegal, legal_at, fold_legal, vfAperture_legal]

theorem execRegisterWrite_legal (u : EvReg) (s : State) (h : Legal s) : ∀ t, execRegisterWrite u s = .next t → Legal t := by
  unfold execRegisterWrite; grind [BodyLegal, legal_at, fold_legal, registerWrite_legal]

theorem execGetVersion_legal (u : EvSpdm) (s : State) (h : Legal s) : ∀ t, execGetVersion u s = .next t → Legal t := by
  unfold execGetVersion; grind [BodyLegal, legal_at, fold_legal, getVersion_legal]

theorem execGetCapabilities_legal (u : EvSpdm) (s : State) (h : Legal s) : ∀ t, execGetCapabilities u s = .next t → Legal t := by
  unfold execGetCapabilities; grind [BodyLegal, legal_at, fold_legal, getCapabilities_legal]

theorem execNegotiateAlgorithms_legal (u : EvSpdm) (s : State) (h : Legal s) : ∀ t, execNegotiateAlgorithms u s = .next t → Legal t := by
  unfold execNegotiateAlgorithms; grind [BodyLegal, legal_at, fold_legal, negotiate_legal]

theorem execGetDigests_legal (u : EvSpdm) (s : State) (h : Legal s) : ∀ t, execGetDigests u s = .next t → Legal t := by
  unfold execGetDigests; grind [BodyLegal, legal_at, fold_legal, getDigests_legal]

theorem execGetCertificate_legal (u : EvSpdm) (s : State) (h : Legal s) : ∀ t, execGetCertificate u s = .next t → Legal t := by
  unfold execGetCertificate; grind [BodyLegal, legal_at, fold_legal, getCertificate_legal]

theorem execChallenge_legal (u : EvSpdm) (s : State) (h : Legal s) : ∀ t, execChallenge u s = .next t → Legal t := by
  unfold execChallenge; grind [BodyLegal, legal_at, fold_legal, challenge_legal]

theorem execGetMeasurements_legal (u : EvSpdm) (s : State) (h : Legal s) : ∀ t, execGetMeasurements u s = .next t → Legal t := by
  unfold execGetMeasurements; grind [BodyLegal, legal_at, fold_legal, getMeasurements_legal]

theorem execSpdmOtherRequest_legal (u : EvSpdm) (s : State) (h : Legal s) : ∀ t, execSpdmOtherRequest u s = .next t → Legal t := by
  unfold execSpdmOtherRequest; grind [BodyLegal, legal_at, fold_legal, spdmOther_legal]

theorem execDoeAbort_legal (u : EvNat) (s : State) (h : Legal s) : ∀ t, execDoeAbort u s = .next t → Legal t := by
  unfold execDoeAbort; grind [BodyLegal, legal_at, fold_legal, setHeard_legal, setSpdm_legal]

theorem execLinkDown_legal (u : EvNat) (s : State) (h : Legal s) : ∀ t, execLinkDown u s = .next t → Legal t := by
  unfold execLinkDown; grind [BodyLegal, legal_at, fold_legal, loseStores_legal, poisonLink_legal]

theorem execLinkUp_legal (u : EvNat) (s : State) (h : Legal s) : ∀ t, execLinkUp u s = .next t → Legal t := by
  unfold execLinkUp; grind [BodyLegal, legal_at, fold_legal]

theorem execPeerAccess_legal (u : EvPeer) (s : State) (h : Legal s) : ∀ t, execPeerAccess u s = .next t → Legal t := by
  unfold execPeerAccess; grind [BodyLegal, legal_at, fold_legal, peerAccess_legal]

theorem execPdload_legal (u : GPd) (s : State) (h : Legal s) : ∀ t, execPdload u s = .next t → Legal t := by
  unfold execPdload; grind [BodyLegal, legal_at, fold_legal, pdloadGroup_legal, runUnit_legal, groupBody_legal, TurnLegal]

theorem execPdinfo_legal (u : GPi) (s : State) (h : Legal s) : ∀ t, execPdinfo u s = .next t → Legal t := by
  unfold execPdinfo; grind [BodyLegal, legal_at, fold_legal, uniformUnit_legal]

theorem execDxt_legal (u : LRw) (s : State) (h : Legal s) : ∀ t, execDxt u s = .next t → Legal t := by
  unfold execDxt; grind [BodyLegal, legal_at, fold_legal, dxBody_legal, runUnit_legal]

theorem execDxcmp_legal (u : LCmpW) (s : State) (h : Legal s) : ∀ t, execDxcmp u s = .next t → Legal t := by
  unfold execDxcmp; grind [BodyLegal, legal_at, fold_legal, dxBody_legal, runUnit_legal]

theorem execDxval_legal (u : LDx) (s : State) (h : Legal s) : ∀ t, execDxval u s = .next t → Legal t := by
  unfold execDxval; grind [BodyLegal, legal_at, fold_legal, dxBody_legal, runUnit_legal]

theorem execDxenc_legal (u : LDx) (s : State) (h : Legal s) : ∀ t, execDxenc u s = .next t → Legal t := by
  unfold execDxenc; grind [BodyLegal, legal_at, fold_legal, dxBody_legal, runUnit_legal]

theorem exec_legal (i : Instr) (s : State) (h : Legal s) : ∀ t, exec i s = .next t → Legal t := by
  cases i with
  | iaddI u => exact execIaddI_legal u s h
  | iaddN u => exact execIaddN_legal u s h
  | isubI u => exact execIsubI_legal u s h
  | isubN u => exact execIsubN_legal u s h
  | imulI u => exact execImulI_legal u s h
  | imulN u => exact execImulN_legal u s h
  | imulhI u => exact execImulhI_legal u s h
  | imulhN u => exact execImulhN_legal u s h
  | imulwI u => exact execImulwI_legal u s h
  | imulwN u => exact execImulwN_legal u s h
  | imadI u => exact execImadI_legal u s h
  | imadN u => exact execImadN_legal u s h
  | iminI u => exact execIminI_legal u s h
  | iminN u => exact execIminN_legal u s h
  | imaxI u => exact execImaxI_legal u s h
  | imaxN u => exact execImaxN_legal u s h
  | isadI u => exact execIsadI_legal u s h
  | isadN u => exact execIsadN_legal u s h
  | icmpI u => exact execIcmpI_legal u s h
  | icmpN u => exact execIcmpN_legal u s h
  | iaddI16x2 u => exact execIaddI16x2_legal u s h
  | iaddN16x2 u => exact execIaddN16x2_legal u s h
  | isubI16x2 u => exact execIsubI16x2_legal u s h
  | isubN16x2 u => exact execIsubN16x2_legal u s h
  | iminI16x2 u => exact execIminI16x2_legal u s h
  | iminN16x2 u => exact execIminN16x2_legal u s h
  | imaxI16x2 u => exact execImaxI16x2_legal u s h
  | imaxN16x2 u => exact execImaxN16x2_legal u s h
  | icmpI16x2 u => exact execIcmpI16x2_legal u s h
  | icmpN16x2 u => exact execIcmpN16x2_legal u s h
  | and u => exact execAnd_legal u s h
  | or u => exact execOr_legal u s h
  | xor u => exact execXor_legal u s h
  | andn u => exact execAndn_legal u s h
  | shl u => exact execShl_legal u s h
  | shr u => exact execShr_legal u s h
  | sar u => exact execSar_legal u s h
  | rotl u => exact execRotl_legal u s h
  | bfxI u => exact execBfxI_legal u s h
  | bfxN u => exact execBfxN_legal u s h
  | bfi u => exact execBfi_legal u s h
  | sel u => exact execSel_legal u s h
  | fadd u => exact execFadd_legal u s h
  | fsub u => exact execFsub_legal u s h
  | fmul u => exact execFmul_legal u s h
  | ffma u => exact execFfma_legal u s h
  | fmin u => exact execFmin_legal u s h
  | fmax u => exact execFmax_legal u s h
  | fdiv u => exact execFdiv_legal u s h
  | fcmp u => exact execFcmp_legal u s h
  | fscale u => exact execFscale_legal u s h
  | faddBf16x2 u => exact execFaddBf16x2_legal u s h
  | fsubBf16x2 u => exact execFsubBf16x2_legal u s h
  | fmulBf16x2 u => exact execFmulBf16x2_legal u s h
  | ffmaBf16x2 u => exact execFfmaBf16x2_legal u s h
  | fminBf16x2 u => exact execFminBf16x2_legal u s h
  | fmaxBf16x2 u => exact execFmaxBf16x2_legal u s h
  | fcmpBf16x2 u => exact execFcmpBf16x2_legal u s h
  | faddFp16x2 u => exact execFaddFp16x2_legal u s h
  | fsubFp16x2 u => exact execFsubFp16x2_legal u s h
  | fmulFp16x2 u => exact execFmulFp16x2_legal u s h
  | ffmaFp16x2 u => exact execFfmaFp16x2_legal u s h
  | fminFp16x2 u => exact execFminFp16x2_legal u s h
  | fmaxFp16x2 u => exact execFmaxFp16x2_legal u s h
  | fcmpFp16x2 u => exact execFcmpFp16x2_legal u s h
  | iabs u => exact execIabs_legal u s h
  | ineg u => exact execIneg_legal u s h
  | clz u => exact execClz_legal u s h
  | popc u => exact execPopc_legal u s h
  | brev u => exact execBrev_legal u s h
  | fclass u => exact execFclass_legal u s h
  | frnd u => exact execFrnd_legal u s h
  | fract u => exact execFract_legal u s h
  | exp2 u => exact execExp2_legal u s h
  | log2 u => exact execLog2_legal u s h
  | rcp u => exact execRcp_legal u s h
  | rsq u => exact execRsq_legal u s h
  | sqrt u => exact execSqrt_legal u s h
  | sin u => exact execSin_legal u s h
  | cos u => exact execCos_legal u s h
  | tanh u => exact execTanh_legal u s h
  | cvtFloatSource u => exact execCvtFloatSource_legal u s h
  | cvtIntegerSource u => exact execCvtIntegerSource_legal u s h
  | cvts u => exact execCvts_legal u s h
  | blkenc u => exact execBlkenc_legal u s h
  | blkdec u => exact execBlkdec_legal u s h
  | rand u => exact execRand_legal u s h
  | tidx u => exact execTidx_legal u s h
  | shfl u => exact execShfl_legal u s h
  | shflUp u => exact execShflUp_legal u s h
  | shflDn u => exact execShflDn_legal u s h
  | shflXor u => exact execShflXor_legal u s h
  | xperm u => exact execXperm_legal u s h
  | vote u => exact execVote_legal u s h
  | reduce u => exact execReduce_legal u s h
  | scan u => exact execScan_legal u s h
  | matchLanes u => exact execMatchLanes_legal u s h
  | elect u => exact execElect_legal u s h
  | rdlane u => exact execRdlane_legal u s h
  | mov u => exact execMov_legal u s h
  | kmov u => exact execKmov_legal u s h
  | kpop u => exact execKpop_legal u s h
  | iaddImm u => exact execIaddImm_legal u s h
  | andImm u => exact execAndImm_legal u s h
  | orImm u => exact execOrImm_legal u s h
  | xorImm u => exact execXorImm_legal u s h
  | shlImm u => exact execShlImm_legal u s h
  | shrImm u => exact execShrImm_legal u s h
  | sarImm u => exact execSarImm_legal u s h
  | rotlImm u => exact execRotlImm_legal u s h
  | icmpIImm u => exact execIcmpIImm_legal u s h
  | icmpNImm u => exact execIcmpNImm_legal u s h
  | movi u => exact execMovi_legal u s h
  | jmpi u => exact execJmpi_legal u s h
  | calli u => exact execCalli_legal u s h
  | ldg u => exact execLdg_legal u s h
  | stg u => exact execStg_legal u s h
  | lds u => exact execLds_legal u s h
  | sts u => exact execSts_legal u s h
  | ldv u => exact execLdv_legal u s h
  | stv u => exact execStv_legal u s h
  | feset u => exact execFeset_legal u s h
  | feclr u => exact execFeclr_legal u s h
  | atom u => exact execAtom_legal u s h
  | atoms u => exact execAtoms_legal u s h
  | red u => exact execRed_legal u s h
  | mma u => exact execMma_legal u s h
  | mread u => exact execMread_legal u s h
  | kvgather u => exact execKvgather_legal u s h
  | rotq u => exact execRotq_legal u s h
  | accept u => exact execAccept_legal u s h
  | dxt u => exact execDxt_legal u s h
  | dxcmp u => exact execDxcmp_legal u s h
  | dxval u => exact execDxval_legal u s h
  | dxenc u => exact execDxenc_legal u s h
  | uadd u => exact execUadd_legal u s h
  | usub u => exact execUsub_legal u s h
  | umul u => exact execUmul_legal u s h
  | umulhI u => exact execUmulhI_legal u s h
  | umulhN u => exact execUmulhN_legal u s h
  | uand u => exact execUand_legal u s h
  | uor u => exact execUor_legal u s h
  | uxor u => exact execUxor_legal u s h
  | ushl u => exact execUshl_legal u s h
  | ushr u => exact execUshr_legal u s h
  | usar u => exact execUsar_legal u s h
  | uminI u => exact execUminI_legal u s h
  | uminN u => exact execUminN_legal u s h
  | umaxI u => exact execUmaxI_legal u s h
  | umaxN u => exact execUmaxN_legal u s h
  | umov u => exact execUmov_legal u s h
  | usel u => exact execUsel_legal u s h
  | ucmpI u => exact execUcmpI_legal u s h
  | ucmpN u => exact execUcmpN_legal u s h
  | uaddImm u => exact execUaddImm_legal u s h
  | uandImm u => exact execUandImm_legal u s h
  | uorImm u => exact execUorImm_legal u s h
  | uxorImm u => exact execUxorImm_legal u s h
  | ushlImm u => exact execUshlImm_legal u s h
  | ushrImm u => exact execUshrImm_legal u s h
  | usarImm u => exact execUsarImm_legal u s h
  | umovi u => exact execUmovi_legal u s h
  | uldc u => exact execUldc_legal u s h
  | rdsys u => exact execRdsys_legal u s h
  | wrsys u => exact execWrsys_legal u s h
  | tshape u => exact execTshape_legal u s h
  | xpld u => exact execXpld_legal u s h
  | bra u => exact execBra_legal u s h
  | bru u => exact execBru_legal u s h
  | brt u => exact execBrt_legal u s h
  | call u => exact execCall_legal u s h
  | callq u => exact execCallq_legal u s h
  | ret u => exact execRet_legal u s h
  | exit u => exact execExit_legal u s h
  | nop u => exact execNop_legal u s h
  | trap u => exact execTrap_legal u s h
  | trapret u => exact execTrapret_legal u s h
  | bkpt u => exact execBkpt_legal u s h
  | yield u => exact execYield_legal u s h
  | sleepto u => exact execSleepto_legal u s h
  | rdtime u => exact execRdtime_legal u s h
  | qload u => exact execQload_legal u s h
  | qpin u => exact execQpin_legal u s h
  | qunpin u => exact execQunpin_legal u s h
  | qstat u => exact execQstat_legal u s h
  | launch u => exact execLaunch_legal u s h
  | fetchw u => exact execFetchw_legal u s h
  | hash u => exact execHash_legal u s h
  | sign u => exact execSign_legal u s h
  | mext u => exact execMext_legal u s h
  | mrd u => exact execMrd_legal u s h
  | fence u => exact execFence_legal u s h
  | tierpf u => exact execTierpf_legal u s h
  | barinit u => exact execBarinit_legal u s h
  | arrive u => exact execArrive_legal u s h
  | waitph u => exact execWaitph_legal u s h
  | testph u => exact execTestph_legal u s h
  | cminit u => exact execCminit_legal u s h
  | cmwait u => exact execCmwait_legal u s h
  | cmtest u => exact execCmtest_legal u s h
  | strm u => exact execStrm_legal u s h
  | strmq u => exact execStrmq_legal u s h
  | mzero u => exact execMzero_legal u s h
  | mlatb u => exact execMlatb_legal u s h
  | mstore u => exact execMstore_legal u s h
  | mstat u => exact execMstat_legal u s h
  | gseal u => exact execGseal_legal u s h
  | impose u => exact execImpose_legal u s h
  | distrib u => exact execDistrib_legal u s h
  | distribCompact u => exact execDistribCompact_legal u s h
  | proofw u => exact execProofw_legal u s h
  | proofpub u => exact execProofpub_legal u s h
  | prstat u => exact execPrstat_legal u s h
  | kvappend u => exact execKvappend_legal u s h
  | specapp u => exact execSpecapp_legal u s h
  | commit u => exact execCommit_legal u s h
  | pdload u => exact execPdload_legal u s h
  | pdinfo u => exact execPdinfo_legal u s h
  | resultReturn u => exact execResultReturn_legal u s h
  | sleepWake u => exact execSleepWake_legal u s h
  | quireLoadComplete u => exact execQuireLoadComplete_legal u s h
  | pageWalk u => exact execPageWalk_legal u s h
  | streamerJobCheck u => exact execStreamerJobCheck_legal u s h
  | chunkWrite u => exact execChunkWrite_legal u s h
  | tierpfArrival u => exact execTierpfArrival_legal u s h
  | mlatbLatch u => exact execMlatbLatch_legal u s h
  | mmaPass u => exact execMmaPass_legal u s h
  | mstoreWrite u => exact execMstoreWrite_legal u s h
  | gsealPerform u => exact execGsealPerform_legal u s h
  | imposePerform u => exact execImposePerform_legal u s h
  | distribPerform u => exact execDistribPerform_legal u s h
  | proofpubPerform u => exact execProofpubPerform_legal u s h
  | kvgatherSnapshot u => exact execKvgatherSnapshot_legal u s h
  | kvappendPerform u => exact execKvappendPerform_legal u s h
  | specappPerform u => exact execSpecappPerform_legal u s h
  | commitPerform u => exact execCommitPerform_legal u s h
  | launchArrive u => exact execLaunchArrive_legal u s h
  | recordRead u => exact execRecordRead_legal u s h
  | placement u => exact execPlacement_legal u s h
  | workgroupStart u => exact execWorkgroupStart_legal u s h
  | launchComplete u => exact execLaunchComplete_legal u s h
  | fetchwDeliver u => exact execFetchwDeliver_legal u s h
  | preempt u => exact execPreempt_legal u s h
  | contextSwitch u => exact execContextSwitch_legal u s h
  | contextSave u => exact execContextSave_legal u s h
  | contextRestore u => exact execContextRestore_legal u s h
  | epochEnd u => exact execEpochEnd_legal u s h
  | clockChange u => exact execClockChange_legal u s h
  | timeStep u => exact execTimeStep_legal u s h
  | ppsInput u => exact execPpsInput_legal u s h
  | ppsOutput u => exact execPpsOutput_legal u s h
  | powerOn u => exact execPowerOn_legal u s h
  | partitionSetup u => exact execPartitionSetup_legal u s h
  | partitionTeardown u => exact execPartitionTeardown_legal u s h
  | create u => exact execCreate_legal u s h
  | teardown u => exact execTeardown_legal u s h
  | contextClosed u => exact execContextClosed_legal u s h
  | qtailWrite u => exact execQtailWrite_legal u s h
  | queueDescriptorWrite u => exact execQueueDescriptorWrite_legal u s h
  | fqheadWrite u => exact execFqheadWrite_legal u s h
  | fresumeRetry u => exact execFresumeRetry_legal u s h
  | fresumeAbort u => exact execFresumeAbort_legal u s h
  | invalidateRange u => exact execInvalidateRange_legal u s h
  | invalidateAll u => exact execInvalidateAll_legal u s h
  | invalidateDone u => exact execInvalidateDone_legal u s h
  | halt u => exact execHalt_legal u s h
  | resume u => exact execResume_legal u s h
  | step u => exact execStep_legal u s h
  | breakpointMatch u => exact execBreakpointMatch_legal u s h
  | debugStopped u => exact execDebugStopped_legal u s h
  | drdataRead u => exact execDrdataRead_legal u s h
  | drdataWrite u => exact execDrdataWrite_legal u s h
  | steptoWrite u => exact execSteptoWrite_legal u s h
  | install u => exact execInstall_legal u s h
  | imageVerified u => exact execImageVerified_legal u s h
  | enter u => exact execEnter_legal u s h
  | libsizeWrite u => exact execLibsizeWrite_legal u s h
  | pfApertureAccess u => exact execPfApertureAccess_legal u s h
  | vfApertureAccess u => exact execVfApertureAccess_legal u s h
  | registerWrite u => exact execRegisterWrite_legal u s h
  | getVersion u => exact execGetVersion_legal u s h
  | getCapabilities u => exact execGetCapabilities_legal u s h
  | negotiateAlgorithms u => exact execNegotiateAlgorithms_legal u s h
  | getDigests u => exact execGetDigests_legal u s h
  | getCertificate u => exact execGetCertificate_legal u s h
  | challenge u => exact execChallenge_legal u s h
  | getMeasurements u => exact execGetMeasurements_legal u s h
  | spdmOtherRequest u => exact execSpdmOtherRequest_legal u s h
  | doeAbort u => exact execDoeAbort_legal u s h
  | linkDown u => exact execLinkDown_legal u s h
  | linkUp u => exact execLinkUp_legal u s h
  | peerAccess u => exact execPeerAccess_legal u s h
  | copyComplete u => exact execCopyComplete_legal u s h
  | ieee1588Message u => exact execIeee1588Message_legal u s h
  | launchCancel u => exact execLaunchCancel_legal u s h

theorem runWords_legal (ws : List Word) (s : State) (h : Legal s) : ∀ t, runWords ws s = .next t → Legal t := by
  unfold runWords
  grind [illegalUnit_legal, exec_legal]

theorem settleUnit_legal (b : Bool) (i : IssueSet) (o : Out) (ho : ∀ t, o = .next t → Legal t) : ∀ t, settleUnit b i o = .next t → Legal t := by
  intro t ht
  unfold settleUnit at ht
  split at ht
  · cases ht
    split
    · exact settleStep_legal _ _ (ho _ rfl)
    · exact ho _ rfl
  · cases ht
  · cases ht

theorem issueUnit_legal (s : State) (i : IssueSet) (h : Legal s) : ∀ t, s.issueUnit i = .next t → Legal t := by
  have h1 := beginUnit_legal s i h
  intro t ht
  unfold State.issueUnit at ht
  dsimp only at ht
  split at ht
  · exact execBreakpointMatch_legal _ _ h1 t ht
  · split at ht
    · exact settleUnit_legal _ _ _ (fun t ht => by cases ht; exact strandUnit_legal _ h1) t ht
    · exact settleUnit_legal _ _ _ (runWords_legal _ _ h1) t ht

theorem with_issue_legal {s : State} (i : IssueSet) (h : Legal s) : Legal { s with issue := i } := (legal_at _).mpr ((legal_at s).mp h)

/-- Both units of a cycle, from the state in which they issue. -/
theorem pair_legal {s0 : State} (l u : IssueSet) (wl wu : List Word) (h0 : Legal s0) : ∀ t,
    (match runWords wl { s0 with issue := l } with
      | .next a => (match runWords wu { a.readAs s0 with issue := u } with
        | .next b => .next ({ b.mergedWith s0 a with holdEnds := false, ends := [] }.settleEnds b.ends)
        | o => o)
      | o => o : Out) = .next t → Legal t := by
  intro t ht
  split at ht
  · rename_i a he
    have ha := runWords_legal wl _ (with_issue_legal l h0) a he
    split at ht
    · rename_i b hb
      have hb : Legal b := runWords_legal wu _ (with_issue_legal u (readAs_legal _ _ ha)) b hb
      have hm := mergedWith_legal b s0 a hb
      obtain rfl := Host.Outcome.next.inj ht
      exact settleEnds_legal _ _ ((legal_at _).mpr ((legal_at (b.mergedWith s0 a)).mp hm))
    · rename_i o ho; exact absurd ht (ho t)
  · rename_i o ho; exact absurd ht (ho t)

theorem issuePair_legal (s : State) (l u : IssueSet) (wl wu : List Word) (h : Legal s) : ∀ t, s.issuePair l u wl wu = .next t → Legal t :=
  have hy := endYields_legal _ l.wid (ageOthers_legal _ u (ageOthers_legal s l h))
  pair_legal l u wl wu ((legal_at _).mpr ((legal_at (((s.ageOthers l).ageOthers u).endYields l.wid)).mp hy))

theorem run_legal (a : Action) (s : State) (h : Legal s) : ∀ t, Action.run a s = .next t → Legal t := by
  cases a with
  | unit i => exact issueUnit_legal s i h
  | pair l u wl wu => exact issuePair_legal s l u wl wu h
  | resultReturn u => exact execResultReturn_legal u s h
  | sleepWake u => exact execSleepWake_legal u s h
  | quireLoadComplete u => exact execQuireLoadComplete_legal u s h
  | streamerJobCheck u => exact execStreamerJobCheck_legal u s h
  | chunkWrite u => exact execChunkWrite_legal u s h
  | tierpfArrival u => exact execTierpfArrival_legal u s h
  | mlatbLatch u => exact execMlatbLatch_legal u s h
  | mmaPass u => exact execMmaPass_legal u s h
  | mstoreWrite u => exact execMstoreWrite_legal u s h
  | gsealPerform u => exact execGsealPerform_legal u s h
  | imposePerform u => exact execImposePerform_legal u s h
  | distribPerform u => exact execDistribPerform_legal u s h
  | proofpubPerform u => exact execProofpubPerform_legal u s h
  | kvgatherSnapshot u => exact execKvgatherSnapshot_legal u s h
  | kvappendPerform u => exact execKvappendPerform_legal u s h
  | specappPerform u => exact execSpecappPerform_legal u s h
  | commitPerform u => exact execCommitPerform_legal u s h
  | launchArrive u => exact execLaunchArrive_legal u s h
  | fetchwDeliver u => exact execFetchwDeliver_legal u s h
  | copyComplete u => exact execCopyComplete_legal u s h
  | recordRead u => exact execRecordRead_legal u s h
  | placement u => exact execPlacement_legal u s h
  | workgroupStart u => exact execWorkgroupStart_legal u s h
  | launchComplete u => exact execLaunchComplete_legal u s h
  | preempt u => exact execPreempt_legal u s h
  | contextSwitch u => exact execContextSwitch_legal u s h
  | contextSave u => exact execContextSave_legal u s h
  | contextRestore u => exact execContextRestore_legal u s h
  | contextClosed u => exact execContextClosed_legal u s h
  | invalidateDone u => exact execInvalidateDone_legal u s h
  | debugStopped u => exact execDebugStopped_legal u s h
  | epochEnd u => exact execEpochEnd_legal u s h
  | ppsOutput u => exact execPpsOutput_legal u s h
  | powerOn u => exact execPowerOn_legal u s h
  | imageVerified u => exact execImageVerified_legal u s h

end Sys2Proof.Laws
end

