-- ==== Sys2Proof/Laws/Moves.lean ====
section
/-!
SUPPORT. Threads that move (R160): what a control instruction leaves when every target of its lanes can be reached.
-/
namespace Sys2Proof.Laws
set_option Elab.async false
open Sys2Proof Sys2Proof.Machine

/-- Two stages with the same quires in the same states. -/
def SameQuires (s r : State) : Prop :=
  ∀ p c k q, ((r.resident p c k).quire q).state = ((s.resident p c k).quire q).state ∧
    ((r.resident p c k).quire q).length = ((s.resident p c k).quire q).length ∧
    ((r.resident p c k).quire q).image = ((s.resident p c k).quire q).image

theorem SameQuires.refl (s : State) : SameQuires s s := fun _ _ _ _ => ⟨rfl, rfl, rfl⟩
theorem SameQuires.trans {s r t : State} (h : SameQuires s r) (h' : SameQuires r t) : SameQuires s t := fun p c k q =>
  ⟨(h' p c k q).1.trans (h p c k q).1, (h' p c k q).2.1.trans (h p c k q).2.1, (h' p c k q).2.2.trans (h p c k q).2.2⟩
theorem SameQuires.of_residents {s r : State} (h : r.residents = s.residents) : SameQuires s r := fun p c k q => by
  simp only [State.resident, h, and_self]

theorem enterQuire_same (s : State) (p c k q : Nat) : SameQuires s (s.enterQuire p c k q) := by
  intro p' c' k' q'
  have h1 := resident_modResident s p c k p' c' k' (·.modQuire q (fun x => { x with entered := s.draws + 1 }))
    (fun x => by simp only [Resident.modQuire]; split <;> rfl) (fun x => by simp only [Resident.modQuire]; split <;> rfl)
    (fun x => by simp only [Resident.modQuire]; split <;> rfl)
  simp only [State.enterQuire, h1]
  split
  · rename_i h
    obtain ⟨rfl, rfl, rfl⟩ := h
    simp only [quire_modQuire _ q q' (fun x : Quire => { x with entered := s.draws + 1 }) (fun _ => rfl)]
    split
    · rename_i h; subst h; exact ⟨rfl, rfl, rfl⟩
    · exact ⟨rfl, rfl, rfl⟩
  · exact ⟨rfl, rfl, rfl⟩

theorem setPc_same (s : State) (wid gi ti : Nat) (pc : Word) : SameQuires s (s.setPc wid gi ti pc) := by
  simp only [State.setPc]
  split
  · split
    · exact SameQuires.of_residents rfl
    · exact (SameQuires.of_residents (r := s.modThread wid gi ti _) rfl).trans (enterQuire_same _ _ _ _ _)
  · exact SameQuires.refl s

theorem logRecord_residents (s : State) (p c a k kd core pc who : Nat) : (s.logRecord p c a k kd core pc who).residents = s.residents := by
  have hw : ∀ (t : State) (cs : List (Nat × Byte)) (v : Nat), (t.writeCells cs v).1.residents = t.residents := by
    intro t cs v
    simp only [State.writeCells]
    have : ∀ (l : List Nat) (a : State × List Nat), (l.foldl (fun acc g =>
        ((acc.1.writeGranule g v cs).1, if (acc.1.writeGranule g v cs).2 then acc.2 ++ [g] else acc.2)) a).1.residents = a.1.residents := by
      intro l
      induction l with
      | nil => intro a; rfl
      | cons g l ih =>
        intro a
        rw [List.foldl_cons, ih]
        simp only [State.writeGranule]
        split <;> rfl
    exact this _ (t, [])
  simp only [State.logRecord]
  split
  · simp
  · simp only [State.pushRecord, State.writePhys]
    split <;> simp [hw]

theorem logEnginePoison_residents (s : State) (w : Workgroup) (pc : Word) (a : Nat) : (s.logEnginePoison w pc a).residents = s.residents :=
  logRecord_residents s _ _ _ _ _ _ _ _

theorem ownPieces_residents (s : State) (h : SMap Versions) (ps : List Piece) : (s.ownPieces h ps).residents = s.residents := by
  unfold State.ownPieces
  exact fold_keeps State.residents (fun s (q : Piece) => s.modLane q.e _) (fun _ _ => rfl) ps s

theorem storeScratch_residents (s : State) (m : Nat) (rel rmw : Bool) (ws) :
    (s.storeScratch m false rel rmw ws).residents = s.residents := by
  unfold State.storeScratch
  split
  · rfl
  · dsimp only
    refine (fold_keeps State.residents _ (fun t g => ?_) _ _).trans ?_
    · split
      · exact logRecord_residents t _ _ _ _ _ _ _ _
      · rfl
    · refine (ownPieces_residents _ _ _).trans ?_
      have h0 := fold_keeps State.residents (fun s (w : LaneEnv × Nat × List Byte) => s.readyStore (w.1.scratchSpot w.2.1 w.2.2.length))
        (fun _ _ => rfl)
      split
      · exact (fold_keeps State.residents (fun s (w : LaneEnv × Nat × List Byte) => s.modLane w.1 Thread.freeze) (fun _ _ => rfl) _ _).trans (h0 _ s)
      · exact h0 _ s

theorem push_residents (s : State) (e : LaneEnv) (x : Word) : (s.push e x).residents = s.residents := by
  unfold State.push
  split
  · exact storeScratch_residents s _ _ _ _
  · rfl

theorem pop_residents (s : State) (e : LaneEnv) : (s.pop e).residents = s.residents := rfl

theorem setPc_onward (s : State) (wid gi ti : Nat) (pc : Word) : Onward s (s.setPc wid gi ti pc) := by
  simp only [State.setPc]
  have h := Onward.modThread s wid gi ti (fun t => { t with pc := pc }) (fun t => ⟨rfl, rfl, rfl, id⟩)
  split
  · split
    · exact h
    · exact h.trans (enterQuire_apart _ _ _ _ _).onward
  · exact Onward.refl s

theorem push_onward (s : State) (e : LaneEnv) (x : Word) : Onward s (s.push e x) := by
  unfold State.push
  refine Onward.trans ?_ (modLane_onward _ _ _ (fun _ => ⟨rfl, rfl, rfl, id⟩))
  split
  · exact storeScratch_onward s _ _ _ _
  · exact Onward.refl s

theorem pop_onward (s : State) (e : LaneEnv) : Onward s (s.pop e) := modLane_onward s e _ (fun _ => ⟨rfl, rfl, rfl, id⟩)

theorem push_same (s : State) (e : LaneEnv) (x : Word) : SameQuires s (s.push e x) := SameQuires.of_residents (push_residents s e x)
theorem pop_same (s : State) (e : LaneEnv) : SameQuires s (s.pop e) := SameQuires.of_residents (pop_residents s e)

/-- What one lane's move leaves. -/
def moved (next : Word) (m : Move) (t : State) (e : LaneEnv) : State :=
  match m with
  | .go pc _ push pop _ =>
    (if push then t.push e next else if pop then t.pop e else t).setPc e.wg.wid e.gi e.ti pc
  | _ => t.modThread e.wg.wid e.gi e.ti (fun x => { x with pc := next })

/-- A move that a lane can make at once. -/
def Movable (s : State) (e : LaneEnv) (m : Move) : Prop :=
  m = .fall ∨ ∃ pc push pop, m = .go pc false push pop false ∧ s.Reaches e pc ∧ pushTrap e push = none

theorem move_done (s t : State) (e : LaneEnv) (next : Word) (m : Move) (hm : Movable s e m) (hq : SameQuires s t) :
    t.move e next m = (moved next m t e, []) := by
  rcases hm with rfl | ⟨pc, push, pop, rfl, ⟨h1, h0, h2, h3⟩, h4⟩
  · rfl
  · have hst := (hq e.wg.part e.wg.ctx e.wg.core (pcQuire pc)).1.trans h2
    have hlen : pcOffset pc < ((t.resident e.wg.part e.wg.ctx e.wg.core).quire (pcQuire pc)).length := by
      rw [(hq e.wg.part e.wg.ctx e.wg.core (pcQuire pc)).2.1]; exact h3
    have hreach : ∀ f v, t.reachQuire e.wg (pcQuire pc) f v = (t, .done) := fun f v => by simp only [State.reachQuire, hst]
    have hb : ∀ v, t.beyondQuire e.wg pc v = false := fun v => by
      simp only [State.beyondQuire, hst, true_or, if_true, Bool.or_eq_false_iff, decide_eq_false_iff_not]
      omega
    simp [State.move, h1, hreach, hb, h4, moved, State.enter]

theorem moves_done (s : State) (next : Word) (hs : ∀ w ∈ s.wgs, w.wid = s.issue.wid → s.wg? s.issue.wid = some w)
    (l : List (LaneEnv × Move)) (hl : ∀ x ∈ l, x.1.wg.wid = s.issue.wid ∧ Movable s x.1 x.2) (t : State) (hq : SameQuires s t) (ho : Onward s t) :
    t.moves next l = (l.foldl (fun t x => moved next x.2 t x.1) t, []) ∧ Onward s (l.foldl (fun t x => moved next x.2 t x.1) t) := by
  simp only [State.moves]
  induction l generalizing t with
  | nil => exact ⟨rfl, ho⟩
  | cons a l ih =>
    obtain ⟨hid, hm⟩ := hl a List.mem_cons_self
    have hst := ho.single hs
    rw [← ho.issue] at hst
    have hq' : SameQuires s (moved next a.2 t a.1) := by
      refine hq.trans ?_
      unfold moved
      split
      · refine SameQuires.trans ?_ (setPc_same _ _ _ _ _)
        split
        · exact push_same _ _ _
        · split
          · exact pop_same _ _
          · exact SameQuires.refl _
      · exact SameQuires.of_residents rfl
    have ho' : Onward s (moved next a.2 t a.1) := by
      refine ho.trans ?_
      unfold moved
      split
      · refine Onward.trans ?_ (setPc_onward _ _ _ _ _)
        split
        · exact push_onward t _ _
        · split
          · exact pop_onward _ _
          · exact Onward.refl _
      · exact Onward.modThread _ _ _ _ _ (fun t => ⟨rfl, rfl, rfl, id⟩)
    have h1 := move_done s t a.1 next a.2 hm hq
    have := ih (fun x hx => hl x (List.mem_cons_of_mem _ hx)) _ hq' ho'
    simp only [List.foldl_cons, h1, List.append_nil]
    exact this

/-- A control instruction all of whose lanes move. -/
theorem moveUnit_done (i : Instr) (f : Word → LaneEnv → Move) (s : State) (h : Issues i s)
    (hm : ∀ e ∈ s.issueLanes (shapeOf i), Movable s e (f s.issue.pc e)) :
    moveUnit i f s = ((s.eachOf i (fun t e => moved (s.issue.pc + BitVec.ofNat 32 (4 * (shapeOf i).len)) (f s.issue.pc e) t e)).pastUnit
      (shapeOf i) true) := by
  refine (unit_done i true none noExtra _ s _ h ?_ ?_ : _)
  · simp only [moveBody]
    have h3 : ((s.issueLanes (shapeOf i)).map (fun e => (e, f s.issue.pc e))).any (fun x => x.2 == .exit) = false := by
      rw [List.any_eq_false]
      intro x hx
      obtain ⟨e, he, rfl⟩ := List.mem_map.mp hx
      rcases hm e he with h1 | ⟨pc, a, b, h1, _⟩ <;> simp [h1]
    have h4 := moves_done s (s.issue.pc + BitVec.ofNat 32 (4 * (shapeOf i).len)) h.calm.single
      ((s.issueLanes (shapeOf i)).map (fun e => (e, f s.issue.pc e))) (by
        intro x hx; obtain ⟨e, he, rfl⟩ := List.mem_map.mp hx
        exact ⟨lane_wid s _ e he, hm e he⟩) s (SameQuires.refl s) (Onward.refl s)
    rw [h3, h4.1]
    simp only [List.foldl_map, Bool.false_eq_true, if_false, State.eachOf]
  · have h4 := moves_done s (s.issue.pc + BitVec.ofNat 32 (4 * (shapeOf i).len)) h.calm.single
      ((s.issueLanes (shapeOf i)).map (fun e => (e, f s.issue.pc e))) (by
        intro x hx; obtain ⟨e, he, rfl⟩ := List.mem_map.mp hx
        exact ⟨lane_wid s _ e he, hm e he⟩) s (SameQuires.refl s) (Onward.refl s)
    have := h4.2
    simp only [List.foldl_map] at this
    exact this

end Sys2Proof.Laws
end

