-- ==== Sys2Proof/Laws/Lone.lean ====
section
/-!
SUPPORT. Units of one group: its first lane, what it may change and go onward, and threads that no wake reaches.
-/
namespace Sys2Proof.Laws
set_option Elab.async false
open Sys2Proof Sys2Proof.Machine

theorem lane_wg? (s : State) (sh : Shape) (e : LaneEnv) (he : e ∈ s.issueLanes sh) : s.wg? s.issue.wid = some e.wg := by
  obtain ⟨w, hw, m, hm, g, hg, ti, hti, t, ht, rfl⟩ := lane_of_mem s sh e he
  exact hw

/-- A lane's workgroup is the one that the state holds. -/
theorem lone_wg (s : State) (sh : Shape) (e : LaneEnv) (he : e ∈ s.issueLanes sh) : s.wgOf e = e.wg := by
  obtain ⟨w, hw, m, hm, g, hg, ti, hti, t, ht, rfl⟩ := lane_of_mem s sh e he
  simp only [State.wgOf, (wg_wid hw).1, hw, Option.getD_some]

/-- The lane of a unit of one group is among its lanes. -/
theorem lone_mem {i : Instr} {s : State} {e : LaneEnv} (h : Lone i s e) : e ∈ s.issueLanes (shapeOf i) := by
  have := h.first
  cases hh : s.issueLanes (shapeOf i) with
  | nil => rw [hh] at this; cases this
  | cons a l => rw [hh] at this; cases this; exact List.mem_cons_self

theorem laterG_onward (s : State) (e : LaneEnv) (d x) : Onward s (s.laterG e d x) :=
  Onward.addGPending _ _ _ _ (by simp [Pending.now])

theorem setG_onward (s : State) (e : LaneEnv) (d x) : Onward s (s.setG e d x) :=
  Onward.modGroup _ _ _ _ (fun g => GroupOn.writeG g _ _)

/-- A change of a group's own registers goes onward. -/
theorem group_onward (s : State) (wid gi) (f : Group → Group)
    (h : ∀ g, (f g).threads = g.threads ∧ (f g).gPending = g.gPending ∧ (f g).gMarks = g.gMarks) : Onward s (s.modGroup wid gi f) :=
  Onward.modGroup _ _ _ _ (fun g => GroupOn.of_threads (h g).1 (by rw [(h g).2.1]) (by rw [(h g).2.2]; exact id))

/-- A write of sys.seed goes onward. -/
theorem seed_onward (s : State) (wid gi) (x : DWord) : Onward s (s.modGroup wid gi (fun g =>
    { g with seed := x, threads := g.threads.map (fun t => { t with stream := 0 }) })) := by
  refine Onward.modGroup _ _ _ _ (fun g => ⟨⟨by simp, ?_, ?_⟩, ?_⟩)
  · intro ti t t' h h'
    simp only [List.getElem?_map, h, Option.map_some, Option.some.injEq] at h'
    subst h'; exact .inl rfl
  · intro ti t t' h h' hr
    simp only [List.getElem?_map, h, Option.map_some, Option.some.injEq] at h'
    subst h'; exact hr
  · intro ti t t' h h'
    simp only [List.getElem?_map, h, Option.map_some, Option.some.injEq] at h'
    subst h'; exact ⟨id, fun q => .inl q⟩

/-- A thread whose park `hit` does not satisfy keeps its park. -/
theorem meet_still {t : Thread} (past : Bool) (learn : ParkKind → View) {hit : ParkKind → Option Bool}
    (h : ∀ k set, t.run = .parked k set → hit k = none) : t.meet past learn hit = t := by
  unfold Thread.meet
  split
  · next k set hr => rw [h k set hr]
  · rfl

/-- Threads of a workgroup that no wake reaches stay as they are. -/
theorem endParks_still (s : State) (wid : Nat) (past : Bool) (learn : ParkKind → View) (hit : ParkKind → Option Bool)
    (single : ∀ x ∈ s.wgs, x.wid = wid → s.wg? wid = some x)
    (h : ∀ w, s.wg? wid = some w → ∀ g ∈ w.groups, ∀ t ∈ g.threads, ∀ k set, t.run = .parked k set → hit k = none)
    (hd : ∀ w, s.wg? wid = some w → ∀ set ∈ w.waitingSets, w.Rests set) : s.endParksWith wid past learn hit = s := by
  unfold State.endParksWith
  rw [modWg_same s wid _ (fun w hw hi => ?_)]
  · exact wakeWaits_rests s wid single hd
  · exact mapThreads_same w _ (fun g hg t ht => meet_still past learn (h w (single w hw hi) g hg t ht))

/-- The same of the issue set's workgroup in a calm state. -/
theorem endParks_calm {s : State} (hc : Calm s) (past : Bool) (hit : ParkKind → Option Bool)
    (h : ∀ w, s.wg? s.issue.wid = some w → ∀ g ∈ w.groups, ∀ t ∈ g.threads, ∀ k set, t.run = .parked k set → hit k = none) :
    s.endParks s.issue.wid past hit = s :=
  endParks_still s _ past (fun _ => []) hit hc.single h hc.resting

end Sys2Proof.Laws
end

