-- ==== Sys2Proof/Laws/Runs.lean ====
section
/-!
SUPPORT. What an operation of the forme unit answers that runs through: step by step, and what the pure parts of its work leave
of an entry.
-/
namespace Sys2Proof.Laws
set_option Elab.async false
open Sys2Proof Sys2Proof.Machine

/-! ### One step after another -/

/-- An operation whose first step runs through goes on with what that gave. -/
theorem gives_bind {α β : Type} {m : FM α} {s t : State} {a : α} (h : Gives m s a t) (f : α → FM β) : (m >>= f).run s = (f a).run t := by
  unfold Gives at h; rw [fm_bind, h]; rfl

theorem run_get {β : Type} (f : State → FM β) (s : State) : (MonadState.get >>= f : FM β).run s = (f s).run s := rfl

theorem run_modify {β : Type} (g : State → State) (f : PUnit → FM β) (s : State) : ((modify g : FM PUnit) >>= f).run s = (f ()).run (g s) := rfl

theorem run_pure {α β : Type} (a : α) (f : α → FM β) (s : State) : ((Pure.pure a : FM α) >>= f).run s = (f a).run s := rfl

theorem run_throw {α β : Type} (e : FErr) (f : α → FM β) (s : State) : ((throw e : FM α) >>= f).run s = (.error e, s) := rfl

theorem run_decode {β : Type} {bad : List Nat} (h : bad = []) (f : PUnit → FM β) (s : State) : (fmDecode bad >>= f).run s = (f ()).run s := by
  subst h; rfl

theorem run_put {β : Type} (j : Job) (rs : Runs) (cs : List (Nat × Byte)) (f : PUnit → FM β) (s : State) :
    (fmPut j rs cs >>= f).run s = (f ()).run (s.putRuns j rs cs) := rfl

theorem run_lastPut (j : Job) (rs : Runs) (cs : List (Nat × Byte)) (s : State) :
    (fmPut j rs cs).run s = (.ok (), s.putRuns j rs cs) := rfl

theorem run_save {β : Type} (j : Job) (rs : Runs) (w v : FWork) (f : PUnit → FM β) (s : State) :
    (fmSave j rs w v >>= f).run s = (f ()).run (s.putRuns j rs (w.changes v)) := rfl

theorem run_lastSave (j : Job) (rs : Runs) (w v : FWork) (s : State) :
    (fmSave j rs w v).run s = (.ok (), s.putRuns j rs (w.changes v)) := rfl

theorem run_refs {β : Type} (j : Job) (rs : Runs) (g : Nat) (u : Bool) (f : PUnit → FM β) (s : State) :
    (fmRefs j rs g u >>= f).run s = (f ()).run (s.putRefs j rs g u) := rfl

theorem run_arm {β : Type} (j : Job) (rs : Runs) (w : FWork) (e : Nat) (p : List Nat) (f : FWork → FM β) (s : State) :
    (fmArm j rs w e p >>= f).run s = (f (w.armed e p)).run (s.putRuns j rs (w.f.armCells e p)) := rfl

theorem nonzeroAt_nil {c : List Byte} {o n : Nat} (h : ∀ i < n, cmdNat c (o + i) 1 = 0) : nonzeroAt c o n = [] := by
  unfold nonzeroAt
  rw [List.filter_eq_nil_iff]
  intro a ha
  obtain ⟨i, hi, rfl⟩ := List.mem_map.mp ha
  simp [h i (List.mem_range.mp hi)]

/-- An operation that runs through has done its first step. -/
theorem gives_of_bind {α β : Type} {m : FM α} {f : α → FM β} {s t : State} {b : β} (h : Gives (m >>= f) s b t) :
    ∃ a s1, Gives m s a s1 ∧ Gives (f a) s1 b t := by
  unfold Gives at h ⊢
  rw [fm_bind] at h
  revert h
  generalize m.run s = q
  obtain ⟨q, s1⟩ := q
  cases q with
  | ok a => intro h; exact ⟨a, s1, rfl, h⟩
  | error b => intro h; exact absurd (congrArg Prod.fst h) (by intro h; injection h)

theorem gives_of_pure {α : Type} {a b : α} {s t : State} (h : Gives (Pure.pure a) s b t) : b = a := by
  have := congrArg Prod.fst h
  have : (Except.ok a : Except FErr α) = Except.ok b := this
  injection this with this
  exact this.symm

theorem gives_all_f {j : Job} {w v : FWork} {d : Nat} {s t : State} (h : Gives (fmAll j w d) s v t) : v.f = w.f := by
  obtain ⟨b, s1, _, h⟩ := gives_of_bind h
  rw [gives_of_pure h]

theorem gives_ring_f {j : Job} {w v : FWork} {d : Nat} {s t : State} (h : Gives (fmRing j w d) s v t) : v.f = w.f ∧ v.es = w.es := by
  obtain ⟨b, s1, _, h⟩ := gives_of_bind h
  rw [gives_of_pure h]
  exact ⟨rfl, rfl⟩

/-! ### Entries -/

theorem find_map_same (l : List (Nat × FEntry)) (e : Nat) (x : FEntry) :
    (l.map (fun y => if y.1 = e then (e, x) else y)).find? (fun y => y.1 == e) = (l.find? (fun y => y.1 == e)).map (fun _ => (e, x)) := by
  induction l with
  | nil => rfl
  | cons a l ih =>
    by_cases h : a.1 = e
    · simp [h]
    · simp [h, ih]

theorem setEntry_setEntry (w : FWork) (e : Nat) (x y : FEntry) : (w.setEntry e x).setEntry e y = w.setEntry e y := by
  unfold FWork.setEntry
  simp only [List.map_map, FWork.mk.injEq, true_and, and_true]
  apply List.map_congr_left
  intro a _
  by_cases h : a.1 = e <;> simp [h]

theorem entry_setEntry (w : FWork) (e : Nat) (x : FEntry) (h : ∃ y, w.es.find? (fun z => z.1 == e) = some y) : (w.setEntry e x).entry e = x := by
  obtain ⟨y, hy⟩ := h
  unfold FWork.entry FWork.setEntry
  simp only [find_map_same, hy, Option.map_some]

theorem setEntry_absent (w : FWork) (e : Nat) (x : FEntry) (h : w.es.find? (fun z => z.1 == e) = none) : w.setEntry e x = w := by
  unfold FWork.setEntry
  have : w.es.map (fun y => if y.1 = e then (e, x) else y) = w.es := by
    conv => rhs; rw [← List.map_id w.es]
    apply List.map_congr_left
    intro a ha
    have := List.find?_eq_none.mp h a ha
    simp only [beq_iff_eq] at this
    simp [this]
  rw [this]

theorem armed_of (w : FWork) (e : Nat) (y : FEntry) (p : List Nat) : (w.setEntry e y).armed e p =
    if p.isEmpty then w.setEntry e { y with state := 2, done := w.f.layers, psize := 0, flight := false, rel := false }
    else (w.setEntry e { y with state := 1, done := 0, psize := p.length, flight := false }).release e := by
  cases h : w.es.find? (fun z => z.1 == e) with
  | none =>
    unfold FWork.armed
    simp only [setEntry_absent w e _ h]
  | some z =>
    unfold FWork.armed
    simp only [entry_setEntry w e y ⟨z, h⟩, setEntry_setEntry]
    rfl

end Sys2Proof.Laws
end

