-- ==== Sys2Proof/Laws/Views.lean ====
section
/-!
SUPPORT. Views: what a raise and a join leave at each location, and what a list of views by scope holds after a join.
-/
namespace Sys2Proof.Laws
set_option Elab.async false
open Sys2Proof Sys2Proof.Machine

@[simp] theorem view_at_nil (loc : Nat) : View.at [] loc = 0 := rfl

theorem at_raise (v : View) (loc p l : Nat) : (v.raise loc p).at l = if l = loc then max (v.at l) p else v.at l := by
  unfold View.raise
  by_cases h : p ≤ v.at loc
  · simp only [h, if_true]
    split
    · next e => subst e; omega
    · rfl
  · simp only [h, if_false]
    split
    · next e => subst e; unfold View.at at *; rw [get_insert_same]; omega
    · next e => unfold View.at; rw [get_insert_other _ _ _ _ _ e]

theorem le_at_raise (v : View) (loc p l : Nat) : v.at l ≤ (v.raise loc p).at l := by
  rw [at_raise]; split <;> omega

theorem le_at_raise_same (v : View) (loc p : Nat) : p ≤ (v.raise loc p).at loc := by
  rw [at_raise, if_pos rfl]; omega

/-- A view raised by each element of a list asks for no less than before. -/
theorem le_at_foldl {α : Type} (f : α → Nat × Nat) (l : List α) (v : View) (loc : Nat) :
    v.at loc ≤ (l.foldl (fun a x => View.raise a (f x).1 (f x).2) v).at loc := by
  induction l generalizing v with
  | nil => exact Nat.le_refl _
  | cons a l ih => exact Nat.le_trans (le_at_raise v _ _ loc) (ih _)

/-- And for what each of them asks. -/
theorem mem_at_foldl {α : Type} (f : α → Nat × Nat) (l : List α) (v : View) (x : α) (hx : x ∈ l) :
    (f x).2 ≤ (l.foldl (fun a x => View.raise a (f x).1 (f x).2) v).at (f x).1 := by
  induction l generalizing v with
  | nil => cases hx
  | cons a l ih =>
    rcases List.mem_cons.mp hx with rfl | h
    · exact Nat.le_trans (le_at_raise_same v _ _) (le_at_foldl f l _ _)
    · exact ih _ h

theorem le_at_join_left (v u : View) (loc : Nat) : v.at loc ≤ (v.join u).at loc := le_at_foldl id u v loc

theorem at_mem_or_zero (u : View) (loc : Nat) : u.at loc = 0 ∨ (loc, u.at loc) ∈ u := by
  induction u with
  | nil => exact .inl rfl
  | cons p r ih =>
    obtain ⟨a, x⟩ := p
    unfold View.at at *
    by_cases h : a = loc
    · subst h; right; simp [SMap.get]
    · simp only [SMap.get, h, if_false]
      exact ih.imp id (List.mem_cons_of_mem _)

theorem le_at_join_right (v u : View) (loc : Nat) : u.at loc ≤ (v.join u).at loc := by
  rcases at_mem_or_zero u loc with h | h
  · omega
  · exact mem_at_foldl id u v (loc, u.at loc) h

theorem viewAt_joinAll (a b : List View) (m : Nat) : viewAt (joinAll a b) m = (viewAt a m).join (viewAt b m) := by
  unfold joinAll viewAt
  simp only [List.getElem?_map]
  by_cases h : m < max a.length b.length
  · simp [List.getElem?_range h]
  · have ha : a[m]? = none := List.getElem?_eq_none (by omega)
    have hb : b[m]? = none := List.getElem?_eq_none (by omega)
    simp [List.getElem?_eq_none (l := List.range (max a.length b.length)) (by simpa using h), ha, hb, View.join]

end Sys2Proof.Laws
end

