-- ==== Sys2Proof/Tests/Slice0.lean ====
section
/-!
SUPPORT. Tests: words that the spec writes out, ill-formed terms, worked examples of the spec, and for every statement that
has hypotheses a state and operands that meet them.
-/
namespace Sys2Proof.Tests
open Sys2Proof Sys2Proof.Machine Sys2Proof.Laws
set_option Elab.async false

/-! ### A small machine to try things on -/

/-- The machine that `placeUnit` sets up, before its one unit: eight threads of a general group issue at 0x80. -/
def bench : State := { State.reset.placeUnit [] with issue := { wid := 1, members := [(0, [0, 1, 2, 3, 4, 5, 6, 7])], pc := 0x80 } }

/-- A page of a micro-TLB: the first 32 MiB of a context's addresses on a core at physical address 0, an SC page, on which a load
sees the newest store. -/
def firstPage (part core : Nat) : TlbEntry :=
  { place := core, part := part, ctx := 0, base := 0, size := 2 ^ 25, frame := 0, ver := 0, host := false, hint := 0, sc := true, wr := true }

/-- A paradigm's header (R248): one-bit digits, one operand, one state, radix 2. -/
def paradigmHeader : List Byte := [1, 1, 0, 1, 0, 1, 2, 0]

/-- An image whose one state takes both digits to itself, with a final action. -/
def paradigmImage (final : Nat) : List Byte :=
  paradigmHeader ++ List.replicate 56 0 ++ bytesOf final 2 ++ List.replicate 62 0 ++ bytesOf 0x8000 2 ++ bytesOf 0x8000 2

/-- The same machine with the group's role and g registers given, 32 KiB of scratch with a barrier of two at 0, a chunk map
at 16 and, at 64, a command block that names the map, vault space, a page of memory, and images in the paradigm slots. -/
def yard (role : Nat) (gs : SMap Word) : State :=
  { bench.modWg 1 (fun w => { w with
      scratchSize := 32768, vaultSize := 4096, objects := [(0, .barrier 0 0 0), (16, .chunkMap)]
      scratch := SMap.write [] 0 (bytesOf 2 4 ++ bytesOf 2 4 ++ List.replicate 68 0 ++ bytesOf 16 4) 0
      groups := w.groups.map (fun g => { g with role := role, g := gs }) }) with
    residents := bench.residents.map (fun r => { r with paradigms := [0x8000, 0xC000, 0x8000, 0x8000].map (fun f => some (SMap.write [] 0 (paradigmImage f) 0)) })
    tlb := [firstPage 0 0, firstPage 0 0xFF] }

/-- No set of a workgroup waits for results where no thread's park is one that results end. -/
theorem no_sets {w : Workgroup} (h : ∀ g ∈ w.groups, ∀ t ∈ g.threads, (match t.run with | .parked k _ => k.isMet | _ => false) = false) :
    w.waitingSets = [] := by
  unfold Workgroup.waitingSets
  rw [List.flatMap_eq_nil_iff.mpr (fun g hg => List.filterMap_eq_nil_iff.mpr (fun t ht => by
    have := h g hg t ht
    split
    · next k n e => rw [e] at this; simp only [this, Bool.false_eq_true, if_false]
    · rfl))]
  rfl

/-- A check that decides `Clear` on a machine of one workgroup whose threads are all READY, for a unit without W. -/
def clearB (i : Instr) (cross : Option CrossReads) (extra : State → Workgroup → List (Nat × Nat)) (s : State) : Bool :=
  match s.wgs with
  | [w] => w.wid == s.issue.wid && ! (shapeOf i).h && decide (s.issue.members.map (·.1)).Nodup
      && s.issue.members.all (fun m => decide m.2.Nodup && (match w.groups[m.1]? with
        | some g => m.2.all (fun ti => decide (ti < g.threads.length))
        | none => false))
      && w.groups.all (fun g => g.threads.all (fun t => t.run == .ready))
      && (s.issueLanes (shapeOf i)).all (fun e => (prologue (shapeOf i) cross (extra s e.wg) e).isNone)
  | _ => false

theorem clear_of_clearB {i : Instr} {cross : Option CrossReads} {extra : State → Workgroup → List (Nat × Nat)} {s : State}
    (h : clearB i cross extra s = true) : Clear i cross extra s := by
  unfold clearB at h
  split at h
  case h_2 => exact absurd h (by simp)
  case h_1 w hw =>
    simp only [Bool.and_eq_true, beq_iff_eq, Bool.not_eq_true', decide_eq_true_eq, List.all_eq_true] at h
    obtain ⟨⟨⟨⟨⟨hid, hh⟩, hn⟩, hm⟩, hr⟩, hp⟩ := h
    have hf : s.wg? s.issue.wid = some w := by simp [State.wg?, hw, hid]
    have ready : ∀ gi ti t, s.thread? s.issue.wid gi ti = some t → t.run = .ready := by
      intro gi ti t ht
      simp only [State.thread?, State.group?, hf, Option.bind_some] at ht
      cases hg : w.groups[gi]? with
      | none => simp [hg] at ht
      | some g =>
        simp only [hg, Option.bind_some] at ht
        exact hr g (List.mem_of_getElem? hg) t (List.mem_of_getElem? ht)
    refine ⟨⟨⟨w, hf⟩, ?_, hn, fun m hx => (hm m hx).1, fun gi ti t _ ht => .inl (ready gi ti t ht), ?_, ?_⟩, ?_, ?_, ?_⟩
    · intro v hv _
      simp only [hw, List.mem_singleton] at hv
      rw [hv, hf]
    · intro v hv g hg t ht k set hk
      rw [hf, Option.some.injEq] at hv
      subst hv
      rw [hr g hg t ht] at hk
      exact absurd hk (by simp)
    · intro v hv set hs
      rw [hf, Option.some.injEq] at hv
      subst hv
      rw [no_sets (fun g hg t ht => by rw [hr g hg t ht])] at hs
      cases hs
    · intro m hx
      have := (hm m hx).2
      split at this
      case h_1 g hg =>
        refine ⟨g, by simp [State.group?, hf, hg], fun ti ht => ?_⟩
        simp only [List.all_eq_true, decide_eq_true_eq] at this
        exact ⟨g.threads[ti]'(this ti ht), by simp [this ti ht], hr g (List.mem_of_getElem? hg) _ (List.getElem_mem _)⟩
      case h_2 => exact absurd this (by simp)
    · intro e he
      simpa using hp e he
    · intro hc; rw [hh] at hc; exact absurd hc (by simp)

/-- `clearB` of several units. -/
theorem issues_all {l : List Instr} {s : State} (h : l.all (fun i => clearB i none noExtra s) = true) : ∀ i ∈ l, Issues i s :=
  fun i hi => clear_of_clearB (List.all_eq_true.mp h i hi)

/-- A decidable condition on every lane. -/
theorem each {α : Type} {l : List α} {P : α → Prop} [DecidablePred P] (h : l.all (fun e => decide (P e)) = true) : ∀ e ∈ l, P e :=
  fun e he => of_decide_eq_true (List.all_eq_true.mp h e he)

/-- A condition on the first lane of a unit that one group issues. -/
theorem lone {i : Instr} {s : State} {P : LaneEnv → Prop} [DecidablePred P]
    (h : (match (s.issueLanes (shapeOf i)).head? with
      | some e => (s.issueLanes (shapeOf i)).all (fun x => x.gi == e.gi) && decide (P e)
      | none => false) = true) : ∃ e, Lone i s e ∧ P e := by
  split at h
  case h_1 e he =>
    simp only [Bool.and_eq_true, List.all_eq_true, beq_iff_eq, decide_eq_true_eq] at h
    exact ⟨e, ⟨he, h.1⟩, h.2⟩
  case h_2 => exact absurd h (by simp)

/-- A condition on the lowest lane of a unit that one group issues, and one on all of its lanes. -/
theorem lowestLane {i : Instr} {s : State} {P Q : LaneEnv → Prop} [DecidablePred P] [DecidablePred Q]
    (h : (match (s.issueLanes (shapeOf i)).head? with
      | some e => (s.issueLanes (shapeOf i)).all (fun x => x.gi == e.gi && decide (e.ti ≤ x.ti) && decide (Q x)) && decide (P e)
      | none => false) = true) : ∃ e, Lowest i s e ∧ P e ∧ ∀ x ∈ s.issueLanes (shapeOf i), Q x := by
  split at h
  case h_1 e he =>
    simp only [Bool.and_eq_true, List.all_eq_true, beq_iff_eq, decide_eq_true_eq] at h
    exact ⟨e, ⟨List.mem_of_head? he, fun x hx => (h.1 x hx).1⟩, h.2, fun x hx => (h.1 x hx).2⟩
  case h_2 => exact absurd h (by simp)

/-- A first component, given the second. -/
theorem fst_of {α β : Type} {p : α × β} {b : β} (h : p.2 = b) : ∃ a, p = (a, b) := ⟨p.1, by rw [← h]⟩

/-- No thread waits anywhere while every one is READY. -/
theorem nobodyAt {w : Workgroup} (h : w.groups.all (fun g => g.threads.all (fun t => t.run == .ready)) = true) (o : Nat) : w.NobodyAt o := by
  intro g hg t ht k set hk
  have := List.all_eq_true.mp (List.all_eq_true.mp h g hg) t ht
  rw [hk] at this
  exact absurd this (by simp)

/-! ### Hypotheses that something meets: the lanes -/

theorem witness_IntegerArithmetic :
    (∀ i ∈ ([.iaddI ⟨none, false, 95, 0, 1, 0⟩, .iaddN ⟨none, false, 94, 2, 4, 1⟩, .isubI ⟨none, false, 1, 1, 1, 0⟩,
      .isubN ⟨none, false, 0, 97, 96, 0⟩, .imulI ⟨none, false, 2, 4, 6, 1⟩, .imulN ⟨none, false, 3, 4, 5, 0⟩,
      .imulhI ⟨none, false, 3, 4, 5, 0⟩, .imulhN ⟨none, false, 2, 4, 6, 1⟩, .imadI ⟨none, false, 3, 4, 5, 0⟩,
      .imadN ⟨some ⟨false, 0, false, 0, 7, true, false, false, false, false, false, 0⟩, false, 3, 4, 5, 0⟩,
      .iminI ⟨none, false, 3, 4, 5, 0⟩, .iminN ⟨none, false, 3, 4, 5, 0⟩, .imaxI ⟨none, false, 3, 4, 5, 0⟩,
      .imaxN ⟨none, false, 3, 4, 5, 0⟩, .isadI ⟨none, false, 3, 4, 5, 0⟩, .isadN ⟨none, false, 3, 4, 5, 0⟩,
      .imulwI ⟨none, false, 94, 95, 0⟩, .imulwN ⟨none, false, 2, 3, 4⟩, .iaddI16x2 ⟨none, false, 95, 3, 4⟩,
      .iaddN16x2 ⟨none, false, 2, 3, 4⟩, .isubI16x2 ⟨none, false, 2, 3, 4⟩, .isubN16x2 ⟨none, false, 2, 3, 4⟩,
      .iminI16x2 ⟨none, false, 2, 3, 4⟩, .iminN16x2 ⟨none, false, 2, 3, 4⟩, .imaxI16x2 ⟨none, false, 2, 3, 4⟩,
      .imaxN16x2 ⟨none, false, 2, 3, 4⟩, .iabs ⟨none, false, 95, 0, 4, 0⟩, .ineg ⟨none, false, 94, 2, 6, 1⟩,
      .clz ⟨none, false, 1, 2, 5, 0⟩, .popc ⟨none, false, 2, 4, 7, 1⟩, .brev ⟨none, false, 1, 2, 4, 0⟩,
      .iaddImm ⟨none, none, false, 95, 0, 0x1FF⟩] : List Instr), Issues i bench) ∧ (95#7).toNat % 2 = 1 :=
  ⟨issues_all (by decide +kernel), rfl⟩

theorem witness_ComparesWriteMasks : ∀ i ∈ ([.icmpI ⟨none, false, 0, 7, 95, 0, 0⟩, .icmpN ⟨none, false, 2, 1, 2, 4, 1⟩,
    .fcmp ⟨none, false, 1, 1, 2, 3, 0⟩, .icmpI16x2 ⟨none, false, 0, 6, 2, 3⟩, .icmpN16x2 ⟨none, false, 0, 2, 2, 3⟩,
    .fcmpBf16x2 ⟨none, false, 0, 2, 2, 3⟩, .fcmpFp16x2 ⟨none, false, 0, 4, 2, 3⟩, .icmpIImm ⟨none, none, false, 0, 3, 2, 0x100⟩,
    .icmpNImm ⟨none, none, false, 5, 3, 2, 1⟩] : List Instr), Issues i bench :=
  issues_all (by decide +kernel)

theorem witness_BitwiseAndShifts : ∀ i ∈ ([.and ⟨none, false, 95, 0, 1, 0⟩, .or ⟨none, false, 92, 4, 8, 2⟩,
    .xor ⟨none, false, 88, 8, 16, 3⟩, .andn ⟨none, false, 2, 4, 6, 1⟩, .andImm ⟨none, none, false, 95, 1, 0x1FF⟩,
    .orImm ⟨none, none, false, 1, 1, 0⟩, .xorImm ⟨none, none, false, 1, 2, 3⟩, .shl ⟨none, false, 95, 0, 1, 0⟩, .shr ⟨none, false, 94, 2, 6, 1⟩,
    .sar ⟨none, false, 1, 2, 3, 0⟩, .rotl ⟨none, false, 2, 4, 6, 1⟩, .shlImm ⟨none, false, 1, 2, 31⟩,
    .shrImm ⟨none, false, 1, 2, 0⟩, .sarImm ⟨none, false, 1, 2, 31⟩, .rotlImm ⟨none, false, 1, 2, 1⟩] : List Instr), Issues i bench :=
  issues_all (by decide +kernel)

theorem witness_FieldsSelectionMoves :
    (∀ i ∈ ([.bfxI ⟨none, false, 95, 0, 1, 0⟩, .bfxN ⟨none, false, 2, 4, 6, 1⟩, .bfi ⟨none, false, 1, 2, 3, 0⟩,
      .sel ⟨none, false, 88, 0, 8, 3⟩, .movi ⟨none, some ⟨false, 0x1A2B⟩, false, 95, 0x1FF⟩, .mov ⟨none, false, 92, 0, 2⟩,
      .kmov ⟨none, false, 7, 1, 0⟩, .kmov ⟨none, false, 7, 1, 1⟩, .kmov ⟨none, false, 95, 1, 2⟩] : List Instr), Issues i bench) :=
  issues_all (by decide +kernel)

theorem witness_FloatArithmetic : ∀ i ∈ ([.fadd ⟨none, false, 95, 0, 1, 0⟩, .fsub ⟨none, false, 94, 2, 4, 1⟩,
    .fmul ⟨none, false, 1, 2, 3, 0⟩,
    .ffma ⟨some ⟨false, 0, false, 5, 7, true, true, false, false, false, false, 0⟩, false, 3, 4, 5, 0⟩,
    .fdiv ⟨none, false, 1, 2, 3, 0⟩, .fmin ⟨none, false, 1, 2, 3, 0⟩, .fmax ⟨none, false, 1, 2, 3, 0⟩, .fscale ⟨none, false, 1, 2, 3, 0⟩,
    .faddBf16x2 ⟨none, false, 95, 2, 3⟩, .faddFp16x2 ⟨none, false, 1, 2, 3⟩, .fsubBf16x2 ⟨none, false, 1, 2, 3⟩,
    .fsubFp16x2 ⟨none, false, 1, 2, 3⟩, .fmulBf16x2 ⟨none, false, 1, 2, 3⟩, .fmulFp16x2 ⟨none, false, 1, 2, 3⟩,
    .ffmaBf16x2 ⟨none, false, 1, 2, 3⟩, .ffmaFp16x2 ⟨none, false, 1, 2, 3⟩, .fminBf16x2 ⟨none, false, 1, 2, 3⟩,
    .fminFp16x2 ⟨none, false, 1, 2, 3⟩, .fmaxBf16x2 ⟨none, false, 1, 2, 3⟩, .fmaxFp16x2 ⟨none, false, 1, 2, 3⟩] : List Instr),
    Issues i bench :=
  issues_all (by decide +kernel)

theorem witness_FloatOneSource : ∀ i ∈ ([.fclass ⟨none, false, 95, 0, 0, 0⟩, .frnd ⟨none, false, 94, 2, 1, 1⟩,
    .fract ⟨none, false, 1, 2, 3, 0⟩, .exp2 ⟨none, false, 1, 2, 0, 0⟩, .log2 ⟨none, false, 1, 2, 0, 0⟩, .rcp ⟨none, false, 1, 2, 0, 0⟩,
    .rsq ⟨none, false, 1, 2, 0, 0⟩, .sqrt ⟨none, false, 1, 2, 0, 0⟩, .sin ⟨none, false, 1, 2, 0, 0⟩, .cos ⟨none, false, 1, 2, 0, 0⟩,
    .tanh ⟨none, false, 1, 2, 0, 0⟩] : List Instr), Issues i bench :=
  issues_all (by decide +kernel)

theorem witness_Conversions :
    (∀ i ∈ ([.cvtIntegerSource ⟨none, false, 1, 2, 4, 1⟩, .blkdec ⟨none, false, 8, 2, 0, 0⟩, .blkdec ⟨none, false, 8, 2, 0, 1⟩] : List Instr),
      Issues i bench) ∧
    let p : Pfx := ⟨false, 0, false, 0, 12, true, false, false, false, false, false, 0⟩
    let mates (e : LaneEnv) : List Nat := e.parts.filter (fun i => i / 8 == e.ti / 8)
    let alone (a : Nat) (size : Nat) (c : List Nat) : CrossReads := fun e => (e.ti, a, size) :: c.map (fun n => (e.ti, n, 1))
    let block (a : Nat) (size : Nat) (c : List Nat) : CrossReads := fun e =>
      (mates e).map (fun i => (i, a, size)) ++ c.flatMap (fun n => (mates e).map (fun i => (i, n, 1)))
        ++ e.maskReads (e.issued.filter (fun i => i / 8 == e.ti / 8))
    (∀ n ∈ ([2, 8] : List (BitVec 4)), Clear (.cvtFloatSource ⟨none, false, 1, 4, 1, n⟩) (some (alone 4 (cvtSrcGroup false 1 n.toNat) [])) noExtra bench) ∧
    (∀ n ∈ ([6, 7] : List (BitVec 4)), Clear (.cvtFloatSource ⟨none, false, 2, 8, 1, n⟩) (some (block 8 (cvtSrcGroup false 1 n.toNat) [])) noExtra bench) ∧
    Clear (.cvts ⟨some p, false, 94, 4, 1, 0⟩) (some (alone 4 (cvtSrcGroup false 1 0) [cOf (some p)])) noExtra bench ∧
    (∀ n ∈ ([6, 7] : List (BitVec 4)),
      Clear (.cvts ⟨some p, false, 2, 8, 1, n⟩) (some (block 8 (cvtSrcGroup false 1 n.toNat) [cOf (some p)])) noExtra bench) ∧
    (∀ n ∈ ([0, 1] : List (BitVec 4)), Clear (.blkenc ⟨none, false, 2, 8, 0, n⟩) (some (block 8 (blkGroup 0) [])) noExtra bench) := by
  refine ⟨issues_all (by decide +kernel), fun n hn => ?_, fun n hn => ?_, clear_of_clearB (by decide +kernel), fun n hn => ?_, fun n hn => ?_⟩
  all_goals
    simp only [List.mem_cons, List.not_mem_nil, or_false] at hn
    rcases hn with rfl | rfl <;> exact clear_of_clearB (by decide +kernel)

theorem witness_RandomAndAccept : ∀ i ∈ ([.rand ⟨none, false, 95, 0⟩, .rand ⟨none, false, 1, 1⟩, .rand ⟨none, false, 1, 2⟩,
    .accept ⟨none, false, 6, 2, 4, 0⟩, .accept ⟨none, false, 2, 4, 6, 1⟩] : List Instr), Issues i bench :=
  issues_all (by decide +kernel)

theorem witness_CrossLane :
    (let u : LRw := ⟨none, false, 94, 4, 8, 1⟩
     let src (e : LaneEnv) : Nat := (e.reg u.b.toNat).toNat % 64 % e.g.width
     let lead (e : LaneEnv) : Nat := (e.issued.head?).getD e.ti
     let idx (e : LaneEnv) : Nat := (if isG u.b then e.reg u.b.toNat else e.regOf (lead e) u.b.toNat).toNat % e.g.width
     Clear (.shfl u) (some (fun e => [(src e, u.a.toNat, grp u.w), (e.ti, u.b.toNat, grp u.w)])) noExtra bench ∧
     Clear (.rdlane u) (some (fun e => (idx e, u.a.toNat, grp u.w) ::
       (if isG u.b then e.issued.map (fun i => (i, u.b.toNat, 1)) else [(lead e, u.b.toNat, 1)]))) noExtra bench) ∧
    (let u : LShf := ⟨none, false, 95, 0, 63⟩
     let up (e : LaneEnv) : Nat := if e.ti < 63 then e.ti else e.ti - 63
     let dn (e : LaneEnv) : Nat := if e.g.width ≤ e.ti + 63 then e.ti else e.ti + 63
     Clear (.shflUp u) (some (fun e => [(up e, 0, 1)])) noExtra bench ∧
     Clear (.shflDn u) (some (fun e => [(dn e, 0, 1)])) noExtra bench ∧
     Clear (.shflXor u) (some (fun e => [(e.ti ^^^ (63 % e.g.width), 0, 1)])) noExtra bench) ∧
    (∀ f ∈ ([(0, 7), (1, 1), (2, 3), (3, 126)] : List (BitVec 4 × BitVec 7)), Clear (.vote ⟨none, false, f.2, 7, f.1⟩) (some (fun e => e.parts.map (fun i => (i, 135, 1)) ++ e.maskReads e.issued)) noExtra bench) ∧
    (∀ i ∈ ([.elect ⟨none, false, 7, 0⟩, .elect ⟨none, false, 127, 1⟩] : List Instr), Issues i bench) ∧
    Clear (.kpop ⟨none, false, 95, 7⟩) (some (fun e => e.issued.map (fun i => (i, 135, 1)))) noExtra bench ∧
    Clear (.matchLanes ⟨none, false, 94, 2, 6, 1⟩) (some (fun e => e.parts.map (fun i => (i, 2, 2)) ++ e.maskReads e.issued)) noExtra bench ∧
    ∀ f ∈ ([(0, 0, 0), (4, 3, 0), (6, 1, 1)] : List (BitVec 3 × BitVec 4 × BitVec 2)),
      Clear (.reduce ⟨none, false, 2, 4, f.1, f.2.1, f.2.2⟩) (some (fun e => e.parts.map (fun i => (i, 4, typeGroup f.1)) ++ e.maskReads e.issued)) noExtra bench ∧
      Clear (.scan ⟨none, false, 2, 4, f.1, f.2.1, f.2.2⟩) (some (fun e => e.parts.map (fun i => (i, 4, typeGroup f.1)) ++ e.maskReads e.issued)) noExtra bench := by
  refine ⟨⟨clear_of_clearB ?_, clear_of_clearB ?_⟩, ⟨clear_of_clearB ?_, clear_of_clearB ?_, clear_of_clearB ?_⟩, ?_, issues_all ?_,
    clear_of_clearB ?_, clear_of_clearB ?_, ?_⟩
  case refine_6 =>
    intro f hf
    simp only [List.mem_cons, List.not_mem_nil, or_false] at hf
    rcases hf with rfl | rfl | rfl | rfl <;> exact clear_of_clearB (by decide +kernel)
  case refine_10 =>
    intro f hf
    simp only [List.mem_cons, List.not_mem_nil, or_false] at hf
    rcases hf with rfl | rfl | rfl <;> exact ⟨clear_of_clearB (by decide +kernel), clear_of_clearB (by decide +kernel)⟩
  all_goals decide +kernel

/-! ### Uniform instructions and control -/

theorem witness_UniformInstructions : (∀ i ∈ ([.uadd ⟨false, 31, 0, 1⟩, .usub ⟨false, 0, 1, 2⟩, .umul ⟨false, 1, 1, 1⟩,
    .umulhI ⟨false, 1, 2, 3⟩, .umulhN ⟨false, 1, 2, 3⟩, .uand ⟨false, 1, 2, 3⟩, .uor ⟨false, 1, 2, 3⟩, .uxor ⟨false, 1, 2, 3⟩,
    .ushl ⟨false, 1, 2, 3⟩, .ushr ⟨false, 1, 2, 3⟩, .usar ⟨false, 1, 2, 3⟩, .uminI ⟨false, 1, 2, 3⟩, .uminN ⟨false, 1, 2, 3⟩,
    .umaxI ⟨false, 1, 2, 3⟩, .umaxN ⟨false, 1, 2, 3⟩, .usel ⟨false, 1, 2, 3⟩, .ucmpI ⟨false, 31, 2, 3, 5⟩,
    .ucmpN ⟨false, 1, 2, 3, 0⟩, .uaddImm ⟨false, 3, 3, 0x1FFF⟩, .uandImm ⟨false, 1, 2, 3⟩, .uorImm ⟨false, 1, 2, 3⟩,
    .uxorImm ⟨false, 1, 2, 3⟩, .ushlImm ⟨false, 1, 2, 31⟩, .ushrImm ⟨false, 1, 2, 0⟩, .usarImm ⟨false, 1, 2, 31⟩,
    .umov ⟨false, 31, 1⟩, .umovi ⟨false, 1, 0x1000⟩, .rdsys ⟨false, 4, 0x20⟩, .rdsys ⟨false, 31, 0⟩, .rdtime ⟨false, 30⟩,
    .qstat ⟨false, 31, 0, 255⟩] : List Instr), Issues i bench) ∧ Issues (.pdinfo ⟨false, 31, 3⟩) (yard 0 []) :=
  ⟨issues_all (by decide +kernel), clear_of_clearB (by decide +kernel)⟩

theorem witness_UnitsThatOnlyGoOn :
    (∀ i ∈ ([.nop ⟨false⟩, .yield ⟨false⟩, .fence ⟨false, 3, 6⟩, .fence ⟨false, 1, 0⟩] : List Instr), Issues i bench) ∧
    (Issues (.sleepto ⟨false, 30⟩) bench ∧ ∀ e ∈ bench.issueLanes (shapeOf (.sleepto ⟨false, 30⟩)), e.gpair 30 ≤ bench.time.toNat) ∧
    (let s := yard 0 [(2, 1)]
     Issues (.waitph ⟨false, 1, 2⟩) s ∧ ∀ e ∈ s.issueLanes (shapeOf (.waitph ⟨false, 1, 2⟩)),
       e.wg.Holds (e.greg 1).toNat ∧ e.wg.isBarrier (e.greg 1).toNat = true ∧ e.wg.phaseBit (e.greg 1).toNat ≠ (e.greg 2).getLsbD 0) ∧
    (let s := yard 0 [(1, 16)]
     Issues (.cmwait ⟨false, 1, 2⟩) s ∧ ∀ e ∈ s.issueLanes (shapeOf (.cmwait ⟨false, 1, 2⟩)),
       e.wg.Holds (e.greg 1).toNat ∧ e.wg.isChunkMap (e.greg 1).toNat = true ∧ e.wg.mapDone (e.greg 1).toNat (e.gpair 2) = true) :=
  ⟨issues_all (by decide +kernel), ⟨clear_of_clearB (by decide +kernel), each (by decide +kernel)⟩,
    ⟨clear_of_clearB (by decide +kernel), each (by decide +kernel)⟩, ⟨clear_of_clearB (by decide +kernel), each (by decide +kernel)⟩⟩

/-- A machine on which v5 holds its quire's last word's address, one return entry names it, and the quire's entry 0 is 0x80. -/
def calls : State :=
  let s := bench.modWg 1 (fun w => w.mapEach (fun _ _ t => { t with v := [(5, 0xFFC)], stack := [0xFFC], depth := 1 }))
  { s with residents := s.residents.map (fun r => r.modQuire 0 (fun q => { q with image := SMap.write q.image 0 (bytesOf 0x80 4) 0 })) }

/-- Targets at both ends of what a branch may reach: the quire's first word and its last. -/
theorem witness_Branches :
    (∀ off ∈ ([0x7FFFE0, 991] : List (BitVec 23)), Issues (.bra ⟨false, off⟩) calls ∧
      0 ≤ (pcOffset calls.issue.pc : Int) + 4 * off.toInt ∧ (pcOffset calls.issue.pc : Int) + 4 * off.toInt < 2 ^ 24 ∧
      ∀ e ∈ calls.issueLanes (shapeOf (.bra ⟨false, off⟩)),
        calls.Reaches e (mkPc (pcQuire calls.issue.pc) (((pcOffset calls.issue.pc : Int) + 4 * off.toInt) % 2 ^ 24).toNat)) ∧
    (Issues (.bru ⟨false, 0, 0, 4⟩) calls ∧ ∀ e ∈ calls.issueLanes (shapeOf (.bru ⟨false, 0, 0, 4⟩)),
      zeroCond 0 (e.greg 0) = true → calls.Reaches e (mkPc 0 0x90)) ∧
    (Issues (.brt ⟨false, 1, 0, 4⟩) calls ∧ ∀ e ∈ calls.issueLanes (shapeOf (.brt ⟨false, 1, 0, 4⟩)),
      e.mask 0 = true → calls.Reaches e (mkPc 0 0x90)) ∧
    (Issues (.jmpi ⟨none, false, 5⟩) calls ∧ ∀ e ∈ calls.issueLanes (shapeOf (.jmpi ⟨none, false, 5⟩)),
      e.takes = true → calls.Reaches e (e.reg 5)) := by
  refine ⟨?_, ⟨clear_of_clearB (by decide +kernel), each (by decide +kernel)⟩,
    ⟨clear_of_clearB (by decide +kernel), each (by decide +kernel)⟩, ⟨clear_of_clearB (by decide +kernel), each (by decide +kernel)⟩⟩
  intro off ho
  simp only [List.mem_cons, List.not_mem_nil, or_false] at ho
  rcases ho with rfl | rfl <;>
    exact ⟨clear_of_clearB (by decide +kernel), by decide +kernel, by decide +kernel, each (by decide +kernel)⟩

theorem witness_CallsAndReturns :
    (Issues (.call ⟨false, 991⟩) calls ∧ ∀ e ∈ calls.issueLanes (shapeOf (.call ⟨false, 991⟩)),
      (e.t.depth < 80 ∧ (e.t.depth < 16 ∨ e.g.spill ≠ 0)) ∧ calls.Reaches e (mkPc 0 0xFFC)) ∧
    (Issues (.calli ⟨none, false, 5⟩) calls ∧ ∀ e ∈ calls.issueLanes (shapeOf (.calli ⟨none, false, 5⟩)),
      e.takes = true → (e.t.depth < 80 ∧ (e.t.depth < 16 ∨ e.g.spill ≠ 0)) ∧ calls.Reaches e (e.reg 5)) ∧
    (Issues (.callq ⟨false, 0, 0, 0⟩) calls ∧ ∀ e ∈ calls.issueLanes (shapeOf (.callq ⟨false, 0, 0, 0⟩)),
      let q := (calls.resident e.wg.part e.wg.ctx e.wg.core).quire 0
      let entry := natOfBytes (SMap.read q.image 0 4 0)
      (e.t.depth < 80 ∧ (e.t.depth < 16 ∨ e.g.spill ≠ 0)) ∧ entry ≠ 0xFFFFFFFF ∧ q.state = .resident ∧ entry < q.length ∧
        entry < 2 ^ 24 ∧ entry % 4 = 0) ∧
    (Issues (.ret ⟨false⟩) calls ∧ ∀ e ∈ calls.issueLanes (shapeOf (.ret ⟨false⟩)),
      ∃ pc rest, e.t.stack = pc :: rest ∧ calls.Reaches e pc) := by
  refine ⟨⟨clear_of_clearB (by decide +kernel), each (by decide +kernel)⟩, ⟨clear_of_clearB (by decide +kernel), each (by decide +kernel)⟩,
    ⟨clear_of_clearB (by decide +kernel), each (by decide +kernel)⟩, ⟨clear_of_clearB (by decide +kernel), fun e he => ?_⟩⟩
  have h : ∀ e ∈ calls.issueLanes (shapeOf (.ret ⟨false⟩)), e.t.stack = [0xFFC] ∧ calls.Reaches e 0xFFC := each (by decide +kernel)
  exact ⟨_, _, (h e he).1, (h e he).2⟩

/-- Four threads issue, and the other four go on. -/
def half : State := { bench with issue := { wid := 1, members := [(0, [0, 1, 2, 3])], pc := 0x80 } }

theorem witness_ThreadsEnd :
    Issues (.exit ⟨false⟩) half ∧ Issues (.ret ⟨false⟩) half ∧ half.jobs = [] ∧
    (∃ gi ti t, half.thread? half.issue.wid gi ti = some t ∧ t.run ≠ .exited ∧ half.issuing gi ti = false) ∧
    half.issueLanes (shapeOf (.exit ⟨false⟩)) ≠ [] ∧ half.issueLanes (shapeOf (.ret ⟨false⟩)) ≠ [] ∧
    ∀ e ∈ half.issueLanes (shapeOf (.ret ⟨false⟩)), e.t.stack = [] :=
  ⟨clear_of_clearB (by decide +kernel), clear_of_clearB (by decide +kernel), rfl,
    ⟨0, 4, Thread.start 4 (mkPc 0 0x80), rfl, by decide, by decide +kernel⟩,
    fun h => absurd (congrArg List.length h) (by decide +kernel), fun h => absurd (congrArg List.length h) (by decide +kernel),
    each (by decide +kernel)⟩

/-! ### Traps -/

/-- A machine with a trap vector at 0x100, its threads in handler state or not, to resume at 0x84. -/
def trapped (handler : Bool) : State :=
  bench.modWg 1 (fun w => { w with groups := w.groups.map (fun g =>
    { g with trapvec := 0x100, threads := g.threads.map (fun t => { t with handler := handler, resume := 0x84 }) }) })

theorem witness_SoftwareTrapsEnterTheHandler :
    (Issues (.trap ⟨false, 0x1FFF⟩) (trapped false) ∧ ∃ e, Lowest (.trap ⟨false, 0x1FFF⟩) (trapped false) e ∧ (trapped false).Delivers e ∧
      ∀ x ∈ (trapped false).issueLanes (shapeOf (.trap ⟨false, 0x1FFF⟩)), True) ∧
    (Issues (.bkpt ⟨false, 0⟩) (trapped false) ∧ ∃ e, Lowest (.bkpt ⟨false, 0⟩) (trapped false) e ∧ ((trapped false).Delivers e ∧
      ((trapped false).context e.wg.part e.wg.ctx).capture = false) ∧ ∀ x ∈ (trapped false).issueLanes (shapeOf (.bkpt ⟨false, 0⟩)), True) :=
  ⟨⟨clear_of_clearB (by decide +kernel), lowestLane (by decide +kernel)⟩, ⟨clear_of_clearB (by decide +kernel), lowestLane (by decide +kernel)⟩⟩

theorem witness_TrapReturn :
    (Issues (.trapret ⟨false⟩) (trapped true) ∧ ∀ e ∈ (trapped true).issueLanes (shapeOf (.trapret ⟨false⟩)),
      e.t.handler = true ∧ (trapped true).Reaches e e.t.resume) ∧
    (Issues (.trapret ⟨false⟩) (trapped false) ∧ ∃ e, Lowest (.trapret ⟨false⟩) (trapped false) e ∧ (trapped false).Delivers e ∧
      ∀ x ∈ (trapped false).issueLanes (shapeOf (.trapret ⟨false⟩)), True) :=
  ⟨⟨clear_of_clearB (by decide +kernel), each (by decide +kernel)⟩, ⟨clear_of_clearB (by decide +kernel), lowestLane (by decide +kernel)⟩⟩

/-- What `Clear` asks but for the prologue. -/
theorem stands_of {i : Instr} {cross extra} {s : State} (h : Clear i cross extra s) : Stands s := ⟨h.calm, h.here⟩

/-- A machine with a trap vector whose group has another role or another partition, or whose threads have an outstanding g2 in strict
mode. -/
def barred (part role : Nat) : State :=
  { (trapped false).modWg 1 (fun w => { w with part := part, groups := w.groups.map (fun g =>
      { g with role := role, threads := g.threads.map (fun t => { t with unwaited := [98] }) }) }) with
    contexts := [{ Context.reset part 0 with state := .live, strict := true }]
    residents := bench.residents.map (fun r => { r with part := part }) }

theorem witness_UnitsThatMayNotIssueTrap :
    Stands (barred 0 0) ∧ Stands (barred 0 1) ∧ Stands (barred 0 2) ∧
    (let i := Instr.iaddI ⟨none, false, 95, 0, 1, 1⟩
     encode i ≠ [] ∧ ∃ e, Lowest i (barred 0 0) e ∧ ((barred 0 0).Delivers e ∧ leastReason (reasonsAt i (barred 0 0) e) = some (5, 0)) ∧
       ∀ x ∈ (barred 0 0).issueLanes (shapeOf i), True) ∧
    (let i := Instr.strm ⟨false, 1⟩
     encode i ≠ [] ∧ ∃ e, Lowest i (barred 0 2) e ∧ ((barred 0 2).Delivers e ∧ reasonsAt i (barred 0 2) e = [] ∧
       roleOk (shapeOf i).role e.g.role = false) ∧ ∀ x ∈ (barred 0 2).issueLanes (shapeOf i), True) ∧
    (let i := Instr.umov ⟨false, 1, 2⟩
     encode i ≠ [] ∧ ∃ e, Lowest i (barred 0 0) e ∧ ((barred 0 0).Delivers e ∧ reasonsAt i (barred 0 0) e = [] ∧
       roleOk (shapeOf i).role e.g.role = true ∧ ((barred 0 0).context e.wg.part e.wg.ctx).strict = true ∧ prematureAt i e = some 98) ∧
       ∀ x ∈ (barred 0 0).issueLanes (shapeOf i), (prematureAt i x).isSome = true ∧ x.t.unwaited.contains 97 = false ∧
         x.t.unwaited.contains 98 = true) ∧
    (let i := Instr.iaddI ⟨none, false, 95, 98, 1, 0⟩
     let s := (barred 0 0).modWg 1 (fun w => { w with groups := w.groups.map (fun g => { g with budget := 32 }) })
     Stands s ∧ ∃ e, Lowest i s e ∧ (s.Delivers e ∧ e.g.budget ≤ 95 ∧ (s.context e.wg.part e.wg.ctx).strict = true ∧
       e.t.unwaited.contains 98 = true) ∧ ∀ x ∈ s.issueLanes (shapeOf i), True) ∧
    (let i := Instr.mzero ⟨false, 0, 3⟩
     ∃ e, Lowest i (barred 0 1) e ∧ ((barred 0 1).Delivers e ∧ e.g.role ≠ 2) ∧ ∀ x ∈ (barred 0 1).issueLanes (shapeOf i), True) ∧
    (let i := Instr.strm ⟨false, 2⟩
     ∃ e, Lowest i (barred 0 2) e ∧ ((barred 0 2).Delivers e ∧ e.g.role ≠ 1 ∧ ((barred 0 2).context e.wg.part e.wg.ctx).strict = true ∧
       e.t.unwaited.contains 98 = true) ∧ ∀ x ∈ (barred 0 2).issueLanes (shapeOf i), True) ∧
    (let i := Instr.hash ⟨false, 3, 4⟩
     ∃ e, Lowest i (barred 0 0) e ∧ ((barred 0 0).Delivers e ∧ e.wg.part ≠ rootPart) ∧ ∀ x ∈ (barred 0 0).issueLanes (shapeOf i), True) :=
  have stands {s : State} (h : clearB (.nop ⟨false⟩) none noExtra s = true) : Stands s := stands_of (clear_of_clearB h)
  ⟨stands (by decide +kernel), stands (by decide +kernel), stands (by decide +kernel),
    ⟨by decide +kernel, lowestLane (by decide +kernel)⟩, ⟨by decide +kernel, lowestLane (by decide +kernel)⟩,
    ⟨by decide +kernel, lowestLane (by decide +kernel)⟩, ⟨stands (by decide +kernel), lowestLane (by decide +kernel)⟩,
    lowestLane (by decide +kernel), lowestLane (by decide +kernel), lowestLane (by decide +kernel)⟩

/-- Whether an answer is a value. -/
def isOk {ε α : Type} (x : Except ε α) : Bool := match x with | .ok _ => true | .error _ => false

/-- The machine of `yard` with a trap vector at 0x100, the group's g registers and every thread's v registers and return entries
given. -/
def snare (gs vs : SMap Word) (depth : Nat) : State :=
  (yard 0 gs).modWg 1 (fun w => { w with groups := w.groups.map (fun g =>
    { g with trapvec := 0x100, threads := g.threads.map (fun t => { t with v := vs, depth := depth, stack := List.replicate (min depth 16) 0x80 }) }) })

/-- A unit may issue, its trap can be delivered at its lowest lane, and a condition holds of every lane. -/
def Caught (i : Instr) (s : State) (P : LaneEnv → Prop) : Prop :=
  Issues i s ∧ ∃ e, Lowest i s e ∧ s.Delivers e ∧ ∀ x ∈ s.issueLanes (shapeOf i), P x

/-- What `Caught` asks, checked for several units. -/
theorem caught {l : List Instr} {s : State} {P : LaneEnv → Prop} [DecidablePred P]
    (h : l.all (fun i => clearB i none noExtra s && (match (s.issueLanes (shapeOf i)).head? with
      | some e => (s.issueLanes (shapeOf i)).all (fun x => x.gi == e.gi && decide (e.ti ≤ x.ti) && decide (P x)) && decide (s.Delivers e)
      | none => false)) = true) : ∀ i ∈ l, Caught i s P := by
  intro i hi
  have := List.all_eq_true.mp h i hi
  rw [Bool.and_eq_true] at this
  exact ⟨clear_of_clearB this.1, lowestLane this.2⟩

/-- The machine of `snare` whose context has no quire table, or one at 0x4000 that names quire 255 loadable and not by itself; one
thread issues. -/
def lostCall (table : Option Nat) : State :=
  let s := snare [] [] 0
  { s with
    issue := { s.issue with members := [(0, [0])] }
    contexts := s.contexts.map (fun c => { c with qtable := table })
    mem := SMap.write [] (0x4000 + 64 * 255) (bytesOf 0x8000 8 ++ bytesOf 4096 4 ++ [4]) 0 }

/-- The machine of `snare` with a paradigm in every slot that has no transition and no radix. -/
def bare : State :=
  let s := snare [] [] 0
  { s with residents := s.residents.map (fun r => { r with paradigms := List.replicate 4 (some (SMap.write [] 0 [2, 1, 0, 1] 0)) }) }

/-- Addresses that no access may have, at the edges of each check: 1; 2^58; the first byte past scratch and past the vault; a word of
a registered object. Then PCs, objects, calls and walks that trap. -/
theorem witness_DataTraps :
    (let u : LMem := ⟨none, false, 92, 2, 0, 0, 0⟩
     let at_ (n hi : Word) : State := snare [] [(2, n), (3, hi)] 0
     (∀ i ∈ [Instr.ldg u, .stg u, .atom { u with q := 5 }, .red { u with q := 3 }], Caught i (at_ 1 0) (fun x => x.takes = true ∧ x.val 2 2 % 4 ≠ 0)) ∧
     (∀ i ∈ [Instr.ldg u, .stg u], Caught i (at_ 0 0x4000000) (fun x => x.takes = true ∧ x.val 2 2 % 4 = 0 ∧ 2 ^ 58 ≤ x.val 2 2)) ∧
     (∀ i ∈ [Instr.lds u, .sts u, .ldv u, .stv u], Caught i (at_ 1 0) (fun x => x.takes = true ∧ (x.reg 2).toNat % 4 ≠ 0)) ∧
     (∀ i ∈ [Instr.lds u, .sts u], Caught i (at_ 32768 0) (fun x => x.takes = true ∧ (x.reg 2).toNat % 4 = 0 ∧ x.wg.scratchSize < (x.reg 2).toNat + 4)) ∧
     (∀ i ∈ [Instr.ldv u, .stv u], Caught i (at_ 4096 0) (fun x => x.takes = true ∧ (x.reg 2).toNat % 4 = 0 ∧ (x.reg 2).toNat < 2 ^ 23 ∧
       x.wg.vaultSize < (x.reg 2).toNat + 4)) ∧
     (∀ i ∈ [Instr.sts u], Caught i (at_ 12 0) (fun x => x.takes = true ∧ (x.reg 2).toNat % 4 = 0 ∧ (x.reg 2).toNat + 4 ≤ x.wg.scratchSize ∧
       x.wg.protectedCode (x.reg 2).toNat 4 = some 0xA))) ∧
    (∀ i ∈ [Instr.atoms ⟨none, false, 92, 2, 9, 1⟩, .feset ⟨none, false, 2, 15⟩, .feclr ⟨none, false, 2, 0⟩],
      Caught i (snare [] [(2, 2)] 0) (fun x => x.takes = true ∧ (x.reg 2).toNat % 4 ≠ 0)) ∧
    (∀ a ∈ [(2 : Word), 4096], ∀ i ∈ [Instr.jmpi ⟨none, false, 5⟩, .calli ⟨none, false, 5⟩], Caught i (snare [] [(5, a)] 0) (fun x => x.takes = true ∧
      ((x.reg 5).toNat % 4 ≠ 0 ∨ (((snare [] [(5, a)] 0).resident x.wg.part x.wg.ctx x.wg.core).quire (pcQuire (x.reg 5))).state = .resident ∧
        (((snare [] [(5, a)] 0).resident x.wg.part x.wg.ctx x.wg.core).quire (pcQuire (x.reg 5))).length ≤ pcOffset (x.reg 5)))) ∧
    (∀ i ∈ [Instr.arrive ⟨false, 2, 3, 4⟩, .testph ⟨false, 2, 3⟩, .waitph ⟨false, 3, 4⟩, .cmwait ⟨false, 3, 4⟩, .cmtest ⟨false, 2, 3, 4⟩],
      Caught i (snare [(3, 32)] [] 0) (fun x => x.wg.isBarrier (x.greg 3).toNat = false ∧ x.wg.isChunkMap (x.greg 3).toNat = false)) ∧
    (∀ i ∈ [Instr.barinit ⟨false, 2, 3, 4⟩, .cminit ⟨false, 2, 3, 4⟩], Caught i (snare [(3, 8)] [] 0) (fun x => (x.greg 3).toNat % 16 ≠ 0)) ∧
    (∀ i ∈ [Instr.calli ⟨none, false, 5⟩], Caught i (snare [] [(5, 0x80)] 80) (fun x => x.takes = true ∧
      (snare [] [(5, 0x80)] 80).Reaches x (x.reg 5) ∧ 80 ≤ x.t.depth)) ∧
    (∀ n ∈ [16, 79], ∀ i ∈ [Instr.calli ⟨none, false, 5⟩], Caught i (snare [] [(5, 0x80)] n) (fun x => x.takes = true ∧
      (snare [] [(5, 0x80)] n).Reaches x (x.reg 5) ∧ 16 ≤ x.t.depth ∧ x.t.depth < 80 ∧ x.g.spill = 0)) ∧
    (let i := Instr.callq ⟨false, 0, 31, 255⟩
     (∀ j ∈ [i], Caught j (lostCall none) (fun x => x.t.depth < 16 ∧
       (((lostCall none).resident x.wg.part x.wg.ctx x.wg.core).quire 255).state = .absent ∧
       ((lostCall none).quireEntry x.wg.part x.wg.ctx x.wg.core 255 x.t.code).2 = (none, 0))) ∧
     (∀ j ∈ [i], Caught j (lostCall (some 0x4000)) (fun x => x.t.depth < 16 ∧
       (((lostCall (some 0x4000)).resident x.wg.part x.wg.ctx x.wg.core).quire 255).state = .absent ∧
       (((lostCall (some 0x4000)).quireEntry x.wg.part x.wg.ctx x.wg.core 255 x.t.code).2.1.map (·.autoload)) = some false)) ∧
     ∀ t ∈ [none, some 0x4000], ((lostCall t).issueLanes (shapeOf i)).length = 1) ∧
    (let u : LRw := ⟨none, false, 94, 3, 0, 0⟩
     Clear (.dxt u) (some (walkReads u.w.toNat u.a u.b)) (arityReason (shapeOf (.dxt u)) u.w.toNat u.b) bare ∧
     (∃ e, Lowest (.dxt u) bare e ∧ bare.Delivers e ∧ ∀ x ∈ bare.issueLanes (shapeOf (.dxt u)), x.takes = true ∧
       isOk ((x.paradigm 0).dxt 0 (x.reg 3).toNat (walkB (x.paradigm 0) u.b x)) = false) ∧
     ∀ i ∈ [Instr.dxval ⟨none, false, 94, 4, 1, 3⟩], Caught i bare (fun x => x.takes = true ∧ (x.paradigm 3).rkind = 0)) := by
  refine ⟨⟨caught (by decide +kernel), caught (by decide +kernel), caught (by decide +kernel), caught (by decide +kernel), caught (by decide +kernel),
    caught (by decide +kernel)⟩, caught (by decide +kernel), fun a ha => ?_, caught (by decide +kernel), caught (by decide +kernel), caught (by decide +kernel),
    fun n hn => ?_, ⟨caught (by decide +kernel), caught (by decide +kernel), by decide +kernel⟩,
    clear_of_clearB (by decide +kernel), lowestLane (by decide +kernel), caught (by decide +kernel)⟩
  · simp only [List.mem_cons, List.not_mem_nil, or_false] at ha
    rcases ha with rfl | rfl <;> exact caught (by decide +kernel)
  · simp only [List.mem_cons, List.not_mem_nil, or_false] at hn
    rcases hn with rfl | rfl <;> exact caught (by decide +kernel)

/-! ### Registers of the machine, constants, quires, the root context -/

theorem witness_SystemRegisterWrites :
    (∀ i ∈ ([.wrsys ⟨false, 1, 0x30⟩, .wrsys ⟨false, 30, 0x3A⟩, .wrsys ⟨false, 31, 0⟩] : List Instr), Issues i bench) ∧
    ∀ s ∈ [yard 0 [], yard 0 [(1, 0x100)]],
      let value (e : LaneEnv) : Nat := bitsOf (e.greg 1).toNat 18 8 * 256
      let reserve (t : State) (e : LaneEnv) : State := t.modGroup e.wg.wid e.gi (fun g => { g with spill := BitVec.ofNat 32 (value e) })
      Issues (.wrsys ⟨false, 1, 0x38⟩) s ∧
      ∀ l e rest, groupLanes (s.issueLanes (shapeOf (.wrsys ⟨false, 1, 0x38⟩))) = l ++ e :: rest → e.g.spilled = false ∧
        (value e = 0 ∨ ∀ w, (l.foldl reserve s).wg? e.wg.wid = some w → spillBad w e.gi e.g.width (value e) = none) := by
  refine ⟨issues_all (by decide +kernel), fun s hs => ⟨?_, fun l e rest h => ?_⟩⟩
  · simp only [List.mem_cons, List.not_mem_nil, or_false] at hs
    rcases hs with rfl | rfl <;> exact clear_of_clearB (by decide +kernel)
  · have one : (groupLanes (s.issueLanes (shapeOf (.wrsys ⟨false, 1, 0x38⟩)))).length = 1 ∧
        ∀ x ∈ groupLanes (s.issueLanes (shapeOf (.wrsys ⟨false, 1, 0x38⟩))), x.g.spilled = false ∧ s.wg? x.wg.wid = some x.wg ∧
          (bitsOf (x.greg 1).toNat 18 8 * 256 = 0 ∨ spillBad x.wg x.gi x.g.width (bitsOf (x.greg 1).toNat 18 8 * 256) = none) := by
      simp only [List.mem_cons, List.not_mem_nil, or_false] at hs
      rcases hs with rfl | rfl <;> exact ⟨by decide +kernel, each (by decide +kernel)⟩
    rw [h] at one
    obtain ⟨len, all⟩ := one
    have hl : l = [] := by
      cases l with
      | nil => rfl
      | cons a l => simp at len
    subst hl
    obtain ⟨h1, h2, h3⟩ := all e (by simp)
    refine ⟨h1, h3.imp_right (fun h3 w hw => ?_)⟩
    rw [List.foldl_nil, h2, Option.some.injEq] at hw
    exact hw ▸ h3

/-- A page with a paradigm's image at 0x1000. -/
def paged (gs : SMap Word) : State := { yard 0 gs with mem := SMap.write [] 0x1000 paradigmHeader 0 }

theorem witness_ConstantsAndCopies :
    (Issues (.uldc ⟨false, 1, 2, 0x1FF⟩) (paged []) ∧ ∃ e, Lone (.uldc ⟨false, 1, 2, 0x1FF⟩) (paged []) e ∧
      (4 * 0x1FF + (e.greg 2).toNat) % 4 = 0 ∧
      ∃ s1 g, (paged []).translate e.wg.part e.wg.ctx e.wg.core (e.wg.consts + (4 * 0x1FF + (e.greg 2).toNat)) 0 = (s1, .page g)) ∧
    (Issues (.tshape ⟨false, 1, 15⟩) (paged []) ∧ ∃ e, Lone (.tshape ⟨false, 1, 15⟩) (paged []) e ∧ (e.greg 1).toNat % 8 = 0 ∧
      ∃ s1 bs, (paged []).readVirt e.wg.part e.wg.ctx e.wg.core (e.wg.consts + (e.greg 1).toNat) 96 = (s1, .bytes bs none)) ∧
    (Issues (.xpld ⟨false, 1, 7⟩) (paged []) ∧ ∃ e, Lone (.xpld ⟨false, 1, 7⟩) (paged []) e ∧ (e.greg 1).toNat % 8 = 0 ∧
      ∃ s1 bs, (paged []).readVirt e.wg.part e.wg.ctx e.wg.core (e.wg.consts + (e.greg 1).toNat) 256 = (s1, .bytes bs none)) ∧
    (Issues (.pdload ⟨false, 0, 3⟩) (paged []) ∧ ∃ e, Lone (.pdload ⟨false, 0, 3⟩) (paged []) e ∧ e.gpair 0 = 0 ∧
      (paged []).slotBusy e 3 = false) ∧
    (let s := { paged [] with jobs := [{ id := 0, part := 0, ctx := 0, core := 0, wid := 1, gi := 0, tis := [0], pc := 0, kind := .copy 2 3 [], view := [], wrote := [], waited := false }] }
     Issues (.pdload ⟨false, 0, 3⟩) s ∧ ∃ e, Lone (.pdload ⟨false, 0, 3⟩) s e ∧ e.gpair 0 = 0 ∧ s.slotBusy e 3 = true) ∧
    (let s := paged [(2, 0x1000)]
     Issues (.pdload ⟨false, 2, 3⟩) s ∧ ∃ e, Lone (.pdload ⟨false, 2, 3⟩) s e ∧ e.gpair 2 = 0x1000 ∧
      (∃ s1, s.readVirt e.wg.part e.wg.ctx e.wg.core 0x1000 64 = (s1, .bytes (paradigmHeader ++ List.replicate 56 0) none) ∧
        (s1.readVirt e.wg.part e.wg.ctx e.wg.core 0x1000 (Paradigm.of (SMap.write [] 0 (paradigmHeader ++ List.replicate 56 0) 0)).len).2
          = .bytes (paradigmHeader ++ List.replicate 124 0) none) ∧
      headerFault (paradigmHeader ++ List.replicate 56 0) = none) := by
  have h1 : ∃ e, Lone (.uldc ⟨false, 1, 2, 0x1FF⟩) (paged []) e ∧ (4 * 0x1FF + (e.greg 2).toNat) % 4 = 0 ∧
      ((paged []).translate e.wg.part e.wg.ctx e.wg.core (e.wg.consts + (4 * 0x1FF + (e.greg 2).toNat)) 0).2 = .page (firstPage 0 0).page :=
    lone (by decide +kernel)
  have h2 : ∃ e, Lone (.tshape ⟨false, 1, 15⟩) (paged []) e ∧ (e.greg 1).toNat % 8 = 0 ∧
      ((paged []).readVirt e.wg.part e.wg.ctx e.wg.core (e.wg.consts + (e.greg 1).toNat) 96).2 = .bytes (List.replicate 96 0) none :=
    lone (by decide +kernel)
  have h3 : ∃ e, Lone (.xpld ⟨false, 1, 7⟩) (paged []) e ∧ (e.greg 1).toNat % 8 = 0 ∧
      ((paged []).readVirt e.wg.part e.wg.ctx e.wg.core (e.wg.consts + (e.greg 1).toNat) 256).2 = .bytes (List.replicate 256 0) none :=
    lone (by decide +kernel)
  obtain ⟨e1, l1, a1, b1⟩ := h1
  obtain ⟨e2, l2, a2, b2⟩ := h2
  obtain ⟨e3, l3, a3, b3⟩ := h3
  refine ⟨⟨clear_of_clearB (by decide +kernel), e1, l1, a1, ?_⟩, ⟨clear_of_clearB (by decide +kernel), e2, l2, a2, ?_⟩,
    ⟨clear_of_clearB (by decide +kernel), e3, l3, a3, ?_⟩, ⟨clear_of_clearB (by decide +kernel), lone (by decide +kernel)⟩,
    ⟨clear_of_clearB (by decide +kernel), lone (by decide +kernel)⟩, clear_of_clearB (by decide +kernel), ?_⟩
  · obtain ⟨s1, h⟩ := fst_of b1; exact ⟨s1, _, h⟩
  · obtain ⟨s1, h⟩ := fst_of b2; exact ⟨s1, _, h⟩
  · obtain ⟨s1, h⟩ := fst_of b3; exact ⟨s1, _, h⟩
  · have h4 : ∃ e, Lone (.pdload ⟨false, 2, 3⟩) (paged [(2, 0x1000)]) e ∧ e.gpair 2 = 0x1000 ∧
        ((paged [(2, 0x1000)]).readVirt e.wg.part e.wg.ctx e.wg.core 0x1000 64).2 = .bytes (paradigmHeader ++ List.replicate 56 0) none ∧
        (((paged [(2, 0x1000)]).readVirt e.wg.part e.wg.ctx e.wg.core 0x1000 64).1.readVirt e.wg.part e.wg.ctx e.wg.core 0x1000
          (Paradigm.of (SMap.write [] 0 (paradigmHeader ++ List.replicate 56 0) 0)).len).2
            = .bytes (paradigmHeader ++ List.replicate 124 0) none :=
      lone (by decide +kernel)
    obtain ⟨e4, l4, a4, b4, c4⟩ := h4
    exact ⟨e4, l4, a4, ⟨_, Prod.ext rfl b4, c4⟩, by decide +kernel⟩

theorem witness_QuireRequests : ∀ hold, ∀ i ∈ ([.qload ⟨false, 1, 0, 255⟩, .qpin ⟨false, 31, 0, 0⟩, .qunpin ⟨false, 1, 2, 0⟩] : List Instr),
    Issues i { bench with holdEnds := hold } ∧ ({ bench with holdEnds := hold } : State).holdEnds = hold := by
  intro hold i hi
  cases hold
  · exact ⟨issues_all (l := [.qload ⟨false, 1, 0, 255⟩, .qpin ⟨false, 31, 0, 0⟩, .qunpin ⟨false, 1, 2, 0⟩]) (by decide +kernel) i hi, rfl⟩
  · exact ⟨issues_all (l := [.qload ⟨false, 1, 0, 255⟩, .qpin ⟨false, 31, 0, 0⟩, .qunpin ⟨false, 1, 2, 0⟩]) (by decide +kernel) i hi, rfl⟩

/-- The root context on its core, with a control block at 0x100: source 0x200, a length, destination 0x400, an index. -/
def rooted (len idx : Nat) : State :=
  { (yard 0 [(2, 0x100)]).modWg 1 (fun w => { w with part := rootPart, core := rootCore }) with
    contexts := [{ Context.reset rootPart 0 with state := .live }], residents := [Resident.reset rootPart 0 rootCore], tlb := [firstPage rootPart rootCore]
    mem := SMap.write [] 0x100 (bytesOf 0x200 8 ++ bytesOf len 8 ++ bytesOf 0x400 8 ++ bytesOf idx 4) 0 }

/-- The control block that `rooted` holds reads, its source reads from the state that this leaves, and its destination takes what
is stored there next. -/
abbrev Blocks (s : State) (e : LaneEnv) (len idx : Nat) (out : List Byte) : Prop :=
  let r := s.readVirt e.wg.part e.wg.ctx e.wg.core (e.gpair 2) 32
  let q := r.1.readVirt e.wg.part e.wg.ctx e.wg.core 0x200 len
  e.gpair 2 = 0x100 ∧ r.2 = .bytes (bytesOf 0x200 8 ++ bytesOf len 8 ++ bytesOf 0x400 8 ++ bytesOf idx 4 ++ bytesOf 0 4) none ∧
    q.2 = .bytes (List.replicate len 0) none ∧ (q.1.writeVirt e.wg.part e.wg.ctx e.wg.core 0x400 out).2 = none

theorem witness_RootInstructions :
    (Issues (.hash ⟨false, 1, 2⟩) (rooted 0 0) ∧ ∃ e, Lone (.hash ⟨false, 1, 2⟩) (rooted 0 0) e ∧ Blocks (rooted 0 0) e 0 0 (sha256 [])) ∧
    (Issues (.sign ⟨false, 1, 2⟩) (rooted 32 0) ∧ ∃ e, Lone (.sign ⟨false, 1, 2⟩) (rooted 32 0) e ∧
      Blocks (rooted 32 0) e 32 0 (bytesBig (Config.sign (natOfBig (List.replicate 32 0))) 384)) ∧
    (Issues (.mext ⟨false, 1, 2⟩) (rooted 32 8) ∧ ∃ e, Lone (.mext ⟨false, 1, 2⟩) (rooted 32 8) e ∧ Blocks (rooted 32 8) e 32 8 []) ∧
    (Issues (.mext ⟨false, 1, 2⟩) (rooted 32 15) ∧ ∃ e, Lone (.mext ⟨false, 1, 2⟩) (rooted 32 15) e ∧ Blocks (rooted 32 15) e 32 15 []) ∧
    (Issues (.mrd ⟨false, 1, 2⟩) (rooted 0 15) ∧ ∃ e, Lone (.mrd ⟨false, 1, 2⟩) (rooted 0 15) e ∧
      Blocks (rooted 0 15) e 0 15 (bytesOf (((rooted 0 15).mrs[15]?).getD 0).toNat 32)) :=
  ⟨⟨clear_of_clearB (by decide +kernel), lone (by decide +kernel)⟩, ⟨clear_of_clearB (by decide +kernel), lone (by decide +kernel)⟩,
    ⟨clear_of_clearB (by decide +kernel), lone (by decide +kernel)⟩, ⟨clear_of_clearB (by decide +kernel), lone (by decide +kernel)⟩,
    ⟨clear_of_clearB (by decide +kernel), lone (by decide +kernel)⟩⟩

/-! ### Objects, loads, stores, atomics -/

/-- `lone` with a condition that every lane's threads are READY as well. -/
theorem lone_free {i : Instr} {s : State} {P : LaneEnv → Prop} [DecidablePred P] (o : Nat)
    (h : (match (s.issueLanes (shapeOf i)).head? with
      | some e => (s.issueLanes (shapeOf i)).all (fun x => x.gi == e.gi)
          && decide (e.wg.groups.all (fun g => g.threads.all (fun t => t.run == .ready)) = true ∧ P e)
      | none => false) = true) : ∃ e, Lone i s e ∧ e.wg.NobodyAt o ∧ P e := by
  obtain ⟨e, l, h1, h2⟩ := lone (P := fun e => e.wg.groups.all (fun g => g.threads.all (fun t => t.run == .ready)) = true ∧ P e) h
  exact ⟨e, l, nobodyAt h1 o, h2⟩

/-- A workgroup whose context has taken every slot of its core. -/
def crowded (n : Nat) : State :=
  (yard 0 [(1, 32752), (2, BitVec.ofNat 32 n)]).modWg 1 (fun w => { w with objects := (List.range 64).map (fun i => (16 * i, .chunkMap)) })

/-- Each of the four answers of BARINIT and of CMINIT, at the largest counts, and at both ends of scratch. -/
theorem witness_RegisteringObjects :
    let asks (i : Instr) (s : State) (o n : Nat) (P : LaneEnv → Prop) : Prop := Issues i s ∧ ∃ e, Lone i s e ∧ e.wg.NobodyAt o ∧
      (e.greg 1).toNat = o ∧ (e.greg 2).toNat = n ∧ e.wg.Holds o ∧ s.inFlight e.wg.wid o = false ∧ e.wg.inSpill o 16 = false ∧ P e
    asks (.barinit ⟨false, 3, 1, 2⟩) (yard 0 []) 0 0 (fun e => e.wg.isChunkMap 0 = false ∧ (e.wg.obj? 0).isSome = true) ∧
    asks (.barinit ⟨false, 3, 1, 2⟩) (yard 0 [(1, 32)]) 32 0 (fun e => e.wg.isChunkMap 32 = false ∧ (e.wg.obj? 32).isSome = false) ∧
    asks (.barinit ⟨false, 3, 1, 2⟩) (crowded 65535) 32752 65535 (fun e => e.wg.isChunkMap 32752 = false ∧ (e.wg.obj? 32752).isSome = false ∧
      64 ≤ (crowded 65535).slotsTaken e.wg) ∧
    asks (.barinit ⟨false, 3, 1, 2⟩) (yard 0 [(1, 32752), (2, 65535)]) 32752 65535 (fun e => e.wg.isChunkMap 32752 = false ∧
      (yard 0 [(1, 32752), (2, 65535)]).slotsTaken e.wg < 64) ∧
    asks (.cminit ⟨false, 3, 1, 2⟩) (yard 0 [(1, 16)]) 16 0 (fun e => e.wg.isBarrier 16 = false ∧ (e.wg.obj? 16).isSome = true) ∧
    asks (.cminit ⟨false, 3, 1, 2⟩) (yard 0 [(1, 32)]) 32 0 (fun e => e.wg.isBarrier 32 = false ∧ (e.wg.obj? 32).isSome = false) ∧
    asks (.cminit ⟨false, 3, 1, 2⟩) (crowded 1) 32752 1 (fun e => e.wg.isBarrier 32752 = false ∧ (e.wg.obj? 32752).isSome = false ∧
      64 ≤ (crowded 1).slotsTaken e.wg) ∧
    asks (.cminit ⟨false, 3, 1, 2⟩) (yard 0 [(1, 32752), (2, 1)]) 32752 1 (fun e => e.wg.isBarrier 32752 = false ∧
      (yard 0 [(1, 32752), (2, 1)]).slotsTaken e.wg < 64) :=
  ⟨⟨clear_of_clearB (by decide +kernel), lone_free _ (by decide +kernel)⟩, ⟨clear_of_clearB (by decide +kernel), lone_free _ (by decide +kernel)⟩,
    ⟨clear_of_clearB (by decide +kernel), lone_free _ (by decide +kernel)⟩, ⟨clear_of_clearB (by decide +kernel), lone_free _ (by decide +kernel)⟩,
    ⟨clear_of_clearB (by decide +kernel), lone_free _ (by decide +kernel)⟩, ⟨clear_of_clearB (by decide +kernel), lone_free _ (by decide +kernel)⟩,
    ⟨clear_of_clearB (by decide +kernel), lone_free _ (by decide +kernel)⟩, ⟨clear_of_clearB (by decide +kernel), lone_free _ (by decide +kernel)⟩⟩

/-- The workgroup of `yard`. -/
def yardGroup : Workgroup := ((yard 0 []).wgs.head?).getD Workgroup.holding

/-- Its barrier of two: arrivals of none, of one, of the two pending, and of one too many. -/
theorem witness_ArrivalsCount :
    yardGroup.obj? 0 = some (.barrier 0 0 0) ∧ (0 < 1 ∧ 1 < yardGroup.pendingOf 0) ∧ (0 < 2 ∧ 2 = yardGroup.pendingOf 0) ∧ yardGroup.pendingOf 0 < 3 := by
  decide +kernel

theorem witness_UsingObjects :
    (Issues (.arrive ⟨false, 3, 1, 2⟩) (yard 0 []) ∧ ∃ e, Lone (.arrive ⟨false, 3, 1, 2⟩) (yard 0 []) e ∧ e.wg.NobodyAt 0 ∧
      (e.greg 1).toNat = 0 ∧ e.wg.Holds 0 ∧ e.wg.isBarrier 0 = true) ∧
    (Issues (.testph ⟨false, 3, 1⟩) (yard 0 []) ∧ ∃ e, Lone (.testph ⟨false, 3, 1⟩) (yard 0 []) e ∧
      e.wg.Holds (e.greg 1).toNat ∧ e.wg.isBarrier (e.greg 1).toNat = true) ∧
    (Issues (.cmtest ⟨false, 3, 1, 2⟩) (yard 0 [(1, 16)]) ∧ ∃ e, Lone (.cmtest ⟨false, 3, 1, 2⟩) (yard 0 [(1, 16)]) e ∧
      e.wg.Holds (e.greg 1).toNat ∧ e.wg.isChunkMap (e.greg 1).toNat = true) :=
  ⟨⟨clear_of_clearB (by decide +kernel), lone_free _ (by decide +kernel)⟩, ⟨clear_of_clearB (by decide +kernel), lone (by decide +kernel)⟩,
    ⟨clear_of_clearB (by decide +kernel), lone (by decide +kernel)⟩⟩

/-- Each thread with an address of its own in v2, 16 bytes apart up to the end of scratch, vault and page, every granule full. -/
def spread : State :=
  (yard 0 []).modWg 1 (fun w => { w.mapEach (fun _ i t => { t with v := [(2, BitVec.ofNat 32 (3968 + 16 * i))] }) with
    full := (List.range 8).map (fun i => (248 + i, true)) })

theorem witness_Loads :
    (let u : LMem := ⟨none, false, 8, 2, 5, 0, 0⟩
     Issues (.ldg u) spread ∧
      (spread.globalAccess 0 4 (fun e => e.val u.a.toNat 2 + u.off4.toNat * 4) (spread.issueLanes (shapeOf (.ldg u)))).2.2 = []) ∧
    (∀ q ∈ ([0, 1, 2, 3] : List (BitVec 3)),
      let u : LMem := ⟨none, false, 8, 2, q, 0, 2⟩
      let r := scratchAccess 16 false (fun e => (e.reg u.a.toNat).toNat + u.off4.toNat * 16) (spread.issueLanes (shapeOf (.lds u)))
      Issues (.lds u) spread ∧ r.2 = [] ∧ (∀ x ∈ r.1, x.1.wg.allFull (x.2 / 16) ((x.2 + 16 - 1) / 16) = true) ∧
        r.1.Pairwise (fun x y => (x.2 + 16 - 1) / 16 < y.2 / 16 ∨ (y.2 + 16 - 1) / 16 < x.2 / 16)) ∧
    (let u : LMem := ⟨none, false, 95, 2, 0, 0, 0⟩
     Issues (.ldv u) spread ∧ (vaultAccess 4 (fun e => (e.reg u.a.toNat).toNat + u.off4.toNat * 4) (spread.issueLanes (shapeOf (.ldv u)))).2 = []) := by
  refine ⟨⟨clear_of_clearB (by decide +kernel), by decide +kernel⟩, fun q hq => ?_, ⟨clear_of_clearB (by decide +kernel), by decide +kernel⟩⟩
  simp only [List.mem_cons, List.not_mem_nil, or_false] at hq
  rcases hq with rfl | rfl | rfl | rfl <;>
    exact ⟨clear_of_clearB (by decide +kernel), by decide +kernel, each (by decide +kernel), by decide +kernel⟩

theorem witness_Stores :
    (let u : LMem := ⟨none, false, 8, 2, 5, 0, 2⟩
     Issues (.stg u) spread ∧
      (spread.globalAccess 1 16 (fun e => e.val u.a.toNat 2 + u.off4.toNat * 16) (spread.issueLanes (shapeOf (.stg u)))).2.2 = []) ∧
    (∀ q ∈ ([0, 1, 2, 3] : List (BitVec 3)),
      let u : LMem := ⟨none, false, 8, 2, q, 0, 2⟩
      Issues (.sts u) spread ∧
        (scratchAccess 16 true (fun e => (e.reg u.a.toNat).toNat + u.off4.toNat * 16) (spread.issueLanes (shapeOf (.sts u)))).2 = []) ∧
    (let u : LMem := ⟨none, false, 8, 2, 0, 0, 2⟩
     let r := vaultAccess 16 (fun e => (e.reg u.a.toNat).toNat + u.off4.toNat * 16) (spread.issueLanes (shapeOf (.stv u)))
     Issues (.stv u) spread ∧ r.2 = [] ∧
       (spread.writeVaultCells (r.1.flatMap (fun x => cellsAt x.2.2 (bytesOf (x.1.val u.d.toNat 4) 16)))).2 = []) ∧
    (let u : LFe := ⟨none, false, 2, 3⟩
     let r := scratchAccess 4 true (fun e => (e.reg u.a.toNat).toNat + 4 * u.off4.toNat) (spread.issueLanes (shapeOf (.feset u)))
     Issues (.feset u) spread ∧ Issues (.feclr u) spread ∧ r.2 = [] ∧ r.1 ≠ [] ∧ spread.issueLanes (shapeOf (.feclr u)) = spread.issueLanes (shapeOf (.feset u))) := by
  refine ⟨⟨clear_of_clearB (by decide +kernel), by decide +kernel⟩, fun q hq => ?_,
    ⟨clear_of_clearB (by decide +kernel), by decide +kernel, by decide +kernel⟩,
    ⟨clear_of_clearB (by decide +kernel), clear_of_clearB (by decide +kernel), by decide +kernel,
      fun h => absurd (congrArg List.length h) (by decide +kernel), rfl⟩⟩
  simp only [List.mem_cons, List.not_mem_nil, or_false] at hq
  rcases hq with rfl | rfl | rfl | rfl <;> exact ⟨clear_of_clearB (by decide +kernel), by decide +kernel⟩

theorem witness_Atomics :
    (∀ op ∈ ([(0, 0), (8, 0), (9, 1), (10, 0)] : List (BitVec 4 × BitVec 2)),
      let u : LMem := ⟨none, false, 8, 2, 5, op.1, op.2⟩
      let r := spread.globalAccess 2 4 (fun e => e.val u.a.toNat 2) (spread.issueLanes (shapeOf (.atom u)))
      Issues (.atom u) spread ∧ r.2.2 = [] ∧ ∀ x ∈ r.2.1, x.page.host = false) ∧
    (let u : LMem := ⟨none, false, 8, 2, 3, 7, 1⟩
     let r := spread.globalAccess 2 8 (fun e => e.val u.a.toNat 2) (spread.issueLanes (shapeOf (.red u)))
     Issues (.red u) spread ∧ r.2.2 = [] ∧ ∀ x ∈ r.2.1, x.page.host = false) ∧
    (let u : LMem0 := ⟨none, false, 8, 2, 9, 2⟩
     Issues (.atoms u) spread ∧ (scratchAccess 8 true (fun e => (e.reg u.a.toNat).toNat) (spread.issueLanes (shapeOf (.atoms u)))).2 = []) := by
  refine ⟨fun op ho => ?_, ⟨clear_of_clearB (by decide +kernel), by decide +kernel, each (by decide +kernel)⟩,
    ⟨clear_of_clearB (by decide +kernel), by decide +kernel⟩⟩
  simp only [List.mem_cons, List.not_mem_nil, or_false] at ho
  rcases ho with rfl | rfl | rfl | rfl <;> exact ⟨clear_of_clearB (by decide +kernel), by decide +kernel, each (by decide +kernel)⟩

/-! ### Asynchronous work, and lanes that read tables -/

theorem witness_StreamerJobs :
    (let s := yard 1 [(1, 64)]
     Issues (.strm ⟨false, 1⟩) s ∧ ∃ e, Lone (.strm ⟨false, 1⟩) s e ∧ (e.greg 1).toNat = 64 ∧
      e.wg.isChunkMap (natOfBytes (((e.wg.readScratch 64 64).1.drop 12).take 4)) = true ∧
      s.jobsOn e.wg.core JobKind.isStream + 1 ≤ 16) ∧
    (let s := (yard 1 [(1, 0), (2, 16)]).modWg 1 (fun w =>
      { w with objects := [(48, .chunkMap)], scratch := SMap.write [] 0 ((List.range 16).flatMap (fun _ => List.replicate 12 0 ++ bytesOf 48 4 ++ List.replicate 48 0)) 0 })
     Issues (.strmq ⟨false, 1, 2⟩) s ∧ ∃ e, Lone (.strmq ⟨false, 1, 2⟩) s e ∧ (e.greg 1).toNat = 0 ∧ (e.greg 2).toNat = 16 ∧
      (∀ k < 16, (0 + 64 * k) % 64 = 0 ∧ 0 + 64 * k + 64 ≤ e.wg.scratchSize ∧
        e.wg.isChunkMap (natOfBytes (((e.wg.readScratch (0 + 64 * k) 64).1.drop 12).take 4)) = true) ∧
      s.jobsOn e.wg.core JobKind.isStream + 16 ≤ 16) ∧
    (Issues (.tierpf ⟨false, 3, 4, 1⟩) (yard 0 []) ∧ ∃ e, Lone (.tierpf ⟨false, 3, 4, 1⟩) (yard 0 []) e ∧
      e.wg.Holds (e.greg 3).toNat ∧ e.wg.isBarrier (e.greg 3).toNat = true) ∧
    (Issues (.tierpf ⟨false, 0, 4, 1⟩) (yard 0 []) ∧ ∃ e, Lone (.tierpf ⟨false, 0, 4, 1⟩) (yard 0 []) e) := by
  refine ⟨⟨clear_of_clearB (by decide +kernel), lone (by decide +kernel)⟩, ⟨clear_of_clearB (by decide +kernel), lone (by decide +kernel)⟩,
    ⟨clear_of_clearB (by decide +kernel), lone (by decide +kernel)⟩, clear_of_clearB (by decide +kernel), ?_⟩
  obtain ⟨e, l, _⟩ := lone (i := .tierpf ⟨false, 0, 4, 1⟩) (s := yard 0 []) (P := fun _ => True) (by decide +kernel)
  exact ⟨e, l⟩

/-- Whether a scratch range is aligned and within the workgroup's scratch. -/
abbrev InScratch (e : LaneEnv) (a n : Nat) : Prop := a % 16 = 0 ∧ a + n ≤ e.wg.scratchSize

theorem witness_MatrixOperations :
    let s := yard 2 [(1, 5120)]
    let place (e : LaneEnv) : Prop := s.jobsOn e.wg.core JobKind.isMatrix < 16
    (Issues (.mlatb ⟨false, 1, 0, 4, 1⟩) s ∧ ∃ e, Lone (.mlatb ⟨false, 1, 0, 4, 1⟩) s e ∧ place e ∧
      InScratch e (e.greg 1).toNat (64 * mmRow 4) ∧ e.wg.isBarrier (e.greg 0).toNat = true) ∧
    (Issues (.mma ⟨none, false, 96, 3, 0, 3, 1⟩) s ∧ ∃ e, Lone (.mma ⟨none, false, 96, 3, 0, 3, 1⟩) s e ∧ place e ∧
      (∀ r ∈ (byLane (s.issueLanes (shapeOf (.mma ⟨none, false, 96, 3, 0, 3, 1⟩)))).map (fun x => (x.ti, (x.reg 3).toNat)), InScratch e r.2 (mmRow 0)) ∧
      e.wg.isBarrier (16 * bitsOf (e.reg 96).toNat 18 4) = true) ∧
    (Issues (.mstore ⟨false, 0, 2, 0, 3⟩) s ∧ ∃ e, Lone (.mstore ⟨false, 0, 2, 0, 3⟩) s e ∧ place e ∧
      InScratch e (e.greg 0).toNat (msLen 0 (e.greg 3)) ∧ e.wg.isBarrier (16 * bitsOf (e.greg 2).toNat 18 4) = true) ∧
    (Issues (.mzero ⟨false, 1, 3⟩) s ∧ ∃ e, Lone (.mzero ⟨false, 1, 3⟩) s e ∧ s.jobs = [] ∧ e.wg.retired = false ∧
      ∀ w ∈ s.wgs, ∀ g ∈ w.groups, ∀ t ∈ g.threads, t.run = .ready ∨ t.run = .exited) ∧
    (Issues (.mstat ⟨false, 31, 3⟩) s ∧ ∃ e, Lone (.mstat ⟨false, 31, 3⟩) s e ∧ place e) ∧
    (Issues (.mread ⟨none, false, 93, 3, 0, 3⟩) s ∧ ∃ e, Lone (.mread ⟨none, false, 93, 3, 0, 3⟩) s e ∧ place e ∧
      (s.issueLanes (shapeOf (.mread ⟨none, false, 93, 3, 0, 3⟩))).filter LaneEnv.takes ≠ []) := by
  refine ⟨⟨clear_of_clearB (by decide +kernel), lone (by decide +kernel)⟩, ⟨clear_of_clearB (by decide +kernel), lone (by decide +kernel)⟩,
    ⟨clear_of_clearB (by decide +kernel), lone (by decide +kernel)⟩, ⟨clear_of_clearB (by decide +kernel), lone (by decide +kernel)⟩,
    ⟨clear_of_clearB (by decide +kernel), lone (by decide +kernel)⟩, clear_of_clearB (by decide +kernel), ?_⟩
  obtain ⟨e, l, h⟩ := lone (i := .mread ⟨none, false, 93, 3, 0, 3⟩) (s := yard 2 [(1, 5120)])
    (P := fun e => (yard 2 [(1, 5120)]).jobsOn e.wg.core JobKind.isMatrix < 16) (by decide +kernel)
  exact ⟨e, l, h, fun h => absurd (congrArg List.length h) (by decide +kernel)⟩

theorem witness_FormeWork :
    (∀ i ∈ ([.gseal ⟨false, 1, 2⟩, .impose ⟨false, 1, 2⟩, .distrib ⟨false, 1, 2⟩, .distribCompact ⟨false, 1, 2⟩, .proofpub ⟨false, 1, 2⟩,
        .kvappend ⟨false, 1, 2⟩, .specapp ⟨false, 1, 2⟩, .commit ⟨false, 1, 2⟩] : List Instr),
      Issues i (yard 0 [(2, 64)]) ∧ ∃ e, Lone i (yard 0 [(2, 64)]) e ∧ (e.greg 2).toNat % 32 = 0 ∧ (e.greg 2).toNat + 32 ≤ e.wg.scratchSize ∧
        e.wg.isBarrier (e.greg 1).toNat = true) ∧
    (let i := Instr.kvgather ⟨none, false, 98, 3, 1, 1⟩
     Issues i (yard 0 [(2, 64)]) ∧ ∃ e, Lone i (yard 0 [(2, 64)]) e ∧ (e.reg 98).toNat % 32 = 0 ∧ (e.reg 98).toNat + 32 ≤ e.wg.scratchSize ∧
        e.wg.isChunkMap (natOfBytes (((e.wg.readScratch (e.reg 98).toNat 32).1.drop 12).take 4)) = true) ∧
    (let i := Instr.fetchw ⟨false, 2, 1⟩
     Issues i (yard 0 [(2, 64)]) ∧ ∃ e, Lone i (yard 0 [(2, 64)]) e ∧ (e.greg 2).toNat % 32 = 0 ∧ (e.greg 2).toNat + 32 ≤ e.wg.scratchSize ∧
        e.wg.fetched = []) := by
  refine ⟨fun i hi => ?_, ⟨clear_of_clearB (by decide +kernel), lone (by decide +kernel)⟩, clear_of_clearB (by decide +kernel), lone (by decide +kernel)⟩
  simp only [List.mem_cons, List.not_mem_nil, or_false] at hi
  rcases hi with rfl | rfl | rfl | rfl | rfl | rfl | rfl | rfl <;> exact ⟨clear_of_clearB (by decide +kernel), lone (by decide +kernel)⟩

/-- A launch record of one workgroup of eight threads at 0x80, with 1 KiB of scratch, of a quire table at 0x4000 (R309). -/
def record (flags : Nat) : List Byte :=
  bytesOf 0x80 8 ++ bytesOf 0x4000 8 ++ bytesOf 0 8 ++ bytesOf 1 4 ++ bytesOf 1 4 ++ bytesOf 1 4 ++ bytesOf 1024 4 ++ List.replicate 7 0
    ++ bytesOf flags 1 ++ List.replicate 16 0 ++ [8, 0, 96, 0] ++ List.replicate 188 0

/-- A forme of one layer and one head of E4M3 rows of eight elements at 0x2000 (R326 to R331): one entry, whose state and flags are given,
of one token at base 4 with a proof set of one, of the galley at 0x7000; a tail of 16 rows from position 16 on; and, where `ring` says
so, the entry's item in the ring. -/
def formeBytes (state : Nat) (ring : Bool) : List Byte :=
  let n := natOfBool ring
  bytesOf 1 2 ++ [0, 0, 1, 1, 255, 0] ++ bytesOf 0 8 ++ bytesOf 0x10000 8 ++ bytesOf 0x8000 8 ++ bytesOf 0x9000 8 ++ bytesOf 0xA000 8
    ++ bytesOf 16 3 ++ [0] ++ bytesOf 16 3 ++ [0] ++ bytesOf 0 5 ++ bytesOf n 1 ++ bytesOf n 2 ++ List.replicate 64 0
    ++ (bytesOf 0x7000 8 ++ bytesOf 4 3 ++ [0] ++ bytesOf 1 4 ++ bytesOf 5 2 ++ bytesOf state 2 ++ bytesOf 0 2 ++ bytesOf 0 2 ++ bytesOf 1 2)

/-- A machine with that forme, a sealed galley of one token at 0x7000, and a launch record at 0x6000. -/
def press (state : Nat) (ring : Bool) (gs : SMap Word) : State :=
  let galley : List Byte := bytesOf 0x7100 8 ++ bytesOf 0x7200 8 ++ bytesOf 1 3 ++ [1] ++ bytesOf 1 2 ++ [0, 0] ++ bytesOf 1 4 ++ [1]
  let m := SMap.write (SMap.write [] 0x2000 (formeBytes state ring) 0) 0x6000 (record 0) 0
  { yard 0 gs with mem := SMap.write m 0x7000 galley 0 }

theorem witness_LaunchAndProofReads :
    (let s := press 17 true [(2, 0x6000)]
     Issues (.launch ⟨false, 4, 2, 1⟩) s ∧ ∃ e, Lone (.launch ⟨false, 4, 2, 1⟩) s e ∧ e.gpair 2 = 0x6000 ∧
      (s.readVirt e.wg.part e.wg.ctx e.wg.core 0x6000 256).2 = .bytes (record 0) none ∧ s.recordBad e.wg.part e.wg.ctx (record 0) = none) ∧
    (∀ x ∈ ([(0x7000, [], 3), (0x6000, [(0x300, true)], 4), (0x4000000, [], 5)] : List (Word × SMap Bool × Nat)),
     let s : State := { press 17 true [(2, x.1)] with memPoison := x.2.1 }
     Issues (.launch ⟨false, 4, 2, 1⟩) s ∧ ∃ e, Lone (.launch ⟨false, 4, 2, 1⟩) s e ∧ e.gpair 2 % 256 = 0 ∧ e.gpair 2 < 2 ^ 52 ∧
      (match (s.readVirt e.wg.part e.wg.ctx e.wg.core (e.gpair 2) 256).2 with
        | .bytes bs none => x.2.2 == 3 && (s.recordBad e.wg.part e.wg.ctx bs).isSome
        | .bytes _ (some _) => x.2.2 == 4
        | .fault _ _ => x.2.2 == 5) = true) ∧
    (let s := press 1 false [(2, 0x2000)]
     Issues (.proofw ⟨false, 4, 2⟩) s ∧ ∃ e, Lone (.proofw ⟨false, 4, 2⟩) s e ∧ e.gpair 2 = 0x2000 ∧
      let r := s.translateRuns e.wg.part e.wg.ctx e.wg.core 1 (pageRuns 0x2000 8576 4)
      r.2.2 = none ∧ r.1.jobs = [] ∧
      (match ((fmFetch (r.1.asJob e (.proofw 0x2000 (r.1.formeKey e.wg.part e.wg.ctx e.wg.core 0x2000) 4 false)) 0x2000).run r.1).1 with
        | .ok none => true
        | _ => false) = true) ∧
    (let s := press 17 true [(2, 0x2000)]
     Issues (.proofw ⟨false, 4, 2⟩) s ∧ ∃ e, Lone (.proofw ⟨false, 4, 2⟩) s e ∧ e.gpair 2 = 0x2000 ∧
      let r := s.translateRuns e.wg.part e.wg.ctx e.wg.core 1 (pageRuns 0x2000 8576 4)
      r.2.2 = none ∧ r.1.jobs = [] ∧
      (match ((fmFetch (r.1.asJob e (.proofw 0x2000 (r.1.formeKey e.wg.part e.wg.ctx e.wg.core 0x2000) 4 false)) 0x2000).run r.1).1 with
        | .ok (some x) => x == (0, 1 + 2 ^ 16 * 5)
        | _ => false) = true) ∧
    (let s := press 17 true [(2, 0x2000), (1, 255)]
     Issues (.prstat ⟨false, 31, 2, 1⟩) s ∧ ∃ e, Lone (.prstat ⟨false, 31, 2, 1⟩) s e ∧ e.gpair 2 = 0x2000 ∧
      (s.translateRuns e.wg.part e.wg.ctx e.wg.core 0 (pageRuns 0x2000 128 2 ++ pageRuns (0x2000 + 128 + 32 * ((e.greg 1).toNat % 256)) 32 2)).2.2 = none) := by
  refine ⟨⟨clear_of_clearB (by decide +kernel), lone (by decide +kernel)⟩, fun x hx => ?_, ⟨clear_of_clearB (by decide +kernel), lone (by decide +kernel)⟩,
    ⟨clear_of_clearB (by decide +kernel), lone (by decide +kernel)⟩, ⟨clear_of_clearB (by decide +kernel), lone (by decide +kernel)⟩⟩
  simp only [List.mem_cons, List.not_mem_nil, or_false] at hx
  rcases hx with rfl | rfl | rfl <;> exact ⟨clear_of_clearB (by decide +kernel), lone (by decide +kernel)⟩

theorem witness_TableLanes :
    (∀ i ∈ ([.tidx ⟨none, false, 95, 0, 0, 15⟩, .tidx ⟨none, false, 88, 0, 4, 0⟩] : List Instr), Issues i bench) ∧
    (let u : LAfw := ⟨none, false, 92, 4, 7, 2⟩
     let steer (e : LaneEnv) (b : Nat) : Nat := (SMap.get e.wg.patterns (256 * u.fn.toNat + 4 * e.ti + b) 0).toNat
     Clear (.xperm u) (some (fun e => (List.range 4).map (fun b => (steer e b / 4 % e.g.width, u.a.toNat, grp u.w)))) noExtra bench) :=
  ⟨issues_all (by decide +kernel), clear_of_clearB (by decide +kernel)⟩

/-- Whether a lane of ROTQ has a result. -/
def isResult (r : RotqOut) : Bool := match r with | .result _ _ => true | _ => false

theorem results_of {l : List (LaneEnv × RotqOut)} (h : l.all (fun r => isResult r.2) = true) :
    ∃ rs : List (LaneEnv × Nat × Option Nat), l = rs.map (fun r => (r.1, .result r.2.1 r.2.2)) := by
  induction l with
  | nil => exact ⟨[], rfl⟩
  | cons r l ih =>
    obtain ⟨h1, h2⟩ := (Bool.and_eq_true _ _).mp (List.all_cons ▸ h)
    obtain ⟨rs, rfl⟩ := ih h2
    obtain ⟨e, o⟩ := r
    cases o with
    | result x p => exact ⟨(e, x, p) :: rs, rfl⟩
    | trap t => exact absurd h1 (by simp [isResult])
    | fault ps => exact absurd h1 (by simp [isResult])

theorem witness_Rotations :
    let u : LRw := ⟨none, false, 94, 4, 98, 1⟩
    let s := yard 0 [(2, 128)]
    let ls := s.issueLanes (shapeOf (.rotq u))
    Issues (.rotq u) s ∧ ∃ e, Lone (.rotq u) s e ∧ (e.reg u.b.toNat).toNat = 128 ∧ 128 + 16 ≤ e.wg.scratchSize ∧
      (e.wg.readScratch 128 16).1 = List.replicate 16 0 ∧ grp u.w % 2 = 0 ∧
      ∃ s1, ∃ rs : List (LaneEnv × Nat × Option Nat), (byLane (ls.filter LaneEnv.takes)).foldl (fun (acc : State × List (LaneEnv × RotqOut)) x =>
        let y := rotqLane acc.1 x u 0 0 false
        (y.1, acc.2 ++ [(x, y.2)])) (zeroRest (shapeOf (.rotq u)).zero u.d.toNat (grp u.w) s ls, [])
          = (s1, rs.map (fun r => (r.1, .result r.2.1 r.2.2))) := by
  refine ⟨clear_of_clearB (by decide +kernel), ?_⟩
  obtain ⟨e, l, h1, h2, h3, h4⟩ := lone (i := .rotq ⟨none, false, 94, 4, 98, 1⟩) (s := yard 0 [(2, 128)])
    (P := fun e => (e.reg 98).toNat = 128 ∧ 128 + 16 ≤ e.wg.scratchSize ∧ (e.wg.readScratch 128 16).1 = List.replicate 16 0 ∧ grp 1 % 2 = 0)
    (by decide +kernel)
  refine ⟨e, l, h1, h2, h3, h4, ?_⟩
  obtain ⟨rs, h⟩ := results_of (l := ((byLane (((yard 0 [(2, 128)]).issueLanes (shapeOf (.rotq ⟨none, false, 94, 4, 98, 1⟩))).filter LaneEnv.takes)).foldl
    (fun (acc : State × List (LaneEnv × RotqOut)) x =>
      let y := rotqLane acc.1 x ⟨none, false, 94, 4, 98, 1⟩ 0 0 false
      (y.1, acc.2 ++ [(x, y.2)])) (zeroRest (shapeOf (.rotq ⟨none, false, 94, 4, 98, 1⟩)).zero 94 (grp 1) (yard 0 [(2, 128)])
        ((yard 0 [(2, 128)]).issueLanes (shapeOf (.rotq ⟨none, false, 94, 4, 98, 1⟩))), [])).2) (by decide +kernel)
  exact ⟨_, rs, Prod.ext rfl h⟩

theorem oks {ε α : Type} [Inhabited α] {l : List LaneEnv} {f : LaneEnv → Except ε α} (h : l.all (fun e => isOk (f e)) = true) :
    ∃ x : LaneEnv → α, ∀ e ∈ l, e.takes = true → f e = .ok (x e) := by
  refine ⟨fun e => match f e with | .ok v => v | .error _ => default, fun e he _ => ?_⟩
  have := List.all_eq_true.mp h e he
  revert this
  dsimp only
  cases f e with
  | ok v => intro _; rfl
  | error t => intro h; exact absurd h (by simp [isOk])

theorem witness_Transducers :
    let s := yard 0 []
    (let u : LRw := ⟨none, false, 94, 3, 0, 0⟩
     Clear (.dxt u) (some (walkReads u.w.toNat u.a u.b)) (arityReason (shapeOf (.dxt u)) u.w.toNat u.b) s ∧
     ∃ x : LaneEnv → Nat, ∀ e ∈ s.issueLanes (shapeOf (.dxt u)), e.takes = true →
       (e.paradigm 0).dxt 0 (e.reg 3).toNat (walkB (e.paradigm 0) u.b e) = .ok (x e)) ∧
    (let u : LCmpW := ⟨none, false, 7, 7, 3, 0, 1⟩
     Clear (.dxcmp u) (some (walkReads u.w.toNat u.a u.b)) (arityReason (shapeOf (.dxcmp u)) u.w.toNat u.b) s ∧
     ∃ x : LaneEnv → Bool, ∀ e ∈ s.issueLanes (shapeOf (.dxcmp u)), e.takes = true →
       (e.paradigm 1).dxcmp 1 (e.reg 3).toNat (walkB (e.paradigm 1) u.b e) 7 = .ok (x e)) ∧
    (let u : LDx := ⟨none, false, 94, 4, 1, 3⟩
     Issues (.dxval u) s ∧ Issues (.dxenc u) s ∧
     (∃ x : LaneEnv → Int, ∀ e ∈ s.issueLanes (shapeOf (.dxval u)), e.takes = true →
       (e.paradigm 3).val 3 (e.val 4 2) ((e.paradigm 3).n * 2) = .ok (x e)) ∧
     ∃ x : LaneEnv → Nat, ∀ e ∈ s.issueLanes (shapeOf (.dxenc u)), e.takes = true →
       (e.paradigm 3).enc 3 ((e.paradigm 3).n * 2) (sext (e.val 4 2) (32 * 2)) = .ok (x e)) :=
  ⟨⟨clear_of_clearB (by decide +kernel), oks (by decide +kernel)⟩, ⟨clear_of_clearB (by decide +kernel), oks (by decide +kernel)⟩,
    clear_of_clearB (by decide +kernel), clear_of_clearB (by decide +kernel), oks (by decide +kernel), oks (by decide +kernel)⟩

/-! ### Events: results, wakes, engines -/

/-- No thread waits for results where every thread is READY, at its end, or parked for something else. -/
theorem nobodyWaits {s : State} {wid : Nat} (h : s.wgs.all (fun w => w.groups.all (fun g => g.threads.all (fun t =>
    match t.run with | .parked k _ => ! k.isMet | _ => true))) = true) : s.NobodyWaits wid := by
  intro w hw
  have hm : w ∈ s.wgs := List.mem_of_find?_eq_some hw
  refine no_sets (fun g hg t ht => ?_)
  have := List.all_eq_true.mp (List.all_eq_true.mp (List.all_eq_true.mp h w hm) g hg) t ht
  revert this
  cases t.run with
  | parked k n => cases k.isMet <;> simp
  | ready => simp
  | exited => simp

/-- The machine of `yard`, with thread 0 in another state. -/
def one (f : Thread → Thread) : State := (yard 0 []).modThread 1 0 0 f

/-- A result outstanding to v95. -/
def due : Pending := Pending.now 1 95 0xFFFFFFFF false 0x80 0

/-- A piece of work of the machine's one group, at a number. -/
def job (k : JobKind) : Job := { id := 7, part := 0, ctx := 0, core := 0, wid := 1, gi := 0, tis := [0, 1, 2, 3, 4, 5, 6, 7], pc := 0x80, kind := k, view := [], wrote := [], waited := false }
/-- The machine of `yard` with that piece of work in hand, and its workgroup. -/
def working (k : JobKind) : State := { yard 0 [] with jobs := [job k], nextId := 8 }
def worker : Workgroup := ((yard 0 []).wgs.head?).getD Workgroup.holding

/-- The machine of `yard` with work of a kind in hand, so many times. -/
def thronged (role : Nat) (gs : SMap Word) (k : JobKind) (n : Nat) : State :=
  { yard role gs with jobs := (List.range n).map (fun i => { job k with id := i }) }

/-- A deadline one nanosecond away; a phase still running, and a map with one bit clear; an empty granule, for both qualifiers; and a
port and an engine that are full, or full but for one place. -/
theorem witness_UnitsThatPark :
    (let s := yard 0 [(30, 1)]
     Issues (.sleepto ⟨false, 30⟩) s ∧ ∀ e ∈ s.issueLanes (shapeOf (.sleepto ⟨false, 30⟩)), s.time.toNat < e.gpair 30) ∧
    (Issues (.waitph ⟨false, 1, 2⟩) (yard 0 []) ∧ ∃ e, Lone (.waitph ⟨false, 1, 2⟩) (yard 0 []) e ∧
      e.wg.Holds (e.greg 1).toNat ∧ e.wg.obj? (e.greg 1).toNat = some (.barrier 0 0 0) ∧ e.wg.phaseBit (e.greg 1).toNat = (e.greg 2).getLsbD 0) ∧
    (let s := yard 0 [(1, 16), (2, 1)]
     Issues (.cmwait ⟨false, 1, 2⟩) s ∧ ∃ e, Lone (.cmwait ⟨false, 1, 2⟩) s e ∧ e.wg.Holds (e.greg 1).toNat ∧
      e.wg.isChunkMap (e.greg 1).toNat = true ∧ e.wg.bitmapOf (e.greg 1).toNat &&& e.gpair 2 ≠ e.gpair 2 ∧
      statusCode (e.wg.mapStatus (e.greg 1).toNat) = 0) ∧
    (∀ q ∈ [(1 : BitVec 3), 2], let i := Instr.lds ⟨none, false, 88, 2, q, 15, 2⟩
      Issues i (yard 0 []) ∧ ∀ e ∈ (yard 0 []).issueLanes (shapeOf i), e.takes = true ∧ ((e.reg 2).toNat + 15 * 16) % 16 = 0 ∧
        (e.reg 2).toNat + 15 * 16 + 16 ≤ e.wg.scratchSize ∧ e.wg.allFull (((e.reg 2).toNat + 15 * 16) / 16) (((e.reg 2).toNat + 15 * 16 + 16 - 1) / 16) = false) ∧
    (let s := thronged 1 [(1, 64)] (.stream [] [] none []) 16
     Issues (.strm ⟨false, 1⟩) s ∧ ∃ e, Lone (.strm ⟨false, 1⟩) s e ∧ (e.greg 1).toNat = 64 ∧
      e.wg.isChunkMap (natOfBytes (((e.wg.readScratch 64 64).1.drop 12).take 4)) = true ∧ 16 ≤ s.jobsOn e.wg.core JobKind.isStream) ∧
    (let s := thronged 1 [(1, 64), (2, 1)] (.stream [] [] none []) 16
     Issues (.strmq ⟨false, 1, 2⟩) s ∧ ∃ e, Lone (.strmq ⟨false, 1, 2⟩) s e ∧ (e.greg 1).toNat = 64 ∧ (e.greg 2).toNat = 1 ∧
      e.wg.isChunkMap (natOfBytes (((e.wg.readScratch 64 64).1.drop 12).take 4)) = true ∧ 16 < s.jobsOn e.wg.core JobKind.isStream + 1) ∧
    (let s := thronged 2 [(1, 5120)] (.mstat 0) 16
     let place (e : LaneEnv) : Prop := 16 ≤ s.jobsOn e.wg.core JobKind.isMatrix
     (Issues (.mzero ⟨false, 1, 3⟩) s ∧ ∃ e, Lone (.mzero ⟨false, 1, 3⟩) s e ∧ place e) ∧
     (Issues (.mstat ⟨false, 31, 3⟩) s ∧ ∃ e, Lone (.mstat ⟨false, 31, 3⟩) s e ∧ place e) ∧
     (Issues (.mlatb ⟨false, 1, 0, 4, 1⟩) s ∧ ∃ e, Lone (.mlatb ⟨false, 1, 0, 4, 1⟩) s e ∧ place e ∧
       (e.greg 1).toNat % 16 = 0 ∧ (e.greg 1).toNat + 64 * mmRow 4 ≤ e.wg.scratchSize ∧ e.wg.isBarrier (e.greg 0).toNat = true) ∧
     (Issues (.mread ⟨none, false, 93, 3, 0, 3⟩) s ∧ (∃ e, Lone (.mread ⟨none, false, 93, 3, 0, 3⟩) s e ∧ place e) ∧
       (s.issueLanes (shapeOf (.mread ⟨none, false, 93, 3, 0, 3⟩))).filter LaneEnv.takes ≠ []) ∧
     (Issues (.mma ⟨none, false, 96, 3, 0, 3, 1⟩) s ∧ ∃ e, Lone (.mma ⟨none, false, 96, 3, 0, 3, 1⟩) s e ∧ place e ∧
       (∀ x ∈ s.issueLanes (shapeOf (.mma ⟨none, false, 96, 3, 0, 3, 1⟩)), (x.reg 3).toNat % 16 = 0 ∧ (x.reg 3).toNat + mmRow 0 ≤ e.wg.scratchSize) ∧
       e.wg.isBarrier (16 * bitsOf (e.reg 96).toNat 18 4) = true) ∧
     (Issues (.mstore ⟨false, 0, 2, 0, 3⟩) s ∧ ∃ e, Lone (.mstore ⟨false, 0, 2, 0, 3⟩) s e ∧ place e ∧ (e.greg 0).toNat % 16 = 0 ∧
       (e.greg 0).toNat + msLen 0 (e.greg 3) ≤ e.wg.scratchSize ∧ e.wg.isBarrier (16 * bitsOf (e.greg 2).toNat 18 4) = true)) := by
  refine ⟨⟨clear_of_clearB (by decide +kernel), each (by decide +kernel)⟩, ⟨clear_of_clearB (by decide +kernel), lone (by decide +kernel)⟩,
    ⟨clear_of_clearB (by decide +kernel), lone (by decide +kernel)⟩, fun q hq => ?_,
    ⟨clear_of_clearB (by decide +kernel), lone (by decide +kernel)⟩, ⟨clear_of_clearB (by decide +kernel), lone (by decide +kernel)⟩,
    ⟨clear_of_clearB (by decide +kernel), lone (by decide +kernel)⟩, ⟨clear_of_clearB (by decide +kernel), lone (by decide +kernel)⟩,
    ⟨clear_of_clearB (by decide +kernel), lone (by decide +kernel)⟩,
    ⟨clear_of_clearB (by decide +kernel), lone (by decide +kernel), fun h => absurd (congrArg List.length h) (by decide +kernel)⟩,
    ⟨clear_of_clearB (by decide +kernel), lone (by decide +kernel)⟩, ⟨clear_of_clearB (by decide +kernel), lone (by decide +kernel)⟩⟩
  simp only [List.mem_cons, List.not_mem_nil, or_false] at hq
  rcases hq with rfl | rfl <;> exact ⟨clear_of_clearB (by decide +kernel), each (by decide +kernel)⟩

/-- A result outstanding to v95 that comes poisoned. -/
def tainted : Pending := { due with poison := true }

/-- A machine whose thread 0 alone waits for one result, with a trap vector. -/
def awaiting (p : Pending) : State :=
  (one (fun t => { t with pending := [p], unwaited := [95], run := .parked (.wait 0x80 false) 5 })).modWg 1 (fun w =>
    { w with groups := w.groups.map (fun g => { g with trapvec := 0x100 }) })

/-- Thread 0 of that machine waits alone in its set. -/
theorem waits_alone (p : Pending) : ∃ w, (awaiting p).wg? 1 = some w ∧ w.WaitsAlone 0 0 0x80 5 := by
  refine ⟨_, rfl, rfl, rfl, ?_⟩
  intro g i hg x j hx ⟨k, hk⟩
  match i, hg with
  | 0, hg =>
    injection hg with hg
    subst hg
    match j, hx with
    | 0, _ => exact ⟨rfl, rfl⟩
    | 1, hx | 2, hx | 3, hx | 4, hx | 5, hx | 6, hx | 7, hx =>
      injection hx with hx
      subst hx
      injection hk

/-- Two threads asleep in one set, one until `d`. -/
def dozing (d : Nat) : State :=
  (one (fun t => { t with run := .parked (.sleep 0 false) 5 })).modThread 1 0 1 (fun t => { t with run := .parked (.sleep d false) 5 })

theorem witness_ResultsWakesCopies :
    (let s := one (fun t => { t with pending := [due], unwaited := [95] })
     s.result? ⟨1, 0, 0, 0⟩ = some due ∧ due.known = true ∧ due.returned = false ∧ (s.thread? 1 0 0).map (·.loads) = some [] ∧ s.NobodyWaits 1) ∧
    (∀ p ∈ [due, tainted], ∃ w g x, (awaiting p).wg? 1 = some w ∧ w.WaitsAlone 0 0 0x80 5 ∧ w.groups[0]? = some g ∧ 0 < g.width ∧
      g.threads[0]? = some x ∧ x.run = .parked (.wait 0x80 false) 5 ∧ x.pending = [p] ∧ x.loads = [] ∧ (awaiting p).holdEnds = false ∧ p.known = true ∧ p.returned = false ∧ p.late = false ∧
      p.reg < 96 ∧ x.marks = [] ∧ g.gPending = [] ∧ g.gMarks = [] ∧ (∀ y ∈ g.threads, y.handler = false) ∧ g.trapvec = 0x100 ∧
      (((awaiting p).resident w.part w.ctx w.core).quire 0).state = .resident ∧
      0x100 < (((awaiting p).resident w.part w.ctx w.core).quire 0).length) ∧
    due.poison = false ∧ tainted.poison = true ∧
    (∀ d ∈ [0, 1], ∃ x y, (dozing d).thread? 1 0 0 = some x ∧ x.run = .parked (.sleep 0 false) 5 ∧ (dozing d).NobodyWaits 1 ∧
      (dozing d).thread? 1 0 1 = some y ∧ y.run = .parked (.sleep d false) 5 ∧ (dozing d).time.toNat = 0) ∧
    (∀ c ∈ [(0, 15, 96), (1, 7, 256), (2, 3, 132)], Due (working (.copy c.1 c.2.1 (List.replicate c.2.2 1))) 7
      (job (.copy c.1 c.2.1 (List.replicate c.2.2 1))) (.copy c.1 c.2.1 (List.replicate c.2.2 1)) ∧
      Resting (working (.copy c.1 c.2.1 (List.replicate c.2.2 1)))) := by
  refine ⟨⟨by decide +kernel, rfl, rfl, by decide +kernel, nobodyWaits (by decide +kernel)⟩, fun p hp => ?_, rfl, rfl, fun d hd => ?_, fun c hc => ?_⟩
  · obtain ⟨w, hw, ha⟩ := waits_alone p
    have : w = (((awaiting p).wgs.head?).getD Workgroup.holding) := (Option.some.inj hw).symm
    subst this
    simp only [List.mem_cons, List.not_mem_nil, or_false] at hp
    rcases hp with rfl | rfl <;> exact ⟨_, _, _, hw, ha, rfl, by decide +kernel, rfl, by decide +kernel⟩
  · simp only [List.mem_cons, List.not_mem_nil, or_false] at hd
    rcases hd with rfl | rfl <;> exact ⟨_, _, rfl, by decide +kernel, nobodyWaits (by decide +kernel), rfl, by decide +kernel⟩
  · simp only [List.mem_cons, List.not_mem_nil, or_false] at hc
    rcases hc with rfl | rfl | rfl <;> exact ⟨⟨rfl, rfl, by decide +kernel⟩, by decide +kernel⟩

/-- A machine that is loading quire 255, 64 zero bytes at 0x1000, with their digest. -/
def loading : State :=
  { yard 0 [] with residents := (yard 0 []).residents.map (fun r => { r with
      quires := r.quires ++ [{ Quire.fresh 255 with state := .loading, source := 0x1000, length := 64, digest := natOfBytes (sha256 (List.replicate 64 0)) }] }) }

/-- The same machine, whose digest is not that of the bytes. -/
def misread : State :=
  { loading with residents := loading.residents.map (fun r => { r with quires := r.quires.map (fun q => if q.q = 255 then { q with digest := 0 } else q) }) }

/-- Three levels of tables of the root context, whose last entry maps the first 32 MiB (R357). -/
def tables : State :=
  { rooted 0 0 with
    tlb := [], contexts := [{ Context.reset rootPart 0 with state := .live, ptroot := 0x10000 }]
    mem := SMap.write (SMap.write (SMap.write [] 0x10000 (bytesOf 0x14001 8) 0) 0x14000 (bytesOf 0x18001 8) 0) 0x18000 (bytesOf 7 8) 0 }

theorem witness_QuireLoadsAndWalks :
    (let x := (loading.resident 0 0 0).quire 255
     let r := loading.readCode 0 0 0 x.source x.length x.view
     Resting loading ∧ x.state = .loading ∧ r.2 = .bytes (List.replicate 64 0) none ∧ r.1.residents = loading.residents ∧ r.1.wgs = loading.wgs ∧
       (∀ w ∈ loading.wgs, w.started = true) ∧ natOfBytes (sha256 (List.replicate 64 0)) ≠ ((misread.resident 0 0 0).quire 255).digest ∧
       Resting misread ∧ (misread.readCode 0 0 0 0x1000 64 ((misread.resident 0 0 0).quire 255).view).2 = .bytes (List.replicate 64 0) none ∧
       natOfBytes (sha256 (List.replicate 64 0)) = x.digest) ∧
    (∀ va ∈ [0, 2 ^ 25 - 1], tables.tlbHit rootCore rootPart 0 (va % 2 ^ 52) = none ∧
      ∃ g, tables.walk (Agent.unit rootCore).reader rootPart (va % 2 ^ 52) 3 (tables.context rootPart 0).ptroot.toNat = .page g ∧ g.base ≤ va % 2 ^ 52 ∧ va % 2 ^ 52 < g.base + g.size) := by
  refine ⟨by decide +kernel, fun va hv => ?_⟩
  simp only [List.mem_cons, List.not_mem_nil, or_false] at hv
  rcases hv with rfl | rfl <;> exact ⟨by decide +kernel, { (firstPage 0 0).page with sc := false }, by decide +kernel⟩

/-- A streamer command (R206): 128 by `n` elements of I32 as they are from address 0x1000 to scratch 0x100, its map at 16. -/
def command (n : Nat) : List Byte :=
  bytesOf 0x1000 8 ++ bytesOf 0x100 4 ++ bytesOf 16 4 ++ List.replicate 20 0 ++ bytesOf 256 4 ++ List.replicate 12 0 ++ [127] ++ bytesOf (n - 1) 1
    ++ [0, 0, 0, 0, 0xCC, 0] ++ bytesOf 0x3F800000 4
/-- A shape entry of 256 by 16 (R142). -/
def shape : List Byte :=
  [2] ++ List.replicate 7 0 ++ bytesOf 256 16 ++ bytesOf 16 16 ++ bytesOf 1 16 ++ bytesOf 1 16 ++ bytesOf 1 16 ++ List.replicate 8 0
/-- The translated source of that command. -/
def source : List (Nat × Nat × Page) := [(0x1000, 0x2000, (firstPage 0 0).page)]

theorem witness_StreamerAndTierEvents :
    (let s := working (.stream (command 1) shape none [])
     s.job? 7 = some (job (.stream (command 1) shape none [])) ∧ s.wg? 1 = some worker ∧ (s.resident 0 0 0).loc ≠ .saved ∧
       lowest (smDecode worker (command 1) shape) = none ∧ smVaultSrc (command 1) = false ∧
       smFootprint (command 1) shape = some (0x1000, 512) ∧ worker.protectedCode (smDst (command 1)) (smLen (command 1)) = none ∧
       (s.translateRuns 0 0 0 0 (pageRuns 0x1000 512 2)).2.2 = none) ∧
    (∀ n ∈ [1, 2],
      let k := JobKind.stream (command n) shape (some source) []
      (working k).job? 7 = some (job k) ∧ (working k).wg? 1 = some worker ∧ Resting (working k) ∧ ((working k).resident 0 0 0).loc ≠ .saved ∧
        (working k).jobReady (job k) (some 0) = true ∧ smVaultDst (command n) = false ∧ ((working k).smChunk worker [] (command n) shape source 0).2 = none) ∧
    smChunks (command 1) = 0 + 1 ∧ 0 + 1 < smChunks (command 2) ∧
    (∀ n ∈ [0, 2 ^ 14 + 1],
      let k := JobKind.tierpf 0 n (some 0)
      Due (working k) 7 (job k) k ∧ (working k).wg? 1 = some worker ∧ Resting (working k) ∧ ((working k).resident 0 0 0).loc ≠ .saved ∧
        (n = 0 ∨ (0 + n ≤ 2 ^ 58 ∧ ((working k).translateRuns 0 0 0 0 (pageRuns 0 n (n / 2 ^ 14 + 2))).2.2 = none))) := by
  refine ⟨by decide +kernel, fun n hn => ?_, by decide +kernel, by decide +kernel, fun n hn => ?_⟩
  · simp only [List.mem_cons, List.not_mem_nil, or_false] at hn
    rcases hn with rfl | rfl <;> exact ⟨rfl, rfl, by decide +kernel⟩
  · simp only [List.mem_cons, List.not_mem_nil, or_false] at hn
    rcases hn with rfl | rfl <;> exact ⟨⟨rfl, rfl, by decide +kernel⟩, rfl, by decide +kernel⟩

/-- MSTORE's second control word: rows 63 to 63, and an F32 row at scratch 0x100. -/
def lastRow : Word := 0x003F

theorem witness_MatrixEvents :
    (let k := JobKind.mlatb 0x400 0 0 1
     Due (working k) 7 (job k) k ∧ (working k).wg? 1 = some worker ∧ Resting (working k) ∧ (working k).jobs = [job k] ∧
       (worker.readScratch 0x400 (64 * mmRow 0)).2 = false ∧ 1 < ((working k).resident 0 0 0).planes.length) ∧
    (let k := JobKind.mma 0 3 1 7 0 [(0, 0x400), (7, 0x400)]
     let p := (working k).plane 0 0 0 1
     Due (working k) 7 (job k) k ∧ (working k).wg? 1 = some worker ∧ Resting (working k) ∧ (working k).jobs = [job k] ∧
       mmWidth 0 = mmWidth p.fmt ∧ mmInteger 0 = mmInteger p.fmt ∧ mmInteger 0 = ((working k).tile 0 0 0 3).integer ∧ p.bad = false ∧
       (∀ r ∈ [(0, 0x400), (7, 0x400)], (worker.readScratch r.2 (mmRow 0)).2 = false) ∧ 3 < ((working k).resident 0 0 0).tiles.length) ∧
    (let k := JobKind.mstore 3 0 0x100 0 lastRow
     Due (working k) 7 (job k) k ∧ (working k).wg? 1 = some worker ∧ Resting (working k) ∧ (working k).jobs = [job k] ∧
       bitsOf (0 : Word).toNat 2 0 ≤ 4 ∧ bitsOf lastRow.toNat 5 0 + bitsOf lastRow.toNat 13 8 ≤ 63 ∧ bitsOf lastRow.toNat 25 24 = 0 ∧
       worker.protectedCode 0x100 (msLen 0 lastRow) = none ∧ 3 < ((working k).resident 0 0 0).tiles.length ∧
       ∀ r ∈ (List.range (bitsOf lastRow.toNat 13 8 + 1)).map (bitsOf lastRow.toNat 5 0 + ·), ∀ n < 64,
         SMap.get ((working k).tile 0 0 0 3).poison (64 * r + n) false = false) :=
  ⟨⟨⟨rfl, rfl, by decide +kernel⟩, rfl, by decide +kernel, rfl, by decide +kernel, by decide +kernel⟩,
    ⟨⟨rfl, rfl, by decide +kernel⟩, rfl, by decide +kernel, rfl, by decide +kernel⟩,
    ⟨rfl, rfl, by decide +kernel⟩, rfl, by decide +kernel, rfl, by decide +kernel⟩

/-- A machine with the forme of `press`, a forme operation in hand, and proof items. -/
def pressing (state : Nat) (ring : Bool) (k : JobKind) (items : List ProofItem) : State :=
  { press state ring [] with jobs := [job k], nextId := 8, items := items }

/-- Whether an operation of the forme unit runs through. -/
def runsThrough {α : Type} (s : State) (m : FM α) : Bool := match (m.run s).1 with | .ok _ => true | .error _ => false

/-- No context traces anything. -/
def NoTrace (s : State) : Prop := ∀ x ∈ s.contexts, x.trmask = 0

theorem NoTrace.at {s : State} (h : NoTrace s) (p c : Nat) : (s.context p c).trmask = 0 := by
  unfold State.context
  cases hf : s.contexts.find? (fun x => x.part == p && x.ctx == c) with
  | none => rfl
  | some x => exact h x (List.mem_of_find?_eq_some hf)

theorem NoTrace.mod {s : State} (h : NoTrace s) (p c : Nat) (f : Context → Context) (hf : ∀ x, (f x).trmask = x.trmask) :
    NoTrace (s.modContext p c f) := by
  have hr : (f (Context.reset p c)).trmask = 0 := hf _
  unfold State.modContext
  split
  · intro x hx
    obtain ⟨y, hy, rfl⟩ := List.mem_map.mp hx
    have := h y hy
    split
    · rw [hf]; exact this
    · exact this
  · intro x hx
    rcases List.mem_append.mp hx with hx | hx
    · exact h x hx
    · rw [List.mem_singleton.mp hx]; exact hr

theorem NoTrace.fold {α : Type} (f : State → α → State) (hf : ∀ x a, NoTrace x → NoTrace (f x a)) (l : List α) {x : State} (h : NoTrace x) :
    NoTrace (l.foldl f x) := by
  induction l generalizing x with
  | nil => exact h
  | cons a l ih => exact ih (hf x a h)

theorem NoTrace.foldFst {α β : Type} (f : State × β → α → State × β) (hf : ∀ x a, NoTrace x.1 → NoTrace (f x a).1) (l : List α)
    {x : State × β} (h : NoTrace x.1) : NoTrace (l.foldl f x).1 := by
  induction l generalizing x with
  | nil => exact h
  | cons a l ih => exact ih (hf x a h)

theorem NoTrace.cells {s : State} (h : NoTrace s) (cs : List (Nat × Byte)) (v : Nat) : NoTrace (s.writeCells cs v).1 :=
  NoTrace.foldFst _ (fun x g hx => by unfold State.writeGranule; dsimp only; split <;> exact hx) _ (x := (s, [])) h

theorem NoTrace.phys {s : State} (h : NoTrace s) (a : Nat) (bs : List Byte) (v : Nat) : NoTrace (s.writePhys a bs v) := NoTrace.cells h _ v

theorem NoTrace.push {s : State} (h : NoTrace s) (p c : Nat) (r : List Byte) : NoTrace (s.pushRecord p c r) := by
  have h2 := (h.phys ((s.context p c).fqbase.toNat + 32 * ((s.context p c).fqtail.toNat % 2 ^ (s.context p c).fqsize.toNat)) r 0).mod p c
    (fun y => { y with fqtail := y.fqtail + 1 }) (fun _ => rfl)
  rw [State.pushRecord]
  split
  · exact h2
  · exact h2

theorem NoTrace.log {s : State} (h : NoTrace s) (p c a k kd core pc who : Nat) : NoTrace (s.logRecord p c a k kd core pc who) := by
  unfold State.logRecord
  dsimp only
  split
  · exact h.mod _ _ _ (fun _ => rfl)
  · exact (h.mod p c (fun y => { y with seq := (y.seq + 1) % 2 ^ 24 }) (fun _ => rfl)).push p c _

theorem NoTrace.translate {s : State} (h : NoTrace s) (p c core a k : Nat) : NoTrace (s.translate p c core a k).1 := by
  have hl : ∀ va, (s.lookup p c core va k).1.contexts = s.contexts := by intro va; grind [State.lookup, State.tlbFill, State.pageWalk]
  have : (s.translate p c core a k).1.contexts = s.contexts := by unfold State.translate; grind
  unfold NoTrace
  rw [this]
  exact h

theorem NoTrace.reach {s : State} (h : NoTrace s) (p c core k : Nat) (rs : List (Nat × Nat)) : NoTrace (s.translateRuns p c core k rs).1 := by
  induction rs generalizing s with
  | nil => exact h
  | cons r rs ih => unfold State.translateRuns; grind [NoTrace.translate]

theorem NoTrace.touch {s : State} (h : NoTrace s) (rs : Runs) : NoTrace (s.touchRuns rs) :=
  NoTrace.fold _ (fun x q hx => by
    unfold State.touchPage
    split
    · exact hx
    · unfold State.touchBlock
      dsimp only
      split <;> split <;> exact hx) _ h

theorem NoTrace.put {s : State} (h : NoTrace s) (j : Job) (rs : Runs) (cells : List (Nat × Byte)) : NoTrace (s.putRuns j rs cells) := by
  unfold State.putRuns
  refine NoTrace.fold _ (fun x v hx => NoTrace.fold _ (fun y g hy => ?_) _ (NoTrace.cells hx _ v)) _ (h.touch _)
  split
  · exact hy.log _ _ _ _ _ _ _ _
  · exact hy

theorem steady (s : State) : FPrim (fun t => Apart s t ∧ NoTrace t) where
  reach t p c core k rs h := ⟨(fprim_apart s).reach t p c core k rs h.1, h.2.reach p c core k rs⟩
  put t j rs cells h := ⟨(fprim_apart s).put t j rs cells h.1, h.2.put j rs cells⟩
  touch t rs h := ⟨(fprim_apart s).touch t rs h.1, h.2.touch rs⟩
  items t is h := ⟨(fprim_apart s).items t is h.1, h.2⟩
  log t p c a k kd core pc x h := ⟨(fprim_apart s).log t p c a k kd core pc x h.1, h.2.log p c a k kd core pc x⟩

/-- What a witness of FormeEvents says of one operation's run. -/
def RunsThrough {α : Type} (s : State) (m : FM α) : Prop :=
  ∃ a t, m.run s = (.ok a, t) ∧ t.jobs = s.jobs ∧ t.wgs = s.wgs ∧ (t.context 0 0).trmask = 0

theorem runs_through {α : Type} {s : State} {m : FM α} (hk : FKeeps (fun t => Apart s t ∧ NoTrace t) m) (hn : NoTrace s)
    (h : runsThrough s m = true) : RunsThrough s m := by
  have h1 := hk s ⟨Apart.refl s, hn⟩
  unfold runsThrough at h
  unfold RunsThrough
  generalize m.run s = r at h h1 ⊢
  obtain ⟨r, t⟩ := r
  cases r with
  | ok a => exact ⟨a, t, rfl, h1.1.jobs, h1.1.wgs, h1.2.at 0 0⟩
  | error e => exact absurd h (by simp)

/-- The command blocks of the forme unit's operations (R233 to R245). -/
def gsealCmd : List Byte := bytesOf 0x3000 8 ++ bytesOf 0x7100 8 ++ bytesOf 0x7200 8 ++ bytesOf 1 3 ++ [1] ++ bytesOf 1 2 ++ [0, 0]
def imposeCmd : List Byte := bytesOf 0x2000 8 ++ bytesOf 0x7000 8 ++ bytesOf 8 3 ++ [1] ++ List.replicate 12 0
def distribCmd : List Byte := bytesOf 0x2000 8 ++ List.replicate 24 0
def pubCmd : List Byte := bytesOf 0x2000 8 ++ [0, 0, 0, 0] ++ bytesOf 0 2 ++ bytesOf 5 2 ++ bytesOf 0x400 4 ++ List.replicate 12 0
def appendCmd (last : Byte) : List Byte := bytesOf 0x2000 8 ++ bytesOf 0x400 4 ++ bytesOf 0 2 ++ [0, last] ++ List.replicate 16 0
/-- The item that a fetch of entry 0 has left in flight. -/
def flying : ProofItem := { forme := 0x2000, va := 0x2000, entry := 0, gen := 5, layer := 0, wid := 1, draining := false }

/-- The work in hand for an operation of the forme unit. -/
def formeJob (m : Nat) (compact : Bool) (c : List Byte) : JobKind := .forme m compact c (some 0)
/-- What is in hand, and what runs through. -/
def FormeHolds (s : State) (m : Nat) (compact : Bool) (c : List Byte) (op : Job → FM Unit) : Prop :=
  let j := job (formeJob m compact c)
  Due s 7 j (formeJob m compact c) ∧ s.wg? 1 = some worker ∧ Resting s ∧ RunsThrough (s.settleJob j) (op j) ∧
    (s.settleJob j).jobs = [j] ∧ (s.settleJob j).wgs = s.wgs

theorem witness_GsealPerforms : FormeHolds (pressing 17 true (formeJob 0x48 false gsealCmd) []) 0x48 false gsealCmd (fun j => fmGseal j gsealCmd) :=
  ⟨⟨rfl, rfl, by decide +kernel⟩, rfl, by decide +kernel, runs_through (fmGseal_keeps (steady _) _ _) (by unfold NoTrace; decide +kernel) (by decide +kernel), by decide +kernel, by decide +kernel⟩
theorem witness_ImposePerforms : FormeHolds (pressing 17 true (formeJob 0x49 false imposeCmd) []) 0x49 false imposeCmd (fun j => fmImpose j imposeCmd) :=
  ⟨⟨rfl, rfl, by decide +kernel⟩, rfl, by decide +kernel, runs_through (fmImpose_keeps (steady _) _ _) (by unfold NoTrace; decide +kernel) (by decide +kernel), by decide +kernel, by decide +kernel⟩
theorem witness_DistribPerforms : FormeHolds (pressing 17 true (formeJob 0x4A false distribCmd) []) 0x4A false distribCmd (fun j => fmDistrib j false distribCmd) :=
  ⟨⟨rfl, rfl, by decide +kernel⟩, rfl, by decide +kernel, runs_through (fmDistrib_keeps (steady _) _ _ _) (by unfold NoTrace; decide +kernel) (by decide +kernel), by decide +kernel, by decide +kernel⟩
theorem witness_ProofpubPerforms : FormeHolds (pressing 9 false (formeJob 0x4C false pubCmd) [flying]) 0x4C false pubCmd (fun j => fmPub j worker pubCmd) :=
  ⟨⟨rfl, rfl, by decide +kernel⟩, rfl, by decide +kernel, runs_through (fmPub_keeps (steady _) _ _ _) (by unfold NoTrace; decide +kernel) (by decide +kernel), by decide +kernel, by decide +kernel⟩
theorem witness_KvappendPerforms : FormeHolds (pressing 17 true (formeJob 0x4E false (appendCmd 0)) []) 0x4E false (appendCmd 0) (fun j => fmAppend j true worker (appendCmd 0)) :=
  ⟨⟨rfl, rfl, by decide +kernel⟩, rfl, by decide +kernel, runs_through (fmAppend_keeps (steady _) _ _ _ _) (by unfold NoTrace; decide +kernel) (by decide +kernel), by decide +kernel, by decide +kernel⟩
theorem witness_SpecappPerforms : FormeHolds (pressing 17 true (formeJob 0x4F false (appendCmd 15)) []) 0x4F false (appendCmd 15) (fun j => fmAppend j false worker (appendCmd 15)) :=
  ⟨⟨rfl, rfl, by decide +kernel⟩, rfl, by decide +kernel, runs_through (fmAppend_keeps (steady _) _ _ _ _) (by unfold NoTrace; decide +kernel) (by decide +kernel), by decide +kernel, by decide +kernel⟩
theorem witness_CommitPerforms : FormeHolds (pressing 17 true (formeJob 0x50 false distribCmd) []) 0x50 false distribCmd (fun j => fmCommit j distribCmd) :=
  ⟨⟨rfl, rfl, by decide +kernel⟩, rfl, by decide +kernel, runs_through (fmCommit_keeps (steady _) _ _) (by unfold NoTrace; decide +kernel) (by decide +kernel), by decide +kernel, by decide +kernel⟩

/-- Whether an operation gives something, of which `k` holds together with the state it leaves. -/
def after {α : Type} (m : FM α) (s : State) (k : α → State → Bool) : Bool :=
  match m.run s with
  | (.ok a, t) => k a t
  | _ => false

/-- What `after` says is what the statements' hypotheses ask. -/
theorem after_gives {α : Type} {m : FM α} {s : State} {k : α → State → Bool} (h : after m s k = true) : ∃ a t, Gives m s a t ∧ k a t = true := by
  unfold after at h
  unfold Gives
  split at h
  · next a t e => exact ⟨a, t, e, h⟩
  · exact absurd h (by simp)

/-- The machine of `press` with bytes of its memory changed, and proof items. -/
def inked (state : Nat) (ring : Bool) (at_ : List (Nat × List Byte)) (items : List ProofItem) : State :=
  let s := press state ring []
  { s with mem := at_.foldl (fun m x => SMap.write m x.1 x.2 0) s.mem, items := items }
/-- The work that stands behind an operation. -/
def press1 : Job := job (formeJob 0x48 false [])

/-- GSEAL of a new header, and of one that is sealed and referred to. -/
theorem witness_GsealWrites : ∀ hdr ∈ [0x3000, 0x7000],
    let c := bytesOf hdr 8 ++ gsealCmd.drop 8
    let s := inked 17 true [] []
    cmdNat c 0 8 = hdr ∧ hdr % 64 = 0 ∧ s.inHost press1 hdr = false ∧ cmdNat c 8 8 % 16 = 0 ∧ cmdNat c 24 3 ≠ 0 ∧ cmdNat c 27 1 ≤ 2 ∧
    1 ≤ cmdNat c 28 2 ∧ cmdNat c 28 2 ≤ 1024 ∧ (cmdNat c 31 1 + 1) * 8 ≤ 256 ∧
    after (fmReach press1 (some (0x02, 0)) 1 hdr 64) s (fun _ s1 =>
      after (fmReach press1 none 0 (cmdNat c 8 8) (2 * cmdNat c 24 3 * cmdNat c 28 2 * (cmdNat c 30 1 + 1) * rowLen (cmdNat c 27 1) ((cmdNat c 31 1 + 1) * 8))) s1 (fun _ s2 =>
        after (fmReach press1 none 0 (cmdNat c 16 8) (cmdNat c 24 3)) s2 (fun _ s3 =>
          after (fmRead press1 (some (0x02, 0)) hdr 64) s3 (fun h _ =>
            ((cmdNat h 28 1).testBit 0 && cmdNat h 24 4 != 0) == (hdr == 0x7000))))) = true := by
  decide +kernel

/-- IMPOSE at entry 1 of the galley at 0x7000: at base 8, and at base 0, where nothing is to be proved. -/
theorem witness_ImposeWrites : ∀ base ∈ [0, 8],
    let c := bytesOf 0x2000 8 ++ bytesOf 0x7000 8 ++ bytesOf base 3 ++ [1] ++ bytesOf 1 3 ++ List.replicate 9 0
    let s := inked 17 true (if base = 0 then [(0x2088, bytesOf 8 3)] else []) []
    cmdNat c 8 8 % 64 = 0 ∧ cmdNat c 23 1 ≤ 1 ∧ (∀ i < 8, cmdNat c (24 + i) 1 = 0) ∧
    after (fmLoad press1 (cmdNat c 0 8) (some 1) 1) s (fun w s1 => after (fmRead press1 (some (0x28, 1)) 0x7000 64) s1 (fun g s2 =>
      (cmdNat g 28 1).testBit 0 && decide (cmdNat g 24 4 ≠ 0xFFFFFFFF ∧ cmdNat g 19 1 = w.f.fmt ∧ cmdNat g 20 2 = w.f.layers ∧
        cmdNat g 22 1 + 1 = w.f.heads ∧ (cmdNat g 23 1 + 1) * 8 = w.f.hdim ∧ 1 ≤ cmdNat g 16 3 ∧ ((w.entry 1).state = 0 ∨ (w.entry 1).state = 4)) &&
      after (fmAll press1 w 1) s2 (fun w1 s3 =>
        decide (base + 1 ≤ w.f.tailbase) && w1.es.all (fun z => z.1 == 1 || ! z.2.holds || ! rangesMeet base 1 z.2.base z.2.len) &&
        after (fmRing press1 w1 1) s3 (fun w2 s4 => ! s4.genClash w2 1 && decide (w2.entry 1 = w.entry 1) &&
          after (fmProof press1 w.f 0x7000 base 1 false) s4 (fun p s5 => p.isEmpty == (base == 0) &&
            after (fmArmReach press1 w.f 1 p 1) s5 (fun _ s6 => after (fmRecord press1 w2 [1] true 1) s6 (fun _ s7 =>
              after (fmRefsReach press1 (some (0x28, 1)) 0x7000) s7 (fun _ _ => true)))))))) = true := by
  decide +kernel

/-- DISTRIB of an entry whose item is in the ring, and of one whose item is in flight. -/
theorem witness_DistribWrites : ∀ x ∈ [(17, true), (9, false)],
    let c := distribCmd
    let s := inked x.1 x.2 [] [flying]
    (∀ i < 23, cmdNat c (9 + i) 1 = 0) ∧
    after (fmLoad press1 (cmdNat c 0 8) (some 0) 0) s (fun w s1 => decide ((w.entry 0).state = 1 ∧ ((w.entry 0).flight = ! x.2) ∧ (w.entry 0).drain = 0) &&
      after (fmRing press1 w 0) s1 (fun w2 s2 => ! s2.genClash w2 0 && after (fmRecord press1 w2 [0] true 0) s2 (fun _ _ => true) &&
        after (fmRefsReach press1 none (w.entry 0).galley) s2 (fun _ s3 => after (fmRecord press1 w2 [0] true 0) s3 (fun _ _ => true)))) = true := by
  decide +kernel

/-- DISTRIB.COMPACT of an entry that drains: nothing kept; with an entry above that is not live; and with a live one above, which has
its proof set and, at base 5, where it moves to 4, or, with noproof, none. -/
theorem witness_CompactWrites : ∀ x ∈ ([(0, []), (2, [2, 4]), (2, [0, 2]), (2, [1, 2])] : List (Byte × List Byte)),
    let c := distribCmd
    let above : List Byte := bytesOf 0x7000 8 ++ bytesOf 5 3 ++ [(x.2[0]?).getD 0] ++ bytesOf 1 4 ++ bytesOf 7 2 ++ [(x.2[1]?).getD 0]
    let s := inked 3 false [(0x208B, [x.1]), (0x20A0, if x.2 = [] then [] else above)] []
    after (fmLoad press1 (cmdNat c 0 8) (some 0) 0) s (fun w s1 =>
      decide ((w.entry 0).state = 3 ∧ (w.entry 0).flight = false ∧ (w.entry 0).rel = false ∧ (w.entry 0).keep = decide (x.1 = 2)) &&
      after (fmAll press1 w 0) s1 (fun w1 s2 => after (fmRing press1 w1 0) s2 (fun w2 s3 => decide (w2.entry 0 = w.entry 0) && ! s3.genClash w2 0 &&
        let up := (w2.es.filter (fun y => y.1 ≠ 0 && y.2.holds && decide ((w.entry 0).base < y.2.base))).map (·.1)
        if x.2 = [0, 2] ∨ x.2 = [1, 2] then
          decide (up = [1] ∧ (w2.entry 1).live = true ∧ (w2.entry 1).flight = false ∧ (w2.entry 1).rel = false) && ! s3.genClash w2 1 &&
          after (do let p ← fmProof press1 w2.f (w2.entry 1).galley ((w2.entry 1).base - (w.entry 0).len) (w2.entry 1).len (w2.entry 1).noproof
                    return (p, ← fmArmReach press1 w2.f 1 p 0)) s3 (fun p s4 => (p.1.isEmpty == (x.2 == [1, 2])) &&
            after (fmRecord press1 w2 [0, 1] true 0) s4 (fun _ _ => true))
        else
          decide (up = if x.2 = [] then [] else [1]) && up.all (fun m => ! (w2.entry m).live) &&
            after (fmRecord press1 w2 (0 :: up) true 0) s3 (fun _ _ => true)))) = true := by
  decide +kernel

/-- The start of a PROOFPUB: its record and its entry. -/
def pubStart (s : State) (k : FWork → State → Bool) : Bool :=
  decide (cmdNat pubCmd 11 1 = 0 ∧ cmdNat pubCmd 16 4 % 16 = 0) && (List.range 12).all (fun i => cmdNat pubCmd (20 + i) 1 == 0) &&
  after (fmLoad press1 (cmdNat pubCmd 0 8) (some 0) 0) s (fun w s1 => decide (0x400 + w.f.heads * (2 * w.f.row) ≤ worker.scratchSize) && k w s1)
/-- The item that a PROOFPUB names. -/
def pubNames (i : ProofItem) : Bool := i.gen == 5 && i.layer == 0 && i.wid == 1

/-- PROOFPUB of what drains, from an entry that goes on and from one that was waiting for it alone. -/
theorem witness_PubDrains : ∀ st ∈ [1, 3], pubStart (inked st false [(0x2096, [1])] [{ flying with draining := true }]) (fun w s1 =>
    decide ((s1.drains w.f.key 0).find? pubNames = some { flying with draining := true } ∧ (w.entry 0).drain = 1 ∧ (w.entry 0).state = st) &&
    after (fmRecord press1 w [0] false 0) s1 (fun _ s2 => after (fmRefsReach press1 none (w.entry 0).galley) s2 (fun _ _ => true))) = true := by
  decide +kernel

/-- PROOFPUB with nothing in flight, past the proof set, of a slot published before; and of a slot that completes the only layer, one
that completes the first of two, and one of two. -/
theorem witness_PubPublishes :
    pubStart (inked 1 false [] []) (fun w s1 => decide ((s1.drains w.f.key 0).find? pubNames = none ∧ (w.entry 0).flight = false)) = true ∧
    ∀ x ∈ ([([], false, 0), ([(0x8000, [1])], false, 1), ([(0x2000, bytesOf 2 2)], false, 2), ([(0x2098, bytesOf 2 2)], false, 3),
        ([(0x2098, bytesOf 0 2)], true, 4)] : List (List (Nat × List Byte) × Bool × Nat)),
      pubStart (inked 9 false x.1 [flying]) (fun w s1 =>
        let y := w.entry 0
        decide ((s1.drains w.f.key 0).find? pubNames = none ∧ s1.item? w.f.key 0 = some flying ∧ y.flight = true ∧ flying.gen = y.gen) &&
        (if x.2.1 then decide (y.psize < 0 + 1) else decide (0 + 1 ≤ y.psize) &&
          after (fmRead press1 (some (badForme 0)) (w.f.bitmap 0 0) 32) s1 (fun old s2 =>
            if x.2.2 = 1 then decide (natOfBytes old &&& 1 ≠ 0) else decide (natOfBytes old &&& 1 = 0) &&
              decide ((worker.readScratch 0x400 (w.f.heads * (2 * w.f.row))).2 = false) &&
              after (fmRing press1 w 0) s2 (fun w1 s3 => after (fmRecord press1 w1 [0] true 0) s3 (fun _ s4 =>
                after (fmReach press1 (some (badForme 0)) 1 (w.f.corrRow 0 0 0 0) (w.f.heads * (2 * w.f.row))) s4 (fun _ s5 =>
                  after (fmReach press1 (some (badForme 0)) 1 (w.f.bitmap 0 0) 32) s5 (fun _ _ =>
                    let full := decide ((natOfBytes old ||| 1) &&& (2 ^ y.psize - 1) = 2 ^ y.psize - 1)
                    full == decide (x.2.2 ≠ 3) && (! full || (decide (w.f.layers ≤ y.done + 1) == decide (x.2.2 = 0)))))))))) = true := by
  decide +kernel

/-- KVAPPEND of a row, with and without COMMIT, which may go or not for want of room; SPECAPP in the last slot, and past it. -/
theorem witness_AppendWrites : ∀ x ∈ ([(true, 0, [], 0, 0), (true, 1, [], 0, 1), (true, 1, [(0x2038, bytesOf 16 3)], 0, 2), (false, 15, [], 0, 0),
      (false, 15, [], 1, 3)] : List (Bool × Nat × List (Nat × List Byte) × Byte × Nat)),
    let c := bytesOf 0x2000 8 ++ bytesOf 0x400 4 ++ bytesOf 0 2 ++ [x.2.2.2.1] ++ bytesOf x.2.1 1 ++ List.replicate 16 0
    let k := x.2.2.2.1.toNat + 1
    let first := if x.1 then 0 else x.2.1
    let slots := (List.range k).map (first + ·)
    let s := inked 17 true x.2.2.1 []
    0x400 % 16 = 0 ∧ k ≤ 16 ∧ (x.1 = true → x.2.1 ≤ 1) ∧ (∀ i < 16, cmdNat c (16 + i) 1 = 0) ∧
    after (fmLoad press1 (cmdNat c 0 8) none 0) s (fun w s1 =>
      let block := 2 * w.f.row * w.f.heads
      decide (0x400 + k * block ≤ worker.scratchSize ∧ 0 < w.f.layers) &&
      (if x.2.2.2.2 = 3 then decide (16 < first + k) else
        decide (first + k ≤ 16 ∧ (worker.readScratch 0x400 (k * block)).2 = false) &&
        after (slots.mapM (fun sl => (do return (sl, natOfBytes (← fmRead press1 (some (badForme 0)) (w.f.fillMap sl) 128)) : FM (Nat × Nat)))) s1 (fun _ s2 =>
          after (fmSlotReach press1 w.f 0 0 slots) s2 (fun _ s3 =>
            if x.2.2.2.2 = 0 then decide (x.1 = false ∨ x.2.1 = 0) else
              after (fmCommitPlan press1 w k 0 0 ((List.range k).map (fun i => ((worker.readScratch 0x400 (k * block)).1.drop (block * i)).take block))) s3
                (fun p _ => p.isSome == decide (x.2.2.2.2 = 1)))))) = true := by
  decide +kernel

/-- COMMIT of no slot, of one that holds its layer, and of one that does not. -/
theorem witness_CommitWrites : ∀ x ∈ ([(0, [], true), (1, [(0xA000, [1])], true), (1, [], false)] : List (Nat × List (Nat × List Byte) × Bool)),
    let c := bytesOf 0x2000 8 ++ bytesOf x.1 1 ++ List.replicate 23 0
    x.1 ≤ 16 ∧ (∀ i < 23, cmdNat c (9 + i) 1 = 0) ∧
    after (fmLoad press1 (cmdNat c 0 8) none 0) (inked 17 true x.2.1 []) (fun w s1 =>
      after (fmCommitPlan press1 w x.1 0 0 []) s1 (fun p _ => p.isSome == x.2.2)) = true := by
  decide +kernel

/-- A fetch from an empty ring, and of an item. -/
theorem witness_FetchWrites : ∀ ring ∈ [false, true],
    after (fmReach press1 (some (badForme 0)) 1 0x2000 128) (inked 17 ring [] []) (fun _ s1 => after (fmLoad press1 0x2000 none 0) s1 (fun w s2 =>
      decide (w.f.qcount = natOfBool ring) &&
      (! ring || after (fmRead press1 (some (badForme 0)) (w.f.ringAt + w.f.qhead) 1) s2 (fun b s3 =>
        after (fmRead press1 (some (badForme 0)) (w.f.entryAt (natOfBytes b)) 32) s3 (fun bs s4 => ! entryBad bs &&
          after (fmRecord press1 { f := w.f, es := [(natOfBytes b, FEntry.decode bs)], ring := [] } [natOfBytes b] false 0) s4 (fun _ _ => true)))))) = true := by
  decide +kernel

/-- A gather's control block (R240): a K row of position 4 to scratch 0x400, its map at 48 and its mask at 0x500. -/
def gatherCtl : List Byte := bytesOf 0x2000 8 ++ bytesOf 0x400 4 ++ bytesOf 48 4 ++ bytesOf 0x500 4 ++ bytesOf 0 2 ++ [0, 0] ++ List.replicate 8 0
/-- The gather in hand. -/
def gatherKind : JobKind := .gather gatherCtl true false [(0, 20)]

/-- The machine with the gather in hand. -/
def gathering : State := pressing 17 true gatherKind []

theorem witness_GatherPerforms : Due gathering 7 (job gatherKind) gatherKind ∧ gathering.wg? 1 = some worker ∧ Resting gathering ∧
    (job gatherKind).waited = false ∧ RunsThrough gathering (fmSnapshot (job gatherKind) worker gatherCtl true false [(0, 20)]) :=
  ⟨⟨rfl, rfl, by decide +kernel⟩, rfl, by decide +kernel, rfl,
    runs_through (fmSnapshot_keeps (steady _) _ _ _ _ _ _) (by unfold NoTrace; decide +kernel) (by decide +kernel)⟩

/-! ### Launches and workgroups -/

/-- The machine of `press`, with a context that has a queue and launches. -/
def posted (q : Queue) (ls : List Launch) : State :=
  { press 17 true [] with contexts := [{ Context.reset 0 0 with state := .live, queues := SMap.set [] 0 q Queue.reset, launches := ls }] }
/-- A queue of sixteen records at 0x6000, fed by the device or the host, with one record posted or none. -/
def line (dev : Bool) (tail : Word) : Queue := { qbase := 0x6000, qdev := dev, qsize := 4, qtail := tail, qhead := 0, laps := 0 }
/-- A launch of the record of `record`. -/
def launched (flags : Nat) (st : LaunchState) (done placed : List Nat) : Launch :=
  { Launch.queued 0 0 (record flags) [] with state := st, done := done, placed := placed }

/-- A pair, given its second component. -/
theorem pair_eq {α β : Type} {p : α × β} {b : β} (h : p.2 = b) : p = (p.1, b) := by rw [← h]

/-- The record of a launch with no workgroup, and of one with a completion record at 0x8000. -/
def emptyRecord : List Byte := (record 0).take 24 ++ bytesOf 0 4 ++ (record 0).drop 28
def loggedRecord : List Byte := (record 0).take 48 ++ bytesOf 0x8000 8 ++ (record 0).drop 56

/-- The first slot of a queue whose counts have wrapped once, with a record for each of the clauses. -/
theorem witness_RecordRead :
    ∀ r ∈ [record 0, emptyRecord, loggedRecord],
      let s : State := { posted { line false 1 with laps := 1 } [] with mem := SMap.write (posted (line false 1) []).mem 0x6000 r 0 }
      let d := s.queue 0 0 0
      let k := d.laps * 2 ^ 32 + d.qhead.toNat
      let s1 := (s.readVirt 0 0 hubCore (d.qbase.toNat + 256 * (k % 2 ^ d.qsize.toNat)) 256).1
      let l : Launch := { Launch.queued 0 k r s1.hostView with state := .admitted }
      (s.context 0 0).state = .live ∧ d.qsize ≠ 0 ∧ d.qtail ≠ d.qhead ∧ (s.admittedOf 0 0 0).length < 8 ∧ s.launch? 0 0 0 k = none ∧
      (s.readVirt 0 0 hubCore (d.qbase.toNat + 256 * (k % 2 ^ d.qsize.toNat)) 256).2 = .bytes r none ∧
      s1.contexts = s.contexts ∧ s1.recordBad 0 0 r = none ∧
      ((recNat r 48 8 = 0 ∧ recTotal r ≠ 0) ∨ (recNat r 48 8 = 0 ∧ recTotal r = 0) ∨ (recNat r 48 8 ≠ 0 ∧ recTotal r ≠ 0 ∧
        ((((s1.modQueue 0 0 0 Queue.take).holdRecord 0 0 0 k r s1.hostView).modContext 0 0 (fun x =>
          { x with qtable := some (x.qtable.getD (recNat r 8 8)) })).translateRuns 0 0 hubCore 1
            (pageRuns l.crec l.crecBytes (l.crecBytes / 2 ^ 14 + 2))).2.2 = none)) := by
  intro r hr
  simp only [List.mem_cons, List.not_mem_nil, or_false] at hr
  rcases hr with rfl | rfl | rfl <;> decide +kernel

/-- A machine in which LAUNCH is on its way to the distributor. -/
def sending : State := { posted (line true 0) [] with jobs := [job (.launch (record 0) 0 0)], nextId := 8 }

theorem witness_LaunchArrives :
    let d := sending.queue 0 0 0
    (sending.job? 7 = some (job (.launch (record 0) 0 0)) ∧ Resting sending ∧ (sending.context 0 0).state = .live ∧ d.qsize ≠ 0 ∧ d.qdev = true ∧
      (d.qtail - d.qhead).toNat ≠ 2 ^ d.qsize.toNat ∧ sending.launch? 0 0 0 d.tailCount = none ∧
      ∃ s1, sending.writeVirt 0 0 hubCore (d.qbase.toNat + 256 * (d.qtail.toNat % 2 ^ d.qsize.toNat)) (record 0) = (s1, none) ∧
        s1.contexts = sending.contexts ∧ s1.wgs = sending.wgs ∧ s1.jobs = sending.jobs) ∧
    (let s := { sending with contexts := sending.contexts.map (fun x => { x with state := .closing }) }
     Resting s ∧ (s.context 0 0).state ≠ .live) ∧
    (let j := job (.launch (record 0) 0 4)
     ({ sending with jobs := [j] } : State).job? 7 = some j ∧ Resting { sending with jobs := [j] }) ∧
    (∀ q ∈ [line false 0, { line true 0 with qsize := 0 }],
      let s := { sending with contexts := (posted q []).contexts }
      Resting s ∧ (s.context 0 0).state = .live ∧ ((s.queue 0 0 0).qsize = 0 ∨ (s.queue 0 0 0).qdev = false)) ∧
    (let s := { sending with contexts := (posted (line true 16) []).contexts }
     Resting s ∧ (s.context 0 0).state = .live ∧ ((s.queue 0 0 0).qtail - (s.queue 0 0 0).qhead).toNat = 2 ^ (s.queue 0 0 0).qsize.toNat) := by
  refine ⟨⟨rfl, by decide +kernel, rfl, by decide +kernel, by decide +kernel, by decide +kernel, by decide +kernel, ?_⟩,
    ⟨by decide +kernel, by decide +kernel⟩, by decide +kernel, fun q hq => ?_, ⟨by decide +kernel, rfl, by decide +kernel⟩⟩
  · exact ⟨_, pair_eq (by decide +kernel), by decide +kernel, by decide +kernel, by decide +kernel⟩
  · simp only [List.mem_cons, List.not_mem_nil, or_false] at hq
    rcases hq with rfl | rfl <;> exact ⟨by decide +kernel, rfl, by decide +kernel⟩

theorem witness_LaunchesEnd :
    (let l := launched 0 .admitted [0] [0]
     let s := posted (line false 1) [l]
     s.launch? 0 0 0 0 = some l ∧ s.completable 0 0 l = true) ∧
    (let l := launched 0 .admitted [] [0]
     (posted (line false 1) [l]).launch? 0 0 0 0 = some l ∧ l.state = .admitted ∧ l.done.contains 0 = false) ∧
    (∀ st ∈ [LaunchState.queued, .admitted], let l := launched 0 st [] []
      (posted (line false 1) [l]).launch? 0 0 0 0 = some l) := by
  refine ⟨by decide +kernel, by decide +kernel, fun st hs => ?_⟩
  simp only [List.mem_cons, List.not_mem_nil, or_false] at hs
  rcases hs with rfl | rfl <;> decide +kernel

/-- Where one core alone can take a workgroup, whatever the device chooses there are sites for it. -/
theorem site_found {s : State} {p c w k : Nat} {l : Launch} (hc : (s.coresOf p).filter (fun k => s.isActive p c k) = [k])
    (hx : (s.sitesOn p c l w k).isEmpty = false) : (s.sitesFor p c l [w]).isSome = true := by
  unfold State.sitesFor
  rw [hc]
  have hr : ∀ n, rotate [k] n = [k] := by intro n; simp [rotate, Nat.mod_one]
  simp only [hr, List.findSome?_cons, List.findSome?_nil, State.choose]
  cases hl : s.sitesOn p c l w k with
  | nil => rw [hl] at hx; exact absurd hx (by simp)
  | cons x xs =>
    have hi : Config.choose s.draws (1000 + w) % (x :: xs).length < (x :: xs).length := Nat.mod_lt _ (by simp)
    have hg := List.getElem?_eq_getElem hi
    grind

/-- The turn of a partition with one ready launch. -/
theorem turn_of {s : State} {p c turn : Nat} {l : Launch} {ws : List Nat} (hr : s.readyLaunches p = [(c, l, ws)])
    (ht : nextClass (s.part p).turn [l.prio] = some (l.prio, turn)) :
    s.turnFor p = some (c, l, ws, turn) := by
  unfold State.turnFor
  rw [hr]
  by_cases h : ((s.part p).lastServed[l.prio]?).getD 0 ≤ queueKey c l.queue <;> simp [ht, h]

/-- A machine whose partition 0 has cluster 0, with one launch ADMITTED. -/
def waiting : State := (posted (line false 1) [launched 0 .admitted [] []]).modPart 0 (fun d => { d with clusters := 1 })
/-- A place beside the workgroup that stands there. -/
def beside : Site := { core := 0, slot := 1, lane := 56, scratch := 32768, vault := 0 }

theorem witness_WorkgroupPlaced :
    let l := launched 0 .admitted [] []
    waiting.launch? 0 0 0 0 = some l ∧ (waiting.context 0 0).state = .live ∧ (∃ turn, waiting.turnFor 0 = some (0, l, [0], turn)) ∧
      waiting.fitAll 0 0 l [(0, beside)] = true ∧ recMatrix l.record = false ∧ l.crec = 0 ∧ (∀ w ∈ waiting.wgs, w.wid < waiting.nextId) ∧
      (waiting.context 0 0).trmask = 0 ∧ ((waiting.resident 0 0 0).quire (pcQuire (BitVec.ofNat 32 (l.nat 0 4)))).state = .resident := by
  refine ⟨by decide +kernel, rfl, ⟨0, turn_of (by decide +kernel) (by decide +kernel)⟩, ?_⟩
  decide +kernel

/-- A machine whose workgroup has not started. -/
def placed : State := (yard 0 []).modWg 1 (fun w => { w with started := false })

theorem witness_WorkgroupStarts :
    ∃ w, placed.wg? 1 = some w ∧ w.started = false ∧ (placed.resident w.part w.ctx w.core).loc = .active ∧
      (placed.resident w.part w.ctx w.core).quiescing = false ∧ (placed.context w.part w.ctx).state = .live ∧
      ((placed.resident w.part w.ctx w.core).quire (pcQuire w.entry)).state = .resident ∧ (placed.context w.part w.ctx).stops w = false ∧
      ({ placed.context w.part w.ctx with dstate := 1, heldAll := true } : Context).stops w = true :=
  ⟨_, rfl, by decide +kernel⟩

/-- A machine in which a FETCHW of a feed is on its way to the distributor. -/
def fetching (next : Option View) (l : Launch) : State :=
  { posted { line false 1 with qhead := 1 } [l] with jobs := [job (.fetchw 64 0 next)], nextId := 8 }

theorem witness_FetchDelivered :
    (∀ next ∈ [none, some []], let l := launched 1 .admitted [] []
     let s := fetching next l
     s.job? 7 = some (job (.fetchw 64 0 next)) ∧ s.wg? 1 = some worker ∧ Resting s ∧ s.launchOf 0 0 0 = some l ∧ s.launch? 0 0 l.queue l.count = some l ∧
      l.feed = true ∧ s.consider 0 0 l = s ∧ l.unplaced.find? (fun w => s.wgReady 0 0 l w) = some 0) ∧
    (∀ x ∈ [(launched 0 .admitted [] [], 2), (launched 1 .queued [] [], 3), (launched 1 .failed [] [], 1), (launched 1 .admitted [] [0], 1)],
      let s := fetching none x.1
      s.wg? 1 = some worker ∧ Resting s ∧ s.launchOf 0 0 0 = some x.1 ∧ s.launchOf 0 0 1 = none ∧ s.launch? 0 0 x.1.queue x.1.count = some x.1 ∧ s.consider 0 0 x.1 = s ∧
      (x.1.state = .admitted → x.1.feed = true → x.1.unplaced.find? (fun w => s.wgReady 0 0 x.1 w) = none) ∧
      x.2 = if x.1.feed = false then 2 else if x.1.state = .queued then 3 else if x.1.state ≠ .admitted ∨ x.1.unplaced = [] then 1 else 3) := by
  decide +kernel

/-! ### Contexts on cores -/

/-- A machine whose partition 0 has cluster 0, where context 0 runs on core 0, and context 1, which is saved from the other cores, has
a launch of class 0 to place. -/
def contested (r : Resident → Resident) : State :=
  let s := (yard 0 []).modPart 0 (fun d => { d with clusters := 1, vaultq := 4096 })
  { s with
    contexts := [{ Context.reset 0 0 with state := .live }, { Context.reset 0 1 with state := .live, launches := [launched 0 .admitted [] []] }]
    residents := s.residents.map r ++ (List.range 7).map (fun k => { Resident.reset 0 1 (k + 1) with loc := .saved }) }

/-- A pre-emption of one core that frees room for a workgroup. -/
theorem preempts_of {s t : State} {p c k : Nat} {l : Launch} (hl : (s.context p c).state = .live)
    (hi : (s.coresOf p).filter (s.idleFor p c) = []) (ha : (s.coresOf p).filter (fun k => s.isActive p c k) = [])
    (hw : (s.context p c).launches.filterMap (fun l => if l.prio = 0 then (s.readyGang p c l).map (fun g => (l, g)) else none) = [(l, [0])])
    (hq : (s.residents.filter (fun r => r.part == p && r.loc == .active && r.quiescing)).map (·.core) = [])
    (hc : (s.coresOf p).filter (fun k => s.preemptible p c k) = [k]) (hk : s.switchCores p c k = [k])
    (ht : s.swapIn p c k = t) (hs : (t.sitesFor p c l [0]).isSome = true) : s.preempts p c k = true := by
  have hn : s.sitesFor p c l [0] = none := by simp [State.sitesFor, State.choose, rotate, ha]
  have hb : s.withIdle p c = s := by simp [State.withIdle, hi]
  have h0 : s.waiting0 p c = [(l, [0])] := by
    unfold State.waiting0
    rw [hw, hb]
    simp [hn]
  have h : s.preemptCores p c l [0] = [k] := by
    simp [State.preemptCores, hq, hc, hb, List.range_succ, hn, hk, ht, hs]
  simp [State.preempts, hl, h0, h]

theorem witness_Preempt :
    let s := contested id
    s.preempts 0 1 0 = true ∧ s.switchCores 0 1 0 = [0] ∧ ∃ r, s.activeAt 0 = some r ∧ (r.part ≠ 0 ∨ r.ctx ≠ 1) := by
  refine ⟨preempts_of (l := launched 0 .admitted [] []) rfl (by decide +kernel) (by decide +kernel) (by decide +kernel) (by decide +kernel)
    (by decide +kernel) (by decide +kernel) rfl (site_found (k := 0) (by decide +kernel) (by decide +kernel)), by decide +kernel, _, rfl, by decide +kernel⟩

theorem witness_ContextsMove :
    (let s := contested (fun r => { r with quiescing := true })
     s.quiesceOver 0 1 0 = false ∧ s.switchable 0 1 0 = true ∧ s.switchCores 0 1 0 = [0] ∧
      ∃ r, s.activeAt 0 = some r ∧ s.resident r.part r.ctx 0 = r ∧ (r.part ≠ 0 ∨ r.ctx ≠ 1)) ∧
    (let s := contested (fun r => { r with loc := .shadow })
     s.gangCores 0 0 0 = [0] ∧ s.savable 0 0 0 = true) ∧
    (let s := contested (fun r => { r with loc := .saved })
     ∀ k ∈ [0, 7], s.restorable 0 0 0 k = true ∧ s.restorePlan 0 0 0 k = [(0, k)]) := by
  refine ⟨⟨by decide +kernel, by decide +kernel, by decide +kernel, _, rfl, by decide +kernel, by decide +kernel⟩, by decide +kernel, by decide +kernel⟩

/-! ### The hub die, partitions, the host -/

/-- A module in service, with its time base given. -/
def hub (src : BitVec 2) (locked : Bool) (time : DWord) (clock : Nat) : State :=
  { State.reset with rstate := .running, src := src, locked := locked, time := time, clock := clock }
/-- The same with partition 0 UP, holding stack 0 in peer mode. -/
def peerStack (time : DWord) : State := (hub 0 false time 1400).modPart 0 (fun d => { d with up := true, go := true, stackSet := 1, hbmq := 0x20000000 })

theorem witness_TimeEvents :
    (∀ x ∈ [(800, 1000), (1000, 1200), (1400, 1200)], 800 ≤ x.1 ∧ x.1 ≤ 1400 ∧
      (x.1 + 200 = (hub 0 false 0 x.2).clock ∨ (hub 0 false 0 x.2).clock + 200 = x.1)) ∧
    ((hub 1 true 5 1400).locked = true ∧ 1000000 < 1000001 ∧ (hub 1 true 5 1400).time.toNat + 1000001 < 2 ^ 64) ∧
    ((hub 0 false 5 1400).src ≠ 2 ∧ (hub 0 false 5 1400).time.toNat + 1000000 < 1000006 ∧ 1000005 ≤ (hub 0 false 5 1400).time.toNat + 1000000) ∧
    (hub 2 false 5 1400).src = 2 ∧
    (let s (n : Nat) := { hub 2 false 5 1400 with ppsPending := true, stepto := BitVec.ofNat 64 n }
     (∀ n ∈ [0, 1, 18446744074], (s n).src = 2 ∧ (s n).ppsPending = true) ∧ 1000000000 * (s 0).stepto.toNat ≤ (s 0).time.toNat + 1000000 ∧
      (s 1).time.toNat + 1000000 < 1000000000 * (s 1).stepto.toNat ∧ 1000000000 * (s 1).stepto.toNat < 2 ^ 64 ∧
      2 ^ 64 ≤ 1000000000 * (s 18446744074).stepto.toNat) ∧
    ((hub 2 true 500000000 1400).ppsPending = false ∧ (hub 2 true 500000000 1400).locked = true ∧
      1000000 < 1000000000 - (hub 2 true 500000000 1400).time.toNat % 1000000000) ∧
    ((hub 0 false 1000000000 1400).ppsEdges < (hub 0 false 1000000000 1400).time.toNat / 1000000000) ∧
    ((hub 1 true 5 1400).src = 1 ∧ ((hub 1 true 5 1400).time.toNat : Int) + 1000001 < 2 ^ 64) ∧
    ((peerStack 1000000).epochDue 0 = true ∧ 0 < (peerStack 1000000).migration.length ∧ (peerStack 999999).epochDue 0 = false) := by decide +kernel

theorem witness_BootEvents :
    (State.reset.rstate = .booting ∧ State.reset.inService = true) ∧
    ({ State.reset with rstate := .recovery }.rstate = .recovery ∧ { State.reset with rstate := .verifying }.rstate = .verifying) ∧
    (hub 0 false 0 1400).libraryHeld = false ∧ ({ peerStack 0 with libsize := 0x20000000 } : State).libraryHeld = true := by decide +kernel

/-- A machine whose partition 0 has a function, stack 0 and quotas, not yet UP. -/
def descriptor : State :=
  { hub 0 false 0 1400 with numVfs := 1 }.modPart 0 (fun d => { d with clusters := 1, stackSet := 1, hbmq := 0x20000000, tierq := 0x20000000, vaultq := 4194304 })
/-- The same UP, with one context. -/
def window (st : CtxState) : State :=
  { descriptor.modPart 0 (fun d => { d with up := true, go := true }) with
    contexts := [{ Context.reset 0 3 with state := st, ptroot := 0x4000, savearea := 0x200000, fqbase := 0x1000, fqsize := 4, frameq := 64 }] }

theorem witness_PartitionsAndContexts :
    (0 < descriptor.partitions.length ∧ (descriptor.part 0).go = false ∧ (descriptor.part 0).up = false ∧ descriptor.setupError 0 = 0) ∧
    (let s := hub 0 false 0 1400
     0 < s.partitions.length ∧ (s.part 0).go = false ∧ (s.part 0).up = false ∧ s.setupError 0 ≠ 0) ∧
    (∀ st ∈ [CtxState.live, .closing], ((window st).part 0).go = true ∧ ((window st).part 0).up = true ∧
      ∃ x ∈ (window st).contexts, x.part = 0 ∧ x.state = st) ∧
    (let s := { window .closed with mem := [(0x100, 1), (0x20000000, 1), (0x1000000000, 1)] }
     0 < s.partitions.length ∧ (s.part 0).go = true ∧ (s.part 0).up = true ∧ (∀ x ∈ s.contexts, x.part = 0 → x.state ≠ .live ∧ x.state ≠ .closing)) ∧
    (∀ st ∈ [CtxState.none, .closed], ((window st).context 0 3).state = st ∧ (window st).createOk ((window st).context 0 3) = true) ∧
    ((window .live).context 0 3).state = .live ∧ (window .closing).closable 0 3 = true := by decide +kernel

theorem witness_QueuesFaultsInvalidation :
    (∀ v ∈ [3, 5, 18], let s := posted { line false 3 with qhead := 2 } []
      let d := s.queue 0 0 0
      let x : Word := BitVec.ofNat 32 v
      (s.context 0 0).state = .live ∧ d.qsize ≠ 0 ∧ d.qdev = false ∧ (d.qtail - d.qhead).toNat ≤ (x - d.qhead).toNat ∧
        (x - d.qhead).toNat ≤ 2 ^ d.qsize.toNat) ∧
    ((posted { line false 2 with qhead := 2 } []).queue 0 0 0).qtail = ((posted { line false 2 with qhead := 2 } []).queue 0 0 0).qhead ∧
    (∀ v ∈ [0, 4, 0x110], v < 2 ^ 32 ∧ (v % 32 = 0 ∨ (4 ≤ v % 32 ∧ v % 32 ≤ 16))) ∧
    (∀ st ∈ [CtxState.live, .closing], ((window st).context 0 3).state = st) ∧
    (let s := { window .live with contexts := (window .live).contexts.map (fun (x : Context) => { x with invgo := true }) }
     s.invDone 0 3 = true) := by decide +kernel

/-- A machine with a thread parked on a fault record, and its launch. -/
def faulting : State :=
  { posted (line false 1) [launched 0 .admitted [] [0]] with wgs := (one (fun t => { t with run := .parked (.fault 16777215) 5 })).wgs }

theorem witness_FaultResumes :
    ∃ w x, faulting.wg? 1 = some w ∧ faulting.thread? 1 0 0 = some x ∧ (faulting.context 0 0).state = .live ∧ w.wid = 1 ∧ w.part = 0 ∧ w.ctx = 0 ∧ (∀ v ∈ faulting.wgs, faulting.NobodyWaits v.wid) ∧
      x.run = .parked (.fault (16777215 % 2 ^ 24)) 5 ∧ (∀ r ∈ faulting.residents, r.part = 0 → r.ctx = 0 → r.loc ≠ .saved) ∧
      faulting.launch? w.part w.ctx w.queue w.count = some (launched 0 .admitted [] [0]) :=
  ⟨_, _, rfl, rfl, rfl, rfl, rfl, rfl, fun _ _ => nobodyWaits (by decide +kernel), rfl, by decide +kernel, by decide +kernel⟩

/-- A machine under its debugger: thread 0 of its workgroup is selected, register v95, and its threads are READY and STOPPED. -/
def stopped (dstate : BitVec 2) : State :=
  { yard 0 [] with
    wgs := (yard 0 []).wgs.map (Workgroup.stop (yard 0 []))
    contexts := [{ Context.reset 0 0 with state := .live, dstate := dstate, dridx := 95, arm := true, bpen := List.replicate 8 true, bppc := List.replicate 7 0 ++ [0x80] }] }

theorem witness_DebugEvents :
    (∀ st ∈ [CtxState.live, .closing], ((window st).context 0 3).state = st) ∧ ((window .closed).context 0 3).state = .closed ∧
    (∀ d ∈ ([1, 2] : List (BitVec 2)), ∃ w g x, (stopped d).selected 0 0 = some (w, 0, g, 0, x) ∧ (stopped d).wg? w.wid = some w ∧
      ((stopped d).context 0 0).state = .live ∧ ((stopped d).context 0 0).dstate = d ∧
      (x.run = .ready ∧ x.stopped = true ∧ x.offered = true) ∧ ((stopped d).resident 0 0 w.core).loc ≠ .saved ∧ ((stopped d).context 0 0).dridx.toNat = 95) ∧
    (let s : State := { stopped 2 with contexts := (stopped 2).contexts.map (fun c => { c with dridx := 512 }) }
     (s.context 0 0).dridx.toNat = 512 ∧ (let q := (s.resident 0 0 0).quire 0
       q.state = .resident ∧ 0xFFC < q.length ∧ 0xFFC % 4 = 0 ∧ 0x82 % 4 ≠ 0 ∧ ¬ 0x1000 < q.length)) ∧
    (∃ w g x, ((stopped 2).modThread 1 0 0 (fun t => { t with run := .parked .handler 5, offered := false })).selected 0 0 = some (w, 0, g, 0, x) ∧
      x.run ≠ .ready) ∧
    (∃ w, (stopped 0).wg? (stopped 0).issue.wid = some w ∧ (stopped 0).matched (stopped 0).issue = some (w.part, w.ctx, 7) ∧
      ((stopped 0).context w.part w.ctx).dstate = 0) ∧
    (((stopped 1).context 0 0).dstate = 1 ∧ ∀ w ∈ (stopped 1).wgs, ∀ g ∈ w.groups, ∀ y ∈ g.threads, y.stopped = true ∨ y.run = .exited) ∧
    (let s : State := { stopped 1 with wgs := (yard 0 []).wgs, contexts := (stopped 1).contexts.map (fun c => { c with heldAll := true }) }
     (s.context 0 0).dstate = 1 ∧ ∃ w ∈ s.wgs, w.part = 0 ∧ w.ctx = 0 ∧ w.started = true ∧ (s.context 0 0).stops w = true ∧
       ∃ g ∈ w.groups, ∃ y ∈ g.threads, ¬ (y.stopped = true ∨ y.run = .exited)) := by
  refine ⟨by decide +kernel, by decide +kernel, fun d hd => ?_, by decide +kernel, ⟨_, _, _, rfl, by decide +kernel⟩, ⟨_, rfl, rfl, by decide +kernel⟩,
    by decide +kernel, by decide +kernel⟩
  simp only [List.mem_cons, List.not_mem_nil, or_false] at hd
  rcases hd with rfl | rfl <;> exact ⟨_, _, _, rfl, rfl, by decide +kernel⟩

/-- The machine of `yard` with the hub's translations, peers and a virtual function. -/
def served : State :=
  { (yard 0 []).modPart 0 (fun d => { d with up := true, vf := 7 }) with
    apctl := List.replicate 8 0x80000000, papbase := 0, peers := SMap.set [] 63 0x80070001 0, linkup := 1 }

theorem witness_HostAndPeerEvents :
    (∀ x ∈ [(0, 1), (31, 64), (0xFFFFF, 3)], x.1 + x.2 ≤ 2 ^ 36 ∧ ∀ i < x.2, served.addressable (served.papbase.toNat + x.1 + i) = true ∧
      (served.stores.get (locKey 0 (physPage.phys (served.papbase.toNat + x.1 + i) / 8)) Versions.none).older = []) ∧
    (served.partOfVf 7 = some 0 ∧ (served.context 0 0).state = .live ∧
      (∀ k ∈ [0, 1, 2], ∃ s1 runs, served.translateRuns 0 0 hubCore k (pageRuns 0x3FFF 2 2) = (s1, runs, none) ∧ runs.length = 2 ∧
        ∀ q ∈ runs, q.2.2.host = false ∧ (s1.readPage q.2.2 q.1 q.2.1).2 = false ∧ ∀ i < q.2.1,
          ((s1.meetRuns runs).stores.get (locKey 0 (q.2.2.phys (q.1 + i) / 8)) Versions.none).older = [] ∧
          ((s1.touchPeer runs).stores.get (locKey 0 (q.2.2.phys (q.1 + i) / 8)) Versions.none).older = [])) ∧
    (served.acceptsPeer ⟨63, 7, 0, 0, 0, 0x3FFF, 2, []⟩ = true ∧ served.acceptsPeer ⟨62, 7, 0, 0, 0, 0x3FFF, 2, []⟩ = false) ∧
    served.partOfVf 0 = none ∧
    (let r := { due with addr := 63 * 2 ^ 52 }
     let s := { served with wgs := (one (fun t => { t with pending := [r] })).wgs }
     ∃ w x, s.wg? 1 = some w ∧ s.thread? 1 0 0 = some x ∧ w.wid = 1 ∧ x.pending[0]? = some r ∧ r.returned = false ∧ bitsOf r.addr 57 52 ≠ 0 ∧
      (s.peerEntry w.part (bitsOf r.addr 57 52)).setWidth 12 &&& s.linkup = 1#12 <<< 0) := by
  refine ⟨by decide +kernel, ⟨by decide +kernel, by decide +kernel, fun k hk => ?_⟩, by decide +kernel, by decide +kernel, ⟨_, _, rfl, rfl, rfl, rfl, by decide +kernel⟩⟩
  simp only [List.mem_cons, List.not_mem_nil, or_false] at hk
  rcases hk with rfl | rfl | rfl <;> exact ⟨_, _, Prod.ext rfl (pair_eq (p := (served.translateRuns 0 0 hubCore _ (pageRuns 0x3FFF 2 2)).2) (by decide +kernel)), by decide +kernel⟩

/-- A module whose SPDM connections stand in a state. -/
def speaking (x : Spdm) : State := { hub 0 false 0 1400 with spdm := List.replicate 9 x }
/-- Requests: a version and a code, two parameters, and what follows. -/
def request (a b : Byte) (r : List Byte) : List Byte := [0x13, a, b] ++ r

theorem witness_SpdmEvents :
    let field (r : List Byte) (off n : Nat) : Nat := natOfBytes ((r.drop off).take n)
    (4 ≤ ([0x10, 0x84, 0, 0] : List Byte).length) ∧
    (let r := request 0xE1 0 (List.replicate 17 0)
     (speaking .version).spdmOf 8 = .version ∧ field r 0 1 = 0x13 ∧ r.length = 20) ∧
    (let r := request 0xE3 0 ([0, 32, 0, 1, 0, 4, 0, 0, 0, 1] ++ List.replicate 19 0)
     (speaking .capabilities).spdmOf 0 = .capabilities ∧ field r 0 1 = 0x13 ∧ 32 ≤ r.length ∧ field r 4 2 = r.length ∧
      (field r 6 1).testBit 0 = true ∧ (field r 8 4).testBit 2 = true ∧ (field r 12 4).testBit 0 = true) ∧
    ((speaking .algorithms).spdmOf 0 = .algorithms ∧ (request 0x81 0 [0]).length = 4 ∧ (request 0x82 0 [0, 0, 0, 255, 255]).length = 8 ∧
      field (request 0x82 0 [0, 0, 0, 255, 255]) 2 1 = 0) ∧
    (∀ k ∈ [0, 1, 255], let r := request 0x83 0 (BitVec.ofNat 8 k :: List.replicate 40 0)
      r.length = 44 ∧ field r 2 1 = 0 ∧ (field r 3 1 = 0 ∨ field r 3 1 = 1 ∨ field r 3 1 = 0xFF)) ∧
    (∀ k ∈ [1, 16, 255], let r := request 0xE0 0 (BitVec.ofNat 8 k :: List.replicate 8 0)
      let x := request 0xE0 1 (BitVec.ofNat 8 k :: List.replicate 41 0)
      r.length = 12 ∧ (field r 2 1).testBit 0 = false ∧ x.length = 45 ∧ (field x 2 1).testBit 0 = true ∧ field x 36 1 % 16 = 0 ∧
      ((1 ≤ field r 3 1 ∧ field r 3 1 ≤ 16) ∨ field r 3 1 = 0xFF)) := by decide +kernel

/-! ### Steps, encodings, memory -/

/-- A machine that stands before a word. -/
def before (w : Nat) : State := State.reset.withFetchWord 32 w
/-- The issue set that its one group offers. -/
def members : IssueSet := { wid := 1, members := [(0, [0, 1, 2, 3, 4, 5, 6, 7])], pc := 0x80 }

/-- Before UADD with an immediate, and before a word that is no unit. -/
theorem witness_StepRunsTheDecodedInstruction :
    (∀ x ∈ [(0x810C7FFF, some (Instr.uaddImm ⟨false, 3, 3, -1⟩)), (0xFFFFFFFF, none)],
      let s := before x.1
      s.rstate ≠ .booting ∧ s.inbox = [] ∧ s.nextAction = some (.unit members) ∧ s.matched members = none ∧
        ∃ w ws, s.wg? members.wid = some w ∧ s.fetch w members.pc = some ws ∧ decode ws = x.2) ∧
    (let s := { before 0 with inbox := [.linkUp ⟨11⟩] }
     s.rstate ≠ .booting ∧ encode (.linkUp ⟨11⟩) = []) ∧
    (let s := { (working (.mma 0 0 0 0 0 [])).modWg 1 (fun w => { w with groups := w.groups.map (fun g => { g with threads := g.threads.map (fun t => { t with run := .exited }) }) }) with rstate := .running }
     s.rstate ≠ .booting ∧ s.inbox = [] ∧ s.nextAction = some (.mmaPass ⟨7⟩)) ∧
    (let s0 : State := { ((bench.ageOthers members).ageOthers members).endYields 1 with holdEnds := true, ends := [] }
     let i := Instr.iaddN ⟨none, false, 3, 2, 0, 0⟩
     let k := Instr.uaddImm ⟨false, 3, 3, -1⟩
     decode [0x01030400] = some i ∧ decode [0x810C7FFF] = some k ∧
      ∃ a b, exec i { s0 with issue := members } = .next a ∧ exec k { a.readAs s0 with issue := members } = .next b) ∧
    (let x := ((before 0).resident 0 0 0).quire 0
     x.state = .resident ∧ ∀ o ∈ [0, 0x80, 4084], pcOffset (BitVec.ofNat 32 o) + 12 ≤ x.length) := by
  refine ⟨fun x hx => ?_, by decide +kernel, by decide +kernel, ⟨by decide +kernel, by decide +kernel, _, _, rfl, rfl⟩, by decide +kernel⟩
  simp only [List.mem_cons, List.not_mem_nil, or_false] at hx
  rcases hx with rfl | rfl <;>
    exact ⟨by decide +kernel, by decide +kernel, by decide +kernel, by decide +kernel, _, _, rfl, rfl, by decide +kernel⟩

theorem witness_DecodeOfEncode : ∀ i ∈ [Instr.uaddImm ⟨false, 31, 0, -4096⟩, .ldg ⟨none, true, 92, 30, 30, 15, 2⟩], WellFormed i = true ∧ encode i ≠ [] := by
  decide +kernel

theorem witness_EncodeOfDecode : decode [0x810C7FFF, 0xFFFFFFFF] = some (.uaddImm ⟨false, 3, 3, -1⟩) := by decide +kernel

theorem witness_StoresReachOnlyTheirBytes :
    (worker.writeScratchCells (cellsAt 15 [1, 2])).2 = [] ∧ ((yard 0 []).writeVaultCells (cellsAt 15 [1, 2])).2 = [] ∧
    LibraryLegal (yard 0 []) ∧ ((yard 0 []).writeCells (cellsAt 31 [1, 2]) 255).2 = [] ∧ ([1, 2] : List Byte)[1]? = some 2 ∧ MemWf (yard 0 []) := by
  unfold LibraryLegal MemWf; decide +kernel

/-- A location with an overwritten store of die 1, stamped or not, and stores of each strength that matters, by agents on another
core of the cluster, in the die, in another die, and by the host; what a thread has seen; and a ledger. -/
theorem witness_MemoryOrder :
    let at_ (core strong : Nat) : Stored := { agent := { core := core, wid := 2, gi := 0, ti := 0 }, strong := strong, rel := [], stamp := [] }
    let v (i : Stored) : Versions :=
      { last := 8, mask := 255, info := Stored.none, older := [{ pos := 4, bytes := [7], mask := 1, tag := 3, info := i }] }
    let m : Ledger := ([(1, v (at_ 48 0))], [[0, 0, 0, 0], [0, 5, 0, 0], [0, 0, 0, 0], [0, 0, 0, 0]])
    let me : Agent := { core := 0, wid := 1, gi := 0, ti := 0 }
    let saw : Seen := { va := 8, loc := 1, pos := 1, scope := 4 }
    (∀ x ∈ [(1, at_ 48 0, []), (0, { at_ 48 0 with stamp := [0, 5, 0, 0] }, [0, 5, 0, 0])],
      ∃ o ∈ (v x.2.1).older, 4 ≤ o.pos ∧ (o.tag = 0 ∨ o.tag = 3) ∧ (o.info.agent.die = x.1 ∨ o.info.applied x.1 x.2.2 = true)) ∧
    (let u : Versions := { v (at_ 48 0) with info := at_ 48 0 }
     ∃ o ∈ u.older, 4 ≤ o.pos ∧ o.info.agent.die ≠ 0 ∧ u.top 0 [] ≤ o.pos) ∧
    (firstPage 0 0).page.sc = true ∧ (saw.va ≠ 16 ∨ saw.loc ≠ 1) ∧ saw.scope ≤ 4 ∧
    ((at_ 8 4).agent.outside = false ∧ (at_ 8 4).agent.shared me = 4 ∧ 4 ≤ (at_ 8 4).strong ∧ (at_ 48 4).agent.shared me = 5 ∧
      (at_ 48 4).strong < 5 ∧ (Stored.by (Agent.host 0)).agent.outside = true) ∧
    ((SMap.get m.1 1 Versions.none).info? 4 = some (at_ 48 0) ∧ (at_ 48 0).agent.die = 1 ∧ 1 < m.2.length) ∧
    (SMap.get (m.perform 1 4).1 1 Versions.none).info? 4 = some { at_ 48 0 with stamp := [0, 6, 0, 0] } := by decide +kernel

theorem witness_StepKeepsWhatIsLegal : Legal { before 0 with inbox := [.linkUp ⟨11⟩] } ∧ ∃ t, step { before 0 with inbox := [.linkUp ⟨11⟩] } = .next t :=
  ⟨⟨by unfold MemWf; decide +kernel, by unfold VaultsWf; decide +kernel, by unfold LibraryLegal; decide +kernel,
    by unfold ClockLegal; decide +kernel, fun i h5 h7 => by
    have : i = 5 ∨ i = 6 ∨ i = 7 := by omega
    rcases this with rfl | rfl | rfl <;> decide +kernel⟩, _, rfl⟩

/-! ### Words of the spec -/

/-- What the decoder reads from words. -/
def reads (ws : List Nat) : Option Instr := decode (ws.map (BitVec.ofNat 32))
/-- A prefix that carries saturation alone. -/
def satPfx : Pfx := ⟨false, 0, false, 0, 0, false, true, false, false, false, false, 0⟩

/-- Chapter 4: FFMA with a mask, a mode and c; MOVI with XIMM; BRU. -/
theorem test_decode_of_the_encoding_chapter :
    reads [0x3FA10F00, 0x57040A18] = some (.ffma ⟨some ⟨false, 2, false, 1, 7, true, false, false, false, false, false, 0⟩, true, 4, 5, 6, 0⟩) ∧
    reads [0x3F091A2B, 0x31090078] = some (.movi ⟨none, some ⟨false, 0x91A2B⟩, false, 9, 0x78⟩) ∧
    reads [0x888CFFF0] = some (.bru ⟨false, 3, 1, -16⟩) := by decide +kernel

/-- Chapters 5 and 6: REDUCE.ADD.N32, IADD.N32, EXIT, CVT.E4M3.BF16 and IADD.I16X2 with saturation. -/
theorem test_decode_of_the_lane_chapter :
    reads [0x68020140] = some (.reduce ⟨none, true, 2, 0, 5, 0, 0⟩) ∧ reads [0x01030400] = some (.iaddN ⟨none, false, 3, 2, 0, 0⟩) ∧
    reads [0x8B000000] = some (.exit ⟨false⟩) ∧ reads [0x3F800080, 0x22942CD4] = some (.cvtFloatSource ⟨some satPfx, false, 20, 22, 3, 5⟩) ∧
    reads [0x3F800080, 0x0A8A1630] = some (.iaddI16x2 ⟨some satPfx, false, 10, 11, 12⟩) := by decide +kernel

/-- Chapter 7: UADD with an immediate, RDSYS, BRT, JMPI, CALLQ with a number and with a register, RDTIME, SLEEPTO. -/
theorem test_decode_of_the_control_chapter :
    reads [0x810C7FFF] = some (.uaddImm ⟨false, 3, 3, -1⟩) ∧ reads [0x85900020] = some (.rdsys ⟨false, 4, 0x20⟩) ∧
    reads [0x89058010] = some (.brt ⟨false, 1, 3, 16⟩) ∧ reads [0x31801800] = some (.jmpi ⟨none, false, 12⟩) ∧
    reads [0x8A000209] = some (.callq ⟨false, 0, 2, 9⟩) ∧ reads [0x8A00A200] = some (.callq ⟨false, 5, 2, 0⟩) ∧
    reads [0x8E980000] = some (.rdtime ⟨false, 6⟩) ∧ reads [0x8E00C000] = some (.sleepto ⟨false, 6⟩) := by decide +kernel

/-- Chapter 8: LDG, LDS.FEC, ATOM.ADD, ATOMS.CAS, FENCE.REL.DIE, ARRIVE, WAITPH, CMWAIT, STRM, TIERPF. -/
theorem test_decode_of_the_memory_chapter :
    reads [0x3288054A] = some (.ldg ⟨none, false, 8, 2, 5, 2, 2⟩) ∧ reads [0x33940680] = some (.lds ⟨none, false, 20, 3, 2, 0, 0⟩) ∧
    reads [0x36890940] = some (.atom ⟨none, false, 9, 4, 5, 0, 0⟩) ∧ reads [0x370A0AA5] = some (.atoms ⟨none, false, 10, 5, 9, 1⟩) ∧
    reads [0x98000014] = some (.fence ⟨false, 2, 4⟩) ∧ reads [0x9990A600] = some (.arrive ⟨false, 4, 5, 6⟩) ∧
    reads [0x9A00A400] = some (.waitph ⟨false, 5, 4⟩) ∧ reads [0x9B80A600] = some (.cmwait ⟨false, 5, 6⟩) ∧
    reads [0x9C80E000] = some (.strm ⟨false, 7⟩) ∧ reads [0x988C8500] = some (.tierpf ⟨false, 3, 4, 5⟩) := by decide +kernel

/-- Chapter 9: MZERO.A96I, MLATB.E4M3, MMA.E4M3, MREAD.BF16X2 with saturation, MSTORE.BF16X2, MSTAT. -/
theorem test_decode_of_the_matrix_chapter :
    reads [0xA0000006] = some (.mzero ⟨false, 1, 2⟩) ∧ reads [0xA080C700] = some (.mlatb ⟨false, 6, 7, 0, 0⟩) ∧
    reads [0x38651410] = some (.mma ⟨none, false, 101, 10, 0, 1, 0⟩) ∧ reads [0x3F800080, 0x38941650] = some (.mread ⟨some satPfx, false, 20, 11, 1, 1⟩) ∧
    reads [0xA1010A05] = some (.mstore ⟨false, 8, 10, 1, 1⟩) ∧ reads [0xA1900001] = some (.mstat ⟨false, 4, 1⟩) := by decide +kernel

/-- Chapter 10: GSEAL, PROOFW, PRSTAT, KVGATHER in its two forms, ROTQ, ACCEPT. -/
theorem test_decode_of_the_attention_chapter :
    reads [0xA40C8000] = some (.gseal ⟨false, 3, 4⟩) ∧ reads [0xA5990000] = some (.proofw ⟨false, 6, 8⟩) ∧
    reads [0xA6910500] = some (.prstat ⟨false, 4, 8, 5⟩) ∧ reads [0x39651400] = some (.kvgather ⟨none, false, 101, 10, 0, 0⟩) ∧
    reads [0x39651404] = some (.kvgather ⟨none, false, 101, 10, 0, 1⟩) ∧ reads [0x39941998] = some (.rotq ⟨none, false, 20, 12, 102, 0⟩) ∧
    reads [0x3A020819] = some (.accept ⟨none, false, 2, 4, 6, 1⟩) := by decide +kernel

/-- Chapter 11: PDLOAD, PDINFO, DXT, DXCMP.LT, DXVAL.I32, DXENC.I32. -/
theorem test_decode_of_the_transducer_chapter :
    reads [0xAC00C001] = some (.pdload ⟨false, 6, 1⟩) ∧ reads [0xAC900002] = some (.pdinfo ⟨false, 4, 2⟩) ∧
    reads [0x3A941835] = some (.dxt ⟨none, false, 20, 12, 13, 1⟩) ∧ reads [0x3B131836] = some (.dxcmp ⟨none, false, 2, 3, 12, 13, 2⟩) ∧
    reads [0x3B9E1804] = some (.dxval ⟨none, false, 30, 12, 0, 1⟩) ∧ reads [0x3C0C3C0C] = some (.dxenc ⟨none, false, 12, 30, 0, 3⟩) := by decide +kernel

/-- R92 and R99: words of an entry table, of padding and of no assigned major are no units. -/
theorem test_no_units : reads [0x00000080] = none ∧ reads [0xFFFFFFFF] = none ∧ reads [0] = none ∧ reads [0x3FA10F00] = none ∧ reads [] = none := by
  decide +kernel

/-! ### Ill-formed terms: each check refuses its own -/

/-- Reason 2: a condition that DXCMP has not. -/
theorem test_selector_refused : selectorsOk (.dxcmp ⟨none, false, 8, 3, 12, 13, 2⟩) = false ∧ WellFormed (.dxcmp ⟨none, false, 8, 3, 12, 13, 2⟩) = false := by decide +kernel
/-- Reason 3: a reserved bit of a prefix. -/
theorem test_reserved_refused : reservedOk (.iaddN ⟨some { satPfx with low := 1 }, false, 3, 2, 0, 0⟩) = false := by decide +kernel
/-- Reason 4: an odd d of IMULW. -/
theorem test_width_refused : widthsOk (.imulwI ⟨none, false, 3, 2, 0⟩) = false ∧ widthsOk (.imulwI ⟨none, false, 4, 2, 0⟩) = true := by decide +kernel
/-- Reason 5: a pair at an odd register. -/
theorem test_alignment_refused : groupsAligned (.iaddN ⟨none, false, 3, 2, 0, 1⟩) = false := by decide +kernel
/-- Reason 6: a group that runs beyond the budget. -/
theorem test_budget_refused : withinBudget (.ldg ⟨none, false, 88, 2, 5, 2, 3⟩) = true ∧ WellFormed (.iaddN ⟨none, false, 95, 94, 0, 0⟩) = true ∧
    ((shapeOf (.iaddN ⟨none, false, 95, 94, 0, 0⟩)).reasons 88).any (fun r => r.1 == 6) = true := by decide +kernel
/-- Reason 7: saturation on an instruction that takes none. -/
theorem test_prefix_refused : prefixOk (.and ⟨some satPfx, false, 3, 2, 0, 0⟩) = false := by decide +kernel
/-- Reason 9: a W bit in a prefix. -/
theorem test_wait_refused : waitOk (.iaddN ⟨some { satPfx with h := true }, false, 3, 2, 0, 0⟩) = false := by decide +kernel

/-! ### Worked examples of the spec -/

/-- `bench` with registers of thread 0 given. -/
def lane (vs : SMap Word) : State := bench.modThread 1 0 0 (fun t => { t with v := vs })
/-- A v register of thread 0 after a unit. -/
def held (o : Host.Outcome State Fault Refusal) (r : Nat) : Option Word :=
  match o with
  | .next t => (t.thread? 1 0 0).map (fun x => SMap.get x.v r 0)
  | _ => none
/-- The results that thread 0 then awaits. -/
def owed (o : Host.Outcome State Fault Refusal) : Option (List (Nat × Word)) :=
  match o with
  | .next t => (t.thread? 1 0 0).map (fun x => x.pending.map (fun p => (p.reg, p.value)))
  | _ => none
/-- The trap information of the group after a unit. -/
def trapInfo (o : Host.Outcome State Fault Refusal) : Option Word :=
  match o with
  | .next t => (t.group? 1 0).map (·.trapinfo)
  | _ => none

/-- Chapter 6: IADD.I16X2 of 0x7FF0_8001 and 0x0020_FFFF, saturating and not. -/
theorem test_iadd_i16x2 :
    held (exec (.iaddI16x2 ⟨some satPfx, false, 10, 11, 12⟩) (lane [(11, 0x7FF08001), (12, 0x0020FFFF)])) 10 = some 0x7FFF8000 ∧
    held (exec (.iaddI16x2 ⟨none, false, 10, 11, 12⟩) (lane [(11, 0x7FF08001), (12, 0x0020FFFF)])) 10 = some 0x80108000 := by decide +kernel

/-- Chapter 6: CVT.E4M3.BF16 of 1.0, 256.0, 512.0 and −480.0. -/
theorem test_cvt_e4m3_bf16 :
    held (exec (.cvtFloatSource ⟨some satPfx, false, 20, 22, 3, 5⟩) (lane [(22, 0x43803F80), (23, 0xC3F04400)])) 20 = some 0xFE7E7838 ∧
    held (exec (.cvtFloatSource ⟨none, false, 20, 22, 3, 5⟩) (lane [(22, 0x43803F80), (23, 0xC3F04400)])) 20 = some 0xFF7F7838 := by decide +kernel

/-- Chapter 11: the ternary increment's image. -/
def increment : List Byte :=
  [2, 1, 0, 2, 0, 1, 3, 0] ++ List.replicate 56 0 ++ bytesOf 0x9001 2 ++ bytesOf 0xC000 2 ++ List.replicate 60 0
    ++ bytesOf 0x8011 2 ++ bytesOf 0x8012 2 ++ bytesOf 0x8000 2 ++ bytesOf 0 2 ++ bytesOf 0x8010 2 ++ bytesOf 0x8011 2 ++ bytesOf 0x8012 2 ++ bytesOf 0 2
/-- `lane` with that paradigm in slot 1. -/
def ternary (vs : SMap Word) : State :=
  { lane vs with residents := (lane vs).residents.map (fun r => { r with paradigms := [none, some (SMap.write [] 0 increment 0), none, none] }) }

theorem test_dxt :
    owed (exec (.dxt ⟨none, false, 20, 12, 0, 1⟩) (ternary [(12, 0x1A)])) = some [(20, 0x20), (21, 0)] ∧
    owed (exec (.dxt ⟨none, false, 20, 12, 0, 1⟩) (ternary [(12, 0xAAAAAAAA)])) = some [(20, 0), (21, 1)] := by decide +kernel
theorem test_dxval : owed (exec (.dxval ⟨none, false, 30, 20, 0, 1⟩) (ternary [(20, 0x20)])) = some [(30, 18)] := by decide +kernel
/-- A g register of the group after a unit. -/
def gheld (o : Host.Outcome State Fault Refusal) (r : Nat) : Option Word :=
  match o with
  | .next t => (t.group? 1 0).map (fun g => SMap.get g.g r 0)
  | _ => none
theorem test_pdinfo : gheld (exec (.pdinfo ⟨false, 4, 1⟩) (ternary [])) 4 = some 0x03400841 := by decide +kernel

/-- Chapter 11: digit 2 and then code 3, which has no transition; the group has a trap vector. -/
theorem test_digit_undefined :
    let s (vs : SMap Word) := (ternary vs).modGroup 1 0 (fun g => { g with trapvec := 0x100 })
    trapInfo (exec (.dxt ⟨none, false, 20, 12, 0, 1⟩) (s [(12, 0x0E)])) = some 0xC081 ∧
    trapInfo (exec (.dxval ⟨none, false, 30, 12, 0, 1⟩) (s [(12, 0x0E)])) = some 0x80C081 := by decide +kernel

/-- Chapter 4: MOVI of 0x1234_5678, and the branch from 0x100 to 0xC0 when g3 is not zero. -/
theorem test_movi : held (exec (.movi ⟨none, some ⟨false, 0x91A2B⟩, false, 9, 0x78⟩) bench) 9 = some 0x12345678 := by decide +kernel
theorem test_bru :
    let s (x : Word) := { (bench.modGroup 1 0 (fun g => { g with g := SMap.set [] 3 x 0 })) with issue := { bench.issue with pc := 0x100 } }
    let at_ (o : Host.Outcome State Fault Refusal) : Option Word := match o with | .next t => (t.thread? 1 0 7).map (·.pc) | _ => none
    at_ (exec (.bru ⟨false, 3, 1, -16⟩) (s 1)) = some 0xC0 := by decide +kernel
/-- Chapter 7: UADD g3, g3, -1 wraps. -/
theorem test_uadd : gheld (exec (.uaddImm ⟨false, 3, 3, -1⟩) bench) 3 = some 0xFFFFFFFF := by decide +kernel

end Sys2Proof.Tests
end

section
/-!
PROOF. The registers of the hub die that only the host and the hub itself write: every operation of memory, of the cores and of
launches leaves them as they stand. One lemma for each function, named after it.
-/
namespace Sys2Proof.Device
open Sys2Proof Sys2Proof.Machine Sys2Proof.Laws

/-- Registers of the hub die and what the host has been sent: the time base, the clock, the migration registers, the peer map and
links, and the recovery mailbox. -/
structure Hub where
  time : DWord
  src : BitVec 2
  locked : Bool
  diverged : Bool
  steperr : Bool
  rate : Word
  steps : Word
  stepto : DWord
  ppsPending : Bool
  ppsEdges : Nat
  clock : Nat
  migration : List Migration
  peers : SMap DWord
  linkup : BitVec 12
  rstate : BootState
  rerr : BitVec 8
  rcmd : BitVec 2
  replies : List Reply

/-- Those registers of a state. -/
def hubOf (s : State) : Hub :=
  { time := s.time, src := s.src, locked := s.locked, diverged := s.diverged, steperr := s.steperr, rate := s.rate, steps := s.steps,
    stepto := s.stepto, ppsPending := s.ppsPending, ppsEdges := s.ppsEdges, clock := s.clock, migration := s.migration, peers := s.peers,
    linkup := s.linkup, rstate := s.rstate, rerr := s.rerr, rcmd := s.rcmd, replies := s.replies }

/-- No other field of a state has to do with them. -/
@[simp] theorem hubOf_with (s : State) (mem memTag memPoison vault vaultPoison stores dieClocks hostView sysView outsideViews formeViews
    blocks swapped partitions contexts residents wgs jobs nextId tlb missBuffer items sent messages holdEnds ends) :
    hubOf { s with mem := mem, memTag := memTag, memPoison := memPoison, vault := vault, vaultPoison := vaultPoison, stores := stores,
                   dieClocks := dieClocks, hostView := hostView, sysView := sysView, outsideViews := outsideViews,
                   formeViews := formeViews, blocks := blocks, swapped := swapped, partitions := partitions, contexts := contexts,
                   residents := residents, wgs := wgs, jobs := jobs, nextId := nextId, tlb := tlb, missBuffer := missBuffer,
                   items := items, sent := sent, messages := messages, holdEnds := holdEnds, ends := ends } = hubOf s := rfl

/-- A fold over a state with something beside it keeps what each of its steps keeps. -/
theorem fold_fst_keeps {α β γ : Type} (g : State → β) (f : State × γ → α → State × γ) (hf : ∀ s a, g (f s a).1 = g s.1) (l : List α)
    (s : State × γ) : g (l.foldl f s).1 = g s.1 := by
  induction l generalizing s with
  | nil => rfl
  | cons a l ih => rw [List.foldl_cons, ih, hf]

/-! ### Memory and translations -/

@[simp] theorem hubOf_withLedger (s : State) (m : Ledger) : hubOf (s.withLedger m) = hubOf s := rfl
@[simp] theorem hubOf_message (s : State) (fn v : Nat) : hubOf (s.message fn v) = hubOf s := rfl
@[simp] theorem hubOf_modPart (s : State) (p : Nat) (f : Partition → Partition) : hubOf (s.modPart p f) = hubOf s := rfl

@[simp] theorem hubOf_modContext (s : State) (p c : Nat) (f : Context → Context) : hubOf (s.modContext p c f) = hubOf s := by
  unfold State.modContext
  split <;> rfl

@[simp] theorem hubOf_writeGranule (s : State) (g v : Nat) (cs : List (Nat × Byte)) : hubOf (s.writeGranule g v cs).1 = hubOf s := by
  unfold State.writeGranule
  dsimp only
  split <;> rfl

@[simp] theorem hubOf_writeCells (s : State) (cs : List (Nat × Byte)) (v : Nat) : hubOf (s.writeCells cs v).1 = hubOf s := by
  refine fold_fst_keeps hubOf _ (fun a g => ?_) _ (s, [])
  exact hubOf_writeGranule a.1 g v cs

@[simp] theorem hubOf_writePhys (s : State) (a : Nat) (bs : List Byte) (v : Nat) : hubOf (s.writePhys a bs v) = hubOf s :=
  hubOf_writeCells s _ v

@[simp] theorem hubOf_writePage (s : State) (g : Page) (a : Nat) (bs : List Byte) : hubOf (s.writePage g a bs) = hubOf s := by
  unfold State.writePage
  split <;> simp

@[simp] theorem hubOf_touchBlock (s : State) (a : Nat) (h : BitVec 2) : hubOf (s.touchBlock a h) = hubOf s := by
  unfold State.touchBlock
  exact (apply_ite hubOf _ _ _).trans (ite_self _)

@[simp] theorem hubOf_touchPage (s : State) (g : Page) (a : Nat) : hubOf (s.touchPage g a) = hubOf s := by
  unfold State.touchPage
  split <;> simp

@[simp] theorem hubOf_touchRuns (s : State) (rs : List (Nat × Nat × Page)) : hubOf (s.touchRuns rs) = hubOf s :=
  fold_keeps hubOf _ (fun t _ => hubOf_touchPage t _ _) rs s

@[simp] theorem hubOf_tlbFill (s : State) (place p c : Nat) (g : Page) : hubOf (s.tlbFill place p c g) = hubOf s := rfl

@[simp] theorem hubOf_pageWalk (s : State) (p c core va kind : Nat) : hubOf (s.pageWalk p c core va kind).1 = hubOf s := by
  unfold State.pageWalk
  split
  · split <;> simp
  · rfl

@[simp] theorem hubOf_lookup (s : State) (p c core va kind : Nat) : hubOf (s.lookup p c core va kind).1 = hubOf s := by
  unfold State.lookup
  split
  · rfl
  · split <;> simp

@[simp] theorem hubOf_translate (s : State) (p c core a kind : Nat) : hubOf (s.translate p c core a kind).1 = hubOf s := by
  unfold State.translate
  dsimp only
  split <;> simp

@[simp] theorem hubOf_translateRuns (s : State) (p c core kind : Nat) (rs : List (Nat × Nat)) :
    hubOf (s.translateRuns p c core kind rs).1 = hubOf s := by
  induction rs generalizing s with
  | nil => rfl
  | cons r rs ih =>
    have h1 := hubOf_translate s p c core r.1 kind
    unfold State.translateRuns
    split
    next he => rw [he] at h1; exact h1
    next he => rw [he] at h1; exact (ih _).trans h1

@[simp] theorem hubOf_pushRecord (s : State) (p c : Nat) (r : List Byte) : hubOf (s.pushRecord p c r) = hubOf s := by
  unfold State.pushRecord
  dsimp only
  split <;> simp

@[simp] theorem hubOf_logRecord (s : State) (p c a k kd core pc who : Nat) : hubOf (s.logRecord p c a k kd core pc who) = hubOf s := by
  unfold State.logRecord
  dsimp only
  split <;> simp

@[simp] theorem hubOf_trace (s : State) (p c a e k st h w d : Nat) : hubOf (s.trace p c a e k st h w d) = hubOf s := by
  unfold State.trace
  dsimp only
  split
  · rfl
  · split <;> simp

@[simp] theorem hubOf_readVirt (s : State) (p c core a n : Nat) : hubOf (s.readVirt p c core a n).1 = hubOf s := by
  unfold State.readVirt
  dsimp only
  split <;> simp

@[simp] theorem hubOf_readCode (s : State) (p c core a n : Nat) (v : View) : hubOf (s.readCode p c core a n v).1 = hubOf s := by
  have h1 := hubOf_readVirt s p c core a n
  unfold State.readCode
  split
  next he =>
    rw [he] at h1
    dsimp only
    split <;> exact h1
  next => exact h1

@[simp] theorem hubOf_writeVirt (s : State) (p c core a : Nat) (bs : List Byte) : hubOf (s.writeVirt p c core a bs).1 = hubOf s := by
  unfold State.writeVirt
  dsimp only
  split
  · simp
  · exact (fold_keeps hubOf _ (fun t q => hubOf_writePage t _ _ _) _ _).trans (by simp)

/-! ### Workgroups, quires and traps -/

@[simp] theorem hubOf_modWg (s : State) (wid : Nat) (f : Workgroup → Workgroup) : hubOf (s.modWg wid f) = hubOf s := rfl
@[simp] theorem hubOf_modGroup (s : State) (wid gi : Nat) (f : Group → Group) : hubOf (s.modGroup wid gi f) = hubOf s := rfl
@[simp] theorem hubOf_modThread (s : State) (wid gi ti : Nat) (f : Thread → Thread) : hubOf (s.modThread wid gi ti f) = hubOf s := rfl

@[simp] theorem hubOf_modResident (s : State) (p c k : Nat) (f : Resident → Resident) : hubOf (s.modResident p c k f) = hubOf s := by
  unfold State.modResident
  split <;> rfl

@[simp] theorem hubOf_quireEntry (s : State) (p c core q : Nat) (v : View) : hubOf (s.quireEntry p c core q v).1 = hubOf s := by
  unfold State.quireEntry
  split
  next => rfl
  next t _ =>
    have h1 := hubOf_readCode s p c core (t + 64 * q) 64 v
    unfold State.quireEntryIn
    split <;> (rename_i he; rw [he] at h1; exact h1)

@[simp] theorem hubOf_requestLoad (s : State) (p c core q : Nat) (v : View) : hubOf (s.requestLoad p c core q v).1 = hubOf s := by
  have h1 := hubOf_quireEntry s p c core q v
  unfold State.requestLoad
  dsimp only
  split
  next => rfl
  next =>
    split
    next he => rw [he] at h1; simpa using h1
    next he =>
      rw [he] at h1
      split
      next => exact h1
      next => exact (hubOf_modResident _ _ _ _ _).trans ((fold_keeps hubOf _ (fun t k => hubOf_modResident t _ _ _ _) _ _).trans h1)

@[simp] theorem hubOf_startLoad (s : State) (p c core q : Nat) : hubOf (s.startLoad p c core q) = hubOf s := by
  unfold State.startLoad
  dsimp only
  split
  · split <;> simp
  · rfl

@[simp] theorem hubOf_enterQuire (s : State) (p c core q : Nat) : hubOf (s.enterQuire p c core q) = hubOf s := by
  simp [State.enterQuire]

@[simp] theorem hubOf_setPc (s : State) (wid gi ti : Nat) (pc : Word) : hubOf (s.setPc wid gi ti pc) = hubOf s := by
  unfold State.setPc
  split
  · dsimp only
    split <;> simp
  · rfl

@[simp] theorem hubOf_withdrawFetches (s : State) (wid : Nat) : hubOf (s.withdrawFetches wid) = hubOf s := rfl

@[simp] theorem hubOf_debugStop (s : State) (wid why bpn : Nat) (pc : Word) : hubOf (s.debugStop wid why bpn pc) = hubOf s := by
  unfold State.debugStop
  split
  · rfl
  · dsimp only
    have h1 : ∀ (l : List Workgroup) (t : State), hubOf (l.foldl (fun s x => s.withdrawFetches x.wid) t) = hubOf t :=
      fold_keeps hubOf _ (fun t w => hubOf_withdrawFetches t w.wid)
    split
    · simp [h1]
    · split <;> simp [h1]

@[simp] theorem hubOf_undeliverable (s : State) (wid : Nat) (pc : Word) (t : Trap) (nested : Bool) (lane : Nat) :
    hubOf (s.undeliverable wid pc t nested lane) = hubOf s := by
  unfold State.undeliverable
  split <;> simp

@[simp] theorem hubOf_clearMarks (s : State) (wid gi ti cause : Nat) : hubOf (s.clearMarks wid gi ti cause) = hubOf s := by
  unfold State.clearMarks
  split <;> simp

@[simp] theorem hubOf_enterHandler (s : State) (wid gi ti : Nat) (vec pc resume : Word) (cause set : Nat) :
    hubOf (s.enterHandler wid gi ti vec pc resume cause set) = hubOf s := by
  simp [State.enterHandler]

@[simp] theorem hubOf_holdLanes (s : State) (wid gi set : Nat) (is : List Nat) : hubOf (s.holdLanes wid gi set is) = hubOf s :=
  fold_keeps hubOf _ (fun t _ => hubOf_modThread t _ _ _ _) is s

@[simp] theorem hubOf_handlerLoads (s : State) (w : Workgroup) (vec : Word) (v : View) : hubOf (s.handlerLoads w vec v).1 = hubOf s := by
  have h1 := hubOf_quireEntry s w.part w.ctx w.core (pcQuire vec) v
  unfold State.handlerLoads
  dsimp only
  split <;> (rename_i he; rw [he] at h1; exact h1)

@[simp] theorem hubOf_deliverGroup (s : State) (wid gi : Nat) (vec pc : Word) (len : Nat) (ts : List (Nat × Trap)) :
    hubOf (s.deliverGroup wid gi vec pc len ts).1 = hubOf s := by
  unfold State.deliverGroup
  split
  next w g ti t rest _ _ =>
    dsimp only
    split
    · simp
    · split
      · simp
      · split
        · simp
        · split
          · split <;> simp
          · split
            next he => simp [show hubOf _ = hubOf s from congrArg Prod.fst he ▸ hubOf_handlerLoads _ w vec _]
            next he => simp [show hubOf _ = hubOf s from congrArg Prod.fst he ▸ hubOf_handlerLoads _ w vec _]
  next => rfl

@[simp] theorem hubOf_deliver (s : State) (u : UnitEnd) : hubOf (s.deliver u).1 = hubOf s := by
  refine fold_fst_keeps hubOf _ (fun x gi => ?_) _ (s, [])
  exact hubOf_deliverGroup x.1 _ _ _ _ _ _

@[simp] theorem hubOf_releaseHeld (s : State) (wid gi : Nat) : hubOf (s.releaseHeld wid gi) = hubOf s := rfl

@[simp] theorem hubOf_withdrawDelivery (s : State) (wid gi ti : Nat) (pc : Word) (t : Trap) :
    hubOf (s.withdrawDelivery wid gi ti pc t) = hubOf s := by
  unfold State.withdrawDelivery
  split <;> simp

@[simp] theorem hubOf_chooseLoads (s : State) (rs : List LoadRequest) : hubOf (s.chooseLoads rs).1 = hubOf s := by
  refine fold_fst_keeps hubOf _ (fun x r => ?_) rs (s, [])
  split <;> simp

@[simp] theorem hubOf_afterLoad (s : State) (a : LoadRequest × LoadAnswer) : hubOf (s.afterLoad a) = hubOf s := by
  unfold State.afterLoad
  split
  · rfl
  · dsimp only
    split
    · split <;> simp
    · split <;> simp
    · split
      · simp
      · split
        · split <;> simp
        · rfl

@[simp] theorem hubOf_settleEnds (s : State) (us : List UnitEnd) : hubOf (s.settleEnds us) = hubOf s := by
  unfold State.settleEnds
  dsimp only
  rw [fold_keeps hubOf _ hubOf_afterLoad, fold_keeps hubOf, hubOf_chooseLoads, fold_fst_keeps hubOf, fold_fst_keeps hubOf]
  · exact fun x u => hubOf_chooseLoads x.1 _
  · exact fun x u => hubOf_deliver x.1 _
  · intro t a
    split <;> simp

@[simp] theorem hubOf_endUnit (s : State) (u : UnitEnd) : hubOf (s.endUnit u) = hubOf s := by
  unfold State.endUnit
  split
  · rfl
  · split <;> simp

@[simp] theorem hubOf_deliverNow (s : State) (wid : Nat) (pc : Word) (len : Nat) (fs : List Fate) :
    hubOf (s.deliverNow wid pc len fs) = hubOf s := by
  simp [State.deliverNow]

@[simp] theorem hubOf_commitWaiters (s : State) (wid : Nat) (ws : List (Nat × Nat × Word × Bool)) :
    hubOf (s.commitWaiters wid ws) = hubOf s := by
  unfold State.commitWaiters
  rw [fold_keeps hubOf _ (fun t gi => hubOf_modGroup t _ _ _), fold_keeps hubOf _ (fun t x => hubOf_modGroup t _ _ _)]

@[simp] theorem hubOf_poisonWaiters (s : State) (wid : Nat) (poisoned : List (Word × Fate)) :
    hubOf (s.poisonWaiters wid poisoned) = hubOf s := by
  unfold State.poisonWaiters
  split
  · rfl
  · rw [hubOf_deliverNow, fold_keeps hubOf _ (fun t f => hubOf_modThread t _ _ _ _)]

@[simp] theorem hubOf_wakeSet (s : State) (wid set : Nat) : hubOf (s.wakeSet wid set) = hubOf s := by
  unfold State.wakeSet
  split
  · rfl
  · split
    · rfl
    · dsimp only
      split <;> simp

@[simp] theorem hubOf_wakeWaits (s : State) (wid : Nat) : hubOf (s.wakeWaits wid) = hubOf s := by
  unfold State.wakeWaits
  split
  · rfl
  · exact fold_keeps hubOf _ (fun t k => hubOf_wakeSet t wid k) _ s

@[simp] theorem hubOf_endParks (s : State) (wid : Nat) (past : Bool) (hit : ParkKind → Option Bool) :
    hubOf (s.endParks wid past hit) = hubOf s := by
  simp [State.endParks, State.endParksWith]

/-! ### Launches, forme units and the end of contexts -/

@[simp] theorem hubOf_modLaunch (s : State) (p c q k : Nat) (f : Launch → Launch) : hubOf (s.modLaunch p c q k f) = hubOf s := by
  simp [State.modLaunch]

@[simp] theorem hubOf_writeCrec (s : State) (p c : Nat) (l : Launch) (off : Nat) (bs : List Byte) :
    hubOf (s.writeCrec p c l off bs) = hubOf s := by
  have h1 := hubOf_writeVirt s p c hubCore (l.crec + off) bs
  unfold State.writeCrec
  split
  · rfl
  · split <;> (rename_i he; rw [he] at h1; simpa using h1)

@[simp] theorem hubOf_writeHeader (s : State) (p c q k : Nat) : hubOf (s.writeHeader p c q k) = hubOf s := by
  unfold State.writeHeader
  split <;> simp

theorem hubOf_releasing (s : State) (v : View) (scope : Nat) (f : State → State) (hf : ∀ t, hubOf (f t) = hubOf t) :
    hubOf (s.releasing v scope f) = hubOf s := by
  simp [State.releasing, hf]

@[simp] theorem hubOf_endLaunch (s : State) (p c q k : Nat) (st : LaunchState) (status : Nat) :
    hubOf (s.endLaunch p c q k st status) = hubOf s := by
  unfold State.endLaunch
  split
  · rfl
  · split
    · dsimp only
      split <;> simp [hubOf_releasing]
    · rfl

@[simp] theorem hubOf_markDone (s : State) (p c q k w scope : Nat) (v : View) : hubOf (s.markDone p c q k w scope v) = hubOf s := by
  unfold State.markDone
  split
  · rfl
  · split
    · dsimp only
      split <;> simp [hubOf_releasing, State.gaveBit]
    · rfl

@[simp] theorem hubOf_touchCells (s : State) (rs : Runs) (cells : List (Nat × Byte)) : hubOf (s.touchCells rs cells) = hubOf s := by
  simp [State.touchCells]

@[simp] theorem hubOf_putRuns (s : State) (j : Job) (rs : Runs) (cells : List (Nat × Byte)) : hubOf (s.putRuns j rs cells) = hubOf s := by
  unfold State.putRuns
  refine (fold_keeps hubOf _ (fun t v => ?_) _ _).trans (hubOf_touchCells s rs cells)
  refine (fold_keeps hubOf _ (fun t g => ?_) _ _).trans (hubOf_writeCells t _ v)
  split <;> simp

/-- So an operation of the forme unit, which is made of these, keeps them too. -/
theorem fprim_hubOf (h : Hub) : FPrim (fun t => hubOf t = h) where
  reach s p c core kind rs hs := (hubOf_translateRuns s p c core kind rs).trans hs
  put s j rs cells hs := (hubOf_putRuns s j rs cells).trans hs
  touch s rs hs := (hubOf_touchRuns s rs).trans hs
  items _ _ hs := hs
  log s p c a k kd core pc who hs := (hubOf_logRecord s p c a k kd core pc who).trans hs

@[simp] theorem hubOf_markBy (old s : State) (who : Agent) : hubOf (State.markBy old s who) = hubOf s := rfl
@[simp] theorem hubOf_markWaited (old s : State) : hubOf (State.markWaited old s) = hubOf s := rfl
@[simp] theorem hubOf_giveItem (s : State) (j : Job) (d : Nat) (x : Nat × Nat) (poison : Bool) (va : Nat) :
    hubOf (s.giveItem j d x poison va) = hubOf s := rfl

@[simp] theorem hubOf_serveFetches (s : State) (key n : Nat) : hubOf (s.serveFetches key n) = hubOf s := by
  induction n generalizing s with
  | zero => rfl
  | succ n ih =>
    unfold State.serveFetches
    split
    next => rfl
    next j _ =>
      split
      next va _ d hh _ =>
        have h1 : hubOf ((fmFetch j va).run s).2 = hubOf s := fmFetch_keeps (fprim_hubOf (hubOf s)) j va s rfl
        dsimp only
        split <;> simp_all
      next => rfl

@[simp] theorem hubOf_abandonItems (s : State) (j : Job) : hubOf (s.abandonItems j) = hubOf s := by
  unfold State.abandonItems
  dsimp only
  rw [fold_keeps hubOf _ (fun t k => hubOf_serveFetches t _ _), hubOf_markWaited, fold_keeps hubOf]
  intro t i
  exact fmAbandon_keeps (fprim_hubOf (hubOf t)) j i { t with items := t.items.erase i } rfl

@[simp] theorem hubOf_wakePorts (s : State) (core : Nat) : hubOf (s.wakePorts core) = hubOf s :=
  fold_keeps hubOf _ (fun t _ => hubOf_endParks t _ _ _) _ s

@[simp] theorem hubOf_dropRetired (s : State) (wid : Nat) : hubOf (s.dropRetired wid) = hubOf s := rfl

@[simp] theorem hubOf_retire (s : State) (w : Workgroup) : hubOf (s.retire w) = hubOf s := by
  unfold State.retire
  simp only [hubOf_wakePorts, hubOf_dropRetired, hubOf_modWg, hubOf_trace, hubOf_markDone]
  rw [fold_keeps hubOf _ (fun t f => hubOf_markDone t _ _ _ _ _ _ _), hubOf_abandonItems]

@[simp] theorem hubOf_teardownCtx (s : State) (p c : Nat) : hubOf (s.teardownCtx p c) = hubOf s := by
  unfold State.teardownCtx
  dsimp only
  split
  · simp
  · rw [fold_keeps hubOf _ (fun t w => hubOf_withdrawFetches t _), hubOf_with, fold_keeps hubOf _ (fun t l => hubOf_endLaunch t _ _ _ _ _ _)]
    simp

@[simp] theorem hubOf_closeCtx (s : State) (p c : Nat) : hubOf (s.closeCtx p c) = hubOf s := by
  unfold State.closeCtx
  split
  · rfl
  · dsimp only
    rw [hubOf_modContext, hubOf_with, fold_keeps hubOf _ hubOf_retire, fold_keeps hubOf _ (fun t k => hubOf_serveFetches t _ _), hubOf_with]

@[simp] theorem hubOf_dropContext (s : State) (p c : Nat) : hubOf (s.dropContext p c) = hubOf s := by
  simp [State.dropContext]

@[simp] theorem hubOf_clearPart (s : State) (p : Nat) : hubOf (s.clearPart p) = hubOf s := rfl

@[simp] theorem hubOf_teardownPart (s : State) (p : Nat) : hubOf (s.teardownPart p) = hubOf s := by
  unfold State.teardownPart
  dsimp only
  split
  · simp
  · split
    · split <;> simp [State.messagePf]
    · simp [State.messagePf]

end Sys2Proof.Device
end

section
/-!
PROOF. The step as a whole keeps what is legal: power-on, the events of the inbox, and the module's own actions.
-/
namespace Sys2Proof.Device
open Sys2Proof Sys2Proof.Machine Sys2Proof.Laws

/-- What a step does before time passes keeps `Legal`, whichever of its three sources it takes its work from. -/
theorem doStep_legal (s : State) (h : Legal s) : ∀ t, s.doStep = .next t → Legal t := by
  intro t ht
  unfold State.doStep at ht
  split at ht
  · exact execPowerOn_legal {} s h t ht
  · cases ht
  · split at ht
    next i r _ =>
      have hr : Legal { s with inbox := r } := (legal_at _).mpr ((legal_at s).mp h)
      split at ht
      · exact exec_legal i _ hr t ht
      · exact Host.Outcome.next.inj ht ▸ hr
    next =>
      split at ht
      next a _ => exact run_legal a s h t ht
      next => exact Host.Outcome.next.inj ht ▸ h

/-- The passing of time, the drift of the dies and the errors that strike keep `Legal`. -/
theorem tickOut_legal (o : Out) (ho : ∀ t, o = .next t → Legal t) : ∀ t, tickOut o = .next t → Legal t := by
  intro t ht
  cases o with
  | next u => exact Host.Outcome.next.inj ht ▸ tick_legal u (ho u rfl)
  | fault r => cases ht
  | refused r => cases ht

/-- Settles O59: a step is power-on, an event or an action, each of which keeps what is legal, and then the tick. -/
theorem stepKeepsWhatIsLegal : Obligations.StepKeepsWhatIsLegal := by
  intro s t hs ht
  exact tickOut_legal _ (doStep_legal s hs) t ht

end Sys2Proof.Device
end

section
/-!
PROOF. The time base, the clock and the epochs: what each function of the servo leaves in the hub's registers, and that moves of
blocks change no byte.
-/
namespace Sys2Proof.Device
open Sys2Proof Sys2Proof.Machine Sys2Proof.Laws

/-! ### Steps of the count -/

@[simp] theorem hubOf_messagePf (s : State) (v : Nat) : hubOf (s.messagePf v) = hubOf s := rfl

@[simp] theorem hubOf_traceAll (s : State) (event detail : Nat) : hubOf (s.traceAll event detail) = hubOf s :=
  fold_keeps hubOf _ (fun t _ => hubOf_trace t _ _ _ _ _ _ _ _ _) _ s

/-- A step of the count sets the count, advances STEPS, and leaves the hub's other registers alone (R383). -/
theorem hubOf_stepTime (s : State) (n : Nat) :
    hubOf (s.stepTime n) = { hubOf s with time := BitVec.ofNat 64 n, steps := s.steps + 1 } :=
  hubOf_traceAll _ _ _

/-- The count stepped to `n`, with STEPS advanced. -/
def Stepped (s t : State) (n : Nat) : Prop := t.time = BitVec.ofNat 64 n ∧ t.steps = s.steps + 1

theorem stepTime_stepped (s : State) (n : Nat) : Stepped s (s.stepTime n) n :=
  ⟨congrArg Hub.time (hubOf_stepTime s n), congrArg Hub.steps (hubOf_stepTime s n)⟩

/-- A request for more than 1 ms ahead is taken (R383). -/
theorem requestStep_ahead (s : State) (n : Nat) (h : s.time.toNat + 1000000 < n) (hn : n < 2 ^ 64) : Stepped s (s.requestStep n) n := by
  have he : s.requestStep n = s.stepTime n := if_pos ⟨h, hn⟩
  exact he ▸ stepTime_stepped s n

/-- Any other request sets STEPERR and steps nothing (R383). -/
theorem requestStep_error (s : State) (n : Nat) (h : n ≤ s.time.toNat + 1000000 ∨ 2 ^ 64 ≤ n) :
    (s.requestStep n).steperr = true ∧ (s.requestStep n).time = s.time ∧ (s.requestStep n).steps = s.steps := by
  have hn : ¬ (s.time.toNat + stepLimit < n ∧ n < 2 ^ 64) := by
    unfold stepLimit
    omega
  have he : s.requestStep n = { s with steperr := true } := if_neg hn
  exact he ▸ ⟨rfl, rfl, rfl⟩

/-- Whatever is asked for, a request leaves the other registers of STEPTO as they stand. -/
theorem requestStep_keeps (s : State) (n : Nat) : (s.requestStep n).ppsPending = s.ppsPending ∧ (s.requestStep n).stepto = s.stepto := by
  unfold State.requestStep
  split
  · exact ⟨congrArg Hub.ppsPending (hubOf_stepTime s n), congrArg Hub.stepto (hubOf_stepTime s n)⟩
  · exact ⟨rfl, rfl⟩

/-- A write of STEPTO asks for the step at once, unless it waits for an edge (R383, R384). -/
theorem writeStepto_now (s : State) (n : Nat) (hs : s.src ≠ 2) (hn : n < 2 ^ 64) :
    s.writeStepto (BitVec.ofNat 64 n) = State.requestStep { s with stepto := BitVec.ofNat 64 n } n := by
  refine (if_neg hs).trans ?_
  rw [BitVec.toNat_ofNat, Nat.mod_eq_of_lt hn]

/-! ### The servo -/

/-- What an offset makes of the servo (R382, R383). -/
def Steered (s t : State) (o : Int) : Prop :=
  t.diverged = decide (o < -10000000) ∧
  (-200000 ≤ t.rate.toInt ∧ t.rate.toInt ≤ 200000) ∧ (o < -10000000 → t.rate.toInt = -200000) ∧
  (s.locked = true → 1000000 < o → (s.time.toNat : Int) + o < 2 ^ 64 → Stepped s t (s.time.toNat + o.toNat)) ∧
  (o ≤ 1000000 → t.time = s.time ∧ t.locked = decide (-1000 ≤ o ∧ o ≤ 1000))

theorem hubOf_setDiverged (s : State) (d : Bool) : hubOf (s.setDiverged d) = { hubOf s with diverged := d } := by
  unfold State.setDiverged
  dsimp only
  split <;> rfl

theorem toInt_ofInt_rate (x : Int) (h1 : -200000 ≤ x) (h2 : x ≤ 200000) : (BitVec.ofInt 32 x).toInt = x := by
  rw [BitVec.toInt_ofInt]
  exact Int.bmod_eq_of_le (by omega) (by omega)

/-- The rate that the servo sets: free within its bounds, and the lowest one while it has diverged (R382). -/
def servoRate (s : State) (o : Int) : Word := if decide (o < -10000000) then BitVec.ofInt 32 (-200000) else s.freeRate

theorem freeRate_bounds (s : State) : -200000 ≤ s.freeRate.toInt ∧ s.freeRate.toInt ≤ 200000 := by
  unfold State.freeRate
  rw [toInt_ofInt_rate _ (by omega) (by omega)]
  omega

theorem servoRate_bounds (s : State) (o : Int) : -200000 ≤ (servoRate s o).toInt ∧ (servoRate s o).toInt ≤ 200000 := by
  unfold servoRate
  split
  · decide
  · exact freeRate_bounds s

theorem servoRate_diverged (s : State) (o : Int) (h : o < -10000000) : (servoRate s o).toInt = -200000 := by
  simp only [servoRate, h, decide_true, if_true]
  decide

/-- The state with the rate and DIVERGED as an offset sets them, before a step or LOCKED. -/
def servoBase (s : State) (o : Int) : State :=
  State.setDiverged { s with rate := servoRate s o } (decide (o < -10000000))

theorem hubOf_servoBase (s : State) (o : Int) :
    hubOf (servoBase s o) = { hubOf s with rate := servoRate s o, diverged := decide (o < -10000000) } :=
  hubOf_setDiverged _ _

theorem servoTo_eq (s : State) (o : Int) : s.servoTo o =
    if s.locked = true ∧ 1000000 < o then (servoBase s o).servoStep o.toNat
    else { servoBase s o with locked := decide (-1000 ≤ o ∧ o ≤ 1000) } := rfl

/-- The locked servo steps over more than 1 ms (R383). -/
theorem servoStep_ahead (s : State) (n : Nat) (hl : s.locked = true) (h : 1000000 < n) (hn : s.time.toNat + n < 2 ^ 64) :
    s.servoStep n = s.stepTime (s.time.toNat + n) := if_pos ⟨hl, h, hn⟩

/-- A step of the servo, taken or not, leaves the servo's own registers alone. -/
theorem servoStep_keeps (s : State) (n : Nat) : (s.servoStep n).diverged = s.diverged ∧ (s.servoStep n).rate = s.rate ∧
    (s.servoStep n).ppsPending = s.ppsPending := by
  unfold State.servoStep
  split
  · have h := hubOf_stepTime s (s.time.toNat + n)
    exact ⟨congrArg Hub.diverged h, congrArg Hub.rate h, congrArg Hub.ppsPending h⟩
  · exact ⟨rfl, rfl, rfl⟩

/-- What an offset leaves of DIVERGED and the rate, whether the count is stepped or not; the edge of STEPTO is not its concern. -/
theorem servoTo_keeps (s : State) (o : Int) : (s.servoTo o).diverged = decide (o < -10000000) ∧ (s.servoTo o).rate = servoRate s o ∧
    (s.servoTo o).ppsPending = s.ppsPending := by
  have hb := hubOf_servoBase s o
  have hd := congrArg Hub.diverged hb
  have hr := congrArg Hub.rate hb
  have hp := congrArg Hub.ppsPending hb
  rw [servoTo_eq]
  split
  · obtain ⟨kd, kr, kp⟩ := servoStep_keeps (servoBase s o) o.toNat
    exact ⟨kd.trans hd, kr.trans hr, kp.trans hp⟩
  · exact ⟨hd, hr, hp⟩

/-- A locked servo takes an offset of more than 1 ms in one step. -/
theorem servoTo_stepped (s : State) (o : Int) (hl : s.locked = true) (h : 1000000 < o) (hn : (s.time.toNat : Int) + o < 2 ^ 64) :
    Stepped s (s.servoTo o) (s.time.toNat + o.toNat) := by
  have hb := hubOf_servoBase s o
  have ht : (servoBase s o).time = s.time := congrArg Hub.time hb
  have hs : (servoBase s o).steps = s.steps := congrArg Hub.steps hb
  rw [servoTo_eq, if_pos ⟨hl, h⟩, servoStep_ahead _ _ ((congrArg Hub.locked hb).trans hl) (by omega) (by rw [ht]; omega), ht]
  have hst := stepTime_stepped (servoBase s o) (s.time.toNat + o.toNat)
  exact ⟨hst.1, hst.2.trans (by rw [hs])⟩

/-- An offset of at most 1 ms steps nothing, and decides LOCKED. -/
theorem servoTo_near (s : State) (o : Int) (h : o ≤ 1000000) :
    (s.servoTo o).time = s.time ∧ (s.servoTo o).locked = decide (-1000 ≤ o ∧ o ≤ 1000) := by
  rw [servoTo_eq, if_neg (by omega)]
  exact ⟨congrArg Hub.time (hubOf_servoBase s o), rfl⟩

theorem servoTo_steered (s : State) (o : Int) : Steered s (s.servoTo o) o := by
  obtain ⟨hd, hr, _⟩ := servoTo_keeps s o
  refine ⟨hd, ?_, fun h => ?_, servoTo_stepped s o, servoTo_near s o⟩
  · rw [hr]; exact servoRate_bounds s o
  · rw [hr]; exact servoRate_diverged s o h

/-! ### The edges of 1PPS (R384) -/

/-- An edge with nothing to take steers the count. -/
theorem ppsEdge_idle (s : State) (hs : s.src = 2) (hp : s.ppsPending = false) : s.ppsEdge = s.servoTo s.ppsOffset := by
  simp [State.ppsEdge, hs, hp]

/-- An edge takes the seconds that wait. -/
theorem ppsEdge_takes (s : State) (hs : s.src = 2) (hp : s.ppsPending = true) :
    s.ppsEdge = State.requestStep { s with ppsPending := false } (1000000000 * s.stepto.toNat) := by
  simp [State.ppsEdge, hs, hp, Nat.mul_comm]

/-- No edge leaves a request waiting. -/
theorem ppsEdge_pending (s : State) (hs : s.src = 2) : s.ppsEdge.ppsPending = false := by
  cases hp : s.ppsPending with
  | true => rw [ppsEdge_takes s hs hp]; exact (requestStep_keeps _ _).1
  | false => rw [ppsEdge_idle s hs hp]; exact (servoTo_keeps s _).2.2.trans hp

/-! ### Epochs (R389, R390) -/

/-- What no move of a block changes: the bytes of memory, and how many stacks have migration registers. -/
def moved (s : State) : SMap Byte × Nat := (s.mem, s.migration.length)

theorem moved_placeBlock (s : State) (b : Nat) (hbm : Bool) : moved (s.placeBlock b hbm) = moved s := by
  unfold State.placeBlock
  split <;> rfl

theorem moved_modMigration (s : State) (st : Nat) (f : Migration → Migration) : moved (s.modMigration st f) = moved s := by
  simp [moved, State.modMigration]

theorem moved_demote (s : State) (st b : Nat) : moved (s.demote st b) = moved s :=
  (moved_modMigration _ _ _).trans (moved_placeBlock s b false)

theorem moved_promote (s : State) (st b : Nat) : moved (s.promote st b) = moved s := by
  have up : ∀ t : State, moved ((t.placeBlock b true).modMigration st (fun m => { m with promoted := satInc m.promoted })) = moved t :=
    fun t => (moved_modMigration _ _ _).trans (moved_placeBlock t b true)
  unfold State.promote State.promoteKeeping
  split
  · rfl
  · dsimp only
    split
    · exact up s
    · split
      · exact (up _).trans (moved_demote s st _)
      · rfl

/-- The registers of a stack after a change to them. -/
theorem migrationOf_modMigration (s : State) (st : Nat) (f : Migration → Migration) (h : st < s.migration.length) :
    (s.modMigration st f).migrationOf st = f (s.migrationOf st) := by
  simp [State.migrationOf, State.modMigration, h]

/-- The end of an epoch that is due begins the next and changes no byte of memory. -/
theorem epochEnd_begins (s : State) (st : Nat) (hd : s.epochDue st = true) (hl : st < s.migration.length) :
    ((s.epochEnd st).migrationOf st).since = s.time.toNat ∧ (s.epochEnd st).mem = s.mem := by
  unfold State.epochEnd
  rw [if_pos hd]
  dsimp only
  generalize hs1 : List.foldl _ s (s.usedBlocks st) = s1
  have hm : moved s1 = moved s := by
    rw [← hs1]
    refine fold_keeps moved _ (fun t b => ?_) _ s
    split
    · rfl
    · split
      · split
        · exact moved_demote t st b
        · rfl
      · split
        · split
          · exact moved_promote t st b
          · rfl
        · split
          · exact moved_promote t st b
          · rfl
        · rfl
  obtain ⟨hmem, hlen⟩ := Prod.mk.inj hm
  refine ⟨?_, hmem⟩
  rw [migrationOf_modMigration]
  rw [hlen]
  exact hl

/-! ### The obligation -/

/-- Settles O46: each event of the hub's time base by the function that carries it out. -/
theorem timeEvents : Obligations.TimeEvents := by
  unfold Obligations.TimeEvents
  intro stepped steered
  refine ⟨?clock, ?servo, ?request, ?wait, ?edge, ?output, ?message, ?epoch⟩
  case clock =>
    intro u s h1 h2 h3
    have he : s.changeClock u.n = { s.traceAll 7 u.n with clock := u.n } := if_pos ⟨h1, h2, h3⟩
    have hh := hubOf_traceAll s 7 u.n
    exact ⟨_, rfl, he ▸ rfl, he ▸ congrArg Hub.time hh, he ▸ congrArg Hub.rate hh⟩
  case servo =>
    intro u s hl h hn
    exact ⟨_, rfl, servoStep_ahead s u.n hl h hn ▸ stepTime_stepped s _⟩
  case request =>
    intro u s hs hn
    have he := writeStepto_now s u.n hs hn
    refine ⟨fun h => ⟨_, rfl, ?_⟩, fun h => ⟨_, rfl, ?_⟩⟩
    · rw [he]
      exact ⟨requestStep_ahead { s with stepto := BitVec.ofNat 64 u.n } u.n h hn, (requestStep_keeps _ _).2⟩
    · rw [he]
      exact requestStep_error { s with stepto := BitVec.ofNat 64 u.n } u.n (.inl h)
  case wait =>
    intro u s hs
    have he : s.writeStepto (BitVec.ofNat 64 u.n) = { s with stepto := BitVec.ofNat 64 u.n, ppsPending := true } := if_pos hs
    exact ⟨_, rfl, he ▸ ⟨rfl, rfl, rfl⟩⟩
  case edge =>
    intro u s hs
    refine ⟨_, rfl, ppsEdge_pending s hs, fun hp h hn => ?_, fun hp h => ?_, fun hp => ?_⟩
    · rw [ppsEdge_takes s hs hp]
      exact requestStep_ahead { s with ppsPending := false } _ h hn
    · rw [ppsEdge_takes s hs hp]
      obtain ⟨he, ht, _⟩ := requestStep_error { s with ppsPending := false } _ h
      exact ⟨he, ht⟩
    · rw [ppsEdge_idle s hs hp]
      exact servoTo_steered s _
  case output =>
    intro u s h
    have he : s.ppsRise = { s with ppsEdges := s.time.toNat / 1000000000 } := if_pos (by simpa [State.ppsDue] using h)
    exact ⟨_, rfl, he ▸ ⟨rfl, rfl⟩⟩
  case message =>
    intro u s hs
    have he : s.servoMessage u.offset = s.servoTo u.offset := if_neg (by simp [hs])
    exact ⟨_, rfl, he ▸ servoTo_steered s u.offset⟩
  case epoch =>
    intro u s hd hl
    exact ⟨_, rfl, epochEnd_begins s u.n hd hl⟩

end Sys2Proof.Device
end

section
/-!
PROOF. Boot, the recovery mailbox and the library's size: what each of their events leaves of RSTATE, RERR and RCMD.
-/
namespace Sys2Proof.Device
open Sys2Proof Sys2Proof.Machine Sys2Proof.Laws

/-! ### The recovery mailbox -/

theorem rstate_of_hubOf {s : State} {h : Hub} (e : hubOf s = h) : s.rstate = h.rstate := e ▸ rfl
theorem rcmd_of_hubOf {s : State} {h : Hub} (e : hubOf s = h) : s.rcmd = h.rcmd := e ▸ rfl
theorem replies_of_hubOf {s : State} {h : Hub} (e : hubOf s = h) : s.replies = h.replies := e ▸ rfl

/-- RSTATE set, and no other register of the hub. -/
theorem hubOf_setRstate (s : State) (x : BootState) : hubOf (s.setRstate x) = { hubOf s with rstate := x } := by
  unfold State.setRstate
  dsimp only
  split <;> rfl

@[simp] theorem setRstate_rstate (s : State) (x : BootState) : (s.setRstate x).rstate = x := congrArg Hub.rstate (hubOf_setRstate s x)
@[simp] theorem setRstate_rcmd (s : State) (x : BootState) : (s.setRstate x).rcmd = s.rcmd := congrArg Hub.rcmd (hubOf_setRstate s x)
@[simp] theorem setRstate_rerr (s : State) (x : BootState) : (s.setRstate x).rerr = s.rerr := congrArg Hub.rerr (hubOf_setRstate s x)

theorem setRstate_contexts (s : State) (x : BootState) : (s.setRstate x).contexts = s.contexts := by
  unfold State.setRstate
  dsimp only
  split <;> rfl

/-- A verification that fails leaves RECOVERY with its code (R403). -/
theorem verifyFailed_code (s : State) (code : BitVec 8) :
    (s.verifyFailed code).rstate = .recovery ∧ (s.verifyFailed code).rerr = code :=
  ⟨setRstate_rstate _ _, setRstate_rerr _ _⟩

/-- The root context is LIVE once the module has entered service. -/
theorem startRoot_live (s : State) : (s.startRoot.context rootPart 0).state = .live := by
  unfold State.startRoot
  rw [context_modContext, if_pos ⟨rfl, rfl⟩]
  · exact fun _ => rfl
  · exact fun _ => rfl

/-- Work that is stopped and partitions that are torn down touch no register of the mailbox; RSTATE is set last (R403). -/
theorem hubOf_enterRecovery (s : State) : hubOf s.enterRecovery = { hubOf s with rcmd := 2, rstate := .recovery } := by
  have contexts : ∀ (l : List (Nat × Nat)) (t : State), hubOf (l.foldl (fun (s : State) k => s.dropContext k.1 k.2) t) = hubOf t := by
    refine fold_keeps hubOf _ (fun t k => ?_)
    exact hubOf_dropContext t k.1 k.2
  have partitions : ∀ (l : List Nat) (t : State), hubOf (l.foldl (fun (s : State) p => s.teardownPart p) t) = hubOf t := by
    refine fold_keeps hubOf _ (fun t p => ?_)
    exact hubOf_teardownPart t p
  unfold State.enterRecovery
  dsimp only
  rw [hubOf_setRstate, partitions, contexts]
  rfl

/-! ### The outcomes of power-on and of a verification -/

/-- A measurement sends the host nothing. -/
@[simp] theorem measure_replies (s : State) (i : Nat) (bs : List Byte) : (s.measure i bs).replies = s.replies := rfl

/-- What power-on leaves (R402). -/
def PoweredOn (s t : State) : Prop :=
  if imageOk (s.flash.getD Config.factoryImage) = false then t.rstate = .recovery
  else if Config.selfTestPasses = false then t.inService = false ∧ t.replies = s.replies ++ [.selfTestFailed Config.selfTestRecord]
  else t.rstate = .running ∧ (t.context rootPart 0).state = .live

theorem powerOn_poweredOn (s : State) (hb : s.rstate = .booting) (hi : s.inService = true) : PoweredOn s s.powerOn := by
  unfold State.powerOn
  rw [if_neg (by simp [hb, hi])]
  unfold PoweredOn
  dsimp only
  split
  · exact setRstate_rstate _ _
  · split
    · exact ⟨rfl, by simp only [measure_replies]⟩
    · refine ⟨setRstate_rstate _ _, ?_⟩
      simp only [State.context, setRstate_contexts]
      exact startRoot_live _

/-- What a verification leaves (R403). -/
def Verified (s t : State) : Prop :=
  let img := SMap.read s.window 0 s.rlen.toNat 0
  if s.rlen.toNat < 384 ∨ 0xFF000 < s.rlen.toNat then t.rstate = .recovery ∧ t.rerr = 2
  else if imageOk img = false then t.rstate = .recovery ∧ t.rerr = 1
  else if Config.flashWrites s.draws = false then t.rstate = .recovery ∧ t.rerr = 3
  else t.rstate = .booting ∧ t.flash = some img ∧ t.clock = 1400 ∧ t.mem = []

theorem imageVerified_verified (s : State) (hv : s.rstate = .verifying) : Verified s s.imageVerified := by
  unfold State.imageVerified
  rw [if_neg (by simp [hv])]
  unfold Verified
  dsimp only
  split
  · exact verifyFailed_code s 2
  · split
    · exact verifyFailed_code s 1
    · split
      · exact verifyFailed_code s 3
      · exact ⟨rfl, rfl, rfl, rfl⟩

/-! ### The obligation -/

/-- Settles O47: each event of boot and recovery by the function that carries it out. -/
theorem bootEvents : Obligations.BootEvents := by
  unfold Obligations.BootEvents
  refine ⟨?power, ?install, ?verify, ?enter, ?library⟩
  case power => exact fun u s hb hi => ⟨_, rfl, powerOn_poweredOn s hb hi⟩
  case install =>
    refine fun u s => ⟨fun h => ⟨_, rfl, ?_⟩, fun h => ⟨_, rfl, ?_⟩⟩
    · have he : s.install = State.setRstate { s with rcmd := 1 } .verifying := if_pos h
      exact he ▸ ⟨setRstate_rstate _ _, setRstate_rcmd _ _⟩
    · exact if_neg h
  case verify => exact fun u s hv => ⟨_, rfl, imageVerified_verified s hv⟩
  case enter =>
    intro u s
    have h := hubOf_enterRecovery s
    exact ⟨_, rfl, rstate_of_hubOf h, rcmd_of_hubOf h⟩
  case library =>
    refine fun u s => ⟨fun h => ?_, fun h => ?_⟩
    · have hn : BitVec.ofNat 64 (u.n % 2 ^ 64) = BitVec.ofNat 64 u.n := BitVec.eq_of_toNat_eq (by simp)
      exact congrArg Host.Outcome.next ((if_neg (by simp [h])).trans (by rw [hn]))
    · exact congrArg Host.Outcome.next (if_pos h)

end Sys2Proof.Device
end

section
/-!
PROOF. What a read from outside the module finds (R281, R399, R400): where no overwritten store is kept, the newest bytes. And
what translation gives of a page run: its physical addresses follow one another.
-/
namespace Sys2Proof.Device
open Sys2Proof Sys2Proof.Machine Sys2Proof.Laws

/-! ### Runs of addresses on one page -/

/-- A run of addresses whose physical addresses follow one another. -/
def Straight (q : Nat × Nat × Page) : Prop := ∀ i < q.2.1, q.2.2.phys (q.1 + i) = q.2.2.phys q.1 + i

/-- So does a run that stands on its page and does not pass the end of the address space. -/
theorem straight_of_base {q : Nat × Nat × Page} (hb : q.2.2.base ≤ q.1 % 2 ^ 52) (hk : q.1 % 2 ^ 14 + q.2.1 ≤ 2 ^ 14) : Straight q := by
  intro i hi
  unfold Page.phys
  have hm : (q.1 + i) % 2 ^ 52 = q.1 % 2 ^ 52 + i := by omega
  omega

/-- An outcome of a translation that is a fault, or a page that holds the address. -/
def Xlat.Holds (va : Nat) (x : Xlat) : Prop := ∀ g, x = .page g → g.base ≤ va

theorem holds_fault (va k : Nat) : Xlat.Holds va (.fault k) := fun _ h => nomatch h

theorem holds_page {va : Nat} {g : Page} (h : g.base ≤ va) : Xlat.Holds va (.page g) := fun _ e => Xlat.page.inj e ▸ h

theorem holds_ite {va : Nat} {c : Prop} [Decidable c] {x y : Xlat} (hx : Xlat.Holds va x) (hy : Xlat.Holds va y) :
    Xlat.Holds va (if c then x else y) := by
  split
  · exact hx
  · exact hy

/-- A walk ends in a fault or in a page that holds the address: a leaf's page is the aligned one around it (R358). -/
theorem walk_holds (s : State) (die p va level table : Nat) : Xlat.Holds va (s.walk die p va level table) := by
  have leaf : ∀ {g : Page} {n : Nat}, g.base = va / n * n → Xlat.Holds va (.page g) :=
    fun h => holds_page (h ▸ Nat.div_mul_le_self va _)
  induction level generalizing table
  all_goals
    unfold State.walk
    refine holds_ite (holds_fault _ _) (holds_ite (holds_fault _ _) (holds_ite (holds_fault _ _) (holds_ite ?_
      (holds_ite (holds_fault _ _) ?_))))
    · exact holds_ite (holds_fault _ _) (holds_ite (holds_ite (holds_fault _ _) (holds_ite (holds_ite (holds_fault _ _)
        (holds_ite (leaf rfl) (holds_fault _ _))) (leaf rfl))) (holds_ite (holds_fault _ _) (leaf rfl)))
  next => exact holds_fault _ _
  next l ih => exact ih _

/-- A TLB entry that hits holds the address. -/
theorem tlbHit_base {s : State} {place p c va : Nat} {t : TlbEntry} (h : s.tlbHit place p c va = some t) : t.page.base ≤ va := by
  have hp := List.find?_some h
  simp only [Bool.and_eq_true, decide_eq_true_eq] at hp
  exact hp.2.1

/-- So does every page that a translation gives: an entry of a TLB, or the end of a walk (R360). -/
theorem lookup_holds (s : State) (p c core va kind : Nat) : Xlat.Holds va (s.lookup p c core va kind).2 := by
  have hit : ∀ {place : Nat} {t : TlbEntry}, (s.tlbHit place p c va).filter (fun t => t.page.permits kind) = some t →
      Xlat.Holds va (.page t.page) := fun h => holds_page (tlbHit_base (Option.filter_eq_some_iff.mp h).1)
  unfold State.lookup
  split
  next he => exact hit he
  next =>
    split
    next he => exact hit he
    next =>
      have hw := walk_holds s (Agent.unit core).reader p va 3 (s.context p c).ptroot.toNat
      unfold State.pageWalk
      split
      next he =>
        split
        · exact he ▸ hw
        · exact holds_fault _ _
      next => exact holds_fault _ _

/-- The page of a peer's memory stands around the address too (R400). -/
theorem translate_holds (s : State) (p c core a kind : Nat) : Xlat.Holds (a % 2 ^ 52) (s.translate p c core a kind).2 := by
  unfold State.translate
  dsimp only
  split
  · exact holds_ite (holds_page (Nat.div_mul_le_self _ _)) (holds_fault _ _)
  · exact lookup_holds _ _ _ _ _ _

/-- The runs of a translation are those asked for, each on a page that holds its first address. -/
theorem translateRuns_mem (s : State) (p c core kind : Nat) (rs : List (Nat × Nat)) :
    ∀ q ∈ (s.translateRuns p c core kind rs).2.1, (q.1, q.2.1) ∈ rs ∧ q.2.2.base ≤ q.1 % 2 ^ 52 := by
  induction rs generalizing s with
  | nil => exact fun q h => absurd h List.not_mem_nil
  | cons r rs ih =>
    obtain ⟨a, n⟩ := r
    have ht := translate_holds s p c core a kind
    unfold State.translateRuns
    split
    next => exact fun q h => absurd h List.not_mem_nil
    next he =>
      intro q hq
      rcases List.mem_cons.mp hq with rfl | hq
      · exact ⟨List.mem_cons_self, ht _ (congrArg Prod.snd he)⟩
      · obtain ⟨hm, hb⟩ := ih _ q hq
        exact ⟨List.mem_cons_of_mem _ hm, hb⟩

/-- A piece of a range lies on one 16 KiB page. -/
theorem pageRuns_onePage (a n f : Nat) : ∀ r ∈ pageRuns a n f, r.1 % 2 ^ 14 + r.2 ≤ 2 ^ 14 := by
  induction f generalizing a n with
  | zero => exact fun r h => absurd h List.not_mem_nil
  | succ f ih =>
    intro r hr
    unfold pageRuns at hr
    split at hr
    · exact absurd hr List.not_mem_nil
    · rcases List.mem_cons.mp hr with rfl | hr
      · dsimp only
        omega
      · exact ih _ _ r hr

/-- The translated pieces of a range are straight. -/
theorem translateRuns_straight {s s1 : State} {p c core kind a n f : Nat} {runs : List (Nat × Nat × Page)}
    {o : Option (Nat × Nat)} (h : s.translateRuns p c core kind (pageRuns a n f) = (s1, runs, o)) : ∀ q ∈ runs, Straight q := by
  intro q hq
  have hm := translateRuns_mem s p c core kind (pageRuns a n f) q (by rw [h]; exact hq)
  exact straight_of_base hm.2 (pageRuns_onePage a n f _ hm.1)

/-! ### Reads where no overwritten store is kept -/

/-- A location with no older store has one thing to find (R281). -/
theorem seePlace_settled (s : State) (a ver e bound : Nat) (view : View) (key : Nat)
    (h : (s.stores.get (locKey 0 (a / 8)) Versions.none).older = []) :
    (s.seePlace a ver e bound view key).1 = (s.readPhys (8 * (a / 8)) 8 ver).1 := by
  unfold State.seePlace
  dsimp only
  split
  · rfl
  · simp [Versions.pick, Versions.permitted, h]

/-- A byte of the location that holds it. -/
theorem readPhys_location (s : State) (a ver : Nat) : ((s.readPhys (8 * (a / 8)) 8 ver).1[a % 8]?).getD 0 = s.physByte a ver := by
  simp [State.readPhys, Nat.mod_lt, Nat.div_add_mod]

theorem readPageAs_settled (s : State) (who : Agent) (q : Nat × Nat × Page) (view : View) (key : Nat)
    (hs : Settled s q.2.2 q.1 q.2.1) (hq : Straight q) :
    (s.readPageAs who q.2.2 q.1 q.2.1 view key).1 = (s.readPage q.2.2 q.1 q.2.1).1 := by
  unfold State.readPageAs State.readPage
  split
  · rfl
  · refine List.ext_getElem (by simp [State.sights, State.readPhys]) (fun i h1 h2 => ?_)
    have hi : i < q.2.1 := by simpa [State.readPhys] using h2
    simp only [State.sights, List.getElem_map, List.getElem_zipIdx, List.getElem_range, Nat.zero_add]
    rw [seePlace_settled _ _ _ _ _ _ _ (hs i hi), readPhys_location, hq i hi]
    simp [State.readPhys]

/-- The poison of a read is that of its bytes, whichever store is found. -/
theorem readPageAs_poison (s : State) (who : Agent) (g : Page) (va n : Nat) (view : View) (key : Nat) :
    (s.readPageAs who g va n view key).2 = (s.readPage g va n).2 := by
  unfold State.readPageAs
  split <;> rfl

/-- Straight runs without overwritten stores are read from outside as they stand in memory. -/
theorem readOutside_bytes (s : State) (who : Agent) (runs : List (Nat × Nat × Page))
    (hs : ∀ q ∈ runs, Settled s q.2.2 q.1 q.2.1) (hq : ∀ q ∈ runs, Straight q) :
    (s.readOutside who runs).2.1 = runs.flatMap (fun q => (s.readPage q.2.2 q.1 q.2.1).1) := by
  refine congrArg List.flatten (List.map_congr_left (fun q hm => ?_))
  dsimp only
  split
  · rfl
  · exact readPageAs_settled s who q _ _ (hs q hm) (hq q hm)

theorem readOutside_poison (s : State) (who : Agent) (runs : List (Nat × Nat × Page)) :
    (s.readOutside who runs).2.2 = runs.any (fun q => (s.readPage q.2.2 q.1 q.2.1).2) := by
  refine List.any_congr rfl (fun q => ?_)
  dsimp only
  split
  · rfl
  · exact readPageAs_poison _ _ _ _ _ _ _

end Sys2Proof.Device
end

section
/-!
PROOF. The apertures, the register writes, the peers and the links (R18, R397 to R401).
-/
namespace Sys2Proof.Device
open Sys2Proof Sys2Proof.Machine Sys2Proof.Laws

/-! ### The PF aperture (R399) -/

/-- Addressable memory ends below 2^41 (R359). -/
theorem addressable_lt (s : State) (a : Nat) (h : s.addressable a = true) : a < 2 ^ 41 := by
  refine Nat.lt_of_not_le (fun hn => ?_)
  have hr : regionOf a = .nothing := by
    unfold regionOf
    rw [if_neg (by omega), if_neg (by omega)]
  simp [State.addressable, hr] at h

@[simp] theorem physPage_phys (a : Nat) : physPage.phys a = a % 2 ^ 52 := by simp [Page.phys, physPage]
@[simp] theorem physPage_host : physPage.host = false := rfl
@[simp] theorem physPage_ver : physPage.ver.toNat = 0 := rfl

/-- So an address of it is its own physical address under the aperture's page. -/
theorem mod_of_addressable (s : State) (a : Nat) (h : s.addressable a = true) : a % 2 ^ 52 = a := by
  have hl := addressable_lt s a h
  exact Nat.mod_eq_of_lt (by omega)

theorem first_addressable (s : State) (a n : Nat) (h : ∀ i < n, s.addressable (a + i) = true) (hn : 0 < n) : a % 2 ^ 52 = a :=
  mod_of_addressable s a (by simpa using h 0 hn)

theorem physPage_straight (s : State) (a n : Nat) (h : ∀ i < n, s.addressable (a + i) = true) : Straight (a, n, physPage) := by
  intro i hi
  have h0 := first_addressable s a n h (Nat.zero_lt_of_lt hi)
  have h1 := mod_of_addressable s _ (h i hi)
  simp only [physPage_phys]
  omega

theorem readPage_physPage (s : State) (a n : Nat) (h : ∀ i < n, s.addressable (a + i) = true) :
    (s.readPage physPage a n).1 = (s.readPhys a n 0).1 := by
  simp only [State.readPage, physPage_host, Bool.false_eq_true, if_false, physPage_phys, physPage_ver]
  rcases Nat.eq_zero_or_pos n with rfl | hn
  · simp [State.readPhys]
  · rw [first_addressable s a n h hn]

/-- Memory that a write from outside leaves: its stores are marked, its bytes are those of the runs. -/
theorem writeOutside_physByte (s : State) (who : Agent) (rel : View) (a n : Nat) (data : List Byte) (g : Page) (b v : Nat) :
    (s.writeOutside who rel a data [(a, n, g)]).1.physByte b v =
      (s.writeCells (cellsAt (g.phys a) ((data.drop (a - a)).take n)) g.ver.toNat).1.physByte b v := rfl

theorem cellsAt_physPage (s : State) (a : Nat) (data : List Byte) (h : ∀ i < data.length, s.addressable (a + i) = true) :
    cellsAt (physPage.phys a) ((data.drop (a - a)).take data.length) = cellsAt a data := by
  rw [Nat.sub_self, List.drop_zero, List.take_length]
  cases data with
  | nil => rfl
  | cons x r => rw [physPage_phys, first_addressable s a _ h (Nat.succ_pos _)]

/-- An access within addressable memory passes the aperture's checks. -/
theorem pfAperture_within (s : State) (u : EvAper) (n : Nat) (hn : n = if u.write then u.data.length else u.len)
    (hf : u.off + n ≤ 2 ^ 36) (ha : ∀ i < n, s.addressable (s.papbase.toNat + u.off + i) = true) :
    s.pfAperture u =
      if u.write then (s.writeOutside (Agent.host 0) (s.hostWrote 0) (s.papbase.toNat + u.off) u.data
        [(s.papbase.toNat + u.off, n, physPage)]).1
      else
        let r := s.readOutside (Agent.host 0) [(s.papbase.toNat + u.off, n, physPage)]
        r.1.reply (.data r.2.1) := by
  subst hn
  refine if_neg (fun h => ?_)
  rcases h with h | h
  · omega
  · have hall := List.all_eq_true.mpr (fun i hi => ha i (List.mem_range.mp hi))
    exact Bool.noConfusion (h.symm.trans hall)

/-! ### The VF aperture (R399) -/

/-- An access through a bound function whose pages are translated and are the module's own. -/
theorem vfAperture_within (s s1 : State) (u : EvAper) (p n : Nat) (runs : List (Nat × Nat × Page))
    (hn : n = if u.write then u.data.length else u.len)
    (hp : s.partOfVf (u.fn - 1) = some p) (he : ((s.apctl[u.fn - 1]?).getD 0).getLsbD 31 = true)
    (hl : (s.context p (((s.apctl[u.fn - 1]?).getD 0).toNat % 1024)).state = .live) (hf : u.off + n ≤ 2 ^ 34)
    (ht : s.translateRuns p (((s.apctl[u.fn - 1]?).getD 0).toNat % 1024) hubCore (if u.write then 1 else 0)
      (pageRuns (((s.apva[u.fn - 1]?).getD 0).toNat + u.off) n (n / 2 ^ 14 + 2)) = (s1, runs, none))
    (hh : ∀ q ∈ runs, q.2.2.host = false) :
    s.vfAperture u =
      if u.write then (s1.meetRuns runs).apertureWrite (Agent.host u.fn) ((s1.meetRuns runs).hostWrote u.fn) p
        (((s.apctl[u.fn - 1]?).getD 0).toNat % 1024) (((s.apva[u.fn - 1]?).getD 0).toNat + u.off) u.data runs
      else
        let r := (s1.meetRuns runs).readOutside (Agent.host u.fn) runs
        r.1.reply (.data r.2.1) := by
  subst hn
  have hfind : runs.find? (fun q => q.2.2.host) = none := List.find?_eq_none.mpr (fun q hq => by simp [hh q hq])
  unfold State.vfAperture
  dsimp only
  rw [hp]
  dsimp only
  rw [if_neg ?checks]
  case checks =>
    rintro (h | h | h)
    · exact Bool.noConfusion (h.symm.trans he)
    · exact h hl
    · exact absurd hf (Nat.not_le.mpr h)
  unfold State.apertureAccess
  rw [ht]
  dsimp only
  rw [hfind]

/-! ### Register writes (R18, R397) -/

/-- A write of neither 4 nor 8 bytes, or one that is not aligned, is an unsupported request. -/
theorem registerWrite_misaligned (s : State) (u : EvReg) (h : (u.size ≠ 4 ∧ u.size ≠ 8) ∨ u.off % u.size ≠ 0) :
    s.registerWrite u = s.reply .unsupportedRequest := if_pos h

/-- An aligned write of 4 bytes is one word, or an unsupported request. -/
theorem registerWrite_word (s : State) (u : EvReg) (hs : u.size = 4) (ho : u.off % 4 = 0) :
    s.registerWrite u = (s.writeWord u.fn u.bar u.off (BitVec.ofNat 32 u.value)).getD (s.reply .unsupportedRequest) := by
  have hw : wordsOfWrite u.off u.size u.value = [(u.off, BitVec.ofNat 32 u.value)] := by simp [wordsOfWrite, hs]
  unfold State.registerWrite
  rw [hw]
  simp only [hs, ho, ne_eq, not_true, false_and, or_self, if_false, Nat.reduceEqDiff, and_false, List.foldl_cons, List.foldl_nil,
    Option.bind_some]
  cases s.writeWord u.fn u.bar u.off (BitVec.ofNat 32 u.value) <;> rfl

theorem writeWord_rlen (s : State) (v : Word) : s.writeWord 0 0 0x300008 v = some { s with rlen := v } := by
  simp [State.writeWord, State.writePfWord]

theorem writeWord_src (s : State) (v : Word) : s.writeWord 0 0 0x200008 v = some { s with src := v.setWidth 2 } := by
  simp [State.writeWord, State.writePfWord]

theorem writeWord_trhead (s : State) (fn p c : Nat) (v : Word) (hf : fn ≠ 0) (hp : s.partOfVf (fn - 1) = some p) (hc : c < 1024) :
    s.writeWord fn 0 (c * 2 ^ 14 + 0x70) v = some (s.modContext p c (fun x => { x with trhead := v })) := by
  have hd : (c * 2 ^ 14 + 0x70) / 2 ^ 14 = c := by omega
  have hm : (c * 2 ^ 14 + 0x70) % 2 ^ 14 = 0x70 := by omega
  unfold State.writeWord
  rw [if_neg (by decide), if_neg hf, if_pos ⟨rfl, by omega⟩, hp, hd, hm]
  rfl

theorem context_trhead (s : State) (p c : Nat) (v : Word) :
    ((s.modContext p c (fun x => { x with trhead := v })).context p c).trhead = v := by
  rw [context_modContext s p c p c (fun x => { x with trhead := v }) (fun _ => rfl) (fun _ => rfl), if_pos ⟨rfl, rfl⟩]

/-- Through a function that no partition is bound to no register can be written. -/
theorem writeWord_unbound (s : State) (fn bar off : Nat) (v : Word) (hf : fn ≠ 0) (hb : bar ≠ 7) (hp : s.partOfVf (fn - 1) = none) :
    s.writeWord fn bar off v = none := by
  unfold State.writeWord
  rw [if_neg hb, if_neg hf, hp]
  simp

/-! ### Peers (R400) -/

/-- What an accepted access does once its pages are translated, with their accesses counted in `s`. -/
def peerServed (s : State) (u : EvPeer) (runs : List (Nat × Nat × Page)) : State :=
  if u.kind = 0 then
    let r := s.readOutside (Agent.peer u.dev) runs
    r.1.reply (.peer r.2.1 r.2.2)
  else if u.kind = 1 then
    (s.apertureWrite (Agent.peer u.dev) [] u.part u.ctx (u.va % 2 ^ 52) u.data (runs.filter (fun q => ! q.2.2.host))).reply (.peer [] false)
  else
    match runs with
    | q :: _ => s.peerAtomic u q.2.2 (u.kind - 2)
    | [] => s.reply .peerRefused

theorem peerServed_load (s : State) (u : EvPeer) (runs : List (Nat × Nat × Page)) (hk : u.kind = 0) :
    peerServed s u runs =
      let r := s.readOutside (Agent.peer u.dev) runs
      r.1.reply (.peer r.2.1 r.2.2) := if_pos hk

theorem peerServed_store (s : State) (u : EvPeer) (runs : List (Nat × Nat × Page)) (hk : u.kind = 1) :
    peerServed s u runs =
      (s.apertureWrite (Agent.peer u.dev) [] u.part u.ctx (u.va % 2 ^ 52) u.data (runs.filter (fun q => ! q.2.2.host))).reply
        (.peer [] false) := by
  unfold peerServed
  rw [if_neg (hk ▸ by decide), if_pos hk]

theorem peerServed_atomic (s : State) (u : EvPeer) (q : Nat × Nat × Page) (r : List (Nat × Nat × Page)) (hk : 2 ≤ u.kind) :
    peerServed s u (q :: r) = s.peerAtomic u q.2.2 (u.kind - 2) := by
  have h0 : u.kind ≠ 0 := by omega
  have h1 : u.kind ≠ 1 := by omega
  unfold peerServed
  rw [if_neg h0, if_neg h1]

/-- An access that the peer map accepts, of a LIVE context, whose pages are translated. -/
theorem peerAccess_accepted (s s1 : State) (u : EvPeer) (runs : List (Nat × Nat × Page)) (ha : s.acceptsPeer u = true)
    (hl : (s.context u.part u.ctx).state = .live)
    (ht : let n := if u.kind = 1 then u.data.length else u.len
      s.translateRuns u.part u.ctx hubCore (min u.kind 2) (pageRuns (u.va % 2 ^ 52) n (n / 2 ^ 14 + 2)) = (s1, runs, none)) :
    s.peerAccess u = peerServed (s1.touchPeer runs) u runs := by
  unfold State.peerAccess
  rw [if_neg (by simp [ha, hl])]
  dsimp only at ht ⊢
  rw [ht]
  rfl

/-- Any other access is refused. -/
theorem peerAccess_refused (s : State) (u : EvPeer) (h : s.acceptsPeer u = false ∨ (s.context u.part u.ctx).state ≠ .live) :
    s.peerAccess u = s.reply .peerRefused := if_pos h

/-- What a peer's atomic leaves of memory (R192). -/
def peerWrites (s : State) (u : EvPeer) (g : Page) : State :=
  let old := (s.readPage g u.va u.len).1
  let new := natOfBytes (if u.kind = 11 then u.data.drop u.len else u.data.take u.len)
  let wants := if u.kind = 11 then natOfBytes (u.data.take u.len) else 0
  s.writePage g u.va (bytesOf (atomicNew (u.kind - 2) (8 * u.len) (natOfBytes old) new wants) u.len)

/-- A peer's atomic on bytes that are not poisoned gives the old value, and memory is as its store leaves it. -/
theorem peerAtomic_clean (s : State) (u : EvPeer) (g : Page) (hk : 2 ≤ u.kind) (hp : (s.readPage g u.va u.len).2 = false) :
    (s.peerAtomic u g (u.kind - 2)).replies = s.replies ++ [.peer (s.readPage g u.va u.len).1 false] ∧
    ∀ b v, (s.peerAtomic u g (u.kind - 2)).physByte b v = (peerWrites s u g).physByte b v := by
  have hcas : (u.kind - 2 = 9) = (u.kind = 11) := propext (by omega)
  unfold State.peerAtomic peerWrites
  simp only [hp, Bool.false_eq_true, if_false, hcas]
  by_cases hh : g.host = true
  · simp only [hh, if_true, State.writePage]
    exact ⟨rfl, fun _ _ => rfl⟩
  · simp only [hh]
    refine ⟨?_, fun _ _ => rfl⟩
    exact congrArg (· ++ _) (replies_of_hubOf (hubOf_writePage s g _ _))

/-! ### Links (R401) -/

/-- A result as a link that goes down leaves it. -/
def hurtBy (s : State) (n p : Nat) (r : Pending) : Pending := if s.onLink p n r then { r with poison := true } else r

/-- The workgroup that a number names, where every workgroup is changed under its own number. -/
theorem find_wid_map (ws : List Workgroup) (f : Workgroup → Workgroup) (hf : ∀ w, (f w).wid = w.wid) (wid : Nat) :
    (ws.map f).find? (fun w => w.wid == wid) = (ws.find? (fun w => w.wid == wid)).map f := by
  have he : (fun w : Workgroup => w.wid == wid) ∘ f = fun w => w.wid == wid := funext (fun w => congrArg (· == wid) (hf w))
  rw [List.find?_map, he]

/-- A workgroup whose threads have lost what was in flight on the link. -/
def hurtWg (s : State) (n : Nat) (w : Workgroup) : Workgroup :=
  { w with groups := w.groups.map (fun g => { g with
      gPending := g.gPending.map (hurtBy s n w.part)
      threads := g.threads.map (fun x => { x with pending := x.pending.map (hurtBy s n w.part) }) }) }

theorem poisonLink_wgs (s : State) (n : Nat) : (s.poisonLink n).wgs = s.wgs.map (hurtWg s n) := rfl

/-- The threads of a link's users, with the results in flight on it poisoned. -/
theorem poisonLink_thread (s : State) (n gi ti : Nat) (w : Workgroup) (hw : s.wg? w.wid = some w) :
    (s.poisonLink n).thread? w.wid gi ti =
      (s.thread? w.wid gi ti).map (fun x => { x with pending := x.pending.map (hurtBy s n w.part) }) := by
  simp only [State.thread?, State.group?, State.wg?, poisonLink_wgs] at hw ⊢
  rw [find_wid_map _ (hurtWg s n) (fun _ => rfl), hw]
  simp only [hurtWg, Option.map_some, Option.bind_some, List.getElem?_map, Option.bind_map]
  cases w.groups[gi]? with
  | none => rfl
  | some g => simp

theorem loseStores_wgs (s : State) (n : Nat) : (s.loseStores n).wgs = s.wgs :=
  fold_keeps State.wgs _ (fun t _ => (logRecord_apart t _ _ _ _ _ _ _ _).wgs) _ _

/-- The result of a thread at a place, as the link leaves it. -/
theorem linkDown_pending (s : State) (n gi ti i : Nat) (w : Workgroup) (x : Thread) (r : Pending) (hw : s.wg? w.wid = some w)
    (hx : s.thread? w.wid gi ti = some x) (hr : x.pending[i]? = some r) :
    ∃ y, ((s.poisonLink n).loseStores n).thread? w.wid gi ti = some y ∧ y.pending[i]? = some (hurtBy s n w.part r) := by
  refine ⟨{ x with pending := x.pending.map (hurtBy s n w.part) }, ?_, by simp [hr]⟩
  have hsame : ((s.poisonLink n).loseStores n).thread? w.wid gi ti = (s.poisonLink n).thread? w.wid gi ti := by
    simp only [State.thread?, State.group?, State.wg?, loseStores_wgs]
  rw [hsame, poisonLink_thread s n gi ti w hw, hx]
  rfl

/-- A result in flight whose traffic the link alone bears is poisoned. -/
theorem hurtBy_sole (s : State) (n p : Nat) (r : Pending) (hn : n < 12) (hf : r.returned = false) (hd : bitsOf r.addr 57 52 ≠ 0)
    (hl : (s.peerEntry p (bitsOf r.addr 57 52)).setWidth 12 &&& s.linkup = 1#12 <<< n) :
    hurtBy s n p r = { r with poison := true } := by
  refine if_pos ?_
  have hbit : (1#12 <<< n).getLsbD n = true := by simp [hn]
  simp [State.onLink, State.linkBears, hl, hf, hd, hbit]

/-- One that has returned, or whose traffic the link does not bear, stays as it is. -/
theorem hurtBy_other (s : State) (n p : Nat) (r : Pending) (h : r.returned = true ∨ bitsOf r.addr 57 52 = 0 ∨
    ((s.peerEntry p (bitsOf r.addr 57 52)).setWidth 12 &&& s.linkup).getLsbD n = false) : hurtBy s n p r = r := by
  refine if_neg ?_
  rcases h with h | h | h <;> simp [State.onLink, State.linkBears, h]

/-- Where no store in flight is on the link, none is lost. -/
theorem loseStores_none (s : State) (n : Nat) (h : ∀ x ∈ s.sent, bitsOf x.addr 57 52 = 0 ∨
    ((s.peerEntry x.part (bitsOf x.addr 57 52)).setWidth 12 &&& s.linkup).getLsbD n = false) : s.loseStores n = s := by
  have hb : ∀ q ∈ s.sent.zipIdx, ∀ key, s.linkBears q.1.part n q.1.addr key = false := by
    intro q hq key
    rcases h q.1 (List.fst_mem_of_mem_zipIdx hq) with h | h <;> simp [State.linkBears, h]
  have hlost : s.sent.zipIdx.filter (fun q => s.linkBears q.1.part n q.1.addr (320000 + q.2) &&
      Config.choose s.draws (330000 + q.2) % 2 == 0) = [] :=
    List.filter_eq_nil_iff.mpr (fun q hq => by simp [hb q hq])
  have hkept : s.sent.zipIdx.filter (fun q => ! ([] : List (SentStore × Nat)).contains q) = s.sent.zipIdx :=
    List.filter_eq_self.mpr (fun _ _ => rfl)
  unfold State.loseStores
  dsimp only
  rw [hlost, hkept, List.zipIdx_map_fst]
  rfl

/-! ### O51 -/

/-- A write through the PF aperture leaves the bytes of memory as a physical write of the data does. -/
theorem writeOutside_physPage (s : State) (who : Agent) (rel : View) (a : Nat) (data : List Byte)
    (h : ∀ i < data.length, s.addressable (a + i) = true) (b : Nat) :
    (s.writeOutside who rel a data [(a, data.length, physPage)]).1.physByte b 0 = (s.writePhys a data 0).physByte b 0 := by
  rw [writeOutside_physByte, cellsAt_physPage s a data h]
  rfl

/-- A read of settled bytes through the PF aperture gives those of memory. -/
theorem readOutside_physPage (s : State) (who : Agent) (a n : Nat) (h : ∀ i < n, s.addressable (a + i) = true)
    (hs : Settled s physPage a n) : (s.readOutside who [(a, n, physPage)]).2.1 = (s.readPhys a n 0).1 := by
  rw [readOutside_bytes s who _ (by simpa using hs) (by simpa using physPage_straight s a n h), List.flatMap_singleton]
  exact readPage_physPage s a n h

/-- Settled runs of module memory are read from outside as they stand there. -/
theorem readOutside_module (s : State) (who : Agent) (runs : List (Nat × Nat × Page)) (hh : ∀ q ∈ runs, q.2.2.host = false)
    (hs : ∀ q ∈ runs, Settled s q.2.2 q.1 q.2.1) (hq : ∀ q ∈ runs, Straight q) :
    (s.readOutside who runs).2.1 = runs.flatMap (fun q => (s.readPhys (q.2.2.phys q.1) q.2.1 q.2.2.ver.toNat).1) := by
  rw [readOutside_bytes s who runs hs hq]
  exact congrArg List.flatten (List.map_congr_left (fun q hm => by simp [State.readPage, hh q hm]))

/-- A write of 4 bytes that the register's word takes. -/
theorem registerWrite_taken (s t : State) (u : EvReg) (hs : u.size = 4) (ho : u.off % 4 = 0)
    (hw : s.writeWord u.fn u.bar u.off (BitVec.ofNat 32 u.value) = some t) : s.registerWrite u = t := by
  rw [registerWrite_word s u hs ho, hw]
  rfl

/-- An offset that is not a multiple of 4 is none of 8 either. -/
theorem registerWrite_offFour (s : State) (u : EvReg) (h : u.off % 4 ≠ 0) : s.registerWrite u = s.reply .unsupportedRequest := by
  refine registerWrite_misaligned s u ?_
  by_cases h4 : u.size = 4
  · exact .inr (h4 ▸ h)
  · by_cases h8 : u.size = 8
    · rw [h8]
      omega
    · exact .inl ⟨h4, h8⟩

theorem registerWrite_unbound (s : State) (u : EvReg) (hs : u.size = 4) (hf : u.fn ≠ 0) (hb : u.bar ≠ 7)
    (hp : s.partOfVf (u.fn - 1) = none) : s.registerWrite u = s.reply .unsupportedRequest := by
  by_cases ho : u.off % 4 = 0
  · rw [registerWrite_word s u hs ho, writeWord_unbound s _ _ _ _ hf hb hp]
    rfl
  · exact registerWrite_offFour s u ho

/-- Settles O51: each access passes the checks that its hypotheses meet, so it is one read or write from outside; a read of settled
bytes finds those of memory; what a link poisons or loses is decided result by result and store by store. -/
theorem hostAndPeerEvents : Obligations.HostAndPeerEvents := by
  unfold Obligations.HostAndPeerEvents
  refine ⟨?pf, ?vf, ?reg, ?peer, ?refused, ?links⟩
  case pf =>
    intro u s a n hf ha r
    have h := pfAperture_within s u n rfl hf ha
    refine ⟨fun hw => ⟨⟨_, rfl, ?_⟩, readOutside_physPage s _ a n ha⟩, fun hw => ?_⟩
    · rw [h, hw]
      rfl
    · have hn : n = u.data.length := if_pos hw
      refine ⟨_, rfl, ?_, fun b => ?_⟩
      · rw [h, hw]
        rfl
      · rw [h, if_pos hw, hn]
        exact writeOutside_physPage s _ _ a u.data (hn ▸ ha) b
  case vf =>
    intro u s s1 p runs ctl a n hp he hl hf ht hh s2 r
    have h := vfAperture_within s s1 u p n runs rfl hp he hl hf ht hh
    refine ⟨fun hw => ⟨⟨_, rfl, ?_⟩, fun hs => readOutside_module s2 _ runs hh hs (translateRuns_straight ht)⟩,
      fun hw => ⟨_, rfl, ?_⟩⟩
    · rw [h, hw]
      rfl
    · rw [h, hw]
      rfl
  case reg =>
    intro u s p c refused
    have refuse : s.registerWrite u = s.reply .unsupportedRequest → refused := fun h => congrArg Host.Outcome.next h
    refine ⟨fun hs _ => ⟨fun hf hb ho => ?_, fun hf hb ho => ?_, fun hf hb hp hc ho => ?_⟩,
      fun h4 h8 => refuse (registerWrite_misaligned s u (.inl ⟨h4, h8⟩)), fun h => refuse (registerWrite_offFour s u h),
      fun hs hf hb hp => refuse (registerWrite_unbound s u hs hf hb hp)⟩
    · exact ⟨_, rfl, registerWrite_taken s _ u hs (by rw [ho]) (by rw [hf, hb, ho, writeWord_rlen])⟩
    · refine ⟨_, rfl, registerWrite_taken s _ u hs (by rw [ho]) ?_⟩
      rw [hf, hb, ho, writeWord_src]
      simp
    · refine ⟨_, rfl, ?_⟩
      rw [registerWrite_taken s _ u hs (by rw [ho]; omega) (by rw [hb, ho]; exact writeWord_trhead s u.fn p c _ hf hp hc)]
      exact context_trhead s p c _
  case peer =>
    intro u s s1 runs ha hl va n ht s2 x
    have h := peerAccess_accepted s s1 u runs ha hl ht
    refine ⟨fun hk => ⟨⟨_, rfl, ?_⟩, readOutside_poison s2 _ runs,
      fun hs => readOutside_bytes s2 _ runs hs (translateRuns_straight ht)⟩, fun hk => ⟨_, rfl, ?_⟩, fun hk q r hr hc => ?_⟩
    · exact h.trans (peerServed_load s2 u runs hk)
    · exact h.trans (peerServed_store s2 u runs hk)
    · subst hr
      refine ⟨_, rfl, ?_⟩
      rw [h, peerServed_atomic s2 u q r hk]
      exact peerAtomic_clean s2 u q.2.2 hk hc
  case refused => exact fun u s h => congrArg Host.Outcome.next (peerAccess_refused s u h)
  case links =>
    intro u s hn links
    refine ⟨⟨_, rfl, rfl⟩, ⟨_, rfl, rfl, fun hs => ?_, fun w gi ti x i r hw hx hr => ?_⟩⟩
    · rw [loseStores_none (s.poisonLink u.n) u.n hs]
      exact ⟨rfl, rfl⟩
    · have h := linkDown_pending s u.n gi ti i w x r hw hx hr
      refine ⟨fun hf hd hl => ?_, fun ho => ?_⟩
      · rw [hurtBy_sole s u.n w.part r hn hf hd hl] at h
        exact h
      · rw [hurtBy_other s u.n w.part r ho] at h
        exact h

end Sys2Proof.Device
end

section
/-!
PROOF. The lane instructions: what each writes, or owes, is what its lane function gives; and the readings of one-register operands
and packed results that the families share.
-/
namespace Sys2Proof.Lanes
open Sys2Proof Sys2Proof.Machine Sys2Proof.Laws

/-! ### From an instruction's arm to what its lanes compute -/

section
variable {i : Instr} {c c' : CrossReads} {f f' : LaneEnv → LaneOut}

theorem computes (hx : ∀ s, exec i s = .next (laneUnit i f s)) : Computes i f :=
  fun s h => (hx s).trans (congrArg Host.Outcome.next (laneNow_done i none f s h))

theorem leaves (hx : ∀ s, exec i s = .next (laneUnitV i f s)) (hd : (shapeOf i).gDst = false) : Leaves i f :=
  fun s h => (hx s).trans (congrArg Host.Outcome.next (laneLater_done i none f s h hd))

theorem computesAcross (hx : ∀ s, exec i s = .next (crossUnit i false c f s)) : ComputesAcross i c f :=
  fun s h => (hx s).trans (congrArg Host.Outcome.next (laneNow_done i (some c) f s h))

theorem leavesAcross (hx : ∀ s, exec i s = .next (crossUnit i true c f s)) (hd : (shapeOf i).gDst = false) : LeavesAcross i c f :=
  fun s h => (hx s).trans (congrArg Host.Outcome.next (laneLater_done i (some c) f s h hd))

theorem computes_of (hx : ∀ s, exec i s = .next (laneUnit i f s)) (hf : ∀ e, f e = f' e) : Computes i f' :=
  funext hf ▸ computes hx

theorem leaves_of (hx : ∀ s, exec i s = .next (laneUnitV i f s)) (hd : (shapeOf i).gDst = false) (hf : ∀ e, f e = f' e) : Leaves i f' :=
  funext hf ▸ leaves hx hd

theorem computesAcross_of (hx : ∀ s, exec i s = .next (crossUnit i false c f s)) (hc : ∀ e, c e = c' e) (hf : ∀ e, f e = f' e) :
    ComputesAcross i c' f' :=
  funext hc ▸ funext hf ▸ computesAcross hx

theorem leavesAcross_of (hx : ∀ s, exec i s = .next (crossUnit i true c f s)) (hd : (shapeOf i).gDst = false) (hc : ∀ e, c e = c' e)
    (hf : ∀ e, f e = f' e) : LeavesAcross i c' f' :=
  funext hc ▸ funext hf ▸ leavesAcross hx hd
end

/-! ### Operands and results of one register -/

theorem val_one (e : LaneEnv) (n : Nat) : e.val n 1 = (e.reg n).toNat := by simp [LaneEnv.val]

theorem splitWords_one (n x : Nat) : splitWords n 1 x = [(n, BitVec.ofNat 32 x)] := by simp [splitWords]

end Sys2Proof.Lanes
end

section
/-!
PROOF. Integer arithmetic of the lanes (R119 to R122).
-/
namespace Sys2Proof.Lanes
open Sys2Proof Sys2Proof.Machine Sys2Proof.Laws

/-- IMAD's third operand is c where the PFX carries one, and d otherwise. -/
theorem intLane_third (sg : Bool) (op : Int → Int → Int → Int) (u : LRw) (e : LaneEnv) :
    intLane sg op u (thirdReg u.p u.d.toNat) e =
      .ofRegs (splitWords u.d.toNat (grp u.w) (fitInt (widthBits u.w) sg e.sat
        (op (readInt sg (e.val u.a.toNat (grp u.w)) (widthBits u.w)) (readInt sg (e.val u.b.toNat (grp u.w)) (widthBits u.w))
          (if cvOf u.p then readInt sg (e.val (cOf u.p) (grp u.w)) (widthBits u.w)
            else readInt sg (e.val u.d.toNat (grp u.w)) (widthBits u.w))))) := by
  unfold thirdReg
  cases cvOf u.p <;> rfl

/-- A shape that does not accept its width and pair fields stands against reason 4, whatever the budget (R92). -/
theorem reason4_of_not_ok4 (sh : Shape) (h : sh.ok4 = false) (budget : Nat) : ∃ r ∈ sh.reasons budget, r.1 = 4 :=
  ⟨(4, sh.len - 1), by simp [Shape.reasons, h], rfl⟩

/-- Settles O1: each instruction's arm is its lane function of R119 to R122, which IMAD reads with its third operand chosen; an odd
pair is refused by the shape. -/
theorem integerArithmetic : Obligations.IntegerArithmetic := by
  unfold Obligations.IntegerArithmetic
  refine ⟨fun u => ?scalar, fun u => ?wide, fun u => ?packed, fun u => ?unary, fun u => ?immediate⟩
  case scalar =>
    exact ⟨computes fun _ => rfl, computes fun _ => rfl, computes fun _ => rfl, computes fun _ => rfl,
      computes fun _ => rfl, computes fun _ => rfl, computes fun _ => rfl, computes fun _ => rfl,
      computes_of (fun _ => rfl) (intLane_third true (fun x y z => x * y + z) u),
      computes_of (fun _ => rfl) (intLane_third false (fun x y z => x * y + z) u),
      computes fun _ => rfl, computes fun _ => rfl, computes fun _ => rfl, computes fun _ => rfl,
      computes fun _ => rfl, computes fun _ => rfl⟩
  case wide =>
    refine ⟨computes fun _ => rfl, computes fun _ => rfl, fun hodd budget => ?_⟩
    have hok : evenReg u.d = false := by simp [evenReg, hodd]
    exact ⟨reason4_of_not_ok4 _ hok budget, reason4_of_not_ok4 _ hok budget⟩
  case packed => and_intros <;> exact computes fun _ => rfl
  case unary => and_intros <;> exact computes fun _ => rfl
  case immediate => exact computes fun _ => rfl

end Sys2Proof.Lanes
end

section
/-!
PROOF. Logic, shifts, bit fields, selection and moves of the lanes (R122 to R126, R152).
-/
namespace Sys2Proof.Lanes
open Sys2Proof Sys2Proof.Machine Sys2Proof.Laws

/-- Settles O3: each arm is its lane function of R123 or R124. -/
theorem bitwiseAndShifts : Obligations.BitwiseAndShifts := by
  unfold Obligations.BitwiseAndShifts
  refine ⟨fun u => ?bitwise, fun u => ?immediate, fun u => ?shift, fun u => ?shiftImmediate⟩
  case bitwise => and_intros <;> exact computes fun _ => rfl
  case immediate => and_intros <;> exact computes fun _ => rfl
  case shift => and_intros <;> exact computes fun _ => rfl
  case shiftImmediate => and_intros <;> exact computes fun _ => rfl

/-- What KMOV does in a lane, by its fn. -/
def kmovLane (u : LAf) (e : LaneEnv) : LaneOut :=
  match u.fn.toNat with
  | 0 => .ofMask (kIdx u.d) (e.mask (kIdx u.a))
  | 1 => .ofMask (kIdx u.d) ((e.reg u.a.toNat).getLsbD 0)
  | _ => .ofRegs [(u.d.toNat, if e.mask (kIdx u.a) then 1 else 0)]

theorem kmov_computes (u : LAf) {f : LaneEnv → LaneOut} (hf : ∀ e, kmovLane u e = f e) : Computes (.kmov u) f :=
  computes_of (fun _ => rfl) hf

/-- Settles O4: each arm is its lane function of R122, R125, R126 or R152; KMOV's is chosen by fn. -/
theorem fieldsSelectionMoves : Obligations.FieldsSelectionMoves := by
  unfold Obligations.FieldsSelectionMoves
  refine ⟨fun u => ?fields, fun u => ?movi, fun u => ?mov, fun u => ?kmov⟩
  case fields => and_intros <;> exact computes fun _ => rfl
  case movi => exact computes fun _ => rfl
  case mov => exact computes fun _ => rfl
  case kmov =>
    refine ⟨fun hfn => ?_, fun hfn => ?_, fun hfn => ?_⟩ <;>
      exact kmov_computes u fun e => by rw [kmovLane, hfn]; rfl

end Sys2Proof.Lanes
end

section
/-!
PROOF. Floating arithmetic of the lanes and their one-source operations (R127 to R133).
-/
namespace Sys2Proof.Lanes
open Sys2Proof Sys2Proof.Machine Sys2Proof.Laws

/-! ### Element by element -/

/-- The pattern that a rounded operation gives for element k (R127). -/
def roundedElem (t : Nat) (op : Nat → FVal → FVal → FVal → FVal) (x y z k : Nat) (e : LaneEnv) : Nat :=
  (fmtOf t).round e.mode e.sat (e.draw k) (op e.mode
    ((fmtOf t).value ((fmtOf t).negAbs e.negA e.absA (elemAt x (elemBits t) k)))
    ((fmtOf t).value ((fmtOf t).negAbs e.negB e.absB (elemAt y (elemBits t) k)))
    ((fmtOf t).value (elemAt z (elemBits t) k)))

/-- The pattern that FMIN or FMAX gives for element k (R129). -/
def pickedElem (t : Nat) (greater : Bool) (x y k : Nat) (e : LaneEnv) : Nat :=
  (fmtOf t).minMax greater ((fmtOf t).negAbs e.negA e.absA (elemAt x (elemBits t) k))
    ((fmtOf t).negAbs e.negB e.absB (elemAt y (elemBits t) k))

section
variable {t : Nat} (op : Nat → FVal → FVal → FVal → FVal) (greater : Bool) (d a b z size : Nat) (e : LaneEnv)

/-- A type of one element to a lane: one element, one rounding. -/
theorem floatLane_one (ht : elemsOf t = 1) : floatLane t op d a b z size e =
    { regs := splitWords d size (packElems (elemBits t) [roundedElem t op (e.val a size) (e.val b size) (e.val z size) 0 e])
      masks := [], draws := if e.mode = 5 then 1 else 0 } := by
  simp [floatLane, roundedElem, ht, LaneEnv.drawn, List.range_succ]

/-- A packed type: two elements of one register, each rounded apart. -/
theorem floatLane_two (ht : elemsOf t = 2) : floatLane t op d a b z 1 e =
    { regs := [(d, BitVec.ofNat 32 (packElems (elemBits t)
        [roundedElem t op (e.reg a).toNat (e.reg b).toNat (e.reg z).toNat 0 e,
          roundedElem t op (e.reg a).toNat (e.reg b).toNat (e.reg z).toNat 1 e]))]
      masks := [], draws := if e.mode = 5 then 2 else 0 } := by
  simp [floatLane, roundedElem, ht, LaneEnv.drawn, List.range_succ, val_one, splitWords_one]

theorem floatPick_one (ht : elemsOf t = 1) : floatPick t greater d a b size e =
    .ofRegs (splitWords d size (packElems (elemBits t) [pickedElem t greater (e.val a size) (e.val b size) 0 e])) := by
  simp [floatPick, pickedElem, ht, List.range_succ]

theorem floatPick_two (ht : elemsOf t = 2) : floatPick t greater d a b 1 e =
    .ofRegs [(d, BitVec.ofNat 32 (packElems (elemBits t)
      [pickedElem t greater (e.reg a).toNat (e.reg b).toNat 0 e, pickedElem t greater (e.reg a).toNat (e.reg b).toNat 1 e]))] := by
  simp [floatPick, pickedElem, ht, List.range_succ, val_one, splitWords_one]

end

theorem elemsOf_widthType (w : BitVec 2) : elemsOf (widthType w) = 1 := by
  unfold widthType
  split <;> rfl

/-- A selection rounds nothing, so it takes no draw under any rounding code. -/
theorem ofRegs_eq (mode : Nat) (rs : List (Nat × Word)) :
    LaneOut.ofRegs rs = { regs := rs, masks := [], draws := if mode = 5 then 0 else 0 } := by
  rw [ite_self]
  rfl

/-! ### The obligations -/

/-- Settles O5: an operation on a width rounds the one element of its type, a packed one the two of its register. -/
theorem floatArithmetic : Obligations.FloatArithmetic := by
  unfold Obligations.FloatArithmetic
  refine ⟨fun u => ?scalar, fun u => ?packed⟩
  case scalar =>
    have one (op) (z : Nat) (e : LaneEnv) :=
      floatLane_one op u.d.toNat u.a.toNat u.b.toNat z (grp u.w) e (elemsOf_widthType u.w)
    have pick (greater : Bool) (e : LaneEnv) :=
      (floatPick_one greater u.d.toNat u.a.toNat u.b.toNat (grp u.w) e (elemsOf_widthType u.w)).trans (ofRegs_eq e.mode _)
    exact ⟨computes_of (fun _ => rfl) (one _ _), computes_of (fun _ => rfl) (one _ _), computes_of (fun _ => rfl) (one _ _),
      computes_of (fun _ => rfl) (one _ _), leaves_of (fun _ => rfl) rfl (one _ _), computes_of (fun _ => rfl) (pick _),
      computes_of (fun _ => rfl) (pick _), computes fun _ => rfl⟩
  case packed =>
    have bf (op) (z : Nat) (e : LaneEnv) := floatLane_two (t := 2) op u.d.toNat u.a.toNat u.b.toNat z e rfl
    have fp (op) (z : Nat) (e : LaneEnv) := floatLane_two (t := 3) op u.d.toNat u.a.toNat u.b.toNat z e rfl
    have bfPick (greater : Bool) (e : LaneEnv) :=
      (floatPick_two (t := 2) greater u.d.toNat u.a.toNat u.b.toNat e rfl).trans (ofRegs_eq e.mode _)
    have fpPick (greater : Bool) (e : LaneEnv) :=
      (floatPick_two (t := 3) greater u.d.toNat u.a.toNat u.b.toNat e rfl).trans (ofRegs_eq e.mode _)
    exact ⟨computes_of (fun _ => rfl) (bf _ _), computes_of (fun _ => rfl) (fp _ _),
      computes_of (fun _ => rfl) (bf _ _), computes_of (fun _ => rfl) (fp _ _),
      computes_of (fun _ => rfl) (bf _ _), computes_of (fun _ => rfl) (fp _ _),
      computes_of (fun _ => rfl) (bf _ _), computes_of (fun _ => rfl) (fp _ _),
      computes_of (fun _ => rfl) (bfPick _), computes_of (fun _ => rfl) (fpPick _),
      computes_of (fun _ => rfl) (bfPick _), computes_of (fun _ => rfl) (fpPick _)⟩

/-- Settles O6: each arm applies its element operation to every element of the type; the special functions leave their results
outstanding. -/
theorem floatOneSource : Obligations.FloatOneSource := by
  unfold Obligations.FloatOneSource
  intro u
  refine ⟨computes fun _ => rfl, computes fun _ => rfl, computes fun _ => rfl, ?special⟩
  case special => and_intros <;> exact leaves (fun _ => rfl) rfl

end Sys2Proof.Lanes
end

section
/-!
PROOF. Conversions of the lanes, the random stream and ACCEPT (R134 to R141, R246).
-/
namespace Sys2Proof.Lanes
open Sys2Proof Sys2Proof.Machine Sys2Proof.Laws

/-! ### What a conversion reads -/

/-- The registers that a conversion reads, its third source given as a list (R86, R87, R137). -/
def sourcesOf (block : Bool) (a size : Nat) (c : List Nat) : CrossReads := fun e =>
  let mates := if block then e.parts.filter (fun i => i / 8 == e.ti / 8) else [e.ti]
  mates.map (fun i => (i, a, size)) ++ c.flatMap (fun n => mates.map (fun i => (i, n, 1)))
    ++ (if block then e.maskReads (e.issued.filter (fun i => i / 8 == e.ti / 8)) else [])

theorem convertReads_eq (block : Bool) (a size : Nat) (c : Option Nat) (e : LaneEnv) :
    convertReads block a size c e = sourcesOf block a size c.toList e := by
  cases c <;> simp [convertReads, sourcesOf]

theorem blockCode_false (u : LUf) (h6 : u.fn.toNat ≠ 6) (h7 : u.fn.toNat ≠ 7) : blockCode u = false := by simp [blockCode, h6, h7]
theorem blockCode_true (u : LUf) (h : u.fn.toNat = 6 ∨ u.fn.toNat = 7) : blockCode u = true := by simp [blockCode, h]

/-! ### What a conversion makes of a lane -/

/-- The lane of a conversion that makes no block: each element converted, its draws as given. -/
def convertedLane (u : LUf) (src : List FVal) (draws : Nat) (e : LaneEnv) : LaneOut :=
  { regs := splitWords u.d.toNat (cvtDstGroup false u.t.toNat u.fn.toNat) (packElems (dstBits u.fn.toNat)
      (src.zipIdx.map (fun v => toDst u.fn.toNat e.mode e.sat (e.draw v.2) v.1)))
    masks := [], draws := draws }

/-- The elements of CVTS: those of its source, each times the lane's FP32 scale (R136). -/
def scaledElems (u : LUf) (e : LaneEnv) (i : Nat) : List FVal :=
  (floatElems e u.t.toNat u.fn.toNat u.a.toNat i).map (fun v => fMul 0 v (fp32.value (e.regOf i (cOf u.p)).toNat))

/-- The draws of a lane that rounds each element it converts. -/
def cvtDraws (u : LUf) (e : LaneEnv) : Nat := e.drawn (cvtElems (floatBits u.t.toNat) (dstBits u.fn.toNat))

theorem cvtFloatLane_plain (u : LUf) (h6 : u.fn.toNat ≠ 6) (h7 : u.fn.toNat ≠ 7) (e : LaneEnv) :
    cvtFloatLane u e = convertedLane u (floatElems e u.t.toNat u.fn.toNat u.a.toNat e.ti)
      (if 8 ≤ u.fn.toNat ∨ cvtRounds (cvtFmt u.t.toNat) (cvtFmt u.fn.toNat) = true then cvtDraws u e else 0) e := by
  simp [cvtFloatLane, convertedLane, cvtDraws, h6, h7]

theorem cvtFloatLane_block (u : LUf) (h : u.fn.toNat = 6 ∨ u.fn.toNat = 7) {x : Dx} (hx : (if u.fn.toNat = 6 then Dx.dx8 else Dx.dx4) = x)
    (e : LaneEnv) : cvtFloatLane u e = blockLane x (floatElems e u.t.toNat u.fn.toNat u.a.toNat) u.d.toNat e :=
  hx ▸ if_pos h

theorem cvtsLane_plain (u : LUf) (h6 : u.fn.toNat ≠ 6) (h7 : u.fn.toNat ≠ 7) (e : LaneEnv) :
    cvtsLane u e = convertedLane u (scaledElems u e e.ti) (cvtDraws u e) e := by
  simp [cvtsLane, convertedLane, scaledElems, cvtDraws, h6, h7]

theorem cvtsLane_block (u : LUf) (h : u.fn.toNat = 6 ∨ u.fn.toNat = 7) {x : Dx} (hx : (if u.fn.toNat = 6 then Dx.dx8 else Dx.dx4) = x)
    (e : LaneEnv) : cvtsLane u e = blockLane x (scaledElems u e) u.d.toNat e :=
  hx ▸ if_pos h

/-- The two block formats by the fn of BLKENC and BLKDEC. -/
theorem blockFormat_zero (u : LUf) (h : u.fn.toNat = 0) : (if u.fn = 0 then Dx.dx8 else Dx.dx4) = .dx8 :=
  if_pos (BitVec.eq_of_toNat_eq h)
theorem blockFormat_one (u : LUf) (h : u.fn.toNat = 1) : (if u.fn = 0 then Dx.dx8 else Dx.dx4) = .dx4 :=
  if_neg (fun h0 => by rw [h0] at h; cases h)

/-! ### The arms -/

theorem cvtFloatSource_across (u : LUf) (block : Bool) {f : LaneEnv → LaneOut} (hb : blockCode u = block)
    (hf : ∀ e, cvtFloatLane u e = f e) :
    ComputesAcross (.cvtFloatSource u) (sourcesOf block u.a.toNat (cvtSrcGroup false u.t.toNat u.fn.toNat) []) f :=
  computesAcross_of (fun _ => rfl) (fun e => hb ▸ convertReads_eq _ _ _ none e) hf

theorem cvts_across (u : LUf) (block : Bool) {f : LaneEnv → LaneOut} (hb : blockCode u = block) (hf : ∀ e, cvtsLane u e = f e) :
    ComputesAcross (.cvts u) (sourcesOf block u.a.toNat (cvtSrcGroup false u.t.toNat u.fn.toNat) [cOf u.p]) f :=
  computesAcross_of (fun _ => rfl) (fun e => hb ▸ convertReads_eq _ _ _ (some (cOf u.p)) e) hf

theorem blkenc_across (u : LUf) {f : LaneEnv → LaneOut} (hf : ∀ e, blkencLane u e = f e) :
    LeavesAcross (.blkenc u) (sourcesOf true u.a.toNat (blkGroup u.t.toNat) []) f :=
  leavesAcross_of (fun _ => rfl) rfl (fun e => convertReads_eq true _ _ none e) hf

theorem blkdec_leaves (u : LUf) {f : LaneEnv → LaneOut} (hf : ∀ e, blkdecLane u e = f e) : Leaves (.blkdec u) f :=
  leaves_of (fun _ => rfl) rfl hf

/-- Settles O7: the destination code decides what a conversion makes and whose registers it reads; BLKENC and BLKDEC take their block
format from fn. -/
theorem conversions : Obligations.Conversions := by
  unfold Obligations.Conversions
  intro u
  refine ⟨fun h6 h7 => ?_, fun h6 => ?_, fun h7 => ?_, computes fun _ => rfl, fun h6 h7 => ?_, fun h6 => ?_, fun h7 => ?_,
    fun h0 => ?_, fun h1 => ?_, fun h0 => ?_, fun h1 => ?_⟩
  · exact cvtFloatSource_across u false (blockCode_false u h6 h7) (cvtFloatLane_plain u h6 h7)
  · exact cvtFloatSource_across u true (blockCode_true u (.inl h6)) (cvtFloatLane_block u (.inl h6) (if_pos h6))
  · exact cvtFloatSource_across u true (blockCode_true u (.inr h7)) (cvtFloatLane_block u (.inr h7) (if_neg (by omega)))
  · exact cvts_across u false (blockCode_false u h6 h7) (cvtsLane_plain u h6 h7)
  · exact cvts_across u true (blockCode_true u (.inl h6)) (cvtsLane_block u (.inl h6) (if_pos h6))
  · exact cvts_across u true (blockCode_true u (.inr h7)) (cvtsLane_block u (.inr h7) (if_neg (by omega)))
  · exact blkenc_across u (fun e => by unfold blkencLane; rw [blockFormat_zero u h0])
  · exact blkenc_across u (fun e => by unfold blkencLane; rw [blockFormat_one u h1])
  · exact blkdec_leaves u (fun e => by unfold blkdecLane; rw [blockFormat_zero u h0]; rfl)
  · exact blkdec_leaves u (fun e => by unfold blkdecLane; rw [blockFormat_one u h1]; rfl)

/-- RAND's form is chosen by its fn, the number in [0, 1) for 1 (R141). -/
theorem randLane_eq (u : LDf) (e : LaneEnv) : randLane u e =
    { regs := [(u.d.toNat, BitVec.ofNat 32 (if u.fn = 1 then
        fp32.round 0 false 0 (.fin false (e.word 0 / 2 ^ 8) (2 ^ 24)) else e.word 0))]
      masks := [], draws := 1 } := by
  have hfn : (u.fn.toNat = 1) = (u.fn = 1) := propext (BitVec.toNat_inj (y := 1))
  simp only [randLane, hfn]

/-- Settles O8: RAND writes its word in the form that fn asks for, ACCEPT its decision and its flag. -/
theorem randomAndAccept : Obligations.RandomAndAccept := by
  unfold Obligations.RandomAndAccept
  exact ⟨fun u => computes_of (fun _ => rfl) (randLane_eq u), fun u => computes fun _ => rfl⟩

end Sys2Proof.Lanes
end

section
/-!
PROOF. The cross-lane instructions (R144 to R152, R48), TIDX and XPERM (R143, R145).
-/
namespace Sys2Proof.Lanes
open Sys2Proof Sys2Proof.Machine Sys2Proof.Laws

/-! ### Forms chosen by fn -/

/-- The ballot of VOTE: bit i is the predicate of participant i. -/
theorem voteLane_ballot (u : LAf) (h : u.fn.toNat = 3) (e : LaneEnv) :
    voteLane u e = .ofRegs (splitWords u.d.toNat 2
      (e.parts.foldl (fun n i => n + (if e.maskOf i (u.a.toNat % 8) then 2 ^ i else 0)) 0)) := by
  have hbit (n i : Nat) : n + natOfBool (e.maskOf i (kIdx u.a)) * 2 ^ i = n + (if e.maskOf i (u.a.toNat % 8) then 2 ^ i else 0) := by
    unfold kIdx
    cases e.maskOf i (u.a.toNat % 8) <;> simp [natOfBool]
  simp only [voteLane, h, hbit]

theorem vote_across (u : LAf) {f : LaneEnv → LaneOut} (hf : ∀ e, voteLane u e = f e) :
    ComputesAcross (.vote u) (allReads (128 + u.a.toNat % 8) 1) f :=
  computesAcross_of (fun _ => rfl) (fun _ => rfl) hf

theorem elect_computes (u : LDf) {f : LaneEnv → LaneOut} (hf : ∀ e, electLane u e = f e) : Computes (.elect u) f :=
  computes_of (fun _ => rfl) hf

/-- Settles O9: each arm reads the sources that it lists and gives its lane function of R144 to R152; VOTE's and ELECT's are chosen
by fn. -/
theorem crossLane : Obligations.CrossLane := by
  unfold Obligations.CrossLane
  refine ⟨fun u => ?byIndex, fun u => ?byDelta, fun u => ?vote, fun u => ?elect, fun u => ?kpop, fun u => ?matchLanes,
    fun u => ?combine⟩
  case byIndex => and_intros <;> exact computesAcross fun _ => rfl
  case byDelta => and_intros <;> exact computesAcross fun _ => rfl
  case vote =>
    refine ⟨fun h => vote_across u fun e => ?_, fun h => vote_across u fun e => ?_, fun h => vote_across u fun e => ?_,
      fun h => vote_across u (voteLane_ballot u (congrArg BitVec.toNat h))⟩ <;>
      rw [voteLane, h] <;> rfl
  case elect =>
    refine ⟨fun h => elect_computes u fun e => ?_, fun h => elect_computes u fun e => ?_⟩ <;>
      rw [electLane, h] <;> rfl
  case kpop => exact computesAcross fun _ => rfl
  case matchLanes => exact leavesAcross (fun _ => rfl) rfl
  case combine => and_intros <;> exact leavesAcross (fun _ => rfl) rfl

/-! ### Lanes written under a shape of their own -/

/-- The results of every lane written at once, where what a lane zeroes is given by another shape than the unit's. -/
theorem writeLanes_under (s : State) (sh own : Shape) (f : LaneEnv → LaneOut) (hc : Calm s) :
    writeLanes own false f s (s.issueLanes sh) =
      (s.eachLane sh (fun e t => t.takes (laneResult own f e)) (fun e g => g.takes own.gDst (laneResult own f e)), []) := by
  simp only [writeLanes, eachLane_eq, List.foldl_map, Bool.false_eq_true, if_false]
  rw [← fold_lanes s.issue.wid _ _ (fun e x ts => takesG_threads _ _ x ts) _ (lanes_pairs_nodup s sh hc)]
  congr 1
  refine fold_congr _ _ _ _ fun e he b => ?_
  rw [lane_wid s sh e he]
  cases laneResult own f e with
  | none => exact (modGroup_same b _ _ _ fun w _ _ x _ =>
      congrArg (fun ts => { x with threads := ts }) (List.modify_id e.ti x.threads)).symm
  | some o => exact laneNow_eq b s.issue.wid e.gi e.ti _ o

/-- Such a unit completes: every lane's results are written, and the issue set is past it. -/
theorem runUnit_under (i : Instr) (own : Shape) (f : LaneEnv → LaneOut) (s : State) (h : Issues i s) :
    runUnit i false none noExtra (writeLanes own false f) s =
      (s.eachLane (shapeOf i) (fun e t => t.takes (laneResult own f e)) (fun e g => g.takes own.gDst (laneResult own f e))).pastUnit
        (shapeOf i) false :=
  have ht := takes_tame_lanes own f
  runUnit_done i false none noExtra _ s _ h.calm h.passes (writeLanes_under s _ own f h.calm) (ht.steady.keeps _ s h.calm)
    (ht.waits _ s _ h.calm h.waits)

/-- An instruction that may write no g register leaves its groups as they are. -/
theorem group_takes_false (g : Group) (o : Option LaneOut) : g.takes false o = g := by
  cases o with
  | none => rfl
  | some o => exact fold_same _ g o.regs fun w _ => by simp

/-- A thread takes v registers alone, so that results to others may be left out. -/
theorem thread_takes_filter (t : Thread) (o : LaneOut) :
    t.takes (some { o with regs := o.regs.filter (fun w => w.1 < 96) }) = t.takes (some o) := by
  simp only [Thread.takes, List.foldl_filter]
  have hstep : (fun (t : Thread) (w : Nat × Word) => if decide (w.1 < 96) = true then if w.1 < 96 then t.writeV w.1 w.2 else t else t) =
      fun t w => if w.1 < 96 then t.writeV w.1 w.2 else t := by
    funext t w
    by_cases h : w.1 < 96 <;> simp [h]
  rw [hstep]

/-- What TIDX zeroes: its coordinates' registers (R143). -/
theorem tidxShape_zeroed (u : LUf) :
    (tidxShape u).zeroed = .ofRegs ((List.range (u.t.toNat + 1)).map (fun r => (u.d.toNat + r, 0))) := by
  simp [Shape.zeroed, tidxShape, wr, LaneOut.ofRegs]

/-- What a thread takes of TIDX. -/
theorem tidx_takes (u : LUf) (e : LaneEnv) (t : Thread) : t.takes (laneResult (tidxShape u) (tidxLane u) e) =
    t.takes (if e.takes then some (tidxLane u e) else if (shapeOf (.tidx u)).zero then
      some (.ofRegs ((List.range (u.t.toNat + 1)).map (fun r => (u.d.toNat + r, 0)))) else none) := by
  have hz : (tidxShape u).zero = (shapeOf (.tidx u)).zero := rfl
  unfold laneResult
  rw [hz]
  split
  next h => rw [if_pos (show e.takes = true from h)]
  next h =>
    rw [if_neg (show ¬ e.takes = true from h)]
    split
    · rw [thread_takes_filter, tidxShape_zeroed]
    · rfl

/-- Settles O34: TIDX writes under a shape of its own, whose zeroes are its coordinates' registers; XPERM is a cross-lane
instruction like the others. -/
theorem tableLanes : Obligations.TableLanes := by
  unfold Obligations.TableLanes
  refine ⟨fun u s h => ?tidx, fun u s h => ?xperm⟩
  case tidx =>
    refine (congrArg Host.Outcome.next (runUnit_under (.tidx u) (tidxShape u) (tidxLane u) s h)).trans ?_
    have hgroup : (fun (e : LaneEnv) (g : Group) => g.takes (tidxShape u).gDst (laneResult (tidxShape u) (tidxLane u) e)) =
        fun _ g => g := funext fun e => funext fun g => group_takes_false g _
    rw [hgroup, funext fun e => funext (tidx_takes u e)]
    rfl
  case xperm => exact computesAcross (i := .xperm u) (fun _ => rfl) s h

end Sys2Proof.Lanes
end
